-- ==== Sys2Proof/Word.lean ====
section
/-! DEFINITION. Word.lean: the words of the Svetox chip: bytes, 16-, 32- and 64-bit words (R9), and the index types of
its cores, ports and contexts (Table 0-1). -/

namespace Sys2Proof

/-- One byte. -/
abbrev Byte := BitVec 8
/-- A 16-bit half word. -/
abbrev W16 := BitVec 16
/-- A 32-bit register word (R9). -/
abbrev W32 := BitVec 32
/-- A 64-bit word: counts, deadlines, scalar registers. -/
abbrev W64 := BitVec 64
/-- A core of the chip, 0 to 15. -/
abbrev CoreId := Fin 16
/-- An Afarvo port, 0 to 9. -/
abbrev PortId := Fin 10
/-- A context tag, 0 to 15 (R439). -/
abbrev Ctx := Fin 16
/-- A 24-bit agent identity (R442). -/
abbrev Agent := BitVec 24

end Sys2Proof
end

