-- ==== Sys2Proof/Frames.lean ====
section
/-! DEFINITION. Frames.lean: the plain data that commands carry: management paths, coordinates, and the fields of the
frames, messages and records that reach the chip from outside. -/

namespace Sys2Proof

/-- The management path a write or read arrives on, with the agent a KBT message names (R442, R603). -/
inductive Via where
  | pf
  | i3c
  | kbt (session : W32) (agent : Agent)
  deriving DecidableEq, Repr

/-- The three paths that keep an OWN_STATE.ERR of their own (Table 13-13). -/
inductive PathKind where
  | pf
  | i3c
  | kbt
  deriving DecidableEq, Repr

/-- A chip coordinate (R18). -/
structure Coord where
  w : Nat
  x : Nat
  y : Nat
  z : Nat
  deriving DecidableEq, Repr

/-- What an identification frame carries (R39). -/
structure IdFrame where
  machineId : W64
  hash : BitVec 256
  serial : W64
  coord : Coord
  port : Nat
  /-- FLAGS.TABLE of the frame: the sender holds a table. -/
  hasTable : Bool
  /-- FLAGS.ANCHORED of the frame (Table 11-2). -/
  anchored : Bool
  deriving DecidableEq, Repr

/-- A REQ service frame (Table 13-3). -/
structure ReqFrame where
  kind : Nat
  pref : Nat
  arg16 : W16
  agent : Agent
  arg : W64
  ms : W64
  entry : Coord
  deriving DecidableEq, Repr

/-- An ORDER service frame (Table 13-3). -/
structure OrderFrame where
  kind : Nat
  result : Nat
  seq : W16
  agent : Agent
  arg : W64
  effective : W64
  entry : Coord
  deriving DecidableEq, Repr

/-- A VOTE service frame (Table 13-3). -/
structure VoteFrame where
  change : W16
  fails : Nat
  first : Coord
  dmin : W64
  dmax : W64
  cause : Nat
  deriving DecidableEq, Repr

/-- A FORM_UP frame (Table 16-4). -/
structure FormUpFrame where
  count : Nat
  pmin : Nat
  pmax : Nat
  hmin : W64
  hmax : W64
  m : W64
  deriving DecidableEq, Repr

/-- A FORM_DOWN frame (Table 16-4). -/
structure FormDownFrame where
  result : Nat
  svcLat : W16
  m : W64
  deriving DecidableEq, Repr

/-- A DARK frame (Table 16-4). -/
structure DarkFrame where
  reporter : Coord
  named : Coord
  port : Nat
  ms : W64
  deriving DecidableEq, Repr

/-- A FENCE_REQ frame (Table 16-4). -/
structure FenceReqFrame where
  tray : Nat
  cause : Nat
  requester : Coord
  deriving DecidableEq, Repr

/-- A FENCE frame (Table 16-4). -/
structure FenceFrame where
  tray : Nat
  cause : Nat
  newRoot : Coord
  effective : W64
  newStandby : Coord
  deriving DecidableEq, Repr

/-- The header of a KBT message (Table 14-10) with its source address and UDP port. -/
structure KbtHdr where
  agent : Agent
  ctx : Byte
  session : W32
  seq : W32
  addr : W32
  len : W32
  arg : W32
  srcAddr : BitVec 128
  srcPort : W16
  deriving DecidableEq, Repr

/-- A formation record of the weight ring (R111). -/
structure FormRec where
  pos : Nat
  epoch : W32
  fw : W32
  n : Nat
  nPacked : Nat
  groups : Nat
  planLen : Nat
  version : W16
  planCrc : W32
  east : Bool
  west : Bool
  budget : Nat
  deriving DecidableEq, Repr

/-- A halt frame of the weight ring: the beat of the fault (R120). -/
structure HaltFrame where
  beat : W64
  deriving DecidableEq, Repr

/-- The fields of a beat header (Table 2-3). -/
structure BeatHdr where
  beat : W64
  ms : W64
  epoch : W32
  part : Bool
  root : Bool
  oos : Bool
  hold : Bool
  holdover : Bool
  manifest : BitVec 128
  periodM1 : Byte
  dist : Byte
  gen : Byte
  live : W32
  backlog : W16
  peak : W16
  src : Coord
  srcPort : Nat
  deriving DecidableEq, Repr

/-- A COLL flit, or a whole chunk of them (Table 12-5). -/
structure CollFrame where
  grp : Nat
  seq : W16
  /-- TYPE: 0 partial sum, 1 gathered data, 2 GRANT. -/
  typ : Nat
  poison : Bool
  ovf : Bool
  last : Bool
  phase : Nat
  /-- DIR: true for a chain travelling −. -/
  minus : Bool
  offset : Nat
  credits : W32
  data : List Byte
  deriving DecidableEq, Repr

/-- A CPRI UP or DOWN frame (Table 12-7). -/
structure CpriFrame where
  grp : Nat
  seq : W16
  op : Nat
  poison : Bool
  ovf : Bool
  value : W64
  deriving DecidableEq, Repr

/-- A collective ABORT frame (Table 12-7). -/
structure AbortFrame where
  grp : Nat
  seq : W16
  /-- CLASS: true for the priority class. -/
  prio : Bool
  cause : Nat
  deriving DecidableEq, Repr

/-- A BULK_DATA payload (Table 11-8). -/
structure BulkData where
  addr : W32
  tag : W16
  cnt : Byte
  cntEn : Bool
  rowEnd : Bool
  xferEnd : Bool
  put : Bool
  row : W32
  data : List Byte
  /-- Offsets of the 8-byte words that travel with the poison pattern (Table 9-7). -/
  bad : List Nat
  deriving DecidableEq, Repr

/-- The context and the epoch in a frame's header (Table 11-6). -/
structure FrameTag where
  ctx : Ctx
  epoch : W16
  deriving DecidableEq, Repr

/-- A unit of a core whose collective starts; whether the residue check of the addition that this brings about fails, and whether
it fails again when the addition is repeated (R429, R432). -/
structure CollUnit where
  unit : Fin 4
  mismatch : Bool
  again : Bool
  deriving DecidableEq, Repr

/-- An UP, with how the residue check of its addition comes out (R429, R432). -/
structure UpFrame where
  frame : CpriFrame
  mismatch : Bool
  again : Bool
  deriving DecidableEq, Repr

/-- The 64 bits received on a port where a control word is due (R369). -/
structure PortWord where
  port : PortId
  word : W64
  deriving DecidableEq, Repr

/-- A BULK_CTL payload (Table 11-9). -/
structure BulkCtl where
  tag : W16
  refused : Bool
  row : W32
  deriving DecidableEq, Repr

/-- What a link frame carries, by KIND and SUB (Table 11-7). -/
inductive Body where
  | shelf (data : List Byte)
  | bulkData (f : BulkData)
  | bulkCtl (f : BulkCtl)
  | coll (f : CollFrame)
  | up (f : CpriFrame)
  | down (f : CpriFrame)
  | abort (f : AbortFrame)
  | formation (f : FormRec)
  | refusal (cause : Nat)
  | halt (f : HaltFrame)
  | req (f : ReqFrame)
  | order (f : OrderFrame)
  | vote (f : VoteFrame)
  | formUp (f : FormUpFrame)
  | formDown (f : FormDownFrame)
  | dark (f : DarkFrame)
  | fenceReq (f : FenceReqFrame)
  | fence (f : FenceFrame)
  /-- A reserved KIND, a LEN out of range or a set reserved bit (R379). -/
  | malformed
  deriving DecidableEq, Repr

/-- A frame on a link: its header (Table 11-6) and its body. -/
structure Frame where
  vc : Bool
  seq : Nat
  dest : Coord
  src : Coord
  /-- WDIR: true west. -/
  west : Bool
  whops : Nat
  /-- XDIR, YDIR, ZDIR: true minus. -/
  xminus : Bool
  yminus : Bool
  zminus : Bool
  ctx : Nat
  epoch : W16
  body : Body
  deriving DecidableEq, Repr

/-- A control word that the chip sends (Table 11-1). -/
inductive CtlWord where
  | idle
  | ack (prio : Bool) (first last : Nat)
  | nak (prio : Bool) (first last : Nat)
  | tail (prio : Bool) (next : Nat)
  | credit (vc : Nat) (freed : Nat)
  | lost (seq : Nat)
  /-- An ID word: SEGMENT and six bytes of the identification frame, as bits 55:8. -/
  | id (segment : Nat) (bytes : BitVec 48)
  | train (step : Nat)
  | timing (time : BitVec 24)
  | echo (time : BitVec 24) (hold : W16)
  | resync (bulk prio : Nat) (valid : Bool)
  | park
  deriving DecidableEq, Repr

/-- A KBT message from outside, held or acted on (R491 to R493). -/
structure KbtMsg where
  typ : Nat
  hdr : KbtHdr
  payload : List Byte
  deriving DecidableEq, Repr

/-- The fuse map (Table 16-2 step 1, R551). -/
structure FuseMap where
  serial : W64
  mac : BitVec 48
  pubKey : BitVec 512
  rows : Byte
  cols : Byte
  vid : BitVec 5
  /-- The repair map of each core (COR_TRS_FUSE.REPAIR, Table 7-6). -/
  repair : Vector (BitVec 24) 16
  deriving DecidableEq, Repr

/-- What the end of a slow window measures (R533 to R536): the mean current code of each rail, the window's length in
0.1 µs, whether MAINS_REF was locked throughout, activity units by context and of no context in the window, trestle-clocks
slowed by core, and gated cell-clocks divided by 1,024. -/
structure SlowWindow where
  codes : Vector (BitVec 24) 4
  len : Nat
  locked : Bool
  activity : Vector Nat 16
  idle : Nat
  slowed : Vector Nat 16
  gated : Nat
  deriving DecidableEq, Repr

end Sys2Proof
end

