-- ==== Sys2Proof/Isa.lean ====
section
/-! DEFINITION. Isa.lean: the instructions of a core as data: the field layouts of Tables 5-5 and 6-2 and one constructor for
each major opcode of Tables 5-6, 5-8 and 6-1. Bits marked RSV are not fields: decoding a word refuses them. -/

namespace Sys2Proof

/-- The predicate field of an instruction (R170, R171): bits 57:55 and bit 54. -/
structure Guard where
  p : BitVec 3
  neg : Bool
  deriving DecidableEq, Repr

/-- Layout R. -/
structure FieldsR where
  d : BitVec 5
  a : BitVec 5
  b : BitVec 5
  fn : BitVec 5
  deriving DecidableEq, Repr

/-- Layout I. -/
structure FieldsI where
  d : BitVec 5
  a : BitVec 5
  fn : BitVec 5
  imm : W32
  deriving DecidableEq, Repr

/-- Layout J: the offset counts instructions. -/
structure FieldsJ where
  d : BitVec 5
  off : W32
  deriving DecidableEq, Repr

/-- Layout WC. -/
structure FieldsWC where
  place : BitVec 3
  ctr : Byte
  eq : Bool
  vsrc : Bool
  b : BitVec 5
  imm : W32
  deriving DecidableEq, Repr

/-- Layout WB. -/
structure FieldsWB where
  place : BitVec 3
  mode : BitVec 3
  b : BitVec 5
  deriving DecidableEq, Repr

/-- Layout CT without FN, which names the row. -/
structure FieldsCT where
  d : BitVec 5
  b : BitVec 5
  ctr : Byte
  deriving DecidableEq, Repr

/-- Layout SG. -/
structure FieldsSG where
  b : BitVec 5
  code : Byte
  deriving DecidableEq, Repr

/-- Layout MV. -/
structure FieldsMV where
  mov : BitVec 3
  a : BitVec 5
  cen : Bool
  ccnt : Byte
  imm : W32
  deriving DecidableEq, Repr

/-- Layout PT. -/
structure FieldsPT where
  d : BitVec 5
  a : BitVec 5
  b : BitVec 5
  den : Bool
  dcnt : Byte
  deriving DecidableEq, Repr

/-- Layout TM. -/
structure FieldsTM where
  d : BitVec 5
  a : BitVec 5
  b : BitVec 5
  c : BitVec 5
  unit : BitVec 2
  mw : BitVec 3
  df : BitVec 2
  bench : Bool
  ld : Bool
  keep : Bool
  acc : Bool
  aen : Bool
  rnd : BitVec 2
  cen : Bool
  ccnt : Byte
  shx : Bool
  sh : BitVec 5
  deriving DecidableEq, Repr

/-- Layout V. -/
structure FieldsV where
  d : BitVec 5
  a : BitVec 5
  b : BitVec 5
  c : BitVec 5
  s : BitVec 5
  fn : BitVec 7
  rnd : BitVec 2
  cen : Bool
  ccnt : Byte
  deriving DecidableEq, Repr

/-- Layout FL. -/
structure FieldsFL where
  d : BitVec 5
  place : BitVec 3
  deriving DecidableEq, Repr

/-- Layout CX. -/
structure FieldsCX where
  d : BitVec 5
  a : BitVec 5
  b : BitVec 5
  c : BitVec 5
  e : BitVec 5
  grp : BitVec 10
  unit : BitVec 2
  mw : BitVec 3
  ld : Bool
  acc : Bool
  aen : Bool
  op : BitVec 2
  cen : Bool
  ccnt : Byte
  deriving DecidableEq, Repr

/-- Layout CL. -/
structure FieldsCL where
  d : BitVec 5
  a : BitVec 5
  grp : BitVec 10
  unit : BitVec 2
  op : BitVec 2
  cen : Bool
  ccnt : Byte
  deriving DecidableEq, Repr

/-- Layout CP. -/
structure FieldsCP where
  d : BitVec 5
  b : BitVec 5
  grp : BitVec 10
  unit : BitVec 2
  op : BitVec 2
  cen : Bool
  ccnt : Byte
  deriving DecidableEq, Repr

/-- The functions of layout TM (Table 6-6, and SMV of R217). -/
inductive TmOp where
  | tmul
  | tl1
  | tl2
  | tminp
  | tmaxp
  | tham
  | tccnt
  | smv
  deriving DecidableEq, Repr

/-- An instruction of a core without its predicate field. -/
inductive Isa where
  | ill
  | alu (f : FieldsR)
  | alui (f : FieldsI)
  | cmp (f : FieldsR)
  | cmpi (f : FieldsI)
  | plog (f : FieldsR)
  | aop (f : FieldsI)
  | ld (f : FieldsI)
  | st (f : FieldsI)
  | rdc (f : FieldsI)
  | tdld (f : FieldsI)
  | tdst (f : FieldsI)
  | tdbase (f : FieldsI)
  | j (f : FieldsJ)
  | jal (f : FieldsJ)
  | jalr (f : FieldsI)
  | djnz (f : FieldsJ)
  | waitc (f : FieldsWC)
  | waitb (f : FieldsWB)
  | fence (mask : Byte)
  | cset (f : FieldsCT)
  | cadd (f : FieldsCT)
  | cread (f : FieldsCT)
  | signal (f : FieldsSG)
  | tdchk (f : FieldsR)
  | endp
  | nop
  | move (f : FieldsMV)
  | put (f : FieldsPT)
  | tm (op : TmOp) (f : FieldsTM)
  | vec (f : FieldsV)
  | tflg (f : FieldsFL)
  | gather (f : FieldsCX)
  | scatter (f : FieldsCX)
  | call (f : FieldsCL)
  | cpri (f : FieldsCP)
  deriving DecidableEq, Repr

end Sys2Proof
end

