-- ==== Sys2Proof/Syntax.lean ====
section
/-! DEFINITION. Syntax.lean: the commands, one constructor for each row of spec/opcode_table.json, in the table's order. Operands are what
comes from outside the chip with the command: the path and the word written, the port and the frame, the core and unit
concerned, measured values. -/

namespace Sys2Proof

/-- A command of the chip. -/
inductive Instr where
  /-- LOAD (R38). -/
  | load (via : Via) (v : W32)
  /-- PARSE_END (R33). -/
  | parseEnd
  /-- ANCHOR (R38). -/
  | anchor (via : Via) (v : W32)
  /-- ANCHOR_WRITE_END (R35). -/
  | anchorWriteEnd
  /-- VERIFY (R38). -/
  | verify (via : Via) (v : W32)
  /-- ID_FRAME_SEND (R370). -/
  | idFrameSend
  /-- IDENTIFICATION_FRAME (R39). -/
  | identificationFrame (port : PortId) (f : IdFrame)
  /-- NEIGHBOUR_TIMEOUT (R41). -/
  | neighbourTimeout (port : PortId)
  /-- NEIGHBOUR_CHECK_END (R41). -/
  | neighbourCheckEnd
  /-- MICROSLOT_START (R54). -/
  | microslotStart
  /-- BEAT_START (R48). -/
  | beatStart
  /-- GRID_FRAME_START (R57). -/
  | gridFrameStart
  /-- BEAT_HEADER_SEND (R55). -/
  | beatHeaderSend (port : PortId)
  /-- BEAT_HEADER (R66). -/
  | beatHeader (port : PortId) (bytes : List Byte) (e : Int)
  /-- HEADER_MISSING (R79). -/
  | headerMissing (port : PortId)
  /-- RELOCK_STEP (R71). -/
  | relockStep
  /-- RELOCK_LIMIT (R71). -/
  | relockLimit
  /-- ACQUIRE_END (R63). -/
  | acquireEnd
  /-- LIVE_TIMEOUT (R62). -/
  | liveTimeout
  /-- BEAT_ENABLE (R88). -/
  | beatEnable (via : Via) (v : W32)
  /-- BEAT_PEAK_CLR (R77). -/
  | beatPeakClr (via : Via) (v : W32)
  /-- BEAT_CNT_CLR (R77). -/
  | beatCntClr (via : Via) (v : W32)
  /-- BEAT_GUARD_WRITE (R76). -/
  | beatGuardWrite (via : Via) (v : W32)
  /-- BEAT_COUNT_LO_READ (R78). -/
  | beatCountLoRead (via : Via)
  /-- BEAT_COUNT_HI_READ (R78). -/
  | beatCountHiRead (via : Via)
  /-- FORM (R111). -/
  | form (via : Via) (v : W32)
  /-- FORMATION_RECORD (R111). -/
  | formationRecord (f : FormRec)
  /-- FORMATION_RECORD_TIMEOUT (R111). -/
  | formationRecordTimeout
  /-- FORMATION_REFUSAL (R111). -/
  | formationRefusal (cause : Nat)
  /-- SHELF_HEADER (R118). -/
  | shelfHeader (west : Bool) (bytes : List Byte)
  /-- HALT_FRAME (R120). -/
  | haltFrame (f : HaltFrame)
  /-- WRG_HALT (R120). -/
  | wrgHalt (via : Via) (v : W32)
  /-- RESTART (R121). -/
  | restart
  /-- WRG_ENABLE (R322). -/
  | wrgEnable (via : Via) (v : W32)
  /-- RING_REGION_FILL_END (R322). -/
  | ringRegionFillEnd
  /-- HOME_UE_CLEAR (R122). -/
  | homeUeClear (via : Via) (v : W32)
  /-- CORE_RING_STEP (R102). -/
  | coreRingStep (k : Nat)
  /-- SEGMENT_LAND (R105). -/
  | segmentLand (west : Bool) (core : CoreId) (k : Nat)
  /-- GROUP_COPY_START (R115). -/
  | groupCopyStart
  /-- GROUP_COPY_END (R115). -/
  | groupCopyEnd
  /-- SWAP_SWITCH (R115). -/
  | swapSwitch
  /-- RUN (R133). -/
  | run (core : CoreId) (via : Via) (v : W32)
  /-- STEP (R135). -/
  | stepOne (core : CoreId) (via : Via) (v : W32)
  /-- HALT (R134). -/
  | halt (core : CoreId) (via : Via) (v : W32)
  /-- CRESET (R136). -/
  | creset (core : CoreId) (via : Via) (v : W32)
  /-- STALL_CLR (R153). -/
  | stallClr (core : CoreId) (via : Via) (v : W32)
  /-- CORE_DRAINED (R132). -/
  | coreDrained (core : CoreId)
  /-- STALL_LO_READ (R153). -/
  | stallLoRead (core : CoreId) (via : Via) (k : Fin 10)
  /-- STALL_HI_READ (R153). -/
  | stallHiRead (core : CoreId) (via : Via) (k : Fin 10)
  /-- INSTRUCTION_ISSUE (R137). -/
  | instructionIssue (core : CoreId)
  /-- UNIT_INSTRUCTION_START (R138). -/
  | unitInstructionStart (core : CoreId) (unit : Fin 6)
  /-- UNIT_HEAD_RELEASE (R214). -/
  | unitHeadRelease (core : CoreId) (unit : Fin 6)
  /-- UNIT_INSTRUCTION_COMPLETE (R140). -/
  | unitInstructionComplete (core : CoreId) (unit : Fin 6)
  /-- TRANSFER_START (R144). -/
  | transferStart (core : CoreId) (mover : Fin 4)
  /-- TRANSFER_SOURCE_READ (R145). -/
  | transferSourceRead (core : CoreId) (mover : Fin 4)
  /-- TRANSFER_ROW_LANDED (R145). -/
  | transferRowLanded (core : CoreId) (mover : Fin 4)
  /-- TRANSFER_SLOT_FREE (R146). -/
  | transferSlotFree (core : CoreId) (mover : Fin 4)
  /-- WAIT_TIMEOUT (R149). -/
  | waitTimeout (core : CoreId) (agent : Fin 7)
  /-- ILL (R170). -/
  | ill (core : CoreId) (g : Guard)
  /-- ALU (R173). -/
  | alu (core : CoreId) (g : Guard) (f : FieldsR)
  /-- ALUI (R173). -/
  | alui (core : CoreId) (g : Guard) (f : FieldsI)
  /-- CMP (R173). -/
  | cmp (core : CoreId) (g : Guard) (f : FieldsR)
  /-- CMPI (R173). -/
  | cmpi (core : CoreId) (g : Guard) (f : FieldsI)
  /-- PLOG (R173). -/
  | plog (core : CoreId) (g : Guard) (f : FieldsR)
  /-- AOP (R173). -/
  | aop (core : CoreId) (g : Guard) (f : FieldsI)
  /-- LD (R173). -/
  | ld (core : CoreId) (g : Guard) (f : FieldsI)
  /-- LD_DATA_RETURN (R176). -/
  | ldDataReturn (core : CoreId)
  /-- ST (R175). -/
  | st (core : CoreId) (g : Guard) (f : FieldsI)
  /-- RDC (R177). -/
  | rdc (core : CoreId) (g : Guard) (f : FieldsI)
  /-- TDLD (R174). -/
  | tdld (core : CoreId) (g : Guard) (f : FieldsI)
  /-- TDST (R173). -/
  | tdst (core : CoreId) (g : Guard) (f : FieldsI)
  /-- TDBASE (R174). -/
  | tdbase (core : CoreId) (g : Guard) (f : FieldsI)
  /-- J (R178). -/
  | j (core : CoreId) (g : Guard) (f : FieldsJ)
  /-- JAL (R178). -/
  | jal (core : CoreId) (g : Guard) (f : FieldsJ)
  /-- JALR (R178). -/
  | jalr (core : CoreId) (g : Guard) (f : FieldsI)
  /-- DJNZ (R178). -/
  | djnz (core : CoreId) (g : Guard) (f : FieldsJ)
  /-- WAITC (R179). -/
  | waitc (core : CoreId) (g : Guard) (f : FieldsWC)
  /-- WAITC_COMPLETE (R179). -/
  | waitcComplete (core : CoreId) (agent : Fin 7)
  /-- WAITB (R182). -/
  | waitb (core : CoreId) (g : Guard) (f : FieldsWB)
  /-- WAITB_COMPLETE (R182). -/
  | waitbComplete (core : CoreId) (agent : Fin 7)
  /-- FENCE (R183). -/
  | fence (core : CoreId) (g : Guard) (mask : Byte)
  /-- FENCE_COMPLETE (R183). -/
  | fenceComplete (core : CoreId)
  /-- CSET (R180). -/
  | cset (core : CoreId) (g : Guard) (f : FieldsCT)
  /-- CADD (R180). -/
  | cadd (core : CoreId) (g : Guard) (f : FieldsCT)
  /-- CREAD (R180). -/
  | cread (core : CoreId) (g : Guard) (f : FieldsCT) (parityError : Bool)
  /-- SIGNAL (R184). -/
  | signal (core : CoreId) (g : Guard) (f : FieldsSG)
  /-- TDCHK (R178). -/
  | tdchk (core : CoreId) (g : Guard) (f : FieldsR)
  /-- END (R185). -/
  | endp (core : CoreId) (g : Guard)
  /-- NOP (R178). -/
  | nop (core : CoreId) (g : Guard)
  /-- MOVE (R186). -/
  | move (core : CoreId) (g : Guard) (f : FieldsMV)
  /-- PUT (R187). -/
  | put (core : CoreId) (g : Guard) (f : FieldsPT)
  /-- TMUL (R208). -/
  | tmul (core : CoreId) (g : Guard) (f : FieldsTM)
  /-- TL1 (R208). -/
  | tl1 (core : CoreId) (g : Guard) (f : FieldsTM)
  /-- TL2 (R208). -/
  | tl2 (core : CoreId) (g : Guard) (f : FieldsTM)
  /-- TMINP (R208). -/
  | tminp (core : CoreId) (g : Guard) (f : FieldsTM)
  /-- TMAXP (R208). -/
  | tmaxp (core : CoreId) (g : Guard) (f : FieldsTM)
  /-- THAM (R208). -/
  | tham (core : CoreId) (g : Guard) (f : FieldsTM)
  /-- TCCNT (R208). -/
  | tccnt (core : CoreId) (g : Guard) (f : FieldsTM)
  /-- SMV (R217). -/
  | smv (core : CoreId) (g : Guard) (f : FieldsTM)
  /-- VEC (R218). -/
  | vec (core : CoreId) (g : Guard) (f : FieldsV)
  /-- TFLG (R216). -/
  | tflg (core : CoreId) (g : Guard) (f : FieldsFL)
  /-- TMUL_GATHER (R222). -/
  | tmulGather (core : CoreId) (g : Guard) (f : FieldsCX)
  /-- TMUL_SCATTER (R223). -/
  | tmulScatter (core : CoreId) (g : Guard) (f : FieldsCX)
  /-- CALL (R224). -/
  | call (core : CoreId) (g : Guard) (f : FieldsCL)
  /-- CPRI (R225). -/
  | cpri (core : CoreId) (g : Guard) (f : FieldsCP)
  /-- SELFTEST_END (R261). -/
  | selftestEnd (core : CoreId) (fails soft : BitVec 4) (cover : BitVec 24)
  /-- FDIS (R262). -/
  | fdis (core : CoreId) (via : Via) (v : W32)
  /-- CPB_MODE_WRITE (R310). -/
  | cpbModeWrite (core : CoreId) (via : Via) (v : W32)
  /-- SLICE_FILL_END (R310). -/
  | sliceFillEnd (core : CoreId)
  /-- CE_CLR (R328). -/
  | ceClr (core : CoreId) (via : Via) (v : W32)
  /-- SCRUB_READ (R327). -/
  | scrubRead (core : CoreId) (single double : List Nat)
  /-- FRAME_FILL_END (R324). -/
  | frameFillEnd (frame : Fin 384)
  /-- ARRIVAL_COUNTER_WRITE (R318). -/
  | arrivalCounterWrite (core : CoreId) (ctr : Byte) (via : Via) (v : W32)
  /-- SHELF_FLIT (R348). -/
  | shelfFlit (port : Fin 4) (seq : Nat) (data : List Byte)
  /-- SPILL_READBACK (R348). -/
  | spillReadback (port : Fin 4)
  /-- LANE_DISPATCH (R349). -/
  | laneDispatch (west : Bool)
  /-- LANE_FINISH (R350). -/
  | laneFinish (lane : Fin 128)
  /-- UPK_CNT_CLR (R359). -/
  | upkCntClr (via : Via) (v : W32)
  /-- ARM_ZERO (R360). -/
  | armZero (via : Via) (v : W32)
  /-- ARM_ERR_CLEAR (R360). -/
  | armErrClear (via : Via) (v : W32)
  /-- IDLE (R369). -/
  | idle (port : PortId)
  /-- ACK (R381). -/
  | ack (port : PortId) (prio : Bool) (first last : Nat)
  /-- NAK (R382). -/
  | nak (port : PortId) (prio : Bool) (first last : Nat)
  /-- TAIL (R381). -/
  | tail (port : PortId) (prio : Bool) (next : Nat)
  /-- TAIL_SEND (R381). -/
  | tailSend (port : PortId) (prio : Bool)
  /-- CREDIT (R388). -/
  | credit (port : PortId) (vc : Fin 4) (freed : Nat)
  /-- LOST (R384). -/
  | lost (port : PortId) (seq : Nat)
  /-- TRAIN (R372). -/
  | train (port : PortId) (step : Nat)
  /-- TRAIN_STEP_DONE (R372). -/
  | trainStepDone (port : PortId) (power : Vector (BitVec 8) 8)
  /-- TRAIN_STEP_TIMEOUT (R372). -/
  | trainStepTimeout (port : PortId) (cause : Nat)
  /-- TIMING_WORD (R374). -/
  | timingWord (port : PortId) (time : BitVec 24) (hold : W16)
  /-- ECHO (R374). -/
  | echo (port : PortId) (arrival time : BitVec 24) (hold : W16)
  /-- RESYNC (R385). -/
  | resync (port : PortId) (bulk prio : Nat) (valid : Bool)
  /-- PARK (R368). -/
  | park (port : PortId)
  /-- BULK_DATA (R378). -/
  | bulkData (src : Coord) (ctx : FrameTag) (f : BulkData)
  /-- LANDED (R378). -/
  | landed (src : Coord) (f : BulkCtl)
  /-- REFUSED (R158). -/
  | refused (src : Coord) (f : BulkCtl)
  /-- REFUSAL_RECORD_TIMEOUT (R378). -/
  | refusalRecordTimeout (src : Coord) (tag : W16)
  /-- HUTCH_FORWARD (R390). -/
  | hutchForward (port : PortId) (f : Frame)
  /-- ACK_TIMEOUT (R383). -/
  | ackTimeout (port : PortId)
  /-- RECOVERY_END (R385). -/
  | recoveryEnd (port : PortId)
  /-- RECOVERY_TIMEOUT (R385). -/
  | recoveryTimeout (port : PortId)
  /-- DOWN_RETRY (R373). -/
  | downRetry (port : PortId)
  /-- RX_POWER_SAMPLE (R375). -/
  | rxPowerSample (port : PortId) (rx tx : Vector (BitVec 8) 8)
  /-- AFV_ENABLE (R371). -/
  | afvEnable (port : PortId) (via : Via) (v : W32)
  /-- RETRAIN (R371). -/
  | retrain (port : PortId) (via : Via) (v : W32)
  /-- AFV_CNT_CLR (R399). -/
  | afvCntClr (port : PortId) (via : Via) (v : W32)
  /-- LOOP_MODE_WRITE (R398). -/
  | loopModeWrite (port : PortId) (via : Via) (v : W32)
  /-- HUT_CNT_CLR (R400). -/
  | hutCntClr (via : Via) (v : W32)
  /-- COLLECTIVE_START (R413). -/
  | collectiveStart (core : CoreId) (unit : CollUnit)
  /-- GRANT (R414). -/
  | grant (src : Coord) (f : CollFrame)
  /-- COLL_CHUNK (R418). -/
  | collChunk (src : Coord) (f : CollFrame)
  /-- ENGINE_DONE (R418). -/
  | engineDone (engine : Fin 4) (mismatch again : Bool)
  /-- ABORT_FRAME (R415). -/
  | abortFrame (src : Coord) (f : AbortFrame)
  /-- UP (R425). -/
  | up (src : Coord) (f : UpFrame)
  /-- DOWN (R425). -/
  | down (src : Coord) (f : CpriFrame)
  /-- GROUP_TABLE_COPY_END (R410). -/
  | groupTableCopyEnd
  /-- ABORT_CLR (R432). -/
  | abortClr (via : Via) (v : W32)
  /-- OVF_CLR (R432). -/
  | ovfClr (via : Via) (v : W32)
  /-- BIND (R442). -/
  | bind (via : Via) (v : W32)
  /-- CLAIM (R448). -/
  | claim (via : Via) (v : W32)
  /-- RENEW (R449). -/
  | renew (via : Via) (v : W32)
  /-- RELEASE (R450). -/
  | release (via : Via) (v : W32)
  /-- HANDOVER (R450). -/
  | handover (via : Via) (v : W32)
  /-- FORCE (R452). -/
  | force (via : Via) (v : W32)
  /-- REQ (R444). -/
  | req (f : ReqFrame)
  /-- ORDER (R446). -/
  | order (f : OrderFrame)
  /-- ORDER_APPLY (R445). -/
  | orderApply
  /-- VOTE (R462). -/
  | vote (f : VoteFrame)
  /-- NOROOT_TIMEOUT (R446). -/
  | norootTimeout (path : PathKind)
  /-- ELECTION_CLOSE (R448). -/
  | electionClose
  /-- LEASE_EXPIRY (R449). -/
  | leaseExpiry
  /-- FORCE_LAPSE (R452). -/
  | forceLapse
  /-- PRESS (R453). -/
  | press
  /-- SEAL_WINDOW_OPEN (R454). -/
  | sealWindowOpen
  /-- SEAL_WINDOW_CLOSE (R454). -/
  | sealWindowClose
  /-- SEAL_PLUG_INSERT (R454). -/
  | sealPlugInsert
  /-- OPEN (R459). -/
  | openChange (via : Via) (v : W32)
  /-- CHECK (R462). -/
  | check (via : Via) (v : W32)
  /-- LOCAL_CHECK_END (R462). -/
  | localCheckEnd
  /-- COMMIT (R463). -/
  | commit (via : Via) (v : W32)
  /-- ABORT (R460). -/
  | abort (via : Via) (v : W32)
  /-- STAGED_COMMIT_APPLY (R463). -/
  | stagedCommitApply
  /-- STAGE_COMMIT_LO_READ (R468). -/
  | stageCommitLoRead (via : Via)
  /-- STAGED_WRITE (R609). -/
  | stagedWrite (off : Nat) (via : Via) (v : W32)
  /-- PF_BAR2_ACCESS (R478). -/
  | pfBar2Access (addr len : Nat) (wr : Option (List Byte))
  /-- VF_BAR2_ACCESS (R478). -/
  | vfBar2Access (vf : Ctx) (addr len : Nat) (wr : Option (List Byte))
  /-- LOAD_BUFFER_WRITE (R484). -/
  | loadBufferWrite (off : Nat) (data : List Byte)
  /-- VF_FLR (R479). -/
  | vfFlr (vf : Ctx)
  /-- PF_FLR (R479). -/
  | pfFlr
  /-- EVT_Q_HEAD_WRITE (R504). -/
  | evtQHeadWrite (vf : Option Ctx) (v : W32)
  /-- EVT_QUEUE_ENABLE (R504). -/
  | evtQueueEnable (vf : Option Ctx) (v : W32)
  /-- EVENT_WRITE_FAIL (R505). -/
  | eventWriteFail (vf : Option Ctx)
  /-- ENTDAA (R487). -/
  | entdaa (addr : BitVec 7)
  /-- RSTDAA (R486). -/
  | rstdaa
  /-- SETNEWDA (R486). -/
  | setnewda (addr : BitVec 7)
  /-- ENEC (R486). -/
  | enec
  /-- DISEC (R486). -/
  | disec
  /-- GETPID (R486). -/
  | getpid
  /-- GETBCR (R486). -/
  | getbcr
  /-- GETDCR (R486). -/
  | getdcr
  /-- GETSTATUS (R486). -/
  | getstatus
  /-- SETMWL (R486). -/
  | setmwl (len : W16)
  /-- SETMRL (R486). -/
  | setmrl (len : W16)
  /-- GETMWL (R486). -/
  | getmwl
  /-- GETMRL (R486). -/
  | getmrl
  /-- HOT_JOIN (R487). -/
  | hotJoin
  /-- CSRW (R488). -/
  | csrw (addr : Nat) (v : W32) (len : Nat)
  /-- CSRR (R488). -/
  | csrr (addr : Nat) (len : Nat)
  /-- LBW (R488). -/
  | lbw (off : Nat) (data : List Byte)
  /-- LBR (R488). -/
  | lbr (off : Nat) (len : Byte)
  /-- STAT (R488). -/
  | stat
  /-- PRIVATE_READ (R488). -/
  | privateRead
  /-- ETH_LINK_CHANGE (R508). -/
  | ethLinkChange (isUp : Bool)
  /-- ARP (R489). -/
  | arp (target : W32) (sender : List Byte)
  /-- ICMP_ECHO (R489). -/
  | icmpEcho (dest : W32) (data : List Byte)
  /-- NEIGHBOUR_DISCOVERY (R489). -/
  | neighbourDiscovery (target : BitVec 128)
  /-- ICMPV6_ECHO (R489). -/
  | icmpv6Echo (dest : BitVec 128) (data : List Byte)
  /-- ETH_FRAME_DROP (R489). -/
  | ethFrameDrop
  /-- PTP_SYNC (R490). -/
  | ptpSync (domain : Byte) (twoStep : Bool) (offset : Int)
  /-- PTP_DELAY_RESP (R490). -/
  | ptpDelayResp (domain : Byte)
  /-- PTP_SYNC_TIMEOUT (R490). -/
  | ptpSyncTimeout
  /-- IDENT_REQ (R495). -/
  | identReq (m : KbtMsg)
  /-- CSR_WRITE (R494). -/
  | csrWrite (m : KbtMsg)
  /-- CSR_READ (R492). -/
  | csrRead (m : KbtMsg)
  /-- WRITE (R494). -/
  | write (m : KbtMsg)
  /-- READ (R492). -/
  | read (m : KbtMsg)
  /-- REQUEST (R498). -/
  | request (m : KbtMsg)
  /-- KBT_ACK (R493). -/
  | kbtAck (m : KbtMsg)
  /-- KBT_NAK (R493). -/
  | kbtNak (m : KbtMsg)
  /-- KBT_RETRANSMIT_TIMEOUT (R493). -/
  | kbtRetransmitTimeout (session : W32)
  /-- KBT_ACK_TIMER (R493). -/
  | kbtAckTimer (session : W32)
  /-- ETH_ENABLE (R485). -/
  | ethEnable (via : Via) (v : W32)
  /-- ETH_RELOAD (R485). -/
  | ethReload (via : Via) (v : W32)
  /-- ETH_CNT_CLR (R503). -/
  | ethCntClr (via : Via) (v : W32)
  /-- INTAKE_ENABLE (R496). -/
  | intakeEnable (ctx : Ctx) (via : Via) (v : W32)
  /-- INTAKE_DOOR (R497). -/
  | intakeDoor (vf : Ctx) (v : W32)
  /-- INTAKE_DECISION (R498). -/
  | intakeDecision
  /-- INTAKE_REPLY (R500). -/
  | intakeReply (ctx : Ctx)
  /-- DOMAIN_REQUEST_WRITE (R513). -/
  | domainRequestWrite (hi : Bool) (via : Via) (v : W32)
  /-- DOMAIN_SWITCH_DONE (R512). -/
  | domainSwitchDone
  /-- SUPPLY_FAULT (R517). -/
  | supplyFault (domain : Fin 36)
  /-- PWR_CAP_WRITE (R537). -/
  | pwrCapWrite (via : Via) (v : W32)
  /-- FAST_CONVERSION (R524). -/
  | fastConversion (channel : Fin 20) (slice : Fin 8) (code : BitVec 10) (clip badSlice : Bool)
  /-- DROOP_STEP_UP (R521). -/
  | droopStepUp (core : CoreId)
  /-- RANGE_STEP (R527). -/
  | rangeStep (channel : Fin 4)
  /-- CALIBRATION_CONVERGED (R525). -/
  | calibrationConverged
  /-- START (R529). -/
  | start (via : Via) (v : W32)
  /-- SOFT_CONVERSION (R529). -/
  | softConversion (codes : List (BitVec 10 × Bool))
  /-- RECAL (R525). -/
  | recal (via : Via) (v : W32)
  /-- FLUSH (R544). -/
  | flush (via : Via) (v : W32)
  /-- TEL_Q_HEAD_READ (R532). -/
  | telQHeadRead (via : Via)
  /-- SLOW_WINDOW_END (R535). -/
  | slowWindowEnd (w : SlowWindow)
  /-- MAINS_REF_EDGE (R534). -/
  | mainsRefEdge (period : Nat)
  /-- MAINS_LOST_TIMEOUT (R534). -/
  | mainsLostTimeout
  /-- THERMTRIP (R631). -/
  | thermtrip
  /-- FUSE_LOAD_END (R550). -/
  | fuseLoadEnd (map : Option FuseMap)
  /-- BOOT_END (R552). -/
  | bootEnd
  /-- WATCHDOG_EXPIRY (R552). -/
  | watchdogExpiry
  /-- CHIP_READY (R555). -/
  | chipReady
  /-- JOIN (R559). -/
  | join (via : Via) (v : W32)
  /-- FORMATION_INSTANT (R559). -/
  | formationInstant
  /-- FORM_UP (R561). -/
  | formUp (src : Coord) (f : FormUpFrame)
  /-- FORM_CONFIRM_TIMEOUT (R561). -/
  | formConfirmTimeout
  /-- FORM_DOWN (R562). -/
  | formDown (f : FormDownFrame)
  /-- FORM_UNCONFIRMED_TIMEOUT (R562). -/
  | formUnconfirmedTimeout
  /-- DARK_TIMEOUT (R569). -/
  | darkTimeout (port : PortId)
  /-- DARK (R569). -/
  | dark (f : DarkFrame)
  /-- FENCE_REQ (R570). -/
  | fenceReq (f : FenceReqFrame)
  /-- FENCE_FRAME (R570). -/
  | fenceFrame (f : FenceFrame)
  /-- FENCE_APPLY (R570). -/
  | fenceApply
  /-- CHIP_RESET (R549). -/
  | chipReset (via : Via) (v : W32)
  /-- GLB_FENCE (R568). -/
  | glbFence (via : Via) (v : W32)
  /-- FW_LOAD (R558). -/
  | fwLoad (via : Via) (v : W32)
  /-- FW_LOAD_END (R558). -/
  | fwLoadEnd
  /-- RESET_N (R620). -/
  | resetN
  /-- POWER_ON_RESET (R627). -/
  | powerOnReset (plug : Bool)
  /-- REGISTER_WRITE (R607). -/
  | registerWrite (off : Nat) (via : Via) (v : W32)
  /-- SEAL_PLUG_REMOVE (R454). -/
  | sealPlugRemove
  /-- CLAIM_N_ASSERT (R453). -/
  | claimNAssert
  /-- CLAIM_N_RELEASE (R453). -/
  | claimNRelease
  /-- RESET_N_RELEASE (R620). -/
  | resetNRelease (plug button : Bool)
  /-- PCIE_FUNDAMENTAL_RESET (R549). -/
  | pcieFundamentalReset
  /-- LOSS_OF_LIGHT (R405). -/
  | lossOfLight (port : PortId)
  /-- FRAME_CRC_FAILURE (R379). -/
  | frameCrcFailure (port : PortId)
  /-- CONTROL_WORD_DISCARD (R369). -/
  | controlWordDiscard (port : PortWord)
  /-- KBT_MESSAGE_DROPPED (R491). -/
  | kbtMessageDropped
  /-- PRIVATE_MESSAGE_OPCODE (R488). -/
  | privateMessageOpcode
  /-- ALU_RESULT_RETURN (R188). -/
  | aluResultReturn (core : CoreId)
  /-- CP_STORE_WRITTEN (R175). -/
  | cpStoreWritten (core : CoreId)
  /-- PTP_FOLLOW_UP (R490). -/
  | ptpFollowUp (domain : Byte) (offset : Int)
  /-- PTP_ANNOUNCE (R490). -/
  | ptpAnnounce (domain : Byte)
  /-- INTAKE_WINDOW_WRITE (R497). -/
  | intakeWindowWrite (vf : Ctx) (off : Nat) (data : List Byte)
  deriving DecidableEq, Repr

end Sys2Proof
end

