-- ==== Sys2Proof/Decode.lean ====
section
/-! DEFINITION. Decode.lean: the command that a word spells by the bits of spec/opcode_table.json. No row of that table gives
bits: commands reach the block as register writes, frames, messages, pins and ticks of its own engines. -/

namespace Sys2Proof

/-- The command that a table word spells: none, because no row of the table has bits. -/
def decodeTableWord (_nbits _w : Nat) : Option Instr := none

end Sys2Proof
end

