-- ==== Sys2Proof/Config.lean ====
section
/-! DEFINITION. Config.lean: the values the manual leaves open, as constants without a body (nothing in Lean can evaluate
one or prove a value of one), and the two functions of the chip's and the maker's keys. A free
value is drawn at the counter `State.draw`, which the drawing step advances. -/

namespace Sys2Proof.Config

/-- A free 64-bit value, drawn at a counter (assumption log 1). -/
opaque freeWord : Nat → W64
/-- A free byte, drawn at a counter (assumption log 1). -/
opaque freeByte : Nat → Byte
/-- A free natural number, drawn at a counter (assumption log 1). -/
opaque freeNat : Nat → Nat
/-- A free choice, drawn at a counter (assumption log 1). -/
opaque freeBool : Nat → Bool
/-- Which of the binary32 numbers within its bound a transcendental function gives, VEC FN 10 to 14, for a binary32 operand in its
ordinary range: the manual bounds the error and states no value (R219, R288; assumption log 1). -/
opaque transcend : Nat → BitVec 32 → BitVec 32
/-- VERSION of the firmware image the chip leaves manufacture with (R556; assumption log 1). -/
opaque makerVersion : W32
/-- Molmoper's signing key (R556; assumption log 1). -/
opaque makerKey : List Byte
/-- Molmoper's MIPI manufacturer ID, which the manual does not give (R487; assumption log 1). -/
opaque mipiId : BitVec 15
/-- IEEE 1588 time in ns at a posting while HST_PTP.LOCKED = 1 (R481, R490): the master's clock is outside the chip. -/
opaque ptpTime : Nat → W64

/-- ECDSA P-256 verification: key, digest, signature (R557). Uninterpreted (assumption log 2). -/
opaque ecdsaVerify : List Byte → BitVec 256 → List Byte → Bool
/-- The unwrap of a key record (R456): EPK, chip serial, SLOT, WRAPPED; `none` where the unwrap fails its integrity check or
the point is not on the curve. The chip's fused private key is inside. Uninterpreted (assumption log 2). -/
opaque unwrapKey : List Byte → W64 → Nat → List Byte → Option (BitVec 256)
end Sys2Proof.Config
end

