-- ==== Sys2Proof/Machine/State.lean ====
section
/-! DEFINITION. Machine/State.lean: the state of one Svetox chip as plain data: every register, store, queue and pin the
manual gives it, the commands that wait, the things it has sent, and its state after reset. -/

namespace Sys2Proof.Machine

/-- Why a command stops with a fault. The manual gives every command an effect, so no command raises one: the type has no
constructor, which is safe. -/
inductive Fault
  deriving DecidableEq, Repr

/-- Why a command has no meaning. -/
inductive Refusal where
  /-- Raised only by an arm of `exec` whose row has no meaning yet, under the row's mnemonic; safe. -/
  | notModelled (mnemonic : String)
  deriving DecidableEq, Repr

/-! ### The machine and the installation table (chapter 1) -/

/-- A tray record of the loaded table (Table 1-5). -/
structure TrayRec where
  serial : W64
  w : Nat
  xt : Nat
  yt : Nat
  z : Nat
  inService : Bool
  /-- PART_ID of the containing partition, or 0xFFFF. -/
  partition : Nat
  chipSerials : List W64
  /-- REACH: bit 10·slot + port, 1 for row class (R367). -/
  reach : BitVec 160
  deriving DecidableEq, Repr

/-- A partition record of the loaded table (Table 1-6). -/
structure PartRec where
  id : Nat
  w0 : Nat
  wext : Nat
  xt0 : Nat
  xtext : Nat
  yt0 : Nat
  ytext : Nat
  z0 : Nat
  zext : Nat
  deriving DecidableEq, Repr

/-- The loaded copy of the installation table (R32, R37), with this chip's place in it and its two digests (R34, R35). -/
structure Table where
  machineId : W64
  sequence : W64
  lw : Nat
  lx : Nat
  ly : Nat
  lz : Nat
  tx : Nat
  ty : Nat
  tz : Nat
  root : Coord
  standby : Coord
  trays : List TrayRec
  parts : List PartRec
  /-- This chip's tray index, tray slot and coordinate (Table 1-10). -/
  tray : Nat
  slot : Nat
  self : Coord
  /-- SHA-256 of the whole image (R34). -/
  hash : BitVec 256
  /-- SHA-256 of the anchored content (R35). -/
  anchored : BitVec 256
  deriving DecidableEq, Repr

/-- The content of an anchor slot (R35). -/
structure Anchor where
  digest : BitVec 256
  sequence : W64
  deriving DecidableEq, Repr

/-- The two-slot non-volatile anchor store of the always-on domain, with the accepted SEQUENCE (R33, R35). A reset keeps
it (R45). -/
structure AnchorStore where
  slot0 : Option Anchor
  slot1 : Option Anchor
  /-- Which slot is current. -/
  current1 : Bool
  accepted : W64
  deriving DecidableEq, Repr

/-- The INST block (Tables 1-7 to 1-12). -/
structure Inst where
  state : BitVec 4
  err : BitVec 4
  nbrFail : BitVec 10
  nbrOk : BitVec 10
  bypSeen : Bool
  /-- The loaded copy; held from UNANCHORED on, shown in LOADED to MISCABLED. -/
  table : Option Table
  /-- Consecutive agreeing exchanges per port (R39). -/
  agree : Vector Nat 10
  /-- Consecutive exchanges agreeing as bypassed per W port (R40). -/
  agreeByp : Vector Nat 10
  /-- Ports that passed as bypassed (R40). -/
  bypassed : BitVec 10
  /-- Links held after a disagreement discovered after start-up (R44). -/
  held : BitVec 10
  /-- The anchor write in progress (R35, R38). -/
  anchorWrite : Option Anchor
  deriving DecidableEq, Repr

/-! ### Ownership, the service tree and staged changes (chapter 13) -/

/-- A context table entry (Table 13-1). -/
structure CtxEntry where
  isPresent : Bool
  name : BitVec 112
  deriving DecidableEq, Repr

/-- A key record of a stage image, unwrapped at the local check (Table 13-6, R456). -/
structure KeyRec where
  slot : Nat
  bind : BitVec 16
  key : BitVec 256
  deriving DecidableEq, Repr

/-- A stage image as read at the local check (Table 13-9): the parts whose PARTS bit is 1. -/
structure StageImage where
  frames : Option (List W16)
  contexts : Option (List CtxEntry)
  keys : List KeyRec
  deriving DecidableEq, Repr

/-- A valid entry of a group table (Table 12-2) with its member list. -/
structure GroupEntry where
  id : Nat
  single : Bool
  epoch : W16
  ctx : Nat
  members : List Coord
  /-- The axes of ORDER, first to fourth: 0 W, 1 X, 2 Y, 3 Z. -/
  order : List Nat
  depth : Nat
  stage : Nat
  deriving DecidableEq, Repr

/-- The staged copies of every staged register field (R458, Table 18-6); `none`: not written in this change. -/
structure Staged where
  nextM1 : Option Byte
  /-- WRG_CTL.RESTART = 1 staged, with ZERO. -/
  restart : Option Bool
  version : Option W16
  grpAddr : Option (BitVec 17)
  scale : Option Byte
  imgMb : Option (BitVec 9)
  bump : Option Bool
  reform : Option (BitVec 2)
  /-- The image read at the local check. -/
  image : Option StageImage
  /-- The group table image read at the local check and its CRC of R411 (R410). -/
  groups : Option (List GroupEntry × W32)
  deriving DecidableEq, Repr

/-- The staged-change unit: STAGE_CTL, STAGE_STAT, STAGE_COMMIT (Tables 13-18 to 13-20). -/
structure Stage where
  err : BitVec 4
  imgMb : BitVec 9
  bump : Bool
  state : BitVec 4
  cause : BitVec 4
  remoteFail : Bool
  late : Bool
  aborted : Bool
  /-- Committed change count since formation (Table 13-10). -/
  change : W32
  b : W64
  staged : Staged
  /-- The beat of the accepted COMMIT (R463). -/
  commitAt : Option W64
  /-- A local check is running (R462). -/
  checking : Bool
  /-- This chip's own local failure in the current CHECK. -/
  localCause : BitVec 4
  /-- The combined vote of this chip and the children received so far, and how many children have voted (R462). -/
  vote : Option VoteFrame
  votes : Nat
  deriving DecidableEq, Repr

/-- What the service root has decided so far (R444 to R452): its state runs ahead of the effective state by SVC_LAT. -/
structure RootView where
  state : BitVec 4
  owner : Agent
  leaseX : W64
  /-- Forcing agent and decision microslot mf (R452). -/
  force : Option (Agent × W64)
  /-- Election claimants, each with its latest PREF, and the end of the window (R448). -/
  claims : List (Agent × Nat)
  electEnd : W64
  stage : BitVec 4
  /-- The next ORDER sequence number (R446). -/
  seq : W16
  /-- REQs that wait for the confirmation of formation (R561). -/
  waiting : List ReqFrame
  deriving DecidableEq, Repr

/-- A REQ written on this chip that awaits its ORDER (R446). -/
structure Awaiting where
  path : PathKind
  kind : Nat
  agent : Agent
  deriving DecidableEq, Repr

/-- The seal plug and claim button (Tables 13-5, 13-20; R453, R454). -/
structure Seal where
  windowOpen : Bool
  /-- SEAL_N: the plug is present (low). -/
  plug : Bool
  /-- CLAIM_N is asserted. -/
  button : Bool
  absent : Bool
  /-- The core clock at which the open window closes. -/
  closeAt : W64
  openings : Byte
  presses : BitVec 5
  /-- The current hold of CLAIM_N has been counted, or began before a chip reset (R453, R650). -/
  counted : Bool
  /-- The plug has been removed and the 50 ms filter runs. -/
  removing : Bool
  deriving DecidableEq, Repr

/-- The OWN block and the service tree (chapter 13). -/
structure Own where
  state : BitVec 4
  owner : Agent
  errPf : BitVec 4
  errI3c : BitVec 4
  errKbt : BitVec 4
  boundPf : Option Agent
  boundI3c : Option Agent
  leaseX : Option W64
  svcLat : W16
  valid : Bool
  partId : BitVec 11
  ctxs : Vector CtxEntry 16
  epoch : W32
  /-- The pending force as every chip knows it: agent and mf (R452). -/
  force : Option (Agent × W64)
  stage : Stage
  root : RootView
  /-- Service tree: parent (none at the root) and children (R444, R424). -/
  parent : Option Coord
  children : List Coord
  serviceRoot : Option Coord
  serviceStandby : Option Coord
  /-- ORDERs received and not yet applied, in sequence order (R446). -/
  orders : List OrderFrame
  /-- Next sequence number to queue. -/
  nextSeq : W16
  awaiting : List Awaiting
  sealing : Seal
  deriving DecidableEq, Repr

/-! ### Start-up, fences and firmware (chapter 16) -/

/-- A firmware image's record in a slot of the firmware store (Table 16-3, R556). -/
structure FwImage where
  version : W32
  floor : W32
  key : List Byte
  wellFormed : Bool
  deriving DecidableEq, Repr

/-- The non-volatile firmware store (R556). -/
structure FwStore where
  slot0 : Option FwImage
  slot1 : Option FwImage
  current1 : Bool
  acceptedKey : List Byte
  floor : W32
  deriving DecidableEq, Repr

/-- A fence scheduled for its effective beat (R570). -/
structure FenceSched where
  tray : Nat
  cause : Nat
  effective : W64
  newRoot : Coord
  newStandby : Coord
  deriving DecidableEq, Repr

/-- The partition as this chip knows it once formed: its box and its active planes (R28, R29, R575). -/
structure PartView where
  box : PartRec
  /-- The w of every active plane, in rising order. -/
  planes : List Nat
  /-- Planes left under a fence, still in the ring until a REFORM (R570, R575). -/
  left : List Nat
  deriving DecidableEq, Repr

/-- The GLB block and the life of the chip (chapter 16). -/
structure Glb where
  state : BitVec 4
  err : BitVec 4
  wait : BitVec 4
  dark : BitVec 2
  degradedOk : Bool
  join : Bool
  cause : BitVec 4
  fwSlot : Bool
  fwAlt : Bool
  fuseDone : Bool
  fuseFail : Bool
  fuses : FuseMap
  /-- Version of the firmware that runs (R495, R111). -/
  fwVersion : W32
  /-- A firmware load in progress: the MiB of its image (R558). -/
  fwLoad : Option (BitVec 9)
  /-- The formation instant this chip formed at, until the formation is confirmed or undone (R559 to R562). -/
  instant : Option W64
  confirmed : Bool
  /-- FORM_UP as combined so far and how many children have sent theirs (R561). -/
  formUp : Option FormUpFrame
  formUps : Nat
  part : Option PartView
  /-- Ports whose link has been reported dark and has not delivered since (R569). -/
  darkSent : BitVec 10
  /-- DARK reports at the decider: named chip and reporter (R569). -/
  reports : List (Coord × Coord)
  /-- Fences received and not yet applied (R570). -/
  fences : List FenceSched
  /-- Trays fenced so far in this partition (R588). -/
  fenced : List Nat
  /-- A chip reset has begun and RESET_N is still low (R620). -/
  resetHeld : Bool
  deriving DecidableEq, Repr

/-! ### Host, Ethernet and the management chain (chapter 14) -/

/-- The body of an event record (Table 14-3 and the class 0 kinds of R481). -/
inductive EvtBody where
  /-- REG, VALUE, DETAIL of every class but 0. -/
  | reg (reg value : W32) (detail : W64)
  /-- The fault record of Table 5-11: CODE, SUB, CORE, AGENT, PRECISE, CTX, MORE, INSTR, DETAIL, BEAT. -/
  | fault (code sub core agent : Nat) (precise : Bool) (ctx : Nat) (more : Bool) (instr detail beat : W32)
  | signal (code core : Byte) (value : W64)
  | invalid (core unit : Byte) (pc : W32) (beat : W64)
  | waitTimeout (core agent counter kind : Byte) (beats : W64)
  | refused (f : BulkCtl)
  deriving DecidableEq, Repr

/-- An event record (Table 14-3). -/
structure EvtRec where
  cls : Nat
  kind : Nat
  timeValid : Bool
  /-- The context, or none for an event that belongs to no context. -/
  ctx : Option Ctx
  beat : W32
  time : W64
  body : EvtBody
  deriving DecidableEq, Repr

/-- An event queue: PF or VF (Table 14-17). -/
structure EvtQueue where
  base : W32
  enable : Bool
  dropped : BitVec 14
  head : W16
  size : BitVec 4
  tail : W16
  mask : BitVec 9
  /-- Drops since the last LOST record (R483). -/
  lost : Nat
  /-- MSI-X vector 0 has been sent since the host last wrote HEAD (R480). -/
  signalled : Bool
  deriving DecidableEq, Repr

/-- A KBT session (R493). -/
structure Session where
  id : W32
  /-- The next SEQ the chip acts on. -/
  nextRx : W32
  held : List KbtMsg
  /-- The next SEQ of the chip's DATA and REPLY. -/
  nextTx : W32
  /-- DATA and REPLY not yet acknowledged, oldest first. -/
  unacked : List KbtMsg
  tries : Nat
  /-- Messages received since the last ACK. -/
  sinceAck : Nat
  peerAddr : BitVec 128
  peerPort : W16
  /-- The core clock of the last message received (R493). -/
  usedAt : W64
  deriving DecidableEq, Repr

/-- The network record in use (Table 14-5). -/
structure NetRec where
  vlan : Bool
  ipv4On : Bool
  ipv6On : Bool
  tag : W16
  port : W16
  ipv4 : W32
  prefix4 : Byte
  ptpDomain : Byte
  gateway4 : W32
  ipv6 : BitVec 128
  prefix6 : Byte
  gateway6 : BitVec 128
  deriving DecidableEq, Repr

/-- An intake request awaiting its decision (R498). -/
structure IntakeReq where
  ctx : Ctx
  /-- SOURCE: 1 PCIe, 0 KBT. -/
  pcie : Bool
  reqId : W64
  payload : List Byte
  /-- RETURN, 24 bytes (Table 13). -/
  ret : List Byte
  deriving DecidableEq, Repr

/-- The intake of one context (Tables 14-13, 14-15; R496 to R500). -/
structure Intake where
  baseMb : BitVec 9
  depth : Byte
  hwm : Byte
  slot : BitVec 2
  hold : Bool
  enable : Bool
  refused : W16
  /-- Requests written into slots, W of R498. -/
  w : W32
  /-- PRODUCED as last written. -/
  produced : W32
  /-- CONSUMED as last acted on at a beat start (R500). -/
  consumed : W32
  core : Byte
  ctr : Byte
  /-- The intake was disabled by an excessive CONSUMED (R500): requests are refused with CLOSED. -/
  broken : Bool
  deriving DecidableEq, Repr

/-- A VF page (Table 14-16) with its event queue and intake window. -/
structure Vf where
  queue : EvtQueue
  /-- INTAKE_RESULT bits 31:29. -/
  result : BitVec 3
  dropped : W16
  intakeId : W64
  intakeRet : W64
  /-- The 64 KiB intake window. -/
  window : List Host.Cell
  /-- HOST event of R478 already posted in this beat. -/
  evtPosted : Bool
  deriving DecidableEq, Repr

/-- The I3C target (Tables 14-6, 14-7, 14-14). -/
structure I3c where
  valid : Bool
  da : BitVec 7
  hjPend : Bool
  ibiEn : Bool
  errs : BitVec 6
  mwl : W16
  mrl : W16
  /-- STATUS of the last directed message. -/
  status : Byte
  /-- STATUS of the last write, that STAT returns. -/
  writeStatus : Byte
  /-- The data the next directed read returns. -/
  pendingRead : List Byte
  /-- The status that follows the data of the next directed read. -/
  pendingStatus : Byte
  deriving DecidableEq, Repr

/-- The HST and EVT blocks, the load buffer, KBT, intake and PTP (chapter 14). -/
structure Hst where
  i3c : I3c
  ethErr : BitVec 4
  ptpEn : Bool
  kbtEn : Bool
  ethEnable : Bool
  link : Bool
  fecLock : Bool
  fecUe : Byte
  kbtDrop : Byte
  rxDrop : Byte
  net : Option NetRec
  vsel : BitVec 4
  intakeErr : BitVec 4
  intakes : Vector Intake 16
  requests : List IntakeReq
  ptpState : BitVec 3
  ptpLocked : Bool
  ptpOffset : W16
  /-- Consecutive Syncs with an offset of at most 100 ns (R490). -/
  ptpRun : Nat
  /-- A two-step Sync awaits its Follow_Up. -/
  ptpTwoStep : Bool
  pfQueue : EvtQueue
  vfs : Vector Vf 16
  loadBuf : List Host.Cell
  /-- Most recently used first. -/
  sessions : List Session
  /-- HOST event of R478 for the PF already posted in this beat. -/
  pfEvtPosted : Bool
  /-- MS and core clock of the last in-band interrupt (R483). -/
  lastIbi : Option (W64 × W64)
  deriving DecidableEq, Repr

/-- The read latches of R606, of one path. -/
structure Latch where
  via : Via
  beatHi : Option W32
  commitHi : Option W32
  /-- High words of stall counters by core and counter. -/
  stallHi : List (Nat × Nat × W32)
  telHi : Option W32
  deriving DecidableEq, Repr

/-! ### The beat (chapter 2) -/

/-- What the beat unit keeps of one port: the neighbour's latest header values and the runs of R65 to R72 and R79. -/
structure BeatPort where
  /-- The neighbour's ROOT_DIST, ROOT_GEN and ROOT_LIVE as last received; `heard` is false until a header came. -/
  heard : Bool
  dist : Byte
  gen : Byte
  live : W32
  /-- The neighbour's last header had FLAGS.PART (R559). -/
  part : Bool
  /-- The neighbour holds the link out of step, or on hold (FLAGS.OOS, FLAGS.HOLD). -/
  peerOos : Bool
  peerHold : Bool
  backlog : W16
  peak : W16
  /-- Consecutive headers within 150 ns (R65, R76). -/
  inGuard : Nat
  /-- Consecutive headers within 150 ns that also agree in BEAT, MS and PERIOD_M1 (R70). -/
  agree : Nat
  /-- Consecutive headers that agree in EPOCH and MANIFEST while on hold (R72). -/
  holdAgree : Nat
  /-- Consecutive missing headers (R79). -/
  missing : Nat
  oos : Bool
  hold : Bool
  /-- Out of step has ended, and both classes resume at the next beat start (R70). -/
  resuming : Bool
  /-- The hold has ended, and bulk resumes at the next beat start (R72). -/
  holdEnded : Bool
  /-- The header of this beat or grid frame has been sent (R55, R57). -/
  sentHeader : Bool
  /-- A header has been received since the last beat or grid frame start. -/
  fresh : Bool
  /-- Arrival error of the last header in ns, and whether it awaits a correction (R61). -/
  e : Int
  eFresh : Bool
  edge : Bool
  /-- MS of the last header less the chip's own MS for the same start (R71). -/
  msDelta : Int
  deriving DecidableEq, Repr

/-- The BEAT block (Tables 2-4 to 2-14). -/
structure Beat where
  err : BitVec 4
  gen : Byte
  gain : BitVec 2
  evtEdge : Bool
  enable : Bool
  curM1 : Byte
  nextM1 : Byte
  count : W64
  /-- PEAK and ERR of BEAT_PHASE_ERR. -/
  phasePeak : W16
  phaseErr : W16
  guard : BitVec 9
  edgeCnt : W32
  state : BitVec 4
  /-- The chip acts as root (R59, R62, R63). -/
  acting : Bool
  rootDist : BitVec 6
  /-- The highest ROOT_LIVE seen of the held generation, and MS when it last advanced (R59, R62). -/
  live : W32
  liveAt : W64
  /-- A ROOT_LIVE has been seen to advance since ACQUIRE began (R63). -/
  advanced : Bool
  /-- The grid and MS have been set (ACQUIRE's step, or the root's start). -/
  gridSet : Bool
  /-- The machine microslot count MS (R47). -/
  ms : W64
  /-- MS at the start of the current beat, and of the current grid frame. -/
  startMs : W64
  gridMs : W64
  /-- The core clock at the start of the current beat. -/
  startClock : W64
  /-- The grid's phase, and the corrections that the following beat and the following grid frame spread, in ps (R61). -/
  phase : Int
  corr : Int
  corrGrid : Int
  /-- Beats or grid frames since the entry into RELOCK (R71); the step of R71 is due. -/
  relockAge : Nat
  relockStep : Bool
  /-- The loss of the standby has been reported and it has not been heard since (R85). -/
  standbyLost : Bool
  /-- Ports admitted to the partition (R560, R575). -/
  admitted : BitVec 10
  ports : Vector BeatPort 10
  deriving DecidableEq, Repr

/-! ### Circulating weights, the unpacker and the armoire (chapters 3 and 10) -/

/-- The two weight streams (R92). -/
inductive Stream where
  | east
  | west
  deriving DecidableEq, Repr

/-- A shelf in arrival, in decode or held, on one stream (R348 to R352). -/
structure Shelf where
  /-- The 256 header bytes, in the WRG's own storage (R348). -/
  hdr : List Byte
  /-- The beat in which it arrives, held in the next, and the core clock at that beat's start. -/
  beat : W64
  startClock : W64
  poison : Bool
  /-- A cause of Table 10-6 was met: decoding has stopped. -/
  stopped : Bool
  /-- NOKEY: poisoned on this chip only (R352). -/
  noKey : Bool
  key : Option (BitVec 256)
  tagOk : Bool
  /-- The next decode unit and its payload offset (R349). -/
  unit : Nat
  unitOff : Nat
  spilled : Bool
  /-- (core, step) of every segment that has landed (R105, R106). -/
  landed : List (Nat × Nat)
  /-- Segments marked poisoned on their way round the core ring (Table 9-7). -/
  badSegs : List Nat
  /-- The cause of Table 10-6 met furthest forward in the payload, with its unit: it counts once every earlier unit has left its
  lane (R352). -/
  bad : Option (Nat × Nat)
  deriving DecidableEq, Repr

/-- A decode lane at work: its stream, unit, payload range and element count (R349). -/
structure Lane where
  stream : Stream
  /-- The beat in which its shelf arrived. -/
  beat : W64
  unit : Nat
  off : Nat
  len : Nat
  deriving DecidableEq, Repr

/-- A shelf on its way out on a stream: its header as sent, where its payload lies (a home image's address, or an inbound
buffer), its payload length, and the flits sent on each port of the pair. -/
structure Sending where
  hdr : List Byte
  home : Option Nat
  buffer : Nat
  len : Nat
  sentA : Nat
  sentB : Nat
  deriving DecidableEq, Repr

/-- A place in the lap schedule: lead-in, beat in lap, lap, pass (R96 to R98). -/
structure RingPlace where
  leadin : Bool
  j : Nat
  lap : Nat
  pass : Nat
  deriving DecidableEq, Repr

/-- What a ring slot last received: the armoire slot its segment is bound to where it is sealed (R114), and whether a halt marked
it poisoned (R120). -/
structure SlotMark where
  core : Nat
  west : Bool
  slot : Nat
  key : Option Nat
  poison : Bool
  deriving DecidableEq, Repr

/-- What a ring directory says, read from the cupboard (Table 3-3). -/
structure RingDir where
  nPacked : Nat
  streams : Nat
  groups : Nat
  planLen : Nat
  version : W16
  /-- CUR_E, CUR_W, NEXT_E, NEXT_W of each group. -/
  entries : List (Nat × Nat × Nat × Nat)
  plan : List Nat
  deriving DecidableEq, Repr

/-- The WRG block (Tables 3-5 to 3-14). -/
structure Wrg where
  err : BitVec 4
  dirMb : BitVec 9
  west : Bool
  east : Bool
  enable : Bool
  posValid : Bool
  j : BitVec 6
  step : BitVec 4
  leadin : Bool
  pass : W16
  lap : BitVec 12
  verNext : W16
  verCur : W16
  abandoned : W16
  late : W16
  state : BitVec 4
  cause : BitVec 4
  poison : Bool
  homeUe : Bool
  overrun : Bool
  swap : Bool
  group : BitVec 12
  poisonCnt : Byte
  /-- Version latched at the lead-in beat of the pass (R116). -/
  passVersion : W16
  /-- The directory in use, read at FORM and at RESTART. -/
  dir : Option RingDir
  /-- Groups marked HOME_UE (R121, R122). -/
  homeUeMarks : List Nat
  /-- Formation records received, one for each position (R111). -/
  records : List FormRec
  /-- The check lap starts at the next beat start (R112). -/
  checkDue : Bool
  /-- A check shelf was late, damaged or out of order in this check lap. -/
  checkBad : Option (BitVec 4)
  /-- Shelves that arrived in the current beat, and shelves held in it. -/
  arrE : Option Shelf
  arrW : Option Shelf
  heldE : Option Shelf
  heldW : Option Shelf
  /-- A halt cause met or a halt frame received: cause and fault beat (R120). -/
  halt : Option (BitVec 4 × W64)
  /-- In-place replacement: next group to copy, the group being copied, and the pass in flight has ended (R115). -/
  copyNext : Nat
  copying : Option Nat
  passEnded : Bool
  /-- RESTART with ZERO = 1 was committed during SWAP: a new pass follows the switch (R124). -/
  restartZero : Bool
  /-- A committed RESTART that acts in this beat, with its ZERO (R121). -/
  restartDue : Option Bool
  /-- Shelves that leave in the current beat. -/
  sendE : Option Sending
  sendW : Option Sending
  /-- The places of the latest beats, the newest first: what a halt returns to (R120). -/
  trail : List (W64 × RingPlace)
  /-- The ring-region fill of R322 is running. -/
  regionFill : Bool
  /-- What each ring slot that has received a segment holds. -/
  slots : List SlotMark
  /-- A flit of the shelf arriving on a stream has been given up in this beat (R119). -/
  lostE : Bool
  lostW : Bool
  deriving DecidableEq, Repr

/-- Payload bytes of one flit: the beat its shelf arrived in, the first byte's payload offset, how many. -/
structure QRange where
  beat : W64
  off : Nat
  len : Nat
  deriving DecidableEq, Repr

/-- The decode queue of one receiving port (R348). -/
structure PortQueue where
  /-- Spilled bytes, oldest first. -/
  spilled : List QRange
  /-- Bytes that lie in the queue, oldest first. -/
  queued : List QRange
  peak : Byte
  deriving DecidableEq, Repr

/-- The UPK block (Tables 10-7 to 10-10). -/
structure Upk where
  err : BitVec 4
  eastLanes : BitVec 7
  evtSpill : Bool
  /-- The split in force (R358). -/
  split : BitVec 7
  errCause : BitVec 4
  errStream : Bool
  dmgCnt : Byte
  errGroup : BitVec 12
  spillCnt : Byte
  decPeak : W16
  dmg : Bool
  spill : Bool
  queues : Vector PortQueue 4
  lanes : Vector (Option Lane) 128
  deriving DecidableEq, Repr

/-- A key slot of the armoire (R357). -/
structure ArmSlot where
  key : Option (BitVec 256)
  bind : W16
  deriving DecidableEq, Repr

/-- The ARM block (Tables 10-11 to 10-13). -/
structure Arm where
  sel : BitVec 5
  slots : Vector ArmSlot 32
  tagCnt : Byte
  noKeyCnt : Byte
  tag : Bool
  noKey : Bool
  lastSlot : BitVec 5
  /-- Slots to erase at the next beat boundary (R360). -/
  zeroDue : List Nat
  deriving DecidableEq, Repr

/-! ### The cupboard (chapter 9) -/

/-- An arrival counter: value and valid bit (R314), and a parity error of its file that no access has found yet (R317). -/
structure Counter where
  value : W32
  valid : Bool
  upset : Bool
  deriving DecidableEq, Repr

/-- COR_CPB_MODE of one slice with its scrubber (Table 9-8, R326, R327). -/
structure Cpb where
  ceCnt : Byte
  ue : Bool
  err : BitVec 2
  scrub : Bool
  fill : Bool
  mode : Bool
  /-- The slice's event of R326 has been posted in this beat. -/
  evtPosted : Bool
  /-- Place within the bank of the scrubber's next read (R327). -/
  scrubAt : Nat
  deriving DecidableEq, Repr

/-! ### A core (chapters 4 to 7) -/

/-- A tensor descriptor (Table 5-2). -/
structure TD where
  base : W32
  format : Byte
  rank : Nat
  view : Bool
  ctx : BitVec 4
  dim0 : Nat
  dim1 : Nat
  dim2 : Nat
  dim3 : Nat
  str1 : Nat
  str2 : Nat
  str3 : Nat
  deriving DecidableEq, Repr

/-- The work of a queue entry. -/
inductive QWork where
  /-- A queued arrival-counter wait (R179). -/
  | waitc (ctr : Byte) (eq : Bool) (v : W32)
  /-- A queued beat wait with the beat count at its issue (R182). -/
  | waitb (mode : Nat) (v : W64) (issued : W64)
  | tflg (d : BitVec 5)
  /-- A T- or C-class instruction with the descriptors and the scalar it captured at issue (R169, R204, R218, R225). -/
  | op (i : Isa) (d a b c e : Option TD) (scalar : W64)
  deriving DecidableEq, Repr

/-- An entry of a unit queue. -/
structure QEntry where
  pc : W32
  work : QWork
  started : Bool
  /-- It has waited under the same-unit interlock of R138 (R268). -/
  waited : Bool
  /-- HUT_EXACT_CFG.SCALE when the instruction started (R284). -/
  sigma : Byte
  /-- Tiles of Table 6-8 that have been loaded and that have streamed, in the order of R245. -/
  loads : Nat
  streams : Nat
  /-- It has work for a trestle's array; it writes through the fill port of the drain (K = 0, R255). -/
  array : Bool
  fill : Bool
  /-- Pieces of the result formed so far, and those formed and not yet written: elements by address, the oldest piece first. -/
  pieces : Nat
  out : List (List (Nat × List Byte))
  /-- The last streamed row, or the last operand element, has been read (R214). -/
  readAll : Bool
  invalid : Bool
  window : Bool
  overflow : Bool
  nan : Bool
  /-- The instruction has been sent to the Hutch: the collective's group and sequence number (R413). -/
  coll : Option (Nat × W16)
  /-- Beats and clocks this wait has lasted, and whether WAIT_TIMEOUT has been posted (R149). -/
  beats : Nat
  clks : Nat
  posted : Bool
  deriving DecidableEq, Repr

/-- A sticky flag word (R216). -/
structure FlagWord where
  invalid : Bool
  overflow : Bool
  nan : Bool
  window : Bool
  count : Byte
  deriving DecidableEq, Repr

/-- A unit of a core: its queue, the instructions that have left the head and not completed (R214), its flag word. -/
structure CUnit where
  queue : List QEntry
  flight : List QEntry
  flags : FlagWord
  /-- An INVALID event has been posted in this beat (R215). -/
  evtPosted : Bool
  deriving DecidableEq, Repr

/-- The exact dyadic value m · 2^e. -/
structure Dy where
  m : Int
  e : Int
  deriving DecidableEq, Repr

/-- An element's value with its class (R285): the sign of a finite value is kept apart, so that zeros keep theirs. -/
inductive Num where
  | nan
  | inf (neg : Bool)
  | fin (neg : Bool) (v : Dy)
  deriving DecidableEq, Repr

/-- The array and the drain of one trestle (R237, R238). The configuration is that of the last load (R212, R251). -/
structure TrsArray where
  /-- An instruction has loaded the array since the core reset, epoch change or OFFLINE fault (R252). -/
  loaded : Bool
  op : TmOp
  df : BitVec 2
  bench : Bool
  mw : BitVec 3
  /-- The last load was a T-class instruction's with T = 1, and no C-class instruction has executed since. -/
  keepable : Bool
  bDesc : Option TD
  k : Nat
  n : Nat
  /-- The elements of B that KEEP uses, row-major K × N, as stored bits (R227). -/
  tile : List Nat
  /-- The cells' stationary registers of generation 0 and of generation 1, row by row, as stored bits (R237, R247). -/
  regs0 : List Nat
  regs1 : List Nat
  /-- The cell accumulators, held under output-stationary flow (R244, R246). -/
  cells : List Num
  /-- The accumulator file: one exact accumulator for each output of the current chunk and tile column, row by row (R238). -/
  file : List Num
  /-- The staging buffer of a broadcast load, once it holds the next tile (R266). -/
  staging : Option (List Nat)
  /-- Consecutive clocks without work, up to 255, which also stands for a chip reset with no work since (R257). -/
  idle : Nat
  /-- The activity ramp in progress: its step, and the clocks spent in that step (R257). -/
  ramp : Option (Nat × Nat)
  /-- ρ of the ramp or ramp-down in progress: a write of RHO does not change it (R518). -/
  rho : Nat
  deriving DecidableEq, Repr

/-- A mover transfer descriptor (Table 4-3). -/
structure XDesc where
  src : W32
  dst : W32
  node : W32
  rowLen : W32
  rows : W32
  srcStride : W32
  dstStride : W32
  ctl : W32
  deriving DecidableEq, Repr

/-- A transfer or PUT in a mover slot (R142 to R146, R187). -/
structure Xfer where
  pc : W32
  desc : XDesc
  descAddr : W32
  /-- A PUT: its 8 bytes; none for a MOVE. -/
  put : Option W64
  cen : Bool
  ccnt : Byte
  ctx : BitVec 4
  /-- TAG of its BULK frames (Table 11-8). -/
  tag : W16
  started : Bool
  /-- The last source byte has been read, and the last row as read (byte, poisoned) awaits landing. -/
  srcRead : Bool
  lastRow : List Byte
  lastBad : List Nat
  rowsLanded : Nat
  /-- A refusal has arrived (R158). -/
  refused : Bool
  deriving DecidableEq, Repr

/-- A wait or fence in progress in the CP (R141, R183). -/
inductive CpWait where
  | none
  | waitc (ctr : Byte) (eq : Bool) (v : W32)
  | waitb (mode : Nat) (v : W64) (issued : W64)
  | fence (mask : Byte)
  deriving DecidableEq, Repr

/-- A value on its way to a scalar register (R139). -/
structure Ret where
  isLoad : Bool
  isDiv : Bool
  d : BitVec 5
  value : W64
  deriving DecidableEq, Repr

/-- One core: its architectural registers (Table 5-1), its control registers, its units, movers, counters and slice. -/
structure Core where
  state : BitVec 4
  stop : BitVec 4
  /-- The STOP code that the drain in progress ends with. -/
  stopNext : BitVec 4
  err : BitVec 4
  ctx : BitVec 4
  waitLimit : BitVec 4
  stallSel : BitVec 3
  freeze : Bool
  pc : W32
  s : Vector W64 32
  a : Vector W32 16
  p : Vector Bool 8
  td : Vector (Option TD) 32
  sPend : BitVec 32
  aPend : BitVec 16
  pPend : BitVec 8
  stall : Vector W64 10
  /-- T0 to T3, the stool, the vector unit. -/
  units : Vector CUnit 6
  cpFlags : FlagWord
  /-- TFLG.CP results that wait for earlier CPRIs: destination and how many CPRIs were outstanding at its issue (R216). -/
  tflgCp : List (BitVec 5 × Nat)
  /-- CPRIs issued and not yet written to sd. -/
  cpriOut : Nat
  movers : Vector (List Xfer) 4
  wait : CpWait
  waitBeats : Nat
  waitClks : Nat
  waitPosted : Bool
  /-- CP stores posted and not yet written: address, length in bytes, value; oldest first (R175). -/
  stores : List (Nat × Nat × W64)
  rets : List Ret
  /-- Fault records posted in this episode (R194). -/
  faults : Nat
  counters : Vector Counter 256
  cpb : Cpb
  arrays : Vector TrsArray 4
  trsDis : BitVec 4
  trsFail : BitVec 4
  trsGen : BitVec 4
  fdis : BitVec 4
  fdisReq : BitVec 4
  soft : BitVec 4
  repair : BitVec 24
  selfTested : Bool
  /-- Launches so far, modulo 128 (Table 11-8). -/
  launches : BitVec 7
  /-- The memory as fetch sees it: as it stood when the CP last fetched afresh, with the CP's own later stores; and the CP fetches
  afresh at the next instruction (R175, R189). -/
  imem : List Host.Cell
  refetch : Bool
  /-- The CP's own stores to addresses that it had fetched ahead: fetch may see each of them or not (R189). -/
  ahead : List (Nat × Nat × W64)
  deriving DecidableEq, Repr
/-! ### Afarvo links (chapter 11) -/

/-- A frame kept in a retry buffer (R382). -/
structure TxRec where
  frame : Frame
  /-- Retransmissions so far (R384). -/
  tries : Nat
  /-- Named in a NAK and not yet sent again. -/
  again : Bool
  /-- The beat in which it was first sent (R384). -/
  beat : W64
  /-- A shelf flit that holds an uncorrectable word: its CRC-32C is inverted (R353). -/
  bad : Bool
  deriving DecidableEq, Repr

/-- One class of one port, both directions: bulk or priority (R380 to R382). -/
structure LinkClass where
  /-- The next sequence number to send. -/
  next : Nat
  retry : List TxRec
  /-- The next sequence number expected: the in-order point. -/
  expected : Nat
  /-- Frames that follow a gap, held; none stands for a shelf flit given up (R384). -/
  held : List (Nat × Option Frame)
  deriving DecidableEq, Repr

/-- A frame waiting at an output, with the input that it came by (0 to 9 a port, 10 local). -/
structure OutFrame where
  input : Nat
  /-- The virtual channel it occupies at that input. -/
  inVc : Bool
  frame : Frame
  deriving DecidableEq, Repr

/-- An Afarvo port (Tables 11-10 to 11-17) with its link layer and its output of the Hutch. -/
structure Port where
  err : BitVec 4
  evtRetx : Bool
  warnPwr : BitVec 8
  enable : Bool
  state : BitVec 4
  /-- In-service loopback (R368). -/
  inService : Bool
  peerReset : Bool
  wlLock : BitVec 8
  wlWarn : BitVec 8
  cause : BitVec 4
  attempts : BitVec 4
  step : BitVec 4
  delay : BitVec 12
  framesErr : BitVec 24
  ctrlErr : BitVec 8
  retx : W16
  lost : BitVec 6
  recov : BitVec 6
  downs : BitVec 4
  rxPower : Vector (BitVec 8) 8
  txPower : Vector (BitVec 8) 8
  sel : BitVec 3
  prbsErr : W16
  prbsLock : Bool
  mode : BitVec 2
  edge : W32
  /-- The sequence state is kept from an earlier training (R386). -/
  stateValid : Bool
  /-- The far end's RESYNC of this recovery or training: bulk and priority in-order points, STATE_VALID. -/
  peer : Option (Nat × Nat × Bool)
  /-- Training step that the far end's TRAIN word has last reported complete, and whether this end has completed the current
  step and waits for the far end (R372). -/
  peerStep : BitVec 4
  stepHere : Bool
  /-- Timing words sent in step DELAY, and the core clock of the latest (R374). -/
  timings : Nat
  timingAt : W64
  /-- Echoes measured in step DELAY: the sum of round trip less hold, in 0.25 ns, and their count (R374). -/
  echoSum : Nat
  echoes : Nat
  /-- MS of the entries into RECOVER (R385). -/
  recoveries : List W64
  /-- The port has been UP since its last DOWN event (R373). -/
  beenUp : Bool
  bulk : LinkClass
  prio : LinkClass
  bulkOut : List OutFrame
  prioOut : List OutFrame
  /-- Frames sent on each VC code and slots freed by the far end, both cumulative (R388). -/
  sent : Vector Nat 4
  freed : Vector Nat 4
  /-- Slots of this port's input buffers freed, cumulative: what CREDIT words report. -/
  freedHere : Vector Nat 4
  /-- The round-robin place of R391: the input whose turn it is and the turns it has had; the last VC taken from each. -/
  turn : Nat
  turns : Nat
  lastVc : BitVec 11
  /-- The output has sent a frame in this beat or grid frame (R394). -/
  sentAny : Bool
  /-- Shelf flits received in this beat. -/
  shelfFlits : Nat
  /-- Shelf flits of the beat before this one that have neither come nor been given up (R384). -/
  shelfOwed : Nat
  /-- Most priority frames sent in one window of this beat, and of the last (R58). -/
  prioPeak : W16
  prioPeakLast : W16
  deriving DecidableEq, Repr

/-! ### The Hutch and collectives (chapters 11 and 12) -/

/-- A phase of a bulk collective on one axis ring (R416): PHASE of Table 12-5, this member's position on a ring of `n`, its +
and − neighbours, the elements of each position's part, and where the phase's data begins in the whole. -/
structure Phase where
  code : Nat
  reduce : Bool
  pos : Nat
  n : Nat
  plus : Coord
  minus : Coord
  sizes : List Nat
  base : Nat
  /-- The first gathering phase: this member's own data has not been written yet. -/
  opens : Bool
  deriving DecidableEq, Repr

/-- An element that travels in a collective, with the marks that travel with it (R421, R429). -/
structure CElem where
  bits : Nat
  poison : Bool
  ovf : Bool
  deriving DecidableEq, Repr

/-- Chunks of one direction of a phase: worked on here, granted by the downstream neighbour, sent, granted upstream. -/
structure Way where
  got : Nat
  credit : Nat
  sent : Nat
  gave : Nat
  deriving DecidableEq, Repr

/-- A bulk collective in progress on this chip (R413 to R421). -/
structure Coll where
  core : Nat
  unit : Nat
  grp : Nat
  ctx : Nat
  seq : W16
  /-- The major opcode and OP. -/
  opcode : Nat
  op : Nat
  /-- Format code of the data that travels. -/
  format : Nat
  signature : List Byte
  /-- Phases yet to run, the current one first. -/
  phases : List Phase
  /-- This member's data for the current phase, as stored elements in flattened order. -/
  data : List CElem
  /-- The owned part of a reducing phase as summed so far. -/
  own : List CElem
  /-- What a gathering phase has so far: position, first element within the part, elements. -/
  parts : List (Nat × Nat × List CElem)
  /-- The + and − directions of the current phase. -/
  fwd : Way
  bwd : Way
  /-- Chunks ready to go and waiting for a grant, oldest first. -/
  ready : List CollFrame
  depth : Nat
  /-- The staging area's address; none where no phase runs (R437). -/
  stage : Option Nat
  /-- The tensor that final elements are written to, its elements in a row, and for TMUL.GATHER OP 01 the rows of a piece. -/
  out : Option TD
  cols : Nat
  pieceRows : Option Nat
  /-- TMUL.SCATTER with ACC = 1. -/
  acc : Bool
  /-- The first phase's chunks of this member have all left (R226). -/
  handed : Bool
  invalid : Bool
  overflow : Bool
  nan : Bool
  /-- All phases have run, or the collective has been aborted. -/
  finished : Bool
  deriving DecidableEq, Repr

/-- A combining entry of a group (R425). -/
structure Combine where
  grp : Nat
  seq : W16
  op : Nat
  value : W64
  heard : Nat
  poison : Bool
  ovf : Bool
  /-- The CPRI of this chip that has joined it: core and unit. -/
  joined : Option (Nat × Nat)
  /-- Its UP has been sent, or the root has combined (R226). -/
  sent : Bool
  deriving DecidableEq, Repr

/-- A row of a remote transfer whose pieces have passed R319 and wait for its last one: a refused row writes nothing (R320). -/
structure LandingRow where
  src : Coord
  tag : W16
  pieces : List BulkData
  deriving DecidableEq, Repr

/-- A refusal record (R378). -/
structure RefusalRec where
  src : Coord
  tag : W16
  deriving DecidableEq, Repr

/-- The HUT block, the group table and collectives in progress. -/
structure Hut where
  evtRes : Bool
  localWt : BitVec 3
  /-- LOCAL_WT in force (R397). -/
  weight : BitVec 3
  blocked : BitVec 10
  misroute : Byte
  discEvt : Byte
  /-- The discards of the latest epoch change have been counted in DISC_EVT (R393). -/
  discSeen : Bool
  resCount : Byte
  resEngine : BitVec 2
  resOpk : BitVec 2
  resGroup : BitVec 10
  resFlag : Bool
  /-- The residue event of this beat has been posted. -/
  resPosted : Bool
  cerr : BitVec 4
  aborts : Byte
  evtAbort : Bool
  resRetry : Bool
  loaded : Bool
  addr : BitVec 17
  ovfCnt : Byte
  evtOvf : Bool
  scale : Byte
  records : List RefusalRec
  landing : List LandingRow
  /-- The group table in use: its VALID entries. -/
  groups : List GroupEntry
  /-- CRC-32C of the committed image with its STAGE fields as 0 (R411, Table 13-10). -/
  crc : W32
  /-- The table being copied (R410). -/
  copying : Option (List GroupEntry)
  /-- Next bulk and priority sequence numbers of groups that have used one (R413). -/
  seqs : List (Nat × W16 × W16)
  colls : List Coll
  combines : List Combine
  /-- Aborts recorded for collectives not yet started, or forwarded already: group, sequence number, priority class. -/
  abortsSeen : List (Nat × W16 × Bool)
  /-- GRANTs received before their phase started (R414). -/
  grants : List (Coord × CollFrame)
  /-- Chunks that wait for an engine, and the chunk each engine holds (R418). -/
  waiting : List (Coord × CollFrame)
  engines : Vector (Option (Coord × CollFrame)) 4
  deriving DecidableEq, Repr

/-! ### Power and telemetry (chapter 15) -/

/-- The droop loop of one core (R519 to R521). -/
structure Droop where
  level : BitVec 4
  release : Nat
  /-- The last 512 good samples in mV·2, the newest first (R520). -/
  samples : List Nat
  deriving DecidableEq, Repr

/-- The PWR block (Tables 15-7 to 15-9) and the domain sequencer. -/
structure Pwr where
  req : W32
  telReq : Bool
  err : BitVec 4
  errDom : BitVec 6
  on : BitVec 36
  faultDom : BitVec 6
  fault : Bool
  /-- The switch in progress: domain, and true for on. -/
  busy : Option (Nat × Bool)
  /-- Port domains held off since the table reached LOADED (R516). -/
  heldOff : BitVec 36
  rampErr : BitVec 4
  rho : BitVec 4
  loopEn : Bool
  lMin : BitVec 3
  release : BitVec 4
  tripHi : Byte
  tripLo : Byte
  capErr : BitVec 4
  cap : BitVec 10
  evtCap : Bool
  ceil : BitVec 4
  power : BitVec 9
  /-- Consecutive windows below 0.95 × CAP. -/
  below : Nat
  droop : Vector Droop 16
  gateOpen : Bool
  /-- The last 32 good core-rail current samples as code × full scale in A, the newest first (R522). -/
  currents : List Nat
  deriving DecidableEq, Repr

/-- A current channel's range (Table 15-10, R527, R528). -/
structure Range where
  auto : Bool
  fixed : BitVec 2
  cur : BitVec 2
  /-- Samples in the present range. -/
  held : Nat
  high : Nat
  low : Nat
  /-- The step decided and not yet applied: true up. -/
  due : Option Bool
  deriving DecidableEq, Repr

/-- An entry of the result queue: its two words (Table 15-4). -/
structure TelEntry where
  word0 : W32
  word1 : W32
  deriving DecidableEq, Repr

/-- The energy table's counts (Table 15-5). -/
structure Energy where
  seq : W64
  windows : W64
  mains : Bool
  winLen : W32
  rail : Vector W64 4
  ctx : Vector W64 16
  shared : W64
  throttled : Vector W64 16
  gated : W64
  power : Vector W32 4
  deriving DecidableEq, Repr

/-- The TEL block (Table 15-10), its queue and the energy counts. -/
structure Tel where
  err : BitVec 4
  mode : BitVec 2
  lp : Bool
  qdiv : BitVec 4
  sel : BitVec 20
  accMb : BitVec 9
  ncyc : BitVec 4
  en : Bool
  queue : List TelEntry
  ovf : Bool
  dropped : W16
  /-- The next entry that fits carries LOST (R531). -/
  lostNext : Bool
  ranges : Vector Range 4
  conv : Bool
  /-- CONV has risen since the telemetry domain came on (R525). -/
  convSeen : Bool
  frozen : Bool
  bad : BitVec 8
  locked : Bool
  lost : Bool
  period : BitVec 24
  /-- The last good mains periods, the newest first (R534). -/
  periods : List Nat
  /-- Samples of each channel since SEL or QDIV was written (R531). -/
  counts : Vector Nat 20
  /-- LP in force, from the last frame boundary (R530). -/
  lpActing : Bool
  /-- A software conversion is in progress (R529). -/
  soft : Bool
  /-- Good droop samples of the window: their sum in mV·2 and their count (R535). -/
  droopSum : Nat
  droopCount : Nat
  energy : Energy
  /-- The core clock of the last event for an ACC_MB that lies in no SYS frame (R535). -/
  skipAt : Option W64
  deriving DecidableEq, Repr
/-! ### What the chip sends -/

/-- One thing sent to the outside, as the model's own log holds it. -/
inductive Out where
  /-- An event record written to a queue: 0 the PF's, k + 1 that of VF k; and its place (R480). -/
  | event (queue index : Nat) (r : EvtRec)
  /-- MSI-X of a function, 0 the PF, k + 1 VF k (R478, R480). -/
  | msix (fn vector : Nat)
  /-- An I3C in-band interrupt (R483), and a Hot-Join request (R487). -/
  | ibi
  | hotJoin
  /-- Bytes returned on I3C (R486, R488). -/
  | i3c (data : List Byte)
  /-- The value of a register read, back on its path (R603). -/
  | readData (via : Via) (off : Nat) (value : W32)
  /-- A PCIe AER error (R505). -/
  | aer
  /-- A PCIe read completion (R478). -/
  | completion (data : List Byte)
  /-- An Ethernet answer (R489): 0 ARP, 1 ICMP echo, 2 neighbour advertisement, 3 ICMPv6 echo, 4 a PTP Delay_Req. -/
  | eth (kind : Nat) (data : List Byte)
  /-- A KBT message (R492). -/
  | kbt (m : KbtMsg)
  /-- An intake reply or refusal to the host (R500): context, request, RETURN, data. -/
  | reply (ctx : Ctx) (reqId : W64) (ret : List Byte) (data : List Byte)
  | idFrame (port : Nat) (f : IdFrame)
  | word (port : Nat) (w : CtlWord)
  | frame (port : Nat) (f : Frame)
  /-- A frame handed to the unit that its kind names (R390). -/
  | eject (f : Frame)
  | beatHeader (port : Nat) (h : BeatHdr)
  /-- A shelf flit that holds an uncorrectable word, sent with its CRC-32C inverted (R353). -/
  | badFlit (port : Nat)
  deriving DecidableEq, Repr

/-! ### The chip -/

/-- The state of the chip. -/
structure State where
  /-- Commands that wait, first in first out. -/
  pending : List Instr
  /-- Core clocks since chip reset (R177). -/
  clock : W64
  /-- The model's own counter of free values drawn (assumption log 1). -/
  draw : Nat
  /-- The model's own log of things sent, the newest first. -/
  outs : List Out
  inst : Inst
  anchor : AnchorStore
  own : Own
  glb : Glb
  fw : FwStore
  hst : Hst
  latches : List Latch
  beat : Beat
  wrg : Wrg
  upk : Upk
  arm : Arm
  cores : Vector Core 16
  /-- The committed frame table: KIND, RWE and CTX of each MiB (R321). -/
  frames : Vector W16 384
  /-- Frames whose zero fill runs (R324). -/
  fills : List Nat
  /-- The cupboard by chip address (R304): bytes, and the 8-byte words that hold an uncorrectable error (R325). -/
  mem : List Host.Cell
  ue : List Nat
  /-- Words that hold a single-bit error that no read has corrected yet (R325). -/
  ce : List Nat
  ports : Vector Port 10
  hut : Hut
  pwr : Pwr
  tel : Tel
  /-- FENCE_N driven low by this chip, THERMTRIP_N asserted (Table 19-2). -/
  fenceN : Bool
  thermtrip : Bool
  deriving DecidableEq, Repr

/-! ### Reset -/

def Coord.zero : Coord := ⟨0, 0, 0, 0⟩

def Inst.reset : Inst where
  state := 0
  err := 0
  nbrFail := 0
  nbrOk := 0
  bypSeen := false
  table := none
  agree := Vector.replicate 10 0
  agreeByp := Vector.replicate 10 0
  bypassed := 0
  held := 0
  anchorWrite := none

def AnchorStore.fresh : AnchorStore := ⟨none, none, false, 0⟩

def Staged.none : Staged where
  nextM1 := .none
  restart := .none
  version := .none
  grpAddr := .none
  scale := .none
  imgMb := .none
  bump := .none
  reform := .none
  image := .none
  groups := .none

def Stage.reset : Stage where
  err := 0
  imgMb := 0x1FF
  bump := false
  state := 0
  cause := 0
  remoteFail := false
  late := false
  aborted := false
  change := 0
  b := 0
  staged := .none
  commitAt := .none
  checking := false
  localCause := 0
  vote := .none
  votes := 0

def RootView.reset : RootView where
  state := 0
  owner := 0
  leaseX := 0
  force := none
  claims := []
  electEnd := 0
  stage := 0
  seq := 0
  waiting := []

def Seal.fresh : Seal where
  windowOpen := false
  plug := false
  button := false
  absent := false
  closeAt := 0
  openings := 0
  presses := 0
  counted := false
  removing := false

def Own.reset : Own where
  state := 0
  owner := 0
  errPf := 0
  errI3c := 0
  errKbt := 0
  boundPf := none
  boundI3c := none
  leaseX := none
  svcLat := 0
  valid := false
  partId := 0
  ctxs := Vector.replicate 16 ⟨false, 0⟩
  epoch := 0
  force := none
  stage := .reset
  root := .reset
  parent := none
  children := []
  serviceRoot := none
  serviceStandby := none
  orders := []
  nextSeq := 0
  awaiting := []
  sealing := .fresh

def FuseMap.none : FuseMap := ⟨0, 0, 0, 0, 0, 0, Vector.replicate 16 0⟩

def Glb.reset : Glb where
  state := 0
  err := 0
  wait := 0
  dark := 0
  degradedOk := false
  join := false
  cause := 0
  fwSlot := false
  fwAlt := false
  fuseDone := false
  fuseFail := false
  fuses := FuseMap.none
  fwVersion := 0
  fwLoad := .none
  instant := .none
  confirmed := false
  formUp := .none
  formUps := 0
  part := .none
  darkSent := 0
  reports := []
  fences := []
  fenced := []
  resetHeld := false

/-- The firmware store as manufactured: one well-formed image in the current slot, of a free version, signed with the accepted
key, which is free; the floor is 0 (R556). -/
def FwStore.fresh : FwStore :=
  ⟨some ⟨Config.makerVersion, 0, Config.makerKey, true⟩, none, false, Config.makerKey, 0⟩

def EvtQueue.reset : EvtQueue := ⟨0, false, 0, 0, 0, 0, 0, 0, false⟩

def Intake.reset : Intake where
  baseMb := 0
  depth := 0
  hwm := 0
  slot := 0
  hold := false
  enable := false
  refused := 0
  w := 0
  produced := 0
  consumed := 0
  core := 0
  ctr := 0
  broken := false

def Vf.reset : Vf := ⟨.reset, 0, 0, 0, 0, [], false⟩

def I3c.reset : I3c where
  valid := false
  da := 0
  hjPend := false
  ibiEn := true
  errs := 0
  mwl := 260
  mrl := 257
  status := 0
  writeStatus := 0
  pendingRead := []
  pendingStatus := 0

def Hst.reset : Hst where
  i3c := .reset
  ethErr := 0
  ptpEn := false
  kbtEn := false
  ethEnable := false
  link := false
  fecLock := false
  fecUe := 0
  kbtDrop := 0
  rxDrop := 0
  net := none
  vsel := 0
  intakeErr := 0
  intakes := Vector.replicate 16 .reset
  requests := []
  ptpState := 0
  ptpLocked := false
  ptpOffset := 0
  ptpRun := 0
  ptpTwoStep := false
  pfQueue := .reset
  vfs := Vector.replicate 16 .reset
  loadBuf := []
  sessions := []
  pfEvtPosted := false
  lastIbi := none

def BeatPort.reset : BeatPort where
  heard := false
  dist := 0
  gen := 0
  live := 0
  part := false
  peerOos := false
  peerHold := false
  backlog := 0
  peak := 0
  inGuard := 0
  agree := 0
  holdAgree := 0
  missing := 0
  oos := false
  hold := false
  resuming := false
  holdEnded := false
  sentHeader := false
  fresh := false
  e := 0
  eFresh := false
  edge := false
  msDelta := 0

def Beat.reset : Beat where
  err := 0
  gen := 0
  gain := 0
  evtEdge := false
  enable := false
  curM1 := 0x0F
  nextM1 := 0x0F
  count := 0
  phasePeak := 0
  phaseErr := 0
  guard := 0x096
  edgeCnt := 0
  state := 0
  acting := false
  rootDist := 0x3F
  live := 0
  liveAt := 0
  advanced := false
  gridSet := false
  ms := 0
  startMs := 0
  gridMs := 0
  startClock := 0
  phase := 0
  corr := 0
  corrGrid := 0
  relockAge := 0
  relockStep := false
  standbyLost := false
  admitted := 0
  ports := Vector.replicate 10 .reset

def Wrg.reset : Wrg where
  err := 0
  dirMb := 0
  west := true
  east := true
  enable := false
  posValid := false
  j := 0
  step := 0
  leadin := false
  pass := 0
  lap := 0
  verNext := 0
  verCur := 0
  abandoned := 0
  late := 0
  state := 0
  cause := 0
  poison := false
  homeUe := false
  overrun := false
  swap := false
  group := 0
  poisonCnt := 0
  passVersion := 0
  dir := none
  homeUeMarks := []
  records := []
  checkDue := false
  checkBad := none
  arrE := none
  arrW := none
  heldE := none
  heldW := none
  halt := none
  copyNext := 0
  copying := none
  passEnded := false
  restartZero := false
  restartDue := none
  sendE := none
  sendW := none
  trail := []
  regionFill := false
  slots := []
  lostE := false
  lostW := false

def Upk.reset : Upk where
  err := 0
  eastLanes := 0x40
  evtSpill := false
  split := 0x40
  errCause := 0
  errStream := false
  dmgCnt := 0
  errGroup := 0
  spillCnt := 0
  decPeak := 0
  dmg := false
  spill := false
  queues := Vector.replicate 4 ⟨[], [], 0⟩
  lanes := Vector.replicate 128 none

def Arm.reset : Arm where
  sel := 0
  slots := Vector.replicate 32 ⟨none, 0⟩
  tagCnt := 0
  noKeyCnt := 0
  tag := false
  noKey := false
  lastSlot := 0
  zeroDue := []

def TrsArray.empty : TrsArray where
  loaded := false
  op := .tmul
  df := 0
  bench := false
  mw := 0
  keepable := false
  bDesc := none
  k := 0
  n := 0
  tile := []
  regs0 := []
  regs1 := []
  cells := []
  file := []
  staging := none
  idle := 255
  ramp := none
  rho := 64

def FlagWord.clear : FlagWord := ⟨false, false, false, false, 0⟩

def CUnit.empty : CUnit := ⟨[], [], .clear, false⟩

def Cpb.reset : Cpb where
  ceCnt := 0
  ue := false
  err := 0
  scrub := true
  fill := false
  mode := false
  evtPosted := false
  scrubAt := 0

/-- A core as chip reset leaves it (R163). -/
def Core.reset : Core where
  state := 0
  stop := 0
  stopNext := 0
  err := 0
  ctx := 0
  waitLimit := 0
  stallSel := 0
  freeze := false
  pc := 0
  s := Vector.replicate 32 0
  a := Vector.replicate 16 0
  p := Vector.replicate 8 false |>.set 0 true
  td := Vector.replicate 32 none
  sPend := 0
  aPend := 0
  pPend := 0
  stall := Vector.replicate 10 0
  units := Vector.replicate 6 .empty
  cpFlags := .clear
  tflgCp := []
  cpriOut := 0
  movers := Vector.replicate 4 []
  wait := .none
  waitBeats := 0
  waitClks := 0
  waitPosted := false
  stores := []
  rets := []
  faults := 0
  counters := Vector.replicate 256 ⟨0, true, false⟩
  cpb := .reset
  arrays := Vector.replicate 4 .empty
  trsDis := 0
  trsFail := 0
  trsGen := 0
  fdis := 0
  fdisReq := 0
  soft := 0
  repair := 0
  selfTested := false
  launches := 0
  imem := []
  refetch := true
  ahead := []

def LinkClass.empty : LinkClass := ⟨0, [], 0, []⟩

/-- A port as chip reset or its domain's power-up leaves it (Tables 11-10 to 11-17, R515). -/
def Port.reset : Port where
  err := 0
  evtRetx := false
  warnPwr := 0xBA
  enable := false
  state := 0
  inService := false
  peerReset := false
  wlLock := 0
  wlWarn := 0
  cause := 0
  attempts := 0
  step := 0
  delay := 0
  framesErr := 0
  ctrlErr := 0
  retx := 0
  lost := 0
  recov := 0
  downs := 0
  rxPower := Vector.replicate 8 0x80
  txPower := Vector.replicate 8 0x80
  sel := 0
  prbsErr := 0
  prbsLock := false
  mode := 0
  edge := 0
  stateValid := false
  peer := none
  peerStep := 0
  stepHere := false
  timings := 0
  timingAt := 0
  echoSum := 0
  echoes := 0
  recoveries := []
  beenUp := false
  bulk := .empty
  prio := .empty
  bulkOut := []
  prioOut := []
  sent := Vector.replicate 4 0
  freed := Vector.replicate 4 0
  freedHere := Vector.replicate 4 0
  turn := 0
  turns := 0
  lastVc := 0
  sentAny := false
  shelfFlits := 0
  shelfOwed := 0
  prioPeak := 0
  prioPeakLast := 0

def Hut.reset : Hut where
  evtRes := true
  localWt := 0
  weight := 0
  blocked := 0
  misroute := 0
  discEvt := 0
  discSeen := false
  resCount := 0
  resEngine := 0
  resOpk := 0
  resGroup := 0
  resFlag := false
  resPosted := false
  cerr := 0
  aborts := 0
  evtAbort := true
  resRetry := true
  loaded := false
  addr := 0
  ovfCnt := 0
  evtOvf := false
  scale := 0
  records := []
  landing := []
  groups := []
  crc := 0
  copying := none
  seqs := []
  colls := []
  combines := []
  abortsSeen := []
  grants := []
  waiting := []
  engines := Vector.replicate 4 none

def Droop.reset : Droop := ⟨8, 0, []⟩

def Pwr.reset : Pwr where
  req := 0xFFFFFFFF
  telReq := true
  err := 0
  errDom := 0
  on := 0xE00000000
  faultDom := 0
  fault := false
  busy := none
  heldOff := 0
  rampErr := 0
  rho := 6
  loopEn := true
  lMin := 2
  release := 3
  tripHi := 0x28
  tripLo := 0x14
  capErr := 0
  cap := 0
  evtCap := false
  ceil := 8
  power := 0
  below := 0
  droop := Vector.replicate 16 .reset
  gateOpen := true
  currents := []

def Range.reset : Range := ⟨true, 2, 2, 0, 0, 0, none⟩

def Energy.reset : Energy where
  seq := 0
  windows := 0
  mains := false
  winLen := 0
  rail := Vector.replicate 4 0
  ctx := Vector.replicate 16 0
  shared := 0
  throttled := Vector.replicate 16 0
  gated := 0
  power := Vector.replicate 4 0

def Tel.reset : Tel where
  err := 0
  mode := 1
  lp := false
  qdiv := 0
  sel := 0
  accMb := 0x1FF
  ncyc := 0
  en := true
  queue := []
  ovf := false
  dropped := 0
  lostNext := false
  ranges := Vector.replicate 4 .reset
  conv := false
  convSeen := false
  frozen := false
  bad := 0
  locked := false
  lost := false
  period := 0
  periods := []
  counts := Vector.replicate 20 0
  lpActing := false
  soft := false
  droopSum := 0
  droopCount := 0
  energy := .reset
  skipAt := none

/-- The chip right after its first power-on reset: every field at the manual's reset value, or at the value that the
assumption log names where the manual gives none. -/
def State.reset : State where
  pending := []
  clock := 0
  draw := 0
  outs := []
  inst := .reset
  anchor := .fresh
  own := .reset
  glb := .reset
  fw := .fresh
  hst := .reset
  latches := []
  beat := .reset
  wrg := .reset
  upk := .reset
  arm := .reset
  cores := Vector.replicate 16 .reset
  frames := Vector.replicate 384 0
  fills := []
  mem := []
  ue := []
  ce := []
  ports := Vector.replicate 10 .reset
  hut := .reset
  pwr := .reset
  tel := .reset
  fenceN := false
  thermtrip := false

end Sys2Proof.Machine
end

