-- ==== Sys2Proof/Machine/Ops.lean ====
section
/-! DEFINITION. Machine/Ops.lean: the named operations over words, memories and the model's own counters that every
meaning is built from. -/

namespace Sys2Proof.Machine

/-! ### Words -/

/-- Bits `lo + len − 1 : lo` of a word as a number. -/
def bits {n : Nat} (v : BitVec n) (lo len : Nat) : Nat := (v.extractLsb' lo len).toNat

/-- Bit `i` of a word. -/
def bit {n : Nat} (v : BitVec n) (i : Nat) : Bool := v.getLsbD i

/-- A word with bit `i` set to `b`. -/
def setBit {n : Nat} (v : BitVec n) (i : Nat) (b : Bool) : BitVec n :=
  if b then v ||| (1#n <<< i) else v &&& ~~~(1#n <<< i)

/-- A count that saturates at its width (the counts of the register tables). -/
def satAdd {n : Nat} (v : BitVec n) (k : Nat) : BitVec n :=
  if v.toNat + k < 2 ^ n then v + BitVec.ofNat n k else BitVec.allOnes n

/-- A count that saturates, one up. -/
def satInc {n : Nat} (v : BitVec n) : BitVec n := satAdd v 1

/-- A truth value as one bit. -/
def b1 (b : Bool) : BitVec 1 := if b then 1#1 else 0#1

/-- Bytes of a number, little-endian. -/
def leBytes : Nat → Nat → List Byte
  | 0, _ => []
  | n + 1, v => BitVec.ofNat 8 v :: leBytes n (v / 256)

/-- The number that little-endian bytes spell. -/
def ofLe : List Byte → Nat
  | [] => 0
  | b :: bs => b.toNat + 256 * ofLe bs

/-- The number that big-endian bytes spell. -/
def ofBe (bs : List Byte) : Nat := ofLe bs.reverse

/-- Bytes of a number, big-endian. -/
def beBytes (n v : Nat) : List Byte := (leBytes n v).reverse

/-! ### Sparse memories

A memory is a list of (address, byte) in one canonical form: addresses strictly rising, and no entry holds 0, which is what
an unlisted address reads as (assumption log 3). -/

/-- The byte at an address. -/
def readByte : List Host.Cell → Nat → Byte
  | [], _ => 0
  | (k, v) :: m, a => if k = a then v else if a < k then 0 else readByte m a

/-- A memory with one byte written. -/
def writeByte : List Host.Cell → Nat → Byte → List Host.Cell
  | [], a, b => if b = 0 then [] else [(a, b)]
  | (k, v) :: m, a, b =>
    if a < k then (if b = 0 then (k, v) :: m else (a, b) :: (k, v) :: m)
    else if a = k then (if b = 0 then m else (k, b) :: m)
    else (k, v) :: writeByte m a b

/-- `n` bytes from an address. -/
def readBytes (m : List Host.Cell) (a : Nat) : Nat → List Byte
  | 0 => []
  | n + 1 => readByte m a :: readBytes m (a + 1) n

/-- A memory with bytes written from an address on. -/
def writeBytes (m : List Host.Cell) (a : Nat) : List Byte → List Host.Cell
  | [] => m
  | b :: bs => writeBytes (writeByte m a b) (a + 1) bs

/-- A memory with every byte of [a, a + n) at 0 (a zero fill). -/
def zeroRange (m : List Host.Cell) (a n : Nat) : List Host.Cell :=
  m.filter (fun c => decide (c.1 < a ∨ a + n ≤ c.1))

/-- The little-endian number of `n` bytes at an address. -/
def readLe (m : List Host.Cell) (a n : Nat) : Nat := ofLe (readBytes m a n)

/-- The canonical form: every key above `lo`, strictly rising, no byte 0. -/
def Memory.wfFrom : Nat → List Host.Cell → Bool
  | _, [] => true
  | lo, (k, v) :: m => decide (lo ≤ k) && (v != 0) && Memory.wfFrom (k + 1) m

/-- The canonical form of a memory. -/
def Memory.wf (m : List Host.Cell) : Bool := Memory.wfFrom 0 m

/-! ### The model's own records -/

/-- The state with one more thing sent. -/
def State.emit (s : State) (o : Out) : State := { s with outs := o :: s.outs }

/-- The state with the free-value counter advanced by `n`. -/
def State.drawn (s : State) (n : Nat) : State := { s with draw := s.draw + n }

/-! ### Registers held in vectors -/

/-- A vector with element `i` replaced by a function of it; unchanged where `i` is out of range. -/
def vmod {α : Type} {n : Nat} (v : Vector α n) (i : Nat) (f : α → α) : Vector α n :=
  if h : i < n then v.set i (f v[i]) else v

end Sys2Proof.Machine
end

