-- ==== Sys2Proof/Machine/Crypto.lean ====
section
/-! DEFINITION. Machine/Crypto.lean: the digests, ciphers and check codes that the manual names: SHA-256 (R34, R35, R456, R462,
R464, R557), AES-256-GCM (R354 to R356) and CRC-32C (R379, R411, R461, R485, R491, R495). The manual names them and leaves them to
their published standards (assumption log 4, PRESUMED). -/

namespace Sys2Proof.Machine

/-! ### SHA-256

Its constants are bits of irrational roots: the first 32 fractional bits of the cube roots of the first 64 primes, and of the square
roots of the first 8. They are worked out from that. -/

/-- The greatest `r` below `2 ^ b` more than the given one with `r ^ k ≤ n`, bit by bit from the top. -/
def rootBits (k n : Nat) : Nat → Nat → Nat
  | 0, r => r
  | b + 1, r => rootBits k n b (if (r + 2 ^ b) ^ k ≤ n then r + 2 ^ b else r)

/-- 32 fractional bits of the `k`-th root of a number below 2^12. -/
def fracRoot (k p : Nat) : W32 := BitVec.ofNat 32 (rootBits k (p <<< (32 * k)) 38 0)

/-- The primes below 312: there are 64. -/
def smallPrimes : List Nat :=
  ((List.range 312).drop 2).filter fun n => [2, 3, 5, 7, 11, 13, 17].all fun d => n == d || n % d != 0

/-- Rotations of a word, joined by exclusive or. -/
def xorRot (x : W32) (rs : List Nat) : W32 := rs.foldl (fun a r => a ^^^ x.rotateRight r) 0

/-- Where a bit of `x` is set the bit of `y`, else that of `z`. -/
def bitChoice (x y z : W32) : W32 := z ^^^ (x &&& (y ^^^ z))

/-- The bit that at least two of three words hold. -/
def bitVote (x y z : W32) : W32 := (x &&& y) ||| (z &&& (x ||| y))

/-- One step of the compression: the eight working words, first to last, and the window of the next sixteen message words, which
moves on by one. -/
def shaStep : List W32 × List W32 → W32 → List W32 × List W32
  | ([x0, x1, x2, x3, x4, x5, x6, x7], w :: win), k =>
    let add := x7 + xorRot x4 [6, 11, 25] + bitChoice x4 x5 x6 + k + w
    let low := win.getD 0 0
    let high := win.getD 13 0
    let grown := w + (xorRot low [7, 18] ^^^ low >>> 3) + win.getD 8 0 + (xorRot high [17, 19] ^^^ high >>> 10)
    ([add + xorRot x0 [2, 13, 22] + bitVote x0 x1 x2, x0, x1, x2, x3 + add, x4, x5, x6], win ++ [grown])
  | x, _ => x

/-- Big-endian words of bytes. -/
def beWords : List Byte → List W32
  | a :: b :: c :: d :: r => BitVec.ofNat 32 (ofBe [a, b, c, d]) :: beWords r
  | _ => []

/-- The chaining words after a message of whole blocks; `fuel` bounds their number. -/
def shaChain (ks : List W32) : Nat → List W32 → List Byte → List W32
  | 0, hs, _ => hs
  | n + 1, hs, m =>
    if m.isEmpty then hs
    else shaChain ks n ((hs.zip (ks.foldl shaStep (hs, beWords (m.take 64))).1).map fun p => p.1 + p.2) (m.drop 64)

/-- SHA-256 of bytes, read as a big-endian number. -/
def sha256 (m : List Byte) : BitVec 256 :=
  let zeros := (64 - (m.length + 9) % 64) % 64
  let whole := m ++ 0x80#8 :: List.replicate zeros 0#8 ++ beBytes 8 (8 * m.length)
  let hs := shaChain (smallPrimes.map (fracRoot 3)) whole.length ((smallPrimes.take 8).map (fracRoot 2)) whole
  hs.foldl (fun a h => a <<< 32 ||| h.setWidth 256) 0

/-! ### AES-256 -/

/-- Twice an element of the field of 256 elements, modulo x^8 + x^4 + x^3 + x + 1. -/
def gfDouble (a : Byte) : Byte := if a.msb then (a <<< 1) ^^^ 0x1B else a <<< 1

/-- The product of two field elements; the factor's bits from the lowest on. -/
def gfMul : Nat → Byte → Byte → Byte
  | 0, _, _ => 0
  | n + 1, a, b => (if b.getLsbD 0 then a else 0) ^^^ gfMul n (gfDouble a) (b >>> 1)

/-- The inverse of a field element, 0 of 0: its 254th power. -/
def gfInv (a : Byte) : Byte := ((List.range 7).foldl (fun (p : Byte × Byte) _ =>
  let sq := gfMul 8 p.1 p.1
  (sq, gfMul 8 p.2 sq)) (a, 1)).2

/-- The byte substitution. -/
def aesSub (a : Byte) : Byte :=
  let i := gfInv a
  i ^^^ i.rotateLeft 1 ^^^ i.rotateLeft 2 ^^^ i.rotateLeft 3 ^^^ i.rotateLeft 4 ^^^ 0x63

/-- Bytes joined by exclusive or, place by place. -/
def xorBytes (a b : List Byte) : List Byte := (a.zip b).map fun p => p.1 ^^^ p.2

/-- The expanded key as four-byte words, latest first, `n` words longer; `c` is the next round constant. -/
def aesExpand : Nat → Byte → List (List Byte) → List (List Byte)
  | 0, _, ws => ws
  | n + 1, c, ws =>
    let i := ws.length
    let last := ws.getD 0 []
    let turned := match (last.drop 1 ++ last.take 1).map aesSub with
      | b :: bs => (b ^^^ c) :: bs
      | [] => []
    let t := if i % 8 = 0 then turned else if i % 8 = 4 then last.map aesSub else last
    aesExpand n (if i % 8 = 0 then gfDouble c else c) (xorBytes t (ws.getD 7 []) :: ws)

/-- The fifteen round keys of a key. -/
def aesKeys (key : BitVec 256) : List (List Byte) :=
  let b := beBytes 32 key.toNat
  let first := (List.range 8).map fun i => (b.drop (4 * i)).take 4
  let ws := (aesExpand 52 1 first.reverse).reverse
  (List.range 15).map fun r => ((ws.drop (4 * r)).take 4).flatten

/-- Substitution and the shift of rows on a block in column order. -/
def aesShift (b : List Byte) : List Byte :=
  (List.range 16).map fun i => aesSub (b.getD ((i + 4 * (i % 4)) % 16) 0)

/-- The mixing of columns. -/
def aesMix (b : List Byte) : List Byte :=
  (List.range 16).map fun i =>
    let at' (k : Nat) : Byte := b.getD (i / 4 * 4 + (i + k) % 4) 0
    gfDouble (at' 0) ^^^ gfDouble (at' 1) ^^^ at' 1 ^^^ at' 2 ^^^ at' 3

/-- A block of 16 bytes enciphered under round keys. -/
def aesBlock (keys : List (List Byte)) (b : List Byte) : List Byte :=
  let inner := ((keys.drop 1).take 13).foldl (fun x k => xorBytes (aesMix (aesShift x)) k) (xorBytes b (keys.getD 0 []))
  xorBytes (aesShift inner) (keys.getD 14 [])

/-! ### Galois/counter mode with a 96-bit IV -/

/-- The counter block of an IV. -/
def gcmCounter (iv : List Byte) (n : Nat) : List Byte := iv ++ beBytes 4 (n % 2 ^ 32)

/-- Keystream bytes [o, o + n) of the payload of a key and an IV (R355, R356). -/
def gcmKeystream (key : BitVec 256) (iv : List Byte) (o n : Nat) : List Byte :=
  let ks := aesKeys key
  let blocks := (List.range ((o % 16 + n + 15) / 16)).flatMap fun i => aesBlock ks (gcmCounter iv (o / 16 + i + 2))
  (blocks.drop (o % 16)).take n

/-- The product in the field of 2^128 elements, first bit most significant: the factor's bits from the top. -/
def ghashMul : Nat → BitVec 128 → BitVec 128 → BitVec 128
  | 0, _, _ => 0
  | n + 1, x, v =>
    (if x.msb then v else 0) ^^^ ghashMul n (x <<< 1) (if v.getLsbD 0 then (v >>> 1) ^^^ (0xE1 <<< 120) else v >>> 1)

/-- The hash of whole blocks under a hash key; `fuel` bounds their number. -/
def ghash (h : BitVec 128) : Nat → BitVec 128 → List Byte → BitVec 128
  | 0, y, _ => y
  | n + 1, y, m =>
    if m.isEmpty then y else ghash h n (ghashMul 128 (y ^^^ BitVec.ofNat 128 (ofBe (m.take 16))) h) (m.drop 16)

/-- Bytes with zeros up to a multiple of 16. -/
def pad16 (m : List Byte) : List Byte := m ++ List.replicate ((16 - m.length % 16) % 16) 0

/-- The tag of associated data and ciphertext (R355). -/
def gcmTag (key : BitVec 256) (iv aad text : List Byte) : List Byte :=
  let ks := aesKeys key
  let h := BitVec.ofNat 128 (ofBe (aesBlock ks (List.replicate 16 0)))
  let m := pad16 aad ++ pad16 text ++ beBytes 8 (8 * aad.length) ++ beBytes 8 (8 * text.length)
  xorBytes (beBytes 16 (ghash h m.length 0 m).toNat) (aesBlock ks (gcmCounter iv 1))

/-! ### CRC-32C -/

/-- One bit step of a reflected CRC-32C. -/
def crc32cBit (c : W32) : W32 :=
  if c.getLsbD 0 then (c >>> 1) ^^^ 0x82F63B78#32 else c >>> 1

/-- CRC-32C with one byte more. -/
def crc32cByte (c : W32) (b : Byte) : W32 :=
  let x := c ^^^ b.setWidth 32
  crc32cBit (crc32cBit (crc32cBit (crc32cBit (crc32cBit (crc32cBit (crc32cBit (crc32cBit x)))))))

/-- CRC-32C (Castagnoli) of bytes. -/
def crc32c (m : List Byte) : W32 := ~~~(m.foldl crc32cByte (BitVec.allOnes 32))

end Sys2Proof.Machine
end

