-- ==== Sys2Proof/Machine/Geometry.lean ====
section
/-! DEFINITION. Machine/Geometry.lean: coordinates, trays, neighbours, partitions, rings, trees and routes (R18 to R30, R389,
R412, R424). -/

namespace Sys2Proof.Machine

/-! ### Coordinates -/

/-- A coordinate packed as INST_COORD bits 14:0 (Table 1-10). -/
def packCoord (c : Coord) : Nat := 512 * (c.w % 64) + 64 * (c.x % 8) + 8 * (c.y % 8) + c.z % 8

/-- The coordinate that INST_COORD bits 14:0 hold. -/
def unpackCoord (n : Nat) : Coord := ⟨n / 512 % 64, n / 64 % 8, n / 8 % 8, n % 8⟩

/-- A coordinate's value on an axis: 0 W, 1 X, 2 Y, 3 Z. -/
def axisOf (c : Coord) (a : Nat) : Nat :=
  match a with
  | 0 => c.w
  | 1 => c.x
  | 2 => c.y
  | _ => c.z

/-- A coordinate moved to `v` on an axis. -/
def setAxis (c : Coord) (a v : Nat) : Coord :=
  match a with
  | 0 => { c with w := v }
  | 1 => { c with x := v }
  | 2 => { c with y := v }
  | _ => { c with z := v }

/-- The length of an axis. -/
def axisLen (t : Table) (a : Nat) : Nat :=
  match a with
  | 0 => t.lw
  | 1 => t.lx
  | 2 => t.ly
  | _ => t.lz

/-- The twist of X, Y or Z. -/
def twistOf (t : Table) (a : Nat) : Nat :=
  match a with
  | 1 => t.tx
  | 2 => t.ty
  | 3 => t.tz
  | _ => 0

/-- A KD-1 table: all four axis lengths are 1 (R33). -/
def isKd1 (t : Table) : Bool := t.lw == 1 && t.lx == 1 && t.ly == 1 && t.lz == 1

/-- (a − b) modulo n. -/
def subMod (a b n : Nat) : Nat := (a + n - b % n) % n

/-- The tray index of a coordinate (R19). -/
def trayIndex (t : Table) (c : Coord) : Nat :=
  if isKd1 t then 0 else c.w + t.lw * (c.x / 4 + t.lx / 4 * (c.y / 4 + t.ly / 4 * c.z))

/-- The tray slot of a coordinate (R18). -/
def slotOf (t : Table) (c : Coord) : Nat := if isKd1 t then 0 else 4 * (c.y % 4) + c.x % 4

/-- The tray record of a coordinate. -/
def trayOf (t : Table) (c : Coord) : Option TrayRec := t.trays[trayIndex t c]?

/-- The serial that the table records at a coordinate. -/
def serialAt (t : Table) (c : Coord) : Option W64 := (trayOf t c).bind fun r => r.chipSerials[slotOf t c]?

/-- The axis of a port: 0 W, 1 X, 2 Y, 3 Z. -/
def portAxis (p : Nat) : Nat := if p < 4 then 0 else (p - 2) / 2

/-- The neighbour and far-end port of a port (Table 1-3, R22). -/
def neighbour (t : Table) (c : Coord) (p : Nat) : Coord × Nat :=
  if p < 4 then
    if t.lw = 1 then (c, p)
    else if p < 2 then ({ c with w := (c.w + 1) % t.lw }, p + 2)
    else ({ c with w := subMod c.w 1 t.lw }, p - 2)
  else
    let a := portAxis p
    let len := axisLen t a
    let v := axisOf c a
    if len = 1 then (c, p)
    else if p % 2 = 0 then
      (if v + 1 < len then (setAxis c a (v + 1), p + 1)
       else (setAxis { c with w := (c.w + twistOf t a) % t.lw } a 0, p + 1))
    else
      (if 0 < v then (setAxis c a (v - 1), p - 1)
       else (setAxis { c with w := subMod c.w (twistOf t a) t.lw } a (len - 1), p - 1))

/-- The chip one tray further along the W line than a W port's neighbour, and its far-end port (R26, R40). -/
def bypassNeighbour (t : Table) (c : Coord) (p : Nat) : Coord × Nat :=
  if p < 2 then ({ c with w := (c.w + 2) % t.lw }, p + 2) else ({ c with w := subMod c.w 2 t.lw }, p - 2)

/-- A port is cabled or looped: a W port, or a port of an axis longer than 1 (R22). -/
def portExists (t : Table) (p : Nat) : Bool := p < 4 || 1 < axisLen t (portAxis p)

/-- The reach class of this chip's port: true for row class (R367). -/
def rowClass (t : Table) (p : Nat) : Bool :=
  match t.trays[t.tray]? with
  | some r => bit r.reach (10 * t.slot + p)
  | none => false

/-! ### Partitions -/

/-- A coordinate lies in a box (R28). -/
def inBox (t : Table) (b : PartRec) (c : Coord) : Bool :=
  let xt := if isKd1 t then c.x else c.x / 4
  let yt := if isKd1 t then c.y else c.y / 4
  b.w0 ≤ c.w && c.w < b.w0 + b.wext && b.xt0 ≤ xt && xt < b.xt0 + b.xtext && b.yt0 ≤ yt && yt < b.yt0 + b.ytext &&
    b.z0 ≤ c.z && c.z < b.z0 + b.zext

/-- A tray lies in a box. -/
def trayInBox (b : PartRec) (r : TrayRec) : Bool :=
  b.w0 ≤ r.w && r.w < b.w0 + b.wext && b.xt0 ≤ r.xt && r.xt < b.xt0 + b.xtext && b.yt0 ≤ r.yt && r.yt < b.yt0 + b.ytext &&
    b.z0 ≤ r.z && r.z < b.z0 + b.zext

/-- The coordinates of a box on an axis, in chips. -/
def boxRange (t : Table) (b : PartRec) (a : Nat) : Nat × Nat :=
  match a with
  | 0 => (b.w0, b.wext)
  | 1 => if isKd1 t then (0, 1) else (4 * b.xt0, 4 * b.xtext)
  | 2 => if isKd1 t then (0, 1) else (4 * b.yt0, 4 * b.ytext)
  | _ => (b.z0, b.zext)

/-- The partition record whose box holds a coordinate. -/
def partOf (t : Table) (c : Coord) : Option PartRec := t.parts.find? fun b => inBox t b c

/-- The planes of a box that are not retired: every tray of the plane is in service and none is fenced (R29). -/
def activePlanes (t : Table) (b : PartRec) (fenced : List Nat) : List Nat :=
  (List.range b.wext).map (· + b.w0) |>.filter fun w =>
    ((List.range t.trays.length).zip t.trays).all fun p =>
      !(trayInBox b p.2 && p.2.w == w) || (p.2.inService && !(fenced.contains p.1))

/-- A coordinate is an active chip of a formed partition. -/
def isMember (t : Table) (v : PartView) (c : Coord) : Bool :=
  inBox t v.box c && v.planes.contains c.w && !v.left.contains c.w

/-- The planes whose chips are active (R570). -/
def PartView.active (v : PartView) : List Nat := v.planes.filter fun w => !v.left.contains w

/-- The active chips of a partition in canonical order (R412 with ORDER = 0xE4). -/
def membersOf (t : Table) (v : PartView) : List Coord :=
  let r (a : Nat) : List Nat := let p := boxRange t v.box a; (List.range p.2).map (· + p.1)
  v.active.flatMap fun w => (r 1).flatMap fun x => (r 2).flatMap fun y => (r 3).map fun z => ⟨w, x, y, z⟩

/-- The ring length N and a chip's ring position on its W line (R29). -/
def ringLen (v : PartView) : Nat := v.planes.length

/-- The place of a value in a list. -/
def indexIn (l : List Nat) (v : Nat) : Nat := l.idxOf v

/-- The extent of a box on an axis equals the axis's length, so that its wrap may be usable (R30). -/
def fullExtent (t : Table) (b : PartRec) (a : Nat) : Bool := (boxRange t b a).2 == axisLen t a

/-- The wrap of an axis of a box is usable (R30). -/
def wrapUsable (t : Table) (v : PartView) (a : Nat) : Bool :=
  fullExtent t v.box a && (v.box.wext != 1 || a == 0 || twistOf t a == 0 || t.lw == 1)

/-- The chip at the far end of a port inside a partition, and its port: none where the link is not usable (R30). A W link
crosses at most one bypassed plane (R27). -/
def linkFar (t : Table) (v : PartView) (c : Coord) (p : Nat) : Option (Coord × Nat) :=
  if p < 4 then
    if v.box.wext = 1 then (if t.lw = 1 then some (c, p) else none)
    else
      let n := v.planes.length
      let i := indexIn v.planes c.w
      let w' := v.planes.getD (if p < 2 then (i + 1) % n else (i + n - 1) % n) c.w
      let gap := if p < 2 then subMod w' c.w t.lw else subMod c.w w' t.lw
      if n < 2 || 2 < gap || v.left.contains w' then none else some ({ c with w := w' }, if p < 2 then p + 2 else p - 2)
  else if axisLen t (portAxis p) = 1 then none
  else
    let a := portAxis p
    let wraps := if p % 2 = 0 then axisOf c a + 1 == axisLen t a else axisOf c a == 0
    let q := neighbour t c p
    if isMember t v q.1 && (!wraps || wrapUsable t v a) then some q else none

/-! ### Routes (R23, R389) -/

/-- One direction choice on an axis of X, Y, Z: hops, the shift of W, whether it crosses the wrap. -/
structure Leg where
  minus : Bool
  hops : Nat
  shift : Int
  wraps : Bool
  deriving DecidableEq, Repr

/-- The direction choices on an axis from `s` to `d` (R23). -/
def legs (t : Table) (a s d : Nat) : List Leg :=
  let len := axisLen t a
  let tw : Int := twistOf t a
  if s = d then [⟨false, 0, 0, false⟩]
  else [⟨false, subMod d s len, if d < s then tw else 0, decide (d < s)⟩,
        ⟨true, subMod s d len, if s < d then -tw else 0, decide (s < d)⟩]

/-- A route: its key of R389 and its fields. -/
structure Route where
  total : Nat
  whops : Nat
  xminus : Bool
  yminus : Bool
  zminus : Bool
  west : Bool
  deriving DecidableEq, Repr

/-- A truth value as 0 or 1. -/
def boolNat (b : Bool) : Nat := if b then 1 else 0

/-- The key of R389 as one list compared field by field. -/
def Route.key (r : Route) : List Nat :=
  [r.total, r.whops, boolNat r.xminus, boolNat r.yminus, boolNat r.zminus, boolNat r.west]

/-- One list of numbers comes before another, field by field. -/
def lexLt : List Nat → List Nat → Bool
  | a :: as, b :: bs => if a < b then true else if b < a then false else lexLt as bs
  | _, _ => false

/-- The route with the least key (R389); none where no choice is permitted. -/
def leastRoute : List Route → Option Route
  | [] => none
  | r :: rs =>
    match leastRoute rs with
    | none => some r
    | some q => some (if lexLt q.key r.key then q else r)

/-- A leg stays on usable links: a wrap of a usable axis, or inside the box (R30). -/
def legOk (t : Table) (v : PartView) (a : Nat) (l : Leg) : Bool := !l.wraps || wrapUsable t v a

/-- The route of a frame between two chips of a partition (R389). -/
def routeOf (t : Table) (v : PartView) (s d : Coord) : Option Route :=
  let n := v.planes.length
  let cands := (legs t 1 s.x d.x).flatMap fun lx => (legs t 2 s.y d.y).flatMap fun ly => (legs t 3 s.z d.z).flatMap fun lz =>
    if !(legOk t v 1 lx && legOk t v 2 ly && legOk t v 3 lz) then []
    else
      let plane (q : Int) : Nat := ((d.w : Int) - q) % (t.lw : Int) |>.toNat
      let w' := plane (lx.shift + ly.shift + lz.shift)
      if ! [w', plane (ly.shift + lz.shift), plane lz.shift, d.w].all fun w => v.active.contains w then []
      else
        let i := indexIn v.planes s.w
        let r := subMod (indexIn v.planes w') i n
        let mk (west : Bool) (wh : Nat) : List Route :=
          if (List.range (wh + 1)).any fun k => v.left.contains (v.planes.getD (if west then subMod i k n else (i + k) % n) 0) then []
          else [⟨wh + lx.hops + ly.hops + lz.hops, wh, lx.minus, ly.minus, lz.minus, west⟩]
        mk false r ++ mk true ((n - r) % n)
  leastRoute cands

/-- The first or second port of a W pair: even or odd parity of SRC XOR DEST (R389). -/
def wPairPort (s d : Coord) (west : Bool) : Nat :=
  let x := packCoord s ^^^ packCoord d
  let par := ((List.range 15).filter fun i => x.testBit i).length % 2
  (if west then 2 else 0) + par

/-! ### Rings and trees of a group (R412, R424) -/

/-- A list of numbers without repeats, in ascending order. -/
def sortedSet (l : List Nat) : List Nat := (List.range 64).filter fun v => l.contains v

/-- The coordinates of a group's members on an axis. -/
def axisSet (ms : List Coord) (a : Nat) : List Nat := sortedSet (ms.map fun c => axisOf c a)

/-- The index that a separable group gives a member (R412). -/
def sepIndex (ms : List Coord) (order : List Nat) (c : Coord) : Nat :=
  order.foldl (fun i a => let s := axisSet ms a; i * s.length + indexIn s (axisOf c a)) 0

/-- A group is separable (R412). -/
def separable (single : Bool) (ms : List Coord) (order : List Nat) : Bool :=
  !single && ms.length == (order.map fun a => (axisSet ms a).length).foldl (· * ·) 1 &&
    ((List.range ms.length).zip ms).all fun p => sepIndex ms order p.2 == p.1

/-- The offset of a position on a ring of `n` (R424). -/
def ringOffset (p n : Nat) : Int := if p ≤ n / 2 then (p : Int) else (p : Int) - n

/-- The lowest set bit of a number below 2^16 cleared. -/
def clearLow (v : Nat) : Nat := match (List.range 16).find? (fun i => v.testBit i) with
  | some i => v - 2 ^ i
  | none => v

/-- The parent offset of a non-zero offset (R424). -/
def parentOffset (q : Int) : Int := if q < 0 then -(clearLow q.natAbs : Int) else (clearLow q.natAbs : Int)

/-- The position of an offset on a ring of `n`. -/
def offsetPos (q : Int) (n : Nat) : Nat := (q % (n : Int)).toNat

/-- The parent of a member in the combining tree of a group (R424); none for the root. -/
def treeParent (single : Bool) (ms : List Coord) (order : List Nat) (c : Coord) : Option Coord :=
  if separable single ms order then
    let rec go : List Nat → Option Coord
      | [] => none
      | a :: as =>
        let s := axisSet ms a
        let q := ringOffset (indexIn s (axisOf c a)) s.length
        if q = 0 then go as else some (setAxis c a (s.getD (offsetPos (parentOffset q) s.length) 0))
    go order.reverse
  else
    let q := ringOffset (ms.idxOf c) ms.length
    if q = 0 then none else ms[offsetPos (parentOffset q) ms.length]?

/-- The children of a member in the combining tree. -/
def treeChildren (single : Bool) (ms : List Coord) (order : List Nat) (c : Coord) : List Coord :=
  ms.filter fun m => treeParent single ms order m == some c

/-- The ring phases of a group in ORDER for a member: axis number in ORDER, position, length, + and − neighbour (R412). -/
def groupRings (single : Bool) (ms : List Coord) (order : List Nat) (c : Coord) : List (Nat × Nat × Nat × Coord × Coord) :=
  if separable single ms order then
    ((List.range 4).zip order).filterMap fun p =>
      let s := axisSet ms p.2
      let n := s.length
      let i := indexIn s (axisOf c p.2)
      if n ≤ 1 then none
      else some (p.1, i, n, setAxis c p.2 (s.getD ((i + 1) % n) 0), setAxis c p.2 (s.getD ((i + n - 1) % n) 0))
  else
    let n := ms.length
    let i := ms.idxOf c
    if n ≤ 1 then [] else [(0, i, n, ms.getD ((i + 1) % n) c, ms.getD ((i + n - 1) % n) c)]

end Sys2Proof.Machine
end

