-- ==== Sys2Proof/Machine/Regs.lean ====
section
/-! DEFINITION. Machine/Regs.lean: what every register of the control space reads (R600 to R602, R609, R610) and the read
latches (R606). -/

namespace Sys2Proof.Machine

/-- A word from fields given as (lowest bit, value). -/
def word (fs : List (Nat × Nat)) : W32 := BitVec.ofNat 32 (fs.foldl (fun a f => a + 2 ^ f.1 * f.2) 0)

/-! ### Derived values -/

/-- The table state is one of LOADED to MISCABLED. -/
def tableShown (s : State) : Bool := 4 ≤ s.inst.state.toNat && s.inst.state.toNat ≤ 7

/-- The table in use: loaded and shown. -/
def table? (s : State) : Option Table := if tableShown s then s.inst.table else none

/-- This chip's coordinate in the table in use. -/
def selfOf (s : State) : Coord := match table? s with
  | some t => t.self
  | none => Coord.zero

/-- The chip is a member of a formed partition (PART_ID.VALID). -/
def formed (s : State) : Bool := s.own.valid

/-- A staged change is OPEN, CHECKING, CHECKED or COMMITTING (R609). -/
def stageLive (s : State) : Bool := s.own.stage.state != 0

/-- The partition box that concerns this chip: the formed one, else the one the table gives it. -/
def boxOf (s : State) : Option PartRec := match s.glb.part with
  | some v => some v.box
  | none => (table? s).bind fun t => partOf t t.self

/-- Some port in use in a box is marked row class (Table 2-1). -/
def rowBox (t : Table) (b : PartRec) : Bool :=
  !isKd1 t && t.trays.any fun r => trayInBox b r && r.inService && (List.range 16).any fun slot =>
    let c : Coord := ⟨r.w, 4 * r.xt + slot % 4, 4 * r.yt + slot / 4, r.z⟩
    (List.range 10).any fun p => bit r.reach (10 * slot + p) && portExists t p && inBox t b (neighbour t c p).1

/-- H of Table 2-1 in µs. -/
def headerWindow (s : State) : Nat := match table? s, boxOf s with
  | some t, some b => if rowBox t b then 2 else 1
  | _, _ => 1

/-- MIN_M1: the least P − 1 (Table 2-1). -/
def minM1 (s : State) : Nat := if headerWindow s = 2 then 7 else 3

/-- P in microslots. -/
def period (s : State) : Nat := s.beat.curM1.toNat + 1

/-- The largest ENC_LEN of a shelf at a period and header window (R95). -/
def encLimit (p h : Nat) : Nat := min 4194304 (480 * (731 * (p - h)) - 256)

/-- This chip's place on its W ring. -/
def ringPos (s : State) : Nat := match s.glb.part with
  | some v => indexIn v.planes (selfOf s).w
  | none => 0

/-- The number of chips of the ring; 1 outside a partition. -/
def ringN (s : State) : Nat := match s.glb.part with
  | some v => v.planes.length
  | none => 1

/-- Seconds left for a press (R452). -/
def forceRemain (s : State) : Nat := match s.own.force with
  | some (_, mf) => min 30 ((mf.toNat + 30000000 - s.beat.ms.toNat) / 1000000)
  | none => 0

/-- The lease remaining in ms (R449). -/
def leaseRemain (s : State) : Nat := match s.own.leaseX with
  | some x => min 5000 ((x.toNat - s.beat.ms.toNat) / 1000)
  | none => 0

/-- Seconds left in the seal window, of 1.8 × 10^9 core clocks each (R454). -/
def sealRemain (s : State) : Nat :=
  if s.own.sealing.windowOpen then min 600 ((s.own.sealing.closeAt.toNat - s.clock.toNat + 1799999999) / 1800000000) else 0

/-- Bits of a predicate over a range. -/
def bitsOf (n : Nat) (f : Nat → Bool) : Nat := (List.range n).foldl (fun a i => if f i then a + 2 ^ i else a) 0

/-- The port at an index. -/
def portAt (s : State) (n : Nat) : Port := s.ports.toList.getD n Port.reset

/-- The core at an index. -/
def coreAt (s : State) (n : Nat) : Core := s.cores.toList.getD n Core.reset

/-- The beat unit's record of a port. -/
def beatPort (s : State) (n : Nat) : BeatPort := s.beat.ports.toList.getD n BeatPort.reset

/-- A power domain is on (R512). -/
def domainOn (s : State) (d : Nat) : Bool := bit s.pwr.on d

/-- A unit of a core has an instruction queued or executing. -/
def unitBusy (c : Core) (u : Nat) : Bool :=
  let x := c.units.toList.getD u CUnit.empty
  !x.queue.isEmpty || !x.flight.isEmpty

/-- Transfers outstanding on all movers of a core. -/
def movOut (c : Core) : Nat := c.movers.toList.foldl (fun a l => a + l.length) 0

/-- The throttle level of a core's trestles (R519). -/
def throttle (s : State) (n : Nat) : Nat :=
  min (s.pwr.droop.toList.getD n Droop.reset).level.toNat s.pwr.ceil.toNat

/-- The error code kept for a path. -/
def ownErr (s : State) : Via → BitVec 4
  | .pf => s.own.errPf
  | .i3c => s.own.errI3c
  | .kbt _ _ => s.own.errKbt

/-! ### Latches -/

/-- Two paths share a latch: one for PF, one for I3C, one for each KBT session (R606). -/
def sameLatch : Via → Via → Bool
  | .pf, .pf => true
  | .i3c, .i3c => true
  | .kbt a _, .kbt b _ => a == b
  | _, _ => false

/-- The latches of a path. -/
def latchOf (s : State) (v : Via) : Latch :=
  match s.latches.find? fun l => sameLatch l.via v with
  | some l => l
  | none => ⟨v, none, none, [], none⟩

/-- The state with a path's latches replaced. -/
def setLatch (s : State) (l : Latch) : State :=
  { s with latches := l :: s.latches.filter fun k => !sameLatch k.via l.via }

/-! ### Blocks -/

/-- The 15 conditions of GLB_ERR_SUM.SUM (Table 16-10). -/
def errSum (s : State) : Nat :=
  let cond : List Bool :=
    [s.inst.nbrFail != 0,
     s.beat.ports.toList.any fun p => p.oos || p.hold,
     s.wrg.poison || s.wrg.homeUe || s.wrg.overrun,
     s.upk.dmg,
     s.arm.tag || s.arm.noKey,
     s.ports.toList.any fun p => p.state == 5,
     s.hut.resFlag,
     s.cores.toList.any fun c => c.cpb.ue,
     s.cores.toList.any fun c => c.stop == 4,
     s.pwr.fault,
     s.tel.bad != 0 || s.tel.lost,
     s.own.stage.remoteFail || s.own.stage.late,
     s.hst.ethErr != 0,
     s.hst.pfQueue.dropped != 0,
     s.cores.toList.any fun c => c.trsDis != 0]
  bitsOf 15 fun i => cond.getD i false

/-- The planes of a box with those retired for trays out of service or fenced (R29). -/
def planesNow (s : State) (t : Table) (b : PartRec) : List Nat := activePlanes t b s.glb.fenced

/-- Every partition port of this chip is UP (R555). -/
def partPortsUp (s : State) (t : Table) (b : PartRec) : Bool :=
  let v : PartView := ⟨b, planesNow s t b, []⟩
  (List.range 10).all fun p => (linkFar t v t.self p).isNone || (portAt s p).state == 3

/-- WAIT of a STARTING chip: the first condition of R555 that fails; 0 when all hold. -/
def waitCode (s : State) : BitVec 4 :=
  match table? s with
  | none => 1
  | some t =>
    if s.inst.state != 6 then 1
    else match t.trays[t.tray]? with
      | none => 1
      | some r =>
        if r.partition = 0xFFFF then 2
        else if !r.inService then 3
        else if !((partOf t t.self).any fun b => partPortsUp s t b) then 4
        else if s.beat.state != 2 then 5
        else if s.cores.toList.any (fun c => c.trsDis != 0) && !s.glb.degradedOk then 6
        else 0

/-- The chip is FENCED or FAULTED: no core, port or beat unit runs (R551, R566). -/
def stopped (s : State) : Bool := 8 ≤ s.glb.state.toNat

def glbState (s : State) : W32 :=
  let reform := if stageLive s then s.own.stage.staged.reform.getD 0 else 0
  word [(28, s.glb.state.toNat), (24, s.glb.err.toNat), (20, (if s.glb.state == 4 then waitCode s else s.glb.wait).toNat), (14, s.glb.dark.toNat), (8, reform.toNat),
    (7, boolNat s.glb.degradedOk), (6, boolNat s.glb.join)]

/-- GLB_CAPS.TRS_EN: trestles of tested cores that are not disabled (Table 16-8). -/
def trsEnabled (s : State) : Nat := s.cores.toList.foldl (fun a c =>
  if c.selfTested then a + ((List.range 4).filter fun t => !bit c.trsDis t).length else a) 0

/-- GLB_CAPS.CORE_FULL: tested cores with four trestles enabled. -/
def coreFull (s : State) : Nat := bitsOf 16 fun n => (coreAt s n).selfTested && (coreAt s n).trsDis == 0

def glbRead (s : State) (o : Nat) : W32 :=
  match o with
  | 0x00 => 0x5E704200
  | 0x04 => word [(24, trsEnabled s), (23, boolNat s.glb.fwSlot), (22, boolNat s.glb.fwAlt), (0, coreFull s)]
  | 0x08 => glbState s
  | 0x10 => word [(31, boolNat s.glb.fuseDone), (30, boolNat s.glb.fuseFail), (8, s.glb.fuses.rows.toNat),
      (0, s.glb.fuses.cols.toNat)]
  | 0x14 => word [(28, s.glb.cause.toNat), (0, errSum s)]
  | 0x18 => if s.glb.fuseDone then s.glb.fuses.serial.setWidth 32 else 0
  | 0x1C => if s.glb.fuseDone then s.glb.fuses.serial.extractLsb' 32 32 else 0
  | _ => 0

/-- BEAT_PERIOD.NEXT_M1 as it reads (R609). -/
def nextM1 (s : State) : Byte :=
  if stageLive s then s.own.stage.staged.nextM1.getD s.beat.nextM1 else s.beat.nextM1

/-- BEAT_STATUS.ROLE (Table 2-12). -/
def roleOf (s : State) : Nat := match table? s with
  | none => 0
  | some t =>
    if t.self = t.root then (if s.beat.acting then 1 else 0)
    else if t.self = t.standby then (if s.beat.acting then 3 else 2)
    else 0

def beatStatus (s : State) : W32 :=
  word [(28, s.beat.state.toNat), (26, roleOf s), (16, bitsOf 10 fun n => (beatPort s n).oos),
    (6, bitsOf 10 fun n => (beatPort s n).hold), (0, if tableShown s then s.beat.rootDist.toNat else 0x3F)]

def beatRead (s : State) (v : Via) (o : Nat) : W32 :=
  match o with
  | 0x00 => word [(28, s.beat.err.toNat), (8, s.beat.gen.toNat), (6, s.beat.gain.toNat), (5, boolNat s.beat.evtEdge),
      (0, boolNat s.beat.enable)]
  | 0x04 => word [(24, headerWindow s), (16, minM1 s), (8, (nextM1 s).toNat), (0, s.beat.curM1.toNat)]
  | 0x08 => s.beat.count.setWidth 32
  | 0x0C => (latchOf s v).beatHi.getD (s.beat.count.extractLsb' 32 32)
  | 0x10 => word [(16, s.beat.phasePeak.toNat), (0, s.beat.phaseErr.toNat)]
  | 0x14 => word [(16, 0x190), (0, s.beat.guard.toNat)]
  | 0x18 => s.beat.edgeCnt
  | 0x1C => beatStatus s
  | _ => 0

def partIdWord (s : State) : W32 :=
  word [(31, boolNat s.own.valid), (16, s.own.partId.toNat),
    (0, bitsOf 16 fun i => (s.own.ctxs.toList.getD i ⟨false, 0⟩).isPresent)]

def ownRead (s : State) (v : Via) (o : Nat) : W32 :=
  match o with
  | 0x00 => word [(28, s.own.state.toNat), (24, (ownErr s v).toNat), (0, s.own.owner.toNat)]
  | 0x04 => word [(19, leaseRemain s), (0, s.own.svcLat.toNat)]
  | 0x0C => partIdWord s
  | 0x10 => s.own.epoch
  | 0x20 =>
    let g := s.own.stage
    word [(28, g.err.toNat), (16, (if stageLive s then g.staged.imgMb.getD g.imgMb else g.imgMb).toNat),
      (4, boolNat (if stageLive s then g.staged.bump.getD g.bump else g.bump))]
  | 0x24 =>
    let g := s.own.stage
    word [(28, g.state.toNat), (24, g.cause.toNat), (23, boolNat g.remoteFail), (22, boolNat g.late),
      (21, boolNat g.aborted), (0, g.change.toNat % 65536)]
  | 0x28 => s.own.stage.b.setWidth 32
  | 0x2C => (latchOf s v).commitHi.getD (s.own.stage.b.extractLsb' 32 32)
  | 0x30 =>
    let p := s.own.sealing
    word [(31, boolNat p.windowOpen), (30, boolNat p.plug), (29, boolNat p.button), (28, boolNat p.absent),
      (18, sealRemain s), (10, p.openings.toNat), (5, forceRemain s), (0, p.presses.toNat)]
  | _ => 0

def instCtl (s : State) : W32 :=
  word [(28, s.inst.state.toNat), (24, s.inst.err.toNat), (14, s.inst.nbrFail.toNat), (4, s.inst.nbrOk.toNat),
    (3, boolNat s.inst.bypSeen)]

/-- INST_COORD (Table 1-10). -/
def instCoord (s : State) : W32 := match table? s with
  | none => 0
  | some t => word [(31, 1), (20, t.tray), (16, t.slot), (0, packCoord t.self)]

def instRead (s : State) (o : Nat) : W32 :=
  if o = 0 then instCtl s
  else match table? s with
    | none => 0
    | some t =>
      match o with
      | 0x04 => instCoord s
      | 0x08 => word [(24, 1), (16, t.lw - 1), (12, t.lx - 1), (8, t.ly - 1), (4, t.lz - 1)]
      | 0x0C => word [(12, t.tx), (6, t.ty), (0, t.tz)]
      | _ => if 0x20 ≤ o && o ≤ 0x3C then t.hash.extractLsb' (32 * (7 - (o - 0x20) / 4)) 32 else 0

def hutRead (s : State) (o : Nat) : W32 :=
  let h := s.hut
  match o with
  | 0x00 => word [(28, h.cerr.toNat), (20, h.aborts.toNat), (19, boolNat h.evtAbort), (18, boolNat h.resRetry),
      (6, boolNat h.evtRes), (3, h.localWt.toNat)]
  | 0x04 => word [(22, h.blocked.toNat), (8, h.misroute.toNat), (0, h.discEvt.toNat)]
  | 0x08 =>
    let a := if stageLive s then s.own.stage.staged.grpAddr.getD h.addr else h.addr
    let cnt := if h.loaded then (h.groups.filter fun g => g.epoch == s.own.epoch.setWidth 16).length else 0
    word [(31, boolNat h.loaded), (12, a.toNat), (0, cnt)]
  | 0x0C => word [(24, h.resCount.toNat), (22, h.resEngine.toNat), (20, h.resOpk.toNat), (10, h.resGroup.toNat),
      (0, boolNat h.resFlag)]
  | 0x10 =>
    let c := if stageLive s then s.own.stage.staged.scale.getD h.scale else h.scale
    word [(24, h.ovfCnt.toNat), (8, boolNat h.evtOvf), (0, c.toNat)]
  | _ => 0

/-- The signed order of two receive powers in 0.1 dBm. -/
def minPower (p : Port) : Nat × Nat :=
  let lit := ((List.range 8).zip p.rxPower.toList).filter fun q => q.2 != 0x80
  lit.foldl (fun a q => if a.1 = 0x80 || q.2.toInt < (BitVec.ofNat 8 a.1).toInt then (q.2.toNat, q.1) else a) (0x80, 0)

def afvRead (s : State) (n o : Nat) : W32 :=
  let p := portAt s n
  match o with
  | 0x00 => word [(28, p.err.toNat), (17, boolNat p.evtRetx), (8, p.warnPwr.toNat), (0, boolNat p.enable)]
  | 0x04 =>
    let reach := match table? s with
      | some t => rowClass t n
      | none => false
    word [(28, p.state.toNat), (27, boolNat reach), (26, boolNat (p.inService || p.mode == 2)),
      (25, boolNat p.peerReset), (16, p.wlLock.toNat), (8, p.wlWarn.toNat)]
  | 0x08 => word [(28, p.cause.toNat), (24, p.attempts.toNat), (20, p.step.toNat), (0, p.delay.toNat)]
  | 0x0C => word [(8, p.framesErr.toNat), (0, p.ctrlErr.toNat)]
  | 0x10 => word [(16, p.retx.toNat), (10, p.lost.toNat), (4, p.recov.toNat), (0, p.downs.toNat)]
  | 0x14 =>
    let m := minPower p
    word [(24, m.1), (21, m.2), (16, p.sel.toNat), (8, (p.rxPower.toList.getD p.sel.toNat 0x80).toNat),
      (0, (p.txPower.toList.getD p.sel.toNat 0x80).toNat)]
  | 0x18 => word [(16, p.prbsErr.toNat), (7, boolNat p.prbsLock), (0, if p.inService then 1 else p.mode.toNat)]
  | 0x1C => p.edge
  | _ => 0

def wrgStat (s : State) : W32 :=
  let w := s.wrg
  word [(28, w.state.toNat), (24, w.cause.toNat), (23, boolNat w.poison), (22, boolNat w.homeUe),
    (21, boolNat w.overrun), (20, boolNat w.swap), (8, w.group.toNat), (0, w.poisonCnt.toNat)]

def wrgRead (s : State) (o : Nat) : W32 :=
  let w := s.wrg
  match o with
  | 0x00 => word [(28, w.err.toNat), (19, w.dirMb.toNat), (3, boolNat w.west), (2, boolNat w.east),
      (0, boolNat w.enable)]
  | 0x04 => word [(24, ringN s - 1), (11, encLimit (period s) (headerWindow s) / 4096)]
  | 0x08 => if w.posValid then
      word [(31, 1), (16, ringPos s), (10, w.j.toNat), (6, w.step.toNat), (0, boolNat w.leadin)] else 0
  | 0x0C => word [(16, w.pass.toNat), (0, w.lap.toNat)]
  | 0x10 =>
    let n := if stageLive s then s.own.stage.staged.version.getD w.verNext else w.verNext
    word [(16, n.toNat), (0, w.verCur.toNat)]
  | 0x14 => word [(16, w.abandoned.toNat), (0, w.late.toNat)]
  | 0x18 => wrgStat s
  | _ => 0

/-- Some lane decodes for a stream. -/
def laneBusy (s : State) (d : Stream) : Bool := s.upk.lanes.toList.any fun l => match l with
  | some x => x.stream == d
  | none => false

def upkRead (s : State) (o : Nat) : W32 :=
  let u := s.upk
  match o with
  | 0x00 => word [(28, u.err.toNat), (8, u.eastLanes.toNat), (2, boolNat u.evtSpill)]
  | 0x04 => word [(24, (u.queues.toList.getD 3 ⟨[], [], 0⟩).peak.toNat), (16, (u.queues.toList.getD 2 ⟨[], [], 0⟩).peak.toNat),
      (8, (u.queues.toList.getD 1 ⟨[], [], 0⟩).peak.toNat), (0, (u.queues.toList.getD 0 ⟨[], [], 0⟩).peak.toNat)]
  | 0x08 => word [(28, u.errCause.toNat), (27, boolNat u.errStream), (16, u.dmgCnt.toNat), (0, u.errGroup.toNat)]
  | 0x0C => word [(24, u.spillCnt.toNat), (8, u.decPeak.toNat), (3, boolNat (laneBusy s .west)),
      (2, boolNat (laneBusy s .east)), (1, boolNat u.dmg), (0, boolNat u.spill)]
  | _ => 0

def armRead (s : State) (o : Nat) : W32 :=
  let a := s.arm
  match o with
  | 0x00 => word [(18, a.sel.toNat), (0, (a.slots.toList.getD a.sel.toNat ⟨none, 0⟩).bind.toNat)]
  | 0x04 => BitVec.ofNat 32 (bitsOf 32 fun i => (a.slots.toList.getD i ⟨none, 0⟩).key.isSome)
  | 0x08 => word [(24, a.tagCnt.toNat), (16, a.noKeyCnt.toNat), (15, boolNat a.tag), (14, boolNat a.noKey),
      (0, a.lastSlot.toNat)]
  | _ => 0

def pwrRead (s : State) (o : Nat) : W32 :=
  let p := s.pwr
  match o with
  | 0x00 => p.req
  | 0x04 => word [(28, p.err.toNat), (22, p.errDom.toNat), (1, 7), (0, boolNat p.telReq)]
  | 0x08 => p.on.setWidth 32
  | 0x0C => word [(26, p.faultDom.toNat), (25, boolNat p.fault), (24, boolNat p.busy.isSome),
      (18, (p.busy.map Prod.fst).getD 0), (0, bits p.on 32 4)]
  | 0x10 => word [(28, p.rampErr.toNat), (24, p.rho.toNat), (23, boolNat p.loopEn), (20, p.lMin.toNat),
      (16, p.release.toNat), (8, p.tripHi.toNat), (0, p.tripLo.toNat)]
  | 0x14 => word [(28, p.capErr.toNat), (18, p.cap.toNat), (17, boolNat p.evtCap), (13, p.ceil.toNat),
      (0, p.power.toNat)]
  | _ => 0

def telRead (s : State) (v : Via) (o : Nat) : W32 :=
  let t := s.tel
  match o with
  | 0x00 => word [(28, t.err.toNat), (26, t.mode.toNat), (25, boolNat t.lp), (20, t.qdiv.toNat), (0, t.sel.toNat)]
  | 0x04 => word [(19, t.accMb.toNat), (15, t.ncyc.toNat), (14, boolNat t.en)]
  | 0x08 => match (latchOf s v).telHi with
    | some w => w
    | none => match t.queue with
      | e :: _ => e.word0
      | [] => 0x80000000
  | 0x0C => word [(22, t.queue.length), (21, boolNat (latchOf s v).telHi.isSome), (20, boolNat t.ovf),
      (4, t.dropped.toNat)]
  | 0x10 => BitVec.ofNat 32 (((List.range 4).zip t.ranges.toList).foldl (fun a q =>
      a + 256 ^ q.1 * (128 * boolNat q.2.auto + 32 * q.2.fixed.toNat + 8 * q.2.cur.toNat)) 0)
  | 0x14 => word [(31, boolNat t.conv), (30, boolNat t.frozen), (16, t.bad.toNat)]
  | 0x18 => word [(31, boolNat t.locked), (30, boolNat t.lost), (0, t.period.toNat)]
  | _ => 0

/-- The four registers of an event queue (Table 14-17). -/
def queueRead (q : EvtQueue) (o : Nat) : W32 :=
  match o with
  | 0x00 => q.base
  | 0x04 => word [(31, boolNat q.enable), (16, q.dropped.toNat), (0, q.head.toNat)]
  | 0x08 => word [(28, q.size.toNat), (0, q.tail.toNat)]
  | 0x0C => word [(0, q.mask.toNat)]
  | _ => 0

/-- The intake that VSEL names. -/
def intakeAt (s : State) (t : Nat) : Intake := s.hst.intakes.toList.getD t Intake.reset

def hstRead (s : State) (o : Nat) : W32 :=
  let h := s.hst
  match o with
  | 0x00 => word [(31, boolNat h.i3c.valid), (24, h.i3c.da.toNat), (16, 0x0E), (7, boolNat h.i3c.hjPend),
      (6, boolNat h.i3c.ibiEn), (0, h.i3c.errs.toNat)]
  | 0x04 => word [(28, h.ethErr.toNat), (12, boolNat h.ptpEn), (11, boolNat h.kbtEn), (0, boolNat h.ethEnable)]
  | 0x08 => word [(31, boolNat h.link), (30, boolNat h.fecLock), (29, boolNat h.net.isSome), (16, h.fecUe.toNat),
      (8, h.kbtDrop.toNat), (0, h.rxDrop.toNat)]
  | 0x0C =>
    let i := intakeAt s h.vsel.toNat
    word [(23, i.baseMb.toNat), (15, i.depth.toNat), (7, i.hwm.toNat), (5, i.slot.toNat), (4, boolNat i.hold),
      (0, boolNat i.enable)]
  | 0x10 =>
    let i := intakeAt s h.vsel.toNat
    word [(28, h.vsel.toNat), (24, h.intakeErr.toNat), (16, (i.w - i.consumed).toNat % 256), (0, i.refused.toNat)]
  | 0x14 => word [(29, h.ptpState.toNat), (28, boolNat h.ptpLocked), (0, h.ptpOffset.toNat)]
  | _ => 0

/-- The CP is in a wait instruction, and the counter of a WAITC. -/
def cpWaiting (c : Core) : Option Nat := match c.wait with
  | .waitc ctr _ _ => some ctr.toNat
  | .waitb _ _ _ => some 0
  | _ => none

def corStat (c : Core) : W32 :=
  word [(28, c.state.toNat), (24, c.stop.toNat), (23, boolNat (cpWaiting c).isSome), (22, boolNat (movOut c != 0)),
    (21, boolNat (unitBusy c 5)), (20, boolNat (unitBusy c 4)), (16, bitsOf 4 fun t => unitBusy c t),
    (8, movOut c), (0, (cpWaiting c).getD 0)]

/-- A trestle's array holds work: a load front, a streamed bit or a column sum of an instruction (R257). -/
def arrayWorks (y : CUnit) : Bool := (y.flight ++ y.queue.take 1).any fun x => x.array && decide (0 < x.loads + x.streams)

/-- Results are in flight in a trestle's array or in its drain. -/
def resultsIn (y : CUnit) : Bool :=
  (y.flight ++ y.queue.take 1).any fun x => (x.array && decide (0 < x.streams)) || (x.fill && !x.out.isEmpty)

/-- The eighths at which an array advances: the lower of its ramp's step and the throttle level (R257, R258, R269). -/
def arrayPace (s : State) (n : Nat) (x : TrsArray) : Nat := min (x.ramp.elim 8 (·.1)) (throttle s n)

def trsStat (s : State) (n : Nat) (c : Core) : W32 :=
  if !c.selfTested then 0
  else
    let arr (t : Nat) : TrsArray := c.arrays.toList.getD t TrsArray.empty
    let unit (t : Nat) : CUnit := c.units.toList.getD t CUnit.empty
    word [(28, c.trsDis.toNat), (24, c.trsFail.toNat), (20, bitsOf 4 fun t => (arr t).bench),
      (16, bitsOf 4 fun t => (arr t).loaded && (arr t).keepable),
      (12, bitsOf 4 fun t => arrayWorks (unit t) && decide (arrayPace s n (arr t) < 8)), (8, bitsOf 4 fun t => resultsIn (unit t)),
      (4, c.trsGen.toNat)]

def cpbMode (c : Core) : W32 :=
  word [(24, c.cpb.ceCnt.toNat), (23, boolNat c.cpb.ue), (20, c.cpb.err.toNat), (16, boolNat c.cpb.scrub),
    (1, boolNat c.cpb.fill), (0, boolNat c.cpb.mode)]

/-- The value of an arrival counter's register (Table 9-4). -/
def counterWord (c : Core) (i : Nat) : W32 :=
  let k := c.counters.toList.getD i ⟨0, true, false⟩
  if k.valid then k.value else 0

/-- The high word of a stall counter as a path reads it. -/
def stallHi (s : State) (v : Via) (n i : Nat) (c : Core) : W32 :=
  match (latchOf s v).stallHi.find? fun e => e.1 == n && e.2.1 == i with
  | some e => e.2.2
  | none => (c.stall.toList.getD i 0).extractLsb' 32 32

def corRead (s : State) (v : Via) (n o : Nat) : W32 :=
  let c := coreAt s n
  let quad := domainOn s (16 + n / 4)
  let on := domainOn s n
  if o = 0x018 then (if quad then cpbMode c else 0x10000)
  else if o = 0x014 then
    (if !on then word [(28, c.fdisReq.toNat)]
     else if c.selfTested then word [(28, c.fdisReq.toNat), (24, c.soft.toNat), (0, c.repair.toNat)]
     else word [(28, c.fdisReq.toNat)])
  else if !on then 0
  else if 0x400 ≤ o && o < 0x800 then (if quad then counterWord c ((o - 0x400) / 4) else 0)
  else if 0x100 ≤ o && o < 0x150 then
    (if o / 4 % 2 = 0 then (c.stall.toList.getD ((o - 0x100) / 8) 0).setWidth 32 else stallHi s v n ((o - 0x100) / 8) c)
  else match o with
    | 0x000 => word [(28, c.err.toNat), (24, c.ctx.toNat), (20, c.waitLimit.toNat), (17, c.stallSel.toNat),
        (16, boolNat c.freeze)]
    | 0x004 => corStat c
    | 0x008 => c.pc
    | 0x010 => trsStat s n c
    | _ => 0

/-- The power domain that holds an offset's register, where it can go off (Table 18-1). -/
def regDomain (off : Nat) : Option Nat :=
  if 0x40000 ≤ off && off < 0x50000 then some 30
  else if 0x50000 ≤ off && off < 0x5A000 then some (20 + (off - 0x50000) / 0x1000)
  else if 0x70000 ≤ off && off < 0x90000 then some 31
  else if 0xA0000 ≤ off && off < 0xB0000 then some 32
  else none

/-- Reset values of the registers of a domain that is off (R610); registers not listed read 0. -/
def resetWord (off : Nat) : W32 :=
  if 0x50000 ≤ off && off < 0x5A000 then
    match off % 0x1000 with
    | 0x000 => 0x0000BA00
    | 0x014 => 0x80008080
    | _ => 0
  else match off with
    | 0x40000 => 0x000C0040
    | 0x70000 => 0x00004000
    | 0xA0000 => 0x04000000
    | 0xA0004 => 0x0FF84000
    | 0xA0008 => 0x80000000
    | 0xA0010 => 0xD0D0D0D0
    | _ => 0

/-- What a register reads through a path (R600 to R610); a reserved offset reads 0. No side effect. -/
def regValue (s : State) (v : Via) (off : Nat) : W32 :=
  let dark := match regDomain off with
    | some d => !domainOn s d
    | none => false
  if dark then resetWord off
  else if off < 0x10000 then glbRead s off
  else if off < 0x20000 then beatRead s v (off - 0x10000)
  else if off < 0x30000 then ownRead s v (off - 0x20000)
  else if off < 0x40000 then instRead s (off - 0x30000)
  else if off < 0x50000 then hutRead s (off - 0x40000)
  else if off < 0x5A000 then afvRead s ((off - 0x50000) / 0x1000) (off % 0x1000)
  else if off < 0x60000 then 0
  else if off < 0x70000 then wrgRead s (off - 0x60000)
  else if off < 0x80000 then upkRead s (off - 0x70000)
  else if off < 0x90000 then armRead s (off - 0x80000)
  else if off < 0xA0000 then pwrRead s (off - 0x90000)
  else if off < 0xB0000 then telRead s v (off - 0xA0000)
  else if off < 0xC0000 then hstRead s (off - 0xB0000)
  else if off < 0xD0000 then queueRead s.hst.pfQueue (off - 0xC0000)
  else if off < 0x100000 then 0
  else if off < 0x200000 then corRead s v ((off - 0x100000) / 0x10000) (off % 0x10000)
  else 0

end Sys2Proof.Machine
end

