-- ==== Sys2Proof/Machine/Events.lean ====
section
/-! DEFINITION. Machine/Events.lean: posting an event (R480 to R483, R504, R654) and the authority of a register write
(R442, R443, R603, R610). -/

namespace Sys2Proof.Machine

/-! ### Event queues -/

/-- Records of a queue (R480). -/
def queueLen (q : EvtQueue) : Nat := 256 * 2 ^ (min q.size.toNat 7)

/-- The queue has no free record: one place stays empty, so that HEAD = TAIL means none waits. -/
def queueFull (q : EvtQueue) : Bool := (q.tail.toNat + 1) % queueLen q == q.head.toNat

/-- The event queue of a function: 0 the PF's, k + 1 that of VF k. -/
def getQueue (s : State) (fn : Nat) : EvtQueue :=
  if fn = 0 then s.hst.pfQueue else (s.hst.vfs.toList.getD (fn - 1) Vf.reset).queue

/-- The state with a function's event queue replaced. -/
def setQueue (s : State) (fn : Nat) (q : EvtQueue) : State :=
  if fn = 0 then { s with hst := { s.hst with pfQueue := q } }
  else { s with hst := { s.hst with vfs := vmod s.hst.vfs (fn - 1) fun v => { v with queue := q } } }

/-- A record written at TAIL, with MSI-X vector 0 unless one is out since the host last wrote HEAD (R480). -/
def writeRecord (s : State) (fn : Nat) (r : EvtRec) : State :=
  let q := getQueue s fn
  let s := s.emit (.event fn q.tail.toNat r)
  let s := if q.signalled then s else s.emit (.msix fn 0)
  setQueue s fn { q with tail := BitVec.ofNat 16 ((q.tail.toNat + 1) % queueLen q), signalled := true }

/-- An in-band interrupt for a record dropped from the PF queue, at most one per 1 ms (R483). -/
def raiseIbi (s : State) : State :=
  let due : Bool := match s.hst.lastIbi with
    | none => true
    | some (ms, ck) => ms.toNat + 1000 ≤ s.beat.ms.toNat || ck.toNat + 1800000 ≤ s.clock.toNat
  if due && s.hst.i3c.ibiEn && s.hst.i3c.valid then
    { s.emit .ibi with hst := { s.hst with lastIbi := some (s.beat.ms, s.clock) } }
  else s

/-- The common part of a record: the class, kind, context and times at posting (R481). -/
def mkRecord (s : State) (cls kind : Nat) (ctx : Option Ctx) (b : EvtBody) : EvtRec :=
  { cls := cls, kind := kind, timeValid := s.hst.ptpLocked, ctx := ctx,
    beat := if formed s then s.beat.count.setWidth 32 else 0,
    time := if s.hst.ptpLocked then Config.ptpTime s.draw else 0, body := b }

/-- The LOST record of a queue (R483): the register that reports the drops, and the drops since the last such record. -/
def lostRecord (s : State) (fn : Nat) (q : EvtQueue) : EvtRec :=
  mkRecord s 15 0 none
    (if fn = 0 then .reg 0x100C0004 (queueRead q 4) (BitVec.ofNat 64 q.lost)
     else .reg 0xFFFFFFFF 0 (BitVec.ofNat 64 q.lost))

/-- A LOST record if drops are to be reported and a record is free (R483). -/
def reportLost (s : State) (fn : Nat) : State :=
  let q := getQueue s fn
  if q.enable && q.lost != 0 && !queueFull q then
    let s' := writeRecord s fn (lostRecord s fn q)
    setQueue s' fn { getQueue s' fn with lost := 0 }
  else s

/-- A record offered to a queue: masked, dropped and counted, or written after any LOST record (R482, R483). -/
def offer (s : State) (fn : Nat) (r : EvtRec) : State :=
  if bit (getQueue s fn).mask r.cls then s
  else
    let s := reportLost s fn
    let q := getQueue s fn
    if q.enable && !queueFull q then writeRecord s fn r
    else
      let s := setQueue s fn { q with dropped := satInc q.dropped, lost := q.lost + 1 }
      if fn = 0 then raiseIbi s else s

/-- An event posted: the PF queue receives it, and the VF of its context if the class is 0 or 8 (R482). -/
def post (s : State) (cls kind : Nat) (ctx : Option Ctx) (b : EvtBody) : State :=
  let r := mkRecord s cls kind ctx b
  let s := s.drawn 1
  let s := offer s 0 r
  match ctx with
  | some t => if cls = 0 || cls = 8 then offer s (t.val + 1) r else s
  | none => s

/-- REG of an event: the register's offset and the bit that reports the condition (R481). -/
def regRef (off bitNo : Nat) : W32 := BitVec.ofNat 32 (2 ^ 24 * bitNo + off)

/-- An event of a class other than 0 whose condition a register reports (R481, R654). -/
def postReg (s : State) (cls : Nat) (ctx : Option Ctx) (off bitNo : Nat) (detail : W64) : State :=
  post s cls 0 ctx (.reg (regRef off bitNo) (regValue s .pf off) detail)

/-- An event that no register reports (R654). -/
def postNone (s : State) (cls : Nat) (ctx : Option Ctx) (detail : W64) : State :=
  post s cls 0 ctx (.reg 0xFFFFFFFF 0 detail)

/-- DETAIL of two values: bits 31:0 and bits 63:32. -/
def detail2 (lo hi : Nat) : W64 := BitVec.ofNat 64 (lo % 2 ^ 32 + 2 ^ 32 * (hi % 2 ^ 32))

/-! ### Authority -/

/-- The agent that a path acts for (R442). An identity outside 1 to 0xFF_FFFE, for which the manual states no result, acts like any other
(assumption log 83, DESIGN CHOICE). -/
def agentOf (s : State) : Via → Option Agent
  | .pf => s.own.boundPf
  | .i3c => s.own.boundI3c
  | .kbt _ a => some a

/-- The kind of a path. -/
def pathOf : Via → PathKind
  | .pf => .pf
  | .i3c => .i3c
  | .kbt _ _ => .kbt

/-- The path's OWN_STATE.ERR set to a code of Table 13-22. -/
def setOwnErrOf (s : State) (p : PathKind) (e : BitVec 4) : State :=
  match p with
  | .pf => { s with own := { s.own with errPf := e } }
  | .i3c => { s with own := { s.own with errI3c := e } }
  | .kbt => { s with own := { s.own with errKbt := e } }

/-- The path's OWN_STATE.ERR set to a code of Table 13-22. -/
def setOwnErr (s : State) (v : Via) (e : BitVec 4) : State := setOwnErrOf s (pathOf v) e

/-- A management write is accepted (Table 13-2). -/
def mayWrite (s : State) (v : Via) : Bool :=
  !s.own.valid || ((s.own.state == 3 || s.own.state == 4) && agentOf s v == some s.own.owner)

/-- The domain that holds a register is on (R610); COR_CPB_MODE, COR_TRS_FUSE and the arrival counters lie partly in the
quadrant (Table 18-1, R514). -/
def regReachable (s : State) (off : Nat) : Bool :=
  match regDomain off with
  | some d => domainOn s d
  | none =>
    if 0x100000 ≤ off && off < 0x200000 then
      let n := (off - 0x100000) / 0x10000
      let o := off % 0x10000
      if o = 0x018 || o = 0x014 then domainOn s (16 + n / 4)
      else if 0x400 ≤ o && o < 0x800 then domainOn s n && domainOn s (16 + n / 4)
      else domainOn s n
    else true

/-- A register write under R443, R603 and R610: refused with READONLY on its path, ignored while the domain is off, or
acting as `f` says. -/
def guarded (s : State) (v : Via) (off : Nat) (f : State → State) : State :=
  if mayWrite s v then (if regReachable s off then f s else s) else setOwnErr s v 1

/-- A write that writes a staged field while the change is CHECKING, CHECKED or COMMITTING also sets STAGE_CTL.ERR = LOCKED
(R460). -/
def lockedErr (s : State) : State :=
  if 2 ≤ s.own.stage.state.toNat then { s with own := { s.own with stage := { s.own.stage with err := 4 } } } else s

end Sys2Proof.Machine
end

