-- ==== Sys2Proof/Machine/Reads.lean ====
section
/-! DEFINITION. Machine/Reads.lean: a register read with its side effects (R601, R606, R610). -/

namespace Sys2Proof.Machine

/-- A core changed. -/
def modCore (s : State) (n : Nat) (f : Core → Core) : State := { s with cores := vmod s.cores n f }

/-- An arrival counter of a core. -/
def counterAt (s : State) (core ctr : Nat) : Counter := (coreAt s core).counters.toList.getD ctr ⟨0, true, false⟩

/-- A parity error of the counter file: the counter becomes invalid, with an event naming core and counter (R317). -/
def counterParity (s : State) (n ctr : Nat) : State :=
  postNone (modCore s n fun c => { c with counters := vmod c.counters ctr fun _ => ⟨0, false, false⟩ }) 4 none (detail2 n ctr)

/-- An access to a counter finds its parity error (R317). -/
def touchCounter (s : State) (n ctr : Nat) : State := if (counterAt s n ctr).upset then counterParity s n ctr else s

/-- A register lies in a domain that is off (R610). -/
def regDark (s : State) (off : Nat) : Bool :=
  if 0x100000 ≤ off && off < 0x200000 then !domainOn s ((off - 0x100000) / 0x10000)
  else match regDomain off with
    | some d => !domainOn s d
    | none => false

/-- The core and counter of a stall counter's offset, and whether it is the high word. -/
def stallAt (off : Nat) : Option (Nat × Nat × Bool) :=
  let o := off % 0x10000
  if 0x100000 ≤ off && off < 0x200000 && 0x100 ≤ o && o < 0x150 && o % 4 == 0 then
    some ((off - 0x100000) / 0x10000, (o - 0x100) / 8, o % 8 == 4)
  else none

/-- The core and counter of an arrival counter's offset (R318). -/
def counterOff (off : Nat) : Option (Nat × Nat) :=
  let o := off % 0x10000
  if 0x100000 ≤ off && off < 0x200000 && 0x400 ≤ o && o < 0x800 && o % 4 == 0 then
    some ((off - 0x100000) / 0x10000, (o - 0x400) / 4)
  else none

/-- The side effect of a read on the latches of its path: a low word latches its high word, the next read of the high word
uses the latch up (R78, R153, R468, R606). -/
def readEffect (s : State) (v : Via) (off : Nat) : State :=
  let l := latchOf s v
  if off = 0x10008 then setLatch s { l with beatHi := some (s.beat.count.extractLsb' 32 32) }
  else if off = 0x1000C then setLatch s { l with beatHi := none }
  else if off = 0x20028 then setLatch s { l with commitHi := some (s.own.stage.b.extractLsb' 32 32) }
  else if off = 0x2002C then setLatch s { l with commitHi := none }
  else match stallAt off with
    | some (n, i, hi) =>
      let rest := l.stallHi.filter fun e => !(e.1 == n && e.2.1 == i)
      if hi then setLatch s { l with stallHi := rest }
      else setLatch s { l with stallHi := (n, i, ((coreAt s n).stall.toList.getD i 0).extractLsb' 32 32) :: rest }
    | none => s

/-- A read of TEL_Q_HEAD: word 1 where it is latched for the path, else an entry is removed, its word 0 returned and its
word 1 latched; 0x8000_0000 with no entry (R532). -/
def telHeadRead (s : State) (v : Via) : State × W32 :=
  let l := latchOf s v
  match l.telHi with
  | some w => (setLatch s { l with telHi := none }, w)
  | none => match s.tel.queue with
    | e :: r => (setLatch { s with tel := { s.tel with queue := r } } { l with telHi := some e.word1 }, e.word0)
    | [] => (s, 0x80000000)

/-- A register read: the value returned and the state after it. A register whose domain is off has no side effect. -/
def readReg (s : State) (v : Via) (off : Nat) : State × W32 :=
  if regDark s off then (s, regValue s v off)
  else if off = 0xA0008 then telHeadRead s v
  else
    let s := match counterOff off with
      | some (n, k) => touchCounter s n k
      | none => s
    (readEffect s v off, regValue s v off)

/-- A register read whose value goes back on its path. -/
def readOut (s : State) (v : Via) (off : Nat) : State :=
  let r := readReg s v off
  r.1.emit (.readData v off r.2)

end Sys2Proof.Machine
end

