-- ==== Sys2Proof/Machine/Fabric.lean ====
section
/-! DEFINITION. Machine/Fabric.lean: the partition manifest (R464), and how a frame enters the Hutch and moves through it
(R376, R387 to R395). -/

namespace Sys2Proof.Machine

/-! ### The manifest -/

/-- EXISTS bits of the contexts. -/
def existsBits (s : State) : Nat := bitsOf 16 fun i => (s.own.ctxs.toList.getD i ⟨false, 0⟩).isPresent

/-- The 64-byte manifest record (Table 13-10). -/
def manifestRecord (s : State) : List Byte :=
  leBytes 2 s.own.partId.toNat ++ leBytes 1 s.beat.curM1.toNat ++ leBytes 1 s.hut.scale.toNat ++
  leBytes 4 s.own.epoch.toNat ++ leBytes 4 s.own.stage.change.toNat ++ leBytes 2 (existsBits s) ++
  leBytes 2 s.wrg.verCur.toNat ++ beBytes 32 ((s.inst.table.map fun t => t.hash.toNat).getD 0) ++
  leBytes 4 (if s.hut.loaded then s.hut.crc.toNat else 0) ++ leBytes 12 0

/-- The first 128 bits of the manifest digest, as beat headers carry them. -/
def manifest (s : State) : BitVec 128 := (sha256 (manifestRecord s)).extractLsb' 128 128

/-! ### Frames -/

/-- A body of the priority class (Table 11-7). -/
def isPrio : Body → Bool
  | .shelf _ | .bulkData _ | .bulkCtl _ | .coll _ | .malformed => false
  | .up _ | .down _ | .abort _ | .formation _ | .refusal _ | .halt _ | .req _ | .order _ | .vote _ | .formUp _
  | .formDown _ | .dark _ | .fenceReq _ | .fence _ => true

/-- A port belongs to the chip's formed partition (R395, R560). -/
def admittedPort (s : State) (p : Nat) : Bool := formed s && bit s.beat.admitted p

/-- A hop crosses the dateline of its axis: on W the link between ring positions N − 1 and 0, elsewhere the wrap (R388). -/
def datelineHop (s : State) (p : Nat) : Bool :=
  let c := selfOf s
  if p < 4 then
    let n := ringN s
    let i := ringPos s
    if p < 2 then i + 1 == n else i == 0
  else match table? s with
    | some t => if p % 2 = 0 then axisOf c (portAxis p) + 1 == axisLen t (portAxis p) else axisOf c (portAxis p) == 0
    | none => false

/-- The output port of a routed frame and the frame with WHOPS counted down (R390); `none` port: it is at DEST; an inner
`none`: no rule applies. -/
def nextHop (s : State) (f : Frame) : Option (Option Nat × Frame) :=
  let c := selfOf s
  if 0 < f.whops then some (some (wPairPort f.src f.dest f.west), { f with whops := f.whops - 1 })
  else if c.x ≠ f.dest.x then some (some (if f.xminus then 5 else 4), f)
  else if c.y ≠ f.dest.y then some (some (if f.yminus then 7 else 6), f)
  else if c.z ≠ f.dest.z then some (some (if f.zminus then 9 else 8), f)
  else if c = f.dest then some (none, f)
  else none

/-- The virtual channel of a frame on an output: VC 0 from injection and after a change of axis, VC 1 from the dateline of
the axis on (R388). -/
def hopVc (s : State) (input out : Nat) (f : Frame) : Bool :=
  datelineHop s out || (input < 10 && portAxis input == portAxis out && f.vc)

/-- A discard counted in HUT_STAT.MISROUTE, with the event of R390 where it asks for one. -/
def misroute (s : State) (ev : Bool) : State :=
  let s := { s with hut := { s.hut with misroute := satInc s.hut.misroute } }
  if ev then postReg s 5 none 0x40004 8 0 else s

/-- A frame placed at an output of its class. -/
def enqueue (s : State) (out : Nat) (o : OutFrame) : State :=
  { s with ports := vmod s.ports out fun p =>
      if isPrio o.frame.body then { p with prioOut := p.prioOut ++ [o] } else { p with bulkOut := p.bulkOut ++ [o] } }

/-- A routed frame at this Hutch, from an input port or from local injection (input 10): forwarded, ejected or discarded
(R390). A Hutch that is off does neither (R514). -/
def forward (s : State) (input : Nat) (f : Frame) : State :=
  if !domainOn s 30 then s
  else match nextHop s f with
  | some (some out, g) => enqueue s out ⟨input, f.vc, { g with vc := hopVc s input out f }⟩
  | some (none, g) => s.emit (.eject g)
  | none => misroute s true

/-- The frame that carries a body to a chip of the partition: its route of R389 chosen and its header written (Table 11-6). -/
def routed (s : State) (dest : Coord) (ctx : Nat) (b : Body) : Option Frame :=
  match table? s, s.glb.part with
  | some t, some v =>
    let c := selfOf s
    (routeOf t v c dest).map fun r =>
      ⟨false, 0, dest, c, r.west, r.whops, r.xminus, r.yminus, r.zminus, ctx, s.own.epoch.setWidth 16, b⟩
  | _, _ => none

/-- A frame injected for a chip of the partition. -/
def inject (s : State) (dest : Coord) (ctx : Nat) (b : Body) : State := match routed s dest ctx b with
  | some f => forward s 10 f
  | none => s

/-- Bulk or priority frames stop on a port: out of step on either side until the beat at which the link resumes, and for bulk also
on hold until the beat at which it resumes (R69, R70, R72). -/
def classStopped (s : State) (p : Nat) (prio : Bool) : Bool :=
  let b := beatPort s p
  b.oos || b.peerOos || b.resuming || (!prio && (b.hold || b.peerHold || b.holdEnded))

/-- A frame that this chip injects for a destination now finds its output open, or is ejected here. -/
def outOpen (s : State) (dest : Coord) (b : Body) : Bool :=
  match (routed s dest 0 b).bind (nextHop s) with
  | some (some p, _) => (portAt s p).state == 3 && !classStopped s p (isPrio b)
  | some (none, _) => true
  | none => false

/-- A priority frame sent to a chip. -/
def sendPrio (s : State) (dest : Coord) (b : Body) : State := inject s dest 0 b

/-- A priority frame sent to each chip of a list, in order. -/
def sendAll (s : State) (ds : List Coord) (b : Body) : State := ds.foldl (fun s d => sendPrio s d b) s

end Sys2Proof.Machine
end

