-- ==== Sys2Proof/Machine/Wire.lean ====
section
/-! DEFINITION. Machine/Wire.lean: what the typed words, frames and records of the model are on the wire and in memory, bit by
bit: control words (R369, R374), the identification frame (R370), link frames (R376, R377), the beat header (R58), the frames of
the collectives and of the service tree (R420, R425, R444, R569) and event records (R194, R481). -/

namespace Sys2Proof.Machine

/-! ### Control words (Table 11-1) -/

/-- A truth value as a number. -/
def n1 (b : Bool) : Nat := if b then 1 else 0

/-- The CRC-8 register after one bit: polynomial 0x07, most significant bit first (R369). -/
def crc8Bit (c : BitVec 8) (b : Bool) : BitVec 8 := if (c.msb != b) then (c <<< 1) ^^^ 0x07#8 else c <<< 1

/-- The CRC-8 of a control word's bits 63:8: bit 63 enters first, bit 8 last (R369). -/
def crc8 (body : BitVec 56) : BitVec 8 := (List.range 56).foldl (fun c i => crc8Bit c (body.getLsbD (55 - i))) 0

/-- Bits 63:8 of a control word as a number: TYPE and its fields (Table 11-1); the TRAIN words of step DELAY carry STATUS and DATA
as R374 lays them out. -/
def ctlBody : CtlWord → Nat
  | .idle => 0
  | .ack prio first last => 1 * 2 ^ 52 + n1 prio * 2 ^ 50 + first % 4096 * 2 ^ 38 + last % 4096 * 2 ^ 26
  | .nak prio first last => 2 * 2 ^ 52 + n1 prio * 2 ^ 50 + first % 4096 * 2 ^ 38 + last % 4096 * 2 ^ 26
  | .tail prio next => 3 * 2 ^ 52 + n1 prio * 2 ^ 50 + next % 4096 * 2 ^ 38
  | .credit vc freed => 4 * 2 ^ 52 + vc % 4 * 2 ^ 50 + freed % 65536 * 2 ^ 34
  | .lost seq => 5 * 2 ^ 52 + seq % 4096 * 2 ^ 38
  | .id segment bytes => 6 * 2 ^ 52 + segment % 16 * 2 ^ 48 + bytes.toNat
  | .train step => 7 * 2 ^ 52 + step % 16 * 2 ^ 48
  | .timing time => 7 * 2 ^ 52 + 6 * 2 ^ 48 + time.toNat
  | .echo time hold => 7 * 2 ^ 52 + 6 * 2 ^ 48 + 2 ^ 40 + time.toNat * 2 ^ 16 + hold.toNat
  | .resync bulk prio valid => 8 * 2 ^ 52 + bulk % 4096 * 2 ^ 38 + prio % 4096 * 2 ^ 26 + n1 valid * 2 ^ 25
  | .park => 9 * 2 ^ 52

/-- The 64 bits of a control word (Table 11-1, R369). -/
def ctlBits (w : CtlWord) : W64 :=
  let b := BitVec.ofNat 56 (ctlBody w)
  b ++ crc8 b

/-- A received control word is acted on: its CRC-8 holds and its TYPE is not reserved (R369). -/
def ctlOk (v : W64) : Bool :=
  let b : BitVec 56 := v.extractLsb' 8 56
  crc8 b == v.setWidth 8 && decide (b.toNat / 2 ^ 52 ≤ 9)

/-- The control word that 64 received bits spell; `none` for one that is discarded (R369). A TRAIN word of step 6 is a timing word
or an echo (R374). -/
def ctlOf (v : W64) : Option CtlWord :=
  let n := (v.extractLsb' 8 56 : BitVec 56).toNat
  let f (lo w : Nat) : Nat := n / 2 ^ lo % 2 ^ w
  if !ctlOk v then none
  else match n / 2 ^ 52 with
    | 0 => some .idle
    | 1 => some (.ack (f 50 2 == 1) (f 38 12) (f 26 12))
    | 2 => some (.nak (f 50 2 == 1) (f 38 12) (f 26 12))
    | 3 => some (.tail (f 50 2 == 1) (f 38 12))
    | 4 => some (.credit (f 50 2) (f 34 16))
    | 5 => some (.lost (f 38 12))
    | 6 => some (.id (f 48 4) (BitVec.ofNat 48 (f 0 48)))
    | 7 =>
      if f 48 4 = 6 then
        (if f 40 1 = 1 then some (.echo (BitVec.ofNat 24 (f 16 24)) (BitVec.ofNat 16 (f 0 16)))
         else some (.timing (BitVec.ofNat 24 (f 0 24))))
      else some (.train (f 48 4))
    | 8 => some (.resync (f 38 12) (f 26 12) (f 25 1 == 1))
    | _ => some .park

/-! ### The identification frame (Table 11-2) -/

/-- Bytes that hold four-byte fields little-endian with a CRC-32C over all of them at the end. -/
def sealCrc (bs : List Byte) : List Byte := bs ++ leBytes 4 (crc32c bs).toNat

/-- INST_HASH0 to INST_HASH7, INST_HASH0 first, each little-endian. -/
def idHashBytes (h : BitVec 256) : List Byte :=
  (List.range 8).flatMap fun i => leBytes 4 (h.extractLsb' (32 * (7 - i)) 32).toNat

/-- The 64 bytes of an identification frame (Table 11-2). -/
def idFrameBytes (f : IdFrame) : List Byte :=
  sealCrc (leBytes 8 f.machineId.toNat ++ idHashBytes f.hash ++ leBytes 8 f.serial.toNat ++
    leBytes 4 (packCoord f.coord + 65536 * (f.port % 16)) ++ leBytes 4 (n1 f.hasTable + 2 * n1 f.anchored) ++ leBytes 4 0)

/-- ID words 0 to 10 of an identification frame: six bytes each, the last bytes 60 to 63 and two bytes of 0 (R370). -/
def idWords (f : IdFrame) : List CtlWord :=
  let bs := idFrameBytes f ++ [0, 0]
  (List.range 11).map fun i => .id i (BitVec.ofNat 48 (ofLe ((bs.drop (6 * i)).take 6)))

/-! ### The beat header (Table 2-3) -/

/-- The 64 bytes of a beat header (Table 2-3): little-endian fields, reserved bytes 0, CRC-32C over bytes 0x00 to 0x3B. -/
def beatHdrBytes (h : BeatHdr) : List Byte :=
  sealCrc (leBytes 8 h.beat.toNat ++ leBytes 8 h.ms.toNat ++ leBytes 4 h.epoch.toNat ++
    leBytes 4 (n1 h.part + 2 * n1 h.root + 4 * n1 h.oos + 8 * n1 h.hold + 16 * n1 h.holdover) ++
    leBytes 16 h.manifest.toNat ++ leBytes 1 h.periodM1.toNat ++ leBytes 1 h.dist.toNat ++ leBytes 1 h.gen.toNat ++ [0] ++
    leBytes 4 h.live.toNat ++ leBytes 2 h.backlog.toNat ++ leBytes 2 h.peak.toNat ++
    leBytes 4 (packCoord h.src + 65536 * (h.srcPort % 16)) ++ leBytes 4 0)

/-- The beat header that 64 received bytes spell; `none` where its CRC-32C fails (R58). Reserved bytes and bits are not read. -/
def hdrOf (bs : List Byte) : Option BeatHdr :=
  let f (o n : Nat) : Nat := ofLe ((bs.drop o).take n)
  if bs.length = 64 ∧ f 0x3C 4 = (crc32c (bs.take 0x3C)).toNat then
    some {
      beat := BitVec.ofNat 64 (f 0 8), ms := BitVec.ofNat 64 (f 8 8), epoch := BitVec.ofNat 32 (f 0x10 4)
      part := (f 0x14 4).testBit 0, root := (f 0x14 4).testBit 1, oos := (f 0x14 4).testBit 2, hold := (f 0x14 4).testBit 3
      holdover := (f 0x14 4).testBit 4, manifest := BitVec.ofNat 128 (f 0x18 16), periodM1 := BitVec.ofNat 8 (f 0x28 1)
      dist := BitVec.ofNat 8 (f 0x29 1), gen := BitVec.ofNat 8 (f 0x2A 1), live := BitVec.ofNat 32 (f 0x2C 4)
      backlog := BitVec.ofNat 16 (f 0x30 2), peak := BitVec.ofNat 16 (f 0x32 2), src := unpackCoord (f 0x34 4 % 32768)
      srcPort := f 0x34 4 / 65536 % 16 }
  else none

/-! ### Link frames (Tables 11-6 to 11-9, 12-5, 12-7, 13-3, 16-4) -/

/-- A coordinate as a four-byte field. -/
def coordBytes (c : Coord) : List Byte := leBytes 4 (packCoord c)

/-- The 16-byte payload of UP and DOWN (Table 12-7). -/
def cpriBytes (f : CpriFrame) : List Byte :=
  leBytes 2 f.grp ++ leBytes 2 f.seq.toNat ++ leBytes 1 f.op ++ leBytes 1 (n1 f.poison + 2 * n1 f.ovf) ++ leBytes 2 0 ++
    leBytes 8 f.value.toNat

/-- KIND, SUB and payload of a frame's body. The manual gives no SUB code and no layout for the WRG's formation record, refusal
and halt frames; they and a malformed frame have none here. -/
def bodyWire : Body → Option (Nat × Nat × List Byte)
  | .shelf d => some (1, 0, d)
  | .bulkData f => some (2, 0, leBytes 4 f.addr.toNat ++ leBytes 2 f.tag.toNat ++ leBytes 1 f.cnt.toNat ++
      leBytes 1 (n1 f.cntEn + 2 * n1 f.rowEnd + 4 * n1 f.xferEnd + 8 * n1 f.put) ++ leBytes 4 f.row.toNat ++ leBytes 4 0 ++ f.data)
  | .bulkCtl f => some (3, 0, leBytes 2 f.tag.toNat ++ [if f.refused then 1 else 0, 0] ++ leBytes 4 f.row.toNat)
  | .coll f => some (4, 0, leBytes 2 f.grp ++ leBytes 2 f.seq.toNat ++ leBytes 1 f.typ ++
      leBytes 1 (n1 f.poison + 2 * n1 f.ovf + 4 * n1 f.last) ++ leBytes 1 f.phase ++ leBytes 1 (n1 f.minus) ++ leBytes 4 f.offset ++
      leBytes 4 f.credits.toNat ++ f.data)
  | .up f => some (5, 0x10, cpriBytes f)
  | .down f => some (5, 0x11, cpriBytes f)
  | .abort f => some (5, 0x12, leBytes 2 f.grp ++ leBytes 2 f.seq.toNat ++ leBytes 1 (n1 f.prio) ++ leBytes 1 f.cause ++ leBytes 10 0)
  | .req f => some (5, 0x20, leBytes 1 f.kind ++ leBytes 1 f.pref ++ leBytes 2 f.arg16.toNat ++ leBytes 4 f.agent.toNat ++
      leBytes 8 f.arg.toNat ++ leBytes 8 f.ms.toNat ++ coordBytes f.entry ++ leBytes 4 0)
  | .order f => some (5, 0x21, leBytes 1 f.kind ++ leBytes 1 f.result ++ leBytes 2 f.seq.toNat ++ leBytes 4 f.agent.toNat ++
      leBytes 8 f.arg.toNat ++ leBytes 8 f.effective.toNat ++ coordBytes f.entry ++ leBytes 4 0)
  | .vote f => some (5, 0x22, leBytes 2 f.change.toNat ++ leBytes 2 (min f.fails 0xFFFF) ++ coordBytes f.first ++
      leBytes 8 f.dmin.toNat ++ leBytes 8 f.dmax.toNat ++ leBytes 1 f.cause ++ leBytes 7 0)
  | .formUp f => some (5, 0x30, leBytes 4 f.count ++ leBytes 1 f.pmin ++ leBytes 1 f.pmax ++ leBytes 2 0 ++ leBytes 8 f.hmin.toNat ++
      leBytes 8 f.hmax.toNat ++ leBytes 8 f.m.toNat)
  | .formDown f => some (5, 0x31, leBytes 1 f.result ++ leBytes 1 0 ++ leBytes 2 f.svcLat.toNat ++ leBytes 4 0 ++ leBytes 8 f.m.toNat)
  | .dark f => some (5, 0x32, coordBytes f.reporter ++ coordBytes f.named ++ leBytes 1 f.port ++ leBytes 7 0 ++ leBytes 8 f.ms.toNat)
  | .fenceReq f => some (5, 0x33, leBytes 2 f.tray ++ leBytes 1 f.cause ++ leBytes 1 0 ++ coordBytes f.requester)
  | .fence f => some (5, 0x34, leBytes 2 f.tray ++ leBytes 1 f.cause ++ leBytes 1 0 ++ coordBytes f.newRoot ++
      leBytes 8 f.effective.toNat ++ coordBytes f.newStandby)
  | .formation _ | .refusal _ | .halt _ | .malformed => none

/-- Payload capacity of a kind: 64 bytes in a short frame (BULK_CTL, PRIO, BEAT), 240 in a flit (R376). -/
def payloadCap (kind : Nat) : Nat := if kind = 3 ∨ kind = 5 ∨ kind = 6 then 64 else 240

/-- The link header as a number of 96 bits (Table 11-6); `sub` is SUB, of a shelf flit the stream. -/
def linkHeader (f : Frame) (kind sub len : Nat) : Nat :=
  kind + n1 f.vc * 2 ^ 4 + f.seq % 4096 * 2 ^ 6 + packCoord f.dest * 2 ^ 18 + packCoord f.src * 2 ^ 33 + n1 f.west * 2 ^ 48 +
    f.whops % 64 * 2 ^ 49 + n1 f.xminus * 2 ^ 55 + n1 f.yminus * 2 ^ 56 + n1 f.zminus * 2 ^ 57 + f.ctx % 16 * 2 ^ 58 +
    f.epoch.toNat * 2 ^ 64 + len * 2 ^ 80 + sub * 2 ^ 88

/-- The bytes of a frame on the wire: link header, payload padded to its size, CRC-32C over all before it (R376). -/
def frameBytes (f : Frame) : Option (List Byte) := (bodyWire f.body).map fun b =>
  let p := b.2.2
  sealCrc (leBytes 12 (linkHeader f b.1 b.2.1 p.length) ++ p ++ List.replicate (payloadCap b.1 - p.length) 0)

/-- A beat header as the short frame that carries it: KIND 6, neither sequenced nor routed (R376, Table 11-6); EPOCH is 0 on a
grid-frame link. -/
def beatFrameBytes (h : BeatHdr) : List Byte :=
  sealCrc (leBytes 12 (6 + packCoord h.src * 2 ^ 33 + h.epoch.toNat % 65536 * 2 ^ 64 + 64 * 2 ^ 80) ++ beatHdrBytes h)

/-! ### Event records (Tables 5-11, 14-3) -/

/-- The 16 bytes of a fault record (Table 5-11). -/
def faultBytes (code sub core agent : Nat) (precise : Bool) (ctx : Nat) (more : Bool) (instr detail beat : W32) : List Byte :=
  leBytes 4 (code % 256 + sub % 256 * 2 ^ 8 + core % 16 * 2 ^ 16 + agent % 8 * 2 ^ 20 + n1 precise * 2 ^ 23 + ctx % 16 * 2 ^ 24 +
    n1 more * 2 ^ 28) ++ leBytes 4 instr.toNat ++ leBytes 4 detail.toNat ++ leBytes 4 beat.toNat

end Sys2Proof.Machine
end

