-- ==== Sys2Proof/Machine/Install.lean ====
section
/-! DEFINITION. Machine/Install.lean: the installation table, its anchor and the neighbour check (R32 to R46, R370, R407, R516). -/

namespace Sys2Proof.Machine

/-! ### Reading the table image (R32, Tables 1-4 to 1-6) -/

/-- A number of `n` bytes at an offset of the image. -/
def tab (s : State) (off n : Nat) : Nat := readLe s.hst.loadBuf off n

/-- `n` bytes of the image from an offset are all 0. -/
def tabZero (s : State) (off n : Nat) : Bool := (readBytes s.hst.loadBuf off n).all (· == 0)

/-- The tray record at an offset. -/
def readTray (s : State) (o : Nat) : TrayRec where
  serial := BitVec.ofNat 64 (tab s o 8)
  w := tab s (o + 8) 1
  xt := tab s (o + 9) 1
  yt := tab s (o + 10) 1
  z := tab s (o + 11) 1
  inService := tab s (o + 12) 2 % 2 == 1
  partition := tab s (o + 14) 2
  chipSerials := (List.range 16).map fun i => BitVec.ofNat 64 (tab s (o + 16 + 8 * i) 8)
  reach := BitVec.ofNat 160 (tab s (o + 0x90) 20)

/-- The partition record at an offset. -/
def readPart (s : State) (o : Nat) : PartRec where
  id := tab s o 2
  w0 := tab s (o + 4) 1
  wext := tab s (o + 5) 1
  xt0 := tab s (o + 6) 1
  xtext := tab s (o + 7) 1
  yt0 := tab s (o + 8) 1
  ytext := tab s (o + 9) 1
  z0 := tab s (o + 10) 1
  zext := tab s (o + 11) 1

def trayCount (s : State) : Nat := tab s 0x20 2
def partCount (s : State) : Nat := tab s 0x22 2
def trayOff (s : State) : Nat := tab s 0x30 4
def partOff (s : State) : Nat := tab s 0x34 4

/-- The tray records of the image. -/
def imageTrays (s : State) : List TrayRec := (List.range (trayCount s)).map fun i => readTray s (trayOff s + 176 * i)

/-- The partition records of the image. -/
def imageParts (s : State) : List PartRec := (List.range (partCount s)).map fun i => readPart s (partOff s + 32 * i)

/-- The table that the image spells, with this chip's place in it. -/
def imageTable (s : State) : Table :=
  let lx := tab s 0x19 1
  let trays := imageTrays s
  let own := s.glb.fuses.serial
  let hits := ((List.range trays.length).zip trays).flatMap fun p =>
    ((List.range 16).zip p.2.chipSerials).filterMap fun q => if q.2 = own then some (p.1, q.1, p.2) else none
  let place := hits.headD (0, 0, readTray s (trayOff s))
  let r := place.2.2
  let slot := place.2.1
  { machineId := BitVec.ofNat 64 (tab s 8 8), sequence := BitVec.ofNat 64 (tab s 0x10 8),
    lw := tab s 0x18 1, lx := lx, ly := tab s 0x1A 1, lz := tab s 0x1B 1,
    tx := tab s 0x1C 1, ty := tab s 0x1D 1, tz := tab s 0x1E 1,
    root := unpackCoord (tab s 0x28 4), standby := unpackCoord (tab s 0x2C 4),
    trays := trays, parts := imageParts s,
    tray := place.1, slot := slot,
    self := if lx = 1 then Coord.zero else ⟨r.w, 4 * r.xt + slot % 4, 4 * r.yt + slot / 4, r.z⟩,
    hash := sha256 (readBytes s.hst.loadBuf 0 (tab s 0x24 4)),
    anchored := sha256 (readBytes s.hst.loadBuf 0 0x10 ++ List.replicate 8 0 ++ readBytes s.hst.loadBuf 0x18 0x20 ++
      List.replicate 8 0 ++ readBytes s.hst.loadBuf 0x40 64 ++
      readBytes s.hst.loadBuf (partOff s) (32 * partCount s) ++ readBytes s.hst.loadBuf (trayOff s + 176 * place.1) 176) }

/-! ### The conditions of a valid table (R33, Table 1-9) -/

/-- A NAME is an ASCII label, zero-padded: ASCII characters other than NUL, then zeros alone (Table 1-6). -/
def nameOk (bs : List Byte) : Bool :=
  (bs.takeWhile (· != 0)).all (fun b => decide (b.toNat < 128)) && (bs.dropWhile (· != 0)).all (· == 0)

/-- Strictly increasing. -/
def rising : List Nat → Bool
  | a :: b :: r => decide (a < b) && rising (b :: r)
  | _ => true

/-- Condition 1: FORMAT. With PART_COUNT = 0 the manual does not say what PART_OFF holds; the model asks for the place that the
records would have (assumption log 18, DESIGN CHOICE); a NAME out of its form is reported with this code (log 18, DEDUCED). -/
def formOk (s : State) : Bool :=
  let t := trayCount s
  let p := partCount s
  decide (tab s 0 4 = 0x4254494B ∧ tab s 4 2 = 1 ∧ tab s 6 2 = 128 ∧ tab s 8 8 ≠ 0 ∧ tab s 0x1F 1 = 0) &&
  tabZero s 0x40 64 && decide (tab s 0x28 4 < 2 ^ 15 ∧ tab s 0x2C 4 < 2 ^ 15) &&
  decide (tab s 0x24 4 = 128 + 176 * t + 32 * p ∧ tab s 0x24 4 ≤ 524288) &&
  (decide (trayOff s = 128 ∧ partOff s = 128 + 176 * t) || decide (partOff s = 128 ∧ trayOff s = 128 + 32 * p)) &&
  ((List.range t).all fun i =>
    decide (tab s (trayOff s + 176 * i + 12) 2 < 2) && tabZero s (trayOff s + 176 * i + 0xA4) 12) &&
  ((List.range p).all fun i => tabZero s (partOff s + 32 * i + 2) 2 && tabZero s (partOff s + 32 * i + 12) 4 &&
    nameOk (readBytes s.hst.loadBuf (partOff s + 32 * i + 16) 16)) &&
  rising ((imageParts s).map PartRec.id) && (imageParts s).all fun b => decide (b.id ≤ 2047)

/-- Condition 2: SHAPE (R20). -/
def shapeOk (t : Table) : Bool :=
  isKd1 t && t.tx == 0 && t.ty == 0 && t.tz == 0 ||
  (decide (1 ≤ t.lw ∧ t.lw ≤ 64 ∧ (t.lx = 4 ∨ t.lx = 8) ∧ (t.ly = 4 ∨ t.ly = 8) ∧ 1 ≤ t.lz ∧ t.lz ≤ 8) &&
    decide (t.tx < t.lw ∧ t.ty < t.lw ∧ t.tz < t.lw ∧ (t.lz = 1 → t.tz = 0)))

/-- Condition 3: TRAYMAP. A KD-1 table with a serial other than 0 in slots 1 to 15 breaks R33, and Table 1-9 assigns no code to it:
the model reports TRAYMAP (assumption log 18, DESIGN CHOICE). -/
def trayMapOk (t : Table) : Bool :=
  let serials := t.trays.flatMap TrayRec.chipSerials
  if isKd1 t then
    decide (t.trays.length = 1) &&
    t.trays.all fun r => decide (r.w = 0 ∧ r.xt = 0 ∧ r.yt = 0 ∧ r.z = 0) && (r.chipSerials.drop 1).all (· == 0)
  else
    decide (t.trays.length = t.lw * (t.lx / 4) * (t.ly / 4) * t.lz) &&
    (((List.range t.trays.length).zip t.trays).all fun p =>
      decide (p.2.w < t.lw ∧ p.2.xt < t.lx / 4 ∧ p.2.yt < t.ly / 4 ∧ p.2.z < t.lz ∧
        p.2.w + t.lw * (p.2.xt + t.lx / 4 * (p.2.yt + t.ly / 4 * p.2.z)) = p.1)) &&
    serials.all (· != 0) && decide serials.Nodup

/-- Condition 4: SELF. -/
def selfOk (s : State) (t : Table) : Bool :=
  ((t.trays.flatMap TrayRec.chipSerials).filter (· == s.glb.fuses.serial)).length == 1

/-- A partition box is legal (R28). -/
def boxOk (t : Table) (b : PartRec) : Bool :=
  if isKd1 t then decide (b.w0 = 0 ∧ b.wext = 1 ∧ b.xt0 = 0 ∧ b.xtext = 1 ∧ b.yt0 = 0 ∧ b.ytext = 1 ∧ b.z0 = 0 ∧ b.zext = 1)
  else
    (decide (b.wext = 1 ∧ b.w0 < t.lw) || decide (b.wext = t.lw ∧ b.w0 = 0)) &&
    decide (1 ≤ b.xtext ∧ b.xt0 + b.xtext ≤ t.lx / 4 ∧ 1 ≤ b.ytext ∧ b.yt0 + b.ytext ≤ t.ly / 4 ∧ 1 ≤ b.zext ∧
      b.z0 + b.zext ≤ t.lz)

/-- Condition 5: PARTITION: legal boxes, each tray in the one box that its record names. -/
def partsOk (t : Table) : Bool :=
  decide (t.parts.length ≤ 2048) && (!isKd1 t || decide (t.parts.length ≤ 1)) && t.parts.all (boxOk t) &&
  t.trays.all fun r =>
    match t.parts.filter fun b => trayInBox b r with
    | [] => r.partition == 0xFFFF
    | [b] => r.partition == b.id
    | _ => false

/-- A coordinate lies on an axis range of the machine. -/
def coordOk (t : Table) (c : Coord) : Bool := decide (c.w < t.lw ∧ c.x < t.lx ∧ c.y < t.ly ∧ c.z < t.lz)

/-- Condition 6: ROOT. -/
def rootOk (t : Table) : Bool :=
  let inSvc (c : Coord) : Bool := coordOk t c && (trayOf t c).any TrayRec.inService
  if isKd1 t then t.root == Coord.zero && t.standby == Coord.zero && inSvc t.root
  else inSvc t.root && inSvc t.standby && trayIndex t t.root != trayIndex t t.standby

/-- INST_CTL.ERR after the checks of R33 in order; 0 for a valid table. -/
def tableErr (s : State) (t : Table) : BitVec 4 :=
  if !formOk s then 1
  else if !shapeOk t then 2
  else if !trayMapOk t then 3
  else if !selfOk s t then 4
  else if !partsOk t then 5
  else if !rootOk t then 6
  else if t.sequence.toNat < s.anchor.accepted.toNat then 7
  else 0

/-! ### The anchor (R35) -/

/-- The anchor in force. -/
def AnchorStore.now (a : AnchorStore) : Option Anchor := if a.current1 then a.slot1 else a.slot0

/-- An anchor written to the slot that is not current, which becomes current; the accepted SEQUENCE rises with it. -/
def AnchorStore.write (a : AnchorStore) (x : Anchor) : AnchorStore :=
  let acc := if a.accepted.toNat < x.sequence.toNat then x.sequence else a.accepted
  if a.current1 then { a with slot0 := some x, current1 := false, accepted := acc }
  else { a with slot1 := some x, current1 := true, accepted := acc }

/-! ### The neighbour check (R39 to R41) -/

/-- Wavelengths 1 to 7 are dark before training (R369). -/
def dimmed (v : Vector (BitVec 8) 8) : Vector (BitVec 8) 8 := Vector.ofFn fun i : Fin 8 => if i.val = 0 then v[i] else 0x80

/-- A port enters IDENT. -/
def toIdent (q : Port) : Port :=
  { q with
    state := 1, step := 1, wlLock := 0, peer := none, peerStep := 0, stepHere := false, timings := 0,
    rxPower := dimmed q.rxPower, txPower := dimmed q.txPower }

/-- Port `p` of the chip enters IDENT, where it passes the check afresh: three exchanges in a row are to agree again. -/
def enterIdent (s : State) (p : Nat) (f : Port → Port) : State :=
  { s with
    inst := { s.inst with agree := vmod s.inst.agree p fun _ => 0, agreeByp := vmod s.inst.agreeByp p fun _ => 0 },
    ports := vmod s.ports p fun q => toIdent (f q) }

/-- Domains of ports of a non-W axis of length 1 go off (R516); their ports enter OFF (R371). W ports of a machine with Lw = 1
close through in-service loopback (R22). -/
def darkPorts (s : State) (t : Table) : State :=
  let off := bitsOf 36 fun d => 24 ≤ d && d < 30 && !portExists t (d - 20)
  { s with
    pwr := { s.pwr with
      on := s.pwr.on &&& ~~~(BitVec.ofNat 36 off), heldOff := s.pwr.heldOff ||| BitVec.ofNat 36 off },
    ports := Vector.ofFn fun i : Fin 10 =>
      if portExists t i.val then { s.ports[i] with inService := decide (i.val < 4 ∧ t.lw = 1) } else Port.reset }

/-- The neighbour check starts on every port. -/
def startCheck (s : State) : State :=
  { s with inst := { s.inst with
      state := 5, nbrFail := 0, nbrOk := 0, bypSeen := false, bypassed := 0, held := 0,
      agree := Vector.replicate 10 0, agreeByp := Vector.replicate 10 0 } }

/-- The table enters LOADED, which starts the neighbour check. -/
def enterLoaded (s : State) (t : Table) : State := startCheck (darkPorts { s with inst := { s.inst with state := 4 } } t)

/-- The chip is a member of a formed partition, for R42. -/
def instBusy (s : State) : Bool := s.own.valid

/-- INST_CTL.ERR set by a refused command (R42). -/
def instErr (s : State) (e : BitVec 4) : State := { s with inst := { s.inst with err := e } }

/-- A chip whose table leaves CHECKED leaves READY for STARTING (R554). -/
def leaveReady (s : State) : State := if s.glb.state == 5 then { s with glb := { s.glb with state := 4, wait := 0 } } else s

/-- Without a valid anchored table no port trains beyond the identification exchange (R45): one in training returns to IDENT. -/
def stopTraining (q : Port) : Port := if q.state == 2 then toIdent q else q

/-- LOAD (R38, R42, R43, R45). -/
def instLoad (s : State) : State :=
  if instBusy s then instErr s 9
  else
    let i := s.inst
    let i := if i.state == 5 then { i with nbrOk := 0, nbrFail := 0, bypSeen := false } else i
    leaveReady { s with inst := { i with state := 1, err := 0, table := none }, ports := s.ports.map stopTraining }

/-- ANCHOR (R36, R38, R42). Where several codes of Table 1-9 hold the manual gives no order: the model reports BUSY, then STATE,
then SEAL (assumption log 12, DESIGN CHOICE). -/
def instAnchor (s : State) : State :=
  if instBusy s then instErr s 9
  else if s.inst.state != 3 then instErr s 10
  else if !s.own.sealing.windowOpen then instErr s 8
  else match s.inst.table with
    | none => s
    | some t => { s with inst := { s.inst with anchorWrite := some ⟨t.anchored, t.sequence⟩ } }

/-- VERIFY (R38, R42). -/
def instVerify (s : State) : State :=
  if s.inst.state == 6 || s.inst.state == 7 then leaveReady (startCheck s) else instErr s 10

/-- A write of INST_CTL: where it sets more than one of LOAD, VERIFY and ANCHOR, only LOAD acts (R43). -/
def instWrite (s : State) (v : W32) : State :=
  if bit v 0 then instLoad s
  else if bit v 1 && bit v 2 then s
  else if bit v 2 then instAnchor s
  else if bit v 1 then instVerify s
  else s

def execLoad (via : Via) (v : W32) (s : State) : Host.Outcome State Fault Refusal :=
  .next (guarded s via 0x30000 fun s => instWrite s (v ||| 1))

def execAnchor (via : Via) (v : W32) (s : State) : Host.Outcome State Fault Refusal :=
  .next (guarded s via 0x30000 fun s => instWrite s (v ||| 4))

def execVerify (via : Via) (v : W32) (s : State) : Host.Outcome State Fault Refusal :=
  .next (guarded s via 0x30000 fun s => instWrite s (v ||| 2))

/-- The end of parsing (R33, R35, R38). -/
def parseEnd (s : State) : State :=
  if s.inst.state != 1 then s
  else
    let t := imageTable s
    let e := tableErr s t
    if e != 0 then { s with inst := { s.inst with state := 2, err := e, table := none } }
    else
      let s := { s with inst := { s.inst with table := some t } }
      match s.anchor.now with
      | some a =>
        if a.digest = t.anchored then
          let s := if a.sequence.toNat < t.sequence.toNat then
            { s with anchor := s.anchor.write ⟨t.anchored, t.sequence⟩ } else s
          enterLoaded s t
        else { s with inst := { s.inst with state := 3 } }
      | none => { s with inst := { s.inst with state := 3 } }

def execParseEnd (s : State) : Host.Outcome State Fault Refusal := .next (parseEnd s)

def execAnchorWriteEnd (s : State) : Host.Outcome State Fault Refusal :=
  .next (match s.inst.anchorWrite with
    | none => s
    | some a =>
      let s := { s with anchor := s.anchor.write a, inst := { s.inst with anchorWrite := none } }
      match s.inst.table with
      | some t => if s.inst.state == 3 && t.anchored == a.digest then enterLoaded s t else s
      | none => s)

/-! ### The identification exchange -/

/-- A port sends and receives identification frames: IDENT to DOWN (R370). -/
def exchanging (p : Port) : Bool := p.enable && 1 ≤ p.state.toNat && p.state.toNat ≤ 5

/-- The identification frame of a port (Table 11-2). ANCHORED is 1 while an anchor is in force (assumption log 18, DEDUCED). -/
def idFrameOf (s : State) (p : Nat) : IdFrame :=
  let a := s.anchor.now.isSome
  match table? s with
  | some t => ⟨t.machineId, t.hash, s.glb.fuses.serial, t.self, p, true, a⟩
  | none => ⟨0, 0, s.glb.fuses.serial, Coord.zero, p, false, a⟩

/-- A port sends its identification frame: ID words 0 to 10 on wavelength 0 (R370). -/
def sendId (s : State) (p : Nat) : State :=
  let f := idFrameOf s p
  { s with outs := .idFrame p f :: (idWords f).map (Out.word p) ++ s.outs }

def execIdFrameSend (s : State) : Host.Outcome State Fault Refusal :=
  .next ((List.range 10).foldl (fun st p => if exchanging (portAt s p) then sendId st p else st) s)

/-- A frame names a chip at a coordinate and port as the table records it (R39). -/
def frameAgrees (t : Table) (f : IdFrame) (c : Coord) (p : Nat) : Bool :=
  f.machineId == t.machineId && f.hash == t.hash && some f.serial == serialAt t c && f.coord == c && f.port == p

/-- What a port expects: its own identity in loopback, else its neighbour's (R39). -/
def expected (t : Table) (lp : Bool) (p : Nat) : Coord × Nat := if lp then (t.self, p) else neighbour t t.self p

/-- A frame agrees as one from the chip one tray further along the W line (R40). A port receives one tray at a time: an exchange
that carries the further chip's identity carries none of the tray in between, and one from the tray in between breaks the run of
three (assumption log 17, DEDUCED). -/
def frameBypass (t : Table) (f : IdFrame) (p : Nat) : Bool :=
  let q := bypassNeighbour t t.self p
  decide (p < 4) && decide (1 < t.lw) && frameAgrees t f q.1 q.2

/-- A port that has passed begins training (Table 11-3, R407). -/
def beginTrain (s : State) (p : Nat) : State :=
  { s with ports := vmod s.ports p fun q =>
    if q.state == 1 then { q with state := 2, step := 2, stepHere := false } else q }

/-- A port passes directly or as bypassed; one whose far end has changed is no longer admitted (R395). -/
def portPass (s : State) (p : Nat) (byp : Bool) : State :=
  let changed := bit s.inst.nbrOk p && bit s.inst.bypassed p != byp
  let s := { s with inst := { s.inst with
      nbrOk := setBit s.inst.nbrOk p true, nbrFail := setBit s.inst.nbrFail p false,
      held := setBit s.inst.held p false, bypassed := setBit s.inst.bypassed p byp,
      bypSeen := s.inst.bypSeen || byp } }
  let s := if changed then { s with beat := { s.beat with admitted := setBit s.beat.admitted p false } } else s
  beginTrain s p

/-- A port fails the check, with the event of R654; a port that was up returns to IDENT, and its link is held (R41, R44). -/
def portFail (s : State) (p : Nat) : State :=
  let late := s.inst.state != 5
  let s := { s with
    inst := { s.inst with
      nbrFail := setBit s.inst.nbrFail p true, nbrOk := setBit s.inst.nbrOk p false,
      held := if late then setBit s.inst.held p true else s.inst.held,
      agree := vmod s.inst.agree p fun _ => 0, agreeByp := vmod s.inst.agreeByp p fun _ => 0 },
    ports := vmod s.ports p fun q => if q.state == 3 || q.state == 2 || q.state == 4 then
      { toIdent q with cause := 1 } else q }
  postReg s 3 none 0x30000 (14 + p) (BitVec.ofNat 64 p)

/-- A received identification frame (R39 to R41, R44). A frame with MACHINE_ID and HASH 0 (R370) contradicts R39 as any other
identity does (R44). -/
def idFrame (s : State) (p : Nat) (f : IdFrame) : State :=
  match table? s with
  | none => s
  | some t =>
    let q := portAt s p
    let e := expected t q.inService p
    if !exchanging q || !portExists t p || s.inst.state.toNat < 5 then s
    else if frameAgrees t f e.1 e.2 then
      let n := s.inst.agree.toList.getD p 0 + 1
      let s := { s with inst := { s.inst with
          agree := vmod s.inst.agree p fun _ => n, agreeByp := vmod s.inst.agreeByp p fun _ => 0 } }
      if 3 ≤ n then portPass s p false else s
    else if frameBypass t f p then
      let n := s.inst.agreeByp.toList.getD p 0 + 1
      let s := { s with inst := { s.inst with
          agreeByp := vmod s.inst.agreeByp p fun _ => n, agree := vmod s.inst.agree p fun _ => 0 } }
      if 3 ≤ n then portPass s p true else s
    else if bit s.inst.nbrFail p then
      { s with inst := { s.inst with agree := vmod s.inst.agree p fun _ => 0, agreeByp := vmod s.inst.agreeByp p fun _ => 0 } }
    else portFail s p

/-- The ID words of a frame first return a PARKED port to IDENT (Table 11-3). -/
def execIdentificationFrame (port : PortId) (f : IdFrame) (s : State) : Host.Outcome State Fault Refusal :=
  .next (idFrame (if (portAt s port.val).state == 6 then enterIdent s port.val id else s) port.val f)

/-- A port of the running check that is not decided yet. -/
def undecided (s : State) (p : Nat) : Bool :=
  match table? s with
  | none => false
  | some t => s.inst.state == 5 && portExists t p && !bit s.inst.nbrOk p && !bit s.inst.nbrFail p

def execNeighbourTimeout (port : PortId) (s : State) : Host.Outcome State Fault Refusal :=
  .next (if undecided s port.val then portFail s port.val else s)

/-- The beat unit starts in ACQUIRE (R65, R88). -/
def startBeat (s : State) : State :=
  { s with beat := { s.beat with
      enable := true, state := 1, advanced := false, gridSet := false, live := 0, rootDist := 0x3F,
      ports := Vector.replicate 10 .reset } }

/-- The neighbour check ends (R41); at start-up, CHECKED enables the beat unit (R550). -/
def checkEnd (s : State) : State :=
  if s.inst.state != 5 then s
  else
    let s := (List.range 10).foldl (fun st p => if undecided st p then portFail st p else st) s
    let ok := s.inst.nbrFail == 0
    let s := { s with inst := { s.inst with state := if ok then 6 else 7 } }
    if ok && s.glb.state == 4 && !s.beat.enable then startBeat s else s

def execNeighbourCheckEnd (s : State) : Host.Outcome State Fault Refusal := .next (checkEnd s)

end Sys2Proof.Machine
end

