-- ==== Sys2Proof/Machine/Beat.lean ====
section
/-! DEFINITION. Machine/Beat.lean: beat headers, discipline, root and standby, out of step, hold and re-lock (R55 to R88), and
the BEAT registers. -/

namespace Sys2Proof.Machine

/-! ### Small operations -/

/-- The beat unit's record of a port changed. -/
def modBeatPort (s : State) (p : Nat) (f : BeatPort → BeatPort) : State :=
  { s with beat := { s.beat with ports := vmod s.beat.ports p f } }

/-- A generation is newer than another by serial-number arithmetic modulo 256 (R62). -/
def newerGen (a b : Byte) : Bool := a != b && (a - b).toNat < 128

/-- A ROOT_LIVE is later than another, modulo 2^32. -/
def laterLive (a b : W32) : Bool := a != b && (a - b).toNat < 2 ^ 31

/-- A link that the beat unit uses: its port is UP and passed the neighbour check (R47). -/
def beatLink (s : State) (p : Nat) : Bool := (portAt s p).state == 3 && bit s.inst.nbrOk p

/-- In-step neighbours that hold the current ROOT_GEN (R60). -/
def candidates (s : State) : List Nat :=
  (List.range 10).filter fun p => let b := beatPort s p
    beatLink s p && b.heard && !b.oos && b.gen == s.beat.gen

/-- A port's link leads to a parent, in step or not: its ROOT_DIST is one less than the chip's own (R60, R71). -/
def parentLink (s : State) (p : Nat) : Bool :=
  let b := beatPort s p
  !s.beat.acting && b.heard && b.gen == s.beat.gen && b.dist.toNat + 1 == s.beat.rootDist.toNat

/-- The chip's parents (R60). -/
def parents (s : State) : List Nat := (candidates s).filter fun p => parentLink s p

/-- Neighbours that correct the grid: the parents of a locked chip, every in-step neighbour in HOLDOVER (R61, R64). -/
def guides (s : State) : List Nat :=
  if s.beat.acting then []
  else match s.beat.state.toNat with
    | 2 => parents s
    | 3 => (List.range 10).filter fun p => let b := beatPort s p; beatLink s p && b.heard && !b.oos
    | _ => []

/-- The root distance after R60: one more than the least of the candidates, at most 63; kept where there is none. -/
def setDist (s : State) : State :=
  match (candidates s).map fun p => (beatPort s p).dist.toNat with
  | [] => s
  | d :: ds => { s with beat := { s.beat with rootDist := BitVec.ofNat 6 (min 63 (ds.foldl min d + 1)) } }

/-- Entry into HOLDOVER, with its event (R64). -/
def enterHoldover (s : State) : State :=
  postReg { s with beat := { s.beat with state := 3, rootDist := 0x3F } } 1 none 0x1001C 28
    (BitVec.ofNat 64 s.beat.gen.toNat)

/-- Entry into RELOCK (R71): the eight in-guard headers that end it are counted afresh. -/
def enterRelock (s : State) : State :=
  { s with beat := { s.beat with
      state := 4, relockAge := 0, relockStep := true, ports := s.beat.ports.map fun b => { b with inGuard := 0 } } }

/-- A link enters out of step (R68); the last in-step parent's link leads into RELOCK (R71, R80). -/
def enterOos (s : State) (p : Nat) : State :=
  if (beatPort s p).oos then modBeatPort s p fun b => { b with agree := 0 }
  else
    let was := parentLink s p && s.beat.state == 2
    let s := modBeatPort s p fun b => { b with oos := true, agree := 0, eFresh := false }
    let s := postReg s 1 none 0x1001C (16 + p) (BitVec.ofNat 64 p)
    if was then (if (parents s).isEmpty then enterRelock s else s) else s

/-- Microslots of a beat, or of a grid frame (R57). -/
def framePeriod (s : State) (beat : Bool) : Nat := if beat then period s else 8

/-- The beat unit counts microslots: it has a grid and is neither OFF nor FENCED. -/
def gridRuns (s : State) : Bool := s.beat.gridSet && s.beat.state != 0 && s.beat.state != 5

/-- The length of a port's header window in microslots: the partition's H, or that of the link's own reach class (R54, R57). -/
def linkWindow (s : State) (part : Bool) (p : Nat) : Nat :=
  if part then headerWindow s else if (table? s).any (fun t => rowClass t p) then 2 else 1

/-! ### Corrections (R61, R66, R67) -/

/-- The headers of the ports named have been used. -/
def modPorts (s : State) (gs : List Nat) : State := gs.foldl (fun s p => modBeatPort s p fun b => { b with eFresh := false }) s

/-- Loop gain in the guard: one over this number (R75). -/
def gainDiv (s : State) : Nat := match s.beat.gain.toNat with
  | 0 => 8
  | 1 => 4
  | 2 => 16
  | _ => 32

/-- `sum` over `n` in whole units: where it is no whole number the manual gives no rounding, neither of the mean of R61, nor of the
correction, nor of the mean of R71, and either neighbour is taken (assumption log 1, DESIGN CHOICE). -/
def meanFree (draw : Nat) (sum : Int) (n : Nat) : Int :=
  if sum % n = 0 then sum / n else if Config.freeBool draw then sum / n + 1 else sum / n

/-- A value limited to ±`l`. -/
def clampInt (l v : Int) : Int := max (-l) (min l v)

/-- The correction from the guides whose links run beats (`beat`) or grid frames, once every one of them has delivered a header or
has missed its own (R61, R79): it is spread over the following beat or grid frame, and limited in proportion to its length. Where
parents of both kinds exist, each kind corrects the grid at its own rate (assumption log 1, 20). -/
def correct (s : State) (beat : Bool) : State :=
  let gs := (guides s).filter fun p => admittedPort s p == beat
  let got := gs.filter fun p => (beatPort s p).eFresh
  if got.isEmpty || !(gs.all fun p => (beatPort s p).eFresh || (beatPort s p).missing != 0) then s
  else
    let sum := got.foldl (fun a p => a + (beatPort s p).e) 0
    let n := got.length
    let edge := got.any fun p => (beatPort s p).edge
    let m := meanFree s.draw sum n
    let lim : Int := framePeriod s beat * (if edge then 1000 else 100)
    let c := clampInt lim (meanFree (s.draw + 1) (1000 * sum) (n * (if edge then 2 else gainDiv s)))
    let mag : Nat := min 65535 m.natAbs
    let b := { s.beat with
      corr := if beat then c else s.beat.corr, corrGrid := if beat then s.beat.corrGrid else c
      phaseErr := BitVec.ofInt 16 (clampInt 32767 m),
      phasePeak := if s.beat.phasePeak.toNat < mag then BitVec.ofNat 16 mag else s.beat.phasePeak }
    modPorts { s with beat := b, draw := s.draw + 2 } gs

/-! ### A received header -/

/-- A header's own start as this chip counts it: its current beat, or its current grid frame. -/
def ownStart (s : State) (p : Nat) : W64 := if admittedPort s p then s.beat.startMs else s.beat.gridMs

/-- A header agrees in the values that R68 compares. -/
def valuesAgree (s : State) (p : Nat) (h : BeatHdr) : Bool :=
  if admittedPort s p then h.beat == s.beat.count && h.ms == s.beat.startMs && h.periodM1 == s.beat.curM1
  else h.ms == s.beat.gridMs

/-- What a header of a port updates in the port's record (R58, R60, R559). -/
def recordHeader (s : State) (p : Nat) (h : BeatHdr) (e : Int) : State :=
  modBeatPort s p fun b => { b with
    heard := true, dist := h.dist, gen := h.gen, live := h.live, part := h.part, peerOos := h.oos, peerHold := h.hold,
    backlog := h.backlog, peak := h.peak, missing := 0, fresh := true, e := e,
    msDelta := (h.ms.toNat : Int) - (ownStart s p).toNat }

/-- A newer ROOT_GEN is adopted; an acting root yields to it (R62, R84). In HOLDOVER the sender is a parent, and the chip LOCKED
again, where its link is in step and it has a parent itself; else the chip keeps root distance 63 (R64). -/
def adopt (s : State) (p : Nat) (h : BeatHdr) : State :=
  if newerGen h.gen s.beat.gen then
    let was := s.beat.state
    let oos := (beatPort s p).oos
    let found := !oos && decide (h.dist.toNat < 63)
    let s := { s with beat := { s.beat with
        gen := h.gen, live := h.live, liveAt := s.beat.ms, acting := false
        state := if was == 3 && found then 2 else was
        rootDist := if was == 3 && !found then 0x3F else BitVec.ofNat 6 (min 63 (h.dist.toNat + 1)) } }
    if was == 2 && oos then enterRelock s else s
  else s

/-- The highest ROOT_LIVE of the held generation from an in-step neighbour (R59); in HOLDOVER an advance shows a parent
again (R64). -/
def takeLive (s : State) (p : Nat) (h : BeatHdr) : State :=
  if h.gen == s.beat.gen && !(beatPort s p).oos && laterLive h.live s.beat.live && !s.beat.acting then
    let s := { s with beat := { s.beat with live := h.live, liveAt := s.beat.ms, advanced := true } }
    if s.beat.state == 3 && h.dist.toNat < 63 then setDist { s with beat := { s.beat with state := 2 } } else s
  else s

/-- The arrival band of an in-step link's header (R66): the edge band counts, and its event follows EVT_EDGE. -/
def countEdge (s : State) (p : Nat) (e : Int) : State :=
  let edge := s.beat.guard.toNat < e.natAbs
  let s := modBeatPort s p fun b => { b with edge := edge, eFresh := true }
  if edge then
    let s := { s with
      beat := { s.beat with edgeCnt := satInc s.beat.edgeCnt },
      ports := vmod s.ports p fun q => { q with edge := satInc q.edge } }
    if s.beat.evtEdge && s.beat.edgeCnt.toNat % 256 == 0 then postReg s 1 none 0x10018 0 0 else s
  else s

/-- EPOCH and MANIFEST of a header on a partition link: a difference places the link on hold, two agreeing headers end it
(R72). -/
def judgeHold (s : State) (p : Nat) (h : BeatHdr) : State :=
  let de := h.epoch != s.own.epoch
  let dm := h.manifest != manifest s
  let b := beatPort s p
  if de || dm then
    let s := modBeatPort s p fun b => { b with hold := true, holdAgree := 0 }
    if b.hold then s
    else postReg s 1 none 0x1001C (6 + p) (detail2 p (boolNat de + 2 * boolNat dm))
  else if b.hold then
    if 2 ≤ b.holdAgree + 1 then modBeatPort s p fun b => { b with hold := false, holdAgree := 0, holdEnded := true }
    else modBeatPort s p fun b => { b with holdAgree := b.holdAgree + 1 }
  else s

/-- A header in the guard or edge band with FLAGS.PART and the chip's own EPOCH ends a dark time (R569). -/
def notDark (s : State) (p : Nat) (h : BeatHdr) : State :=
  if h.part && h.epoch == s.own.epoch then { s with glb := { s.glb with darkSent := setBit s.glb.darkSent p false } } else s

/-- What follows a header in the states of Table 2-4: lock after eight in-guard headers of a parent, in RELOCK after its step; a
parent is an in-step neighbour (R60), so its link has left out of step by then (assumption log 20, DEDUCED). HOLDOVER without a
candidate. -/
def afterHeader (s : State) (p : Nat) : State :=
  if s.beat.acting then s
  else match s.beat.state.toNat with
    | 1 =>
      let s := setDist s
      if 8 ≤ (beatPort s p).inGuard && (parents s).contains p then { s with beat := { s.beat with state := 2 } } else s
    | 2 => if (candidates s).isEmpty then enterHoldover s else setDist s
    | 4 =>
      if 8 ≤ (beatPort s p).inGuard && (parents s).contains p && !s.beat.relockStep then
        setDist { s with beat := { s.beat with state := 2 } }
      else s
    | _ => s

/-- A header judged against a grid that is set (R65 to R72). -/
def judgeHeader (s : State) (p : Nat) (h : BeatHdr) (e : Int) : State :=
  let b := beatPort s p
  let inGuard := e.natAbs ≤ 150
  let s := modBeatPort s p fun b => { b with inGuard := if inGuard then b.inGuard + 1 else 0 }
  if !b.oos && 400 < e.natAbs then
    enterOos (modBeatPort s p fun b => { b with
      missing := 0, fresh := true, e := e, msDelta := (h.ms.toNat : Int) - (ownStart s p).toNat }) p
  else
    let ok := valuesAgree s p h
    let s := recordHeader s p h e
    let s := adopt s p h
    if b.oos then
      let s := modBeatPort s p fun b => { b with agree := if inGuard && ok then b.agree + 1 else 0 }
      let s := if 8 ≤ (beatPort s p).agree then
          modBeatPort s p fun b => { b with oos := false, agree := 0, resuming := true } else s
      let s := if inGuard && ok && admittedPort s p then judgeHold s p h else s
      let s := if e.natAbs ≤ 400 then notDark s p h else s
      afterHeader s p
    else if !ok then afterHeader (enterOos (countEdge s p e) p) p
    else
      let s := countEdge s p e
      let s := if admittedPort s p then judgeHold s p h else s
      let s := notDark s p h
      let s := takeLive s p h
      correct (afterHeader s p) (admittedPort s p)

/-- A header while the grid is not set (ACQUIRE, Table 2-4): the first generation heard is held; a ROOT_LIVE that advances
sets the grid and MS by a step. -/
def acquireHeader (s : State) (p : Nat) (h : BeatHdr) : State :=
  let first := !(s.beat.ports.toList.any fun b => b.heard)
  let s := recordHeader s p h 0
  let s := if first || newerGen h.gen s.beat.gen then
      { s with beat := { s.beat with gen := h.gen, live := h.live } } else s
  if h.gen == s.beat.gen && laterLive h.live s.beat.live then
    let now := h.ms + BitVec.ofNat 64 (linkWindow s (h.epoch != 0) p - 1)
    let s := { s with beat := { s.beat with
        live := h.live, liveAt := now, advanced := true, gridSet := true, ms := now,
        startMs := h.ms, gridMs := BitVec.ofNat 64 (h.ms.toNat / 8 * 8), phase := 0, corr := 0, corrGrid := 0 } }
    setDist s
  else if laterLive h.live s.beat.live then s else setDist s

/-- A received beat header with its arrival error in ns (R66 to R72). -/
def beatHeaderIn (s : State) (p : Nat) (h : BeatHdr) (e : Int) : State :=
  if s.beat.state == 0 || s.beat.state == 5 || !beatLink s p then s
  else if s.beat.gridSet then judgeHeader s p h e
  else acquireHeader s p h

/-- The ports that lead to the table's standby (R39). -/
def standbyPorts (s : State) : List Nat := match table? s with
  | none => []
  | some t => (List.range 10).filter fun p =>
      let far := if bit s.inst.bypassed p then bypassNeighbour t t.self p else expected t (portAt s p).inService p
      portExists t p && far.1 == t.standby && t.standby != t.self

/-- The acting root reports the loss of the standby once none of the links to it is in step (R85). The manual names no register
and no DETAIL for the event (assumption log 21). -/
def noteStandby (s : State) (p : Nat) : State :=
  let ps := standbyPorts s
  if s.beat.acting && !s.beat.standbyLost && ps.contains p && ps.all fun q => (beatPort s q).oos || !beatLink s q then
    postNone { s with beat := { s.beat with standbyLost := true } } 1 none 0
  else s

/-- A header did not arrive (R79): the third in a row posts, the fourth puts the link out of step. -/
def missHeader (s : State) (p : Nat) : State :=
  if !s.beat.gridSet || s.beat.state == 0 || s.beat.state == 5 || !bit s.inst.nbrOk p || (beatPort s p).fresh then s
  else
    let n := (beatPort s p).missing + 1
    let s := modBeatPort s p fun b => { b with missing := n, inGuard := 0, agree := 0, eFresh := false }
    let s := if n = 3 then postReg s 1 none 0x1001C (16 + p) (BitVec.ofNat 64 p) else s
    let s := if 4 ≤ n then noteStandby (enterOos s p) p else s
    correct s (admittedPort s p)

def execHeaderMissing (port : PortId) (s : State) : Host.Outcome State Fault Refusal := .next (missHeader s port.val)

/-- A header from the standby shows that it has returned (R85). -/
def standbyBack (s : State) (p : Nat) : State :=
  if s.beat.standbyLost && (standbyPorts s).contains p then { s with beat := { s.beat with standbyLost := false } } else s

/-- The bytes of a received header: one whose CRC-32C fails is discarded and counts as missing, once for the header expected
(R58, R79). -/
def execBeatHeader (port : PortId) (bytes : List Byte) (e : Int) (s : State) : Host.Outcome State Fault Refusal :=
  .next (match hdrOf bytes with
    | some h => standbyBack (beatHeaderIn s port.val h e) port.val
    | none => modBeatPort (missHeader s port.val) port.val fun b => { b with fresh := true })

/-! ### A header sent (R55, R57, R58) -/

/-- The header that the chip sends on a port: a beat header on a partition link, else a grid-frame header (Table 2-3). -/
def headerFor (s : State) (p : Nat) : BeatHdr :=
  let b := s.beat
  let q := portAt s p
  let part := admittedPort s p
  let bp := beatPort s p
  { beat := if part then b.count else BitVec.ofNat 64 (b.gridMs.toNat / 8)
    ms := if part then b.startMs else b.gridMs
    epoch := if part then s.own.epoch else 0
    part := formed s
    root := b.acting
    oos := bp.oos
    hold := bp.hold
    holdover := b.state == 3
    manifest := if part then manifest s else 0
    periodM1 := if part then b.curM1 else 7
    dist := b.rootDist.setWidth 8
    gen := b.gen
    live := if b.acting then (if part then b.startMs else b.gridMs).setWidth 32 else b.live
    backlog := BitVec.ofNat 16 (min 65535 q.prioOut.length)
    peak := q.prioPeakLast
    src := selfOf s
    srcPort := p }

/-- A header may go out: the port is UP and passed the neighbour check, the beat unit has a grid, the header window of the link is
open, and no header has been sent in this beat or grid frame (R54, R55, R57). -/
def headerDue (s : State) (p : Nat) : Bool :=
  let part := admittedPort s p
  let k := (s.beat.ms - if part then s.beat.startMs else s.beat.gridMs).toNat
  gridRuns s && beatLink s p && !(beatPort s p).sentHeader && decide (k < linkWindow s part p)

def execBeatHeaderSend (port : PortId) (s : State) : Host.Outcome State Fault Refusal :=
  .next (if headerDue s port.val then
    modBeatPort (s.emit (.beatHeader port.val (headerFor s port.val))) port.val fun b => { b with sentHeader := true }
  else s)

/-! ### RELOCK, ACQUIRE and the live timeout -/

/-- The step of R71: the grid and MS move to the mean of the latest headers of the parents whose links are up. MS takes the
nearest whole microslot of the mean, a half upwards, and the grid's phase the rest (assumption log 20, DESIGN CHOICE). -/
def relockMove (s : State) : State :=
  let ps := (List.range 10).filter fun p => parentLink s p && beatLink s p
  if s.beat.state != 4 || !s.beat.relockStep || ps.isEmpty then s
  else
    let sum := ps.foldl (fun a p => a + 1000000 * (beatPort s p).msDelta + 1000 * (beatPort s p).e) 0
    let mean := meanFree s.draw sum ps.length
    let d := (mean + 500000) / 1000000
    let mv (v : W64) : W64 := BitVec.ofInt 64 (v.toNat + d)
    { s.drawn 1 with beat := { s.beat with
        relockStep := false, ms := mv s.beat.ms, startMs := mv s.beat.startMs, gridMs := mv s.beat.gridMs,
        phase := s.beat.phase + mean - 1000000 * d, corr := 0, corrGrid := 0, liveAt := mv s.beat.liveAt,
        ports := s.beat.ports.map fun b => { b with inGuard := 0, agree := 0, eFresh := false } } }

def execRelockStep (s : State) : Host.Outcome State Fault Refusal := .next (relockMove s)

/-- The chip has the root or the standby role (R59). -/
def hasRole (s : State) (standbyOnly : Bool) : Bool := match table? s with
  | some t => t.self == t.standby || (!standbyOnly && t.self == t.root)
  | none => false

/-- The end of the listening time of R63. -/
def acquireEnd (s : State) : State :=
  if s.beat.state == 1 && !s.beat.advanced && hasRole s false then
    { s with beat := { s.beat with
        acting := true, gen := 0, ms := 0, startMs := 0, gridMs := 0, gridSet := true, phase := 0, corr := 0, corrGrid := 0,
        rootDist := 0, live := 0, liveAt := 0, state := 2 } }
  else s

def execAcquireEnd (s : State) : Host.Outcome State Fault Refusal := .next (acquireEnd s)

/-- ROOT_LIVE has not advanced for 1,024 µs: the locked standby takes the root role, any other chip enters HOLDOVER (R62,
R64). -/
def liveTimeout (s : State) : State :=
  if s.beat.state != 2 || s.beat.acting || s.beat.ms.toNat < s.beat.liveAt.toNat + 1024 then s
  else if hasRole s true && !((List.range 10).any fun p => parentLink s p && (beatPort s p).oos) then
    { s with beat := { s.beat with
        acting := true, gen := s.beat.gen + 1, rootDist := 0, live := s.beat.ms.setWidth 32, liveAt := s.beat.ms } }
  else enterHoldover s

def execLiveTimeout (s : State) : Host.Outcome State Fault Refusal := .next (liveTimeout s)

/-! ### BEAT registers (R75 to R78, R82, R88) -/

/-- BEAT_CTL.ERR set by a refused write (Table 2-14). -/
def beatErr (s : State) (e : BitVec 4) : State := { s with beat := { s.beat with err := e } }

/-- The beat unit goes OFF. -/
def stopBeat (s : State) : State :=
  { s with beat := { s.beat with
      enable := false, state := 0, acting := false, rootDist := 0x3F, gridSet := false, advanced := false, corr := 0, corrGrid := 0,
      standbyLost := false, relockStep := false, ports := Vector.replicate 10 .reset } }

/-- A write of BEAT_CTL (Table 2-6). -/
def beatCtlWrite (s : State) (v : W32) : State :=
  let en := bit v 0
  if en && (s.beat.state == 0 || s.beat.state == 5) && s.inst.state != 6 then beatErr s 2
  else if !en && formed s then beatErr s 3
  else
    let s := { s with beat := { s.beat with
        gain := v.extractLsb' 6 2, evtEdge := bit v 5,
        phasePeak := if bit v 2 then 0 else s.beat.phasePeak,
        edgeCnt := if bit v 1 then 0 else s.beat.edgeCnt } }
    if s.beat.state == 5 then s
    else if en then (if s.beat.state == 0 && !stopped s then startBeat s else s)
    else stopBeat s

def execBeatEnable (via : Via) (v : W32) (s : State) : Host.Outcome State Fault Refusal :=
  .next (guarded s via 0x10000 fun s => beatCtlWrite s v)

def execBeatPeakClr (via : Via) (v : W32) (s : State) : Host.Outcome State Fault Refusal :=
  .next (guarded s via 0x10000 fun s => beatCtlWrite s (v ||| 4))

def execBeatCntClr (via : Via) (v : W32) (s : State) : Host.Outcome State Fault Refusal :=
  .next (guarded s via 0x10000 fun s => beatCtlWrite s (v ||| 2))

/-- A write of BEAT_GUARD (R76). -/
def beatGuardWrite (s : State) (v : W32) : State :=
  { s with beat := { s.beat with guard := BitVec.ofNat 9 (max 50 (min 150 (bits v 0 9))) } }

def execBeatGuardWrite (via : Via) (v : W32) (s : State) : Host.Outcome State Fault Refusal :=
  .next (guarded s via 0x10014 fun s => beatGuardWrite s v)

def execBeatCountLoRead (via : Via) (s : State) : Host.Outcome State Fault Refusal := .next (readOut s via 0x10008)

def execBeatCountHiRead (via : Via) (s : State) : Host.Outcome State Fault Refusal := .next (readOut s via 0x1000C)

end Sys2Proof.Machine
end

