-- ==== Sys2Proof/Machine/Cupboard.lean ====
section
/-! DEFINITION. Machine/Cupboard.lean: the cupboard: frames and their kinds, reads and writes with uncorrectable words, arrival
counters, zero fills, the scrubber and COR_CPB_MODE (R304 to R334). -/

namespace Sys2Proof.Machine

/-- Bytes of one slice, and of the chip's cupboard (R304). -/
def sliceBytes : Nat := 0x1800000
def chipBytes : Nat := 0x18000000

/-- The core whose slice holds an address. -/
def sliceOf (a : Nat) : Nat := a / sliceBytes

/-- The chip cupboard address of a slice offset of a core. -/
def sliceAddr (core off : Nat) : Nat := sliceBytes * core + off

/-! ### Lines and banks (R305, R309, Table 9-1) -/

/-- The line of a slice offset, and whether it lies in the ring parts of the banks (R305). -/
def lineOf (o : Nat) : Nat := o / 64
def ringPart (o : Nat) : Bool := decide (0x1400000 ≤ o)

/-- The hash of hashed mode, constant over each aligned 8 KiB (R309). -/
def bankHash (x : Nat) : Nat := (x ^^^ (x / 32) ^^^ (x / 1024)) % 32

/-- The bank of a line in arbitrated or hashed mode, and its place within its bank (R309). -/
def bankOf (hashed : Bool) (l : Nat) : Nat := if hashed then (l % 32) ^^^ bankHash (l / 128) else l % 32
def placeOf (l : Nat) : Nat := l / 32

/-- The line that stands at a place of a bank. -/
def lineAt (hashed : Bool) (bank place : Nat) : Nat :=
  32 * place + if hashed then bank ^^^ bankHash (place / 4) else bank

/-! ### Frames (R321 to R323) -/

/-- What a frame is at this moment (Table 9-6). -/
inductive FrameKind where
  | free
  | ctx (tag : Nat) (rwe : Bool)
  | sys
  | ring
  deriving DecidableEq, Repr

/-- A frame lies in a ring region (R322). -/
def ringFrame (f : Nat) : Bool := 20 ≤ f % 24

/-- What a frame table entry says (Table 9-5). -/
def entryKind (e : W16) : FrameKind := match bits e 14 2 with
  | 1 => .ctx (bits e 0 4) (bit e 13)
  | 2 => .sys
  | _ => .free

/-- The kind of a frame now. -/
def frameKind (s : State) (f : Nat) : FrameKind :=
  if s.wrg.enable && ringFrame f then .ring else entryKind (s.frames.toList.getD f 0)

/-- The frames that the bytes [a, a + n) lie in. -/
def framesOf (a n : Nat) : List Nat :=
  if n = 0 then [] else (List.range ((a + n - 1) / 0x100000 - a / 0x100000 + 1)).map (· + a / 0x100000)

/-- Every byte of [a, a + n) lies in the cupboard, in a frame of a kind that `ok` admits. -/
def inFrames (s : State) (a n : Nat) (ok : FrameKind → Bool) : Bool :=
  decide (a + n ≤ chipBytes) && (framesOf a n).all fun f => ok (frameKind s f)

/-- Some byte of [a, a + n) lies in a ring region in force. -/
def meetsRing (s : State) (a n : Nat) : Bool := (framesOf a n).any fun f => frameKind s f == .ring

/-- A readable frame of a context: its own CTX frames, and ring frames (Table 9-6). -/
def readableKind (ctx : Nat) : FrameKind → Bool
  | .ctx t _ => t == ctx
  | .ring => true
  | _ => false

/-- A frame that a context's stores reach (Table 9-6). -/
def writableKind (ctx : Nat) : FrameKind → Bool
  | .ctx t _ => t == ctx
  | _ => false

/-- Frames that management-core accesses reach: SYS and FREE (Table 9-6, R478). -/
def managementKind : FrameKind → Bool
  | .sys | .free => true
  | _ => false

/-- Every byte of [a, a + n) lies in SYS frames. -/
def inSys (s : State) (a n : Nat) : Bool := inFrames s a n (· == .sys)

/-! ### Uncorrectable words (R325, R326) -/

/-- A list of word numbers in rising order with one more. -/
def ueInsert : List Nat → Nat → List Nat
  | [], w => [w]
  | v :: vs, w => if w < v then w :: v :: vs else if w = v then v :: vs else v :: ueInsert vs w

/-- Readers as R654 numbers them. -/
def readerCp : Nat := 0
def readerTrestle (t : Nat) : Nat := 1 + t
def readerStool : Nat := 5
def readerVu : Nat := 6
def readerMover : Nat := 7
def readerWrg : Nat := 8
def readerUnpacker : Nat := 9
def readerForward : Nat := 10
def readerScrub : Nat := 11
def readerHutch : Nat := 12
def readerManagement : Nat := 13
def readerPartial : Nat := 14

/-- The first uncorrectable word of [a, a + n). -/
def ueIn (s : State) (a n : Nat) : Option Nat := s.ue.find? fun w => decide (a < 8 * w + 8 ∧ 8 * w < a + n)

/-- An uncorrectable word lies in [a, a + n). -/
def ueAny (s : State) (a n : Nat) : Bool := (ueIn s a n).isSome

/-- The offset of COR_CPB_MODE of a core. -/
def cpbReg (core : Nat) : Nat := 0x100018 + 0x10000 * core

/-- An uncorrectable word at an address has been read: UE of its slice, and at most one event a beat (R326). The core named
is the reader's, or the slice's own for a reader outside the cores. -/
def noteUe (s : State) (a : Nat) (core : Option Nat) (reader : Nat) : State :=
  let n := sliceOf a
  let c := coreAt s n
  let s := modCore s n fun c => { c with cpb := { c.cpb with ue := true, evtPosted := true } }
  if c.cpb.evtPosted then s
  else postReg s 4 none (cpbReg n) 23 (detail2 a (core.getD n + 256 * reader))

/-- The words of [a, a + n). -/
def wordIn (a n w : Nat) : Bool := decide (a < 8 * w + 8 ∧ 8 * w < a + n)

/-- Single-bit errors that a read of [a, a + n) meets are corrected in place and counted (R325). -/
def correctRead (s : State) (a n : Nat) : State :=
  (s.ce.filter (wordIn a n)).foldl (fun s w =>
    modCore s (sliceOf (8 * w)) fun c => { c with cpb := { c.cpb with ceCnt := satInc c.cpb.ceCnt } })
    { s with ce := s.ce.filter fun w => !wordIn a n w }

/-- What a read of [a, a + n) leaves behind: single-bit errors corrected, each uncorrectable word noted (R325, R326). -/
def noteRead (s : State) (a n : Nat) (core : Option Nat) (reader : Nat) : State :=
  (s.ue.filter (wordIn a n)).foldl (fun s w => noteUe s (8 * w) core reader) (correctRead s a n)

/-- A word left holding the poison pattern. -/
def poisonWord (s : State) (w : Nat) : State := { s with ue := ueInsert s.ue w, ce := s.ce.filter (· != w) }

/-- A bit of a word turns over: a single-bit error, or with an earlier one a word that cannot be corrected (R325). -/
def upsetWord (s : State) (w : Nat) : State :=
  if s.ue.contains w then s
  else if s.ce.contains w then poisonWord s w
  else { s with ce := ueInsert s.ce w }

/-! ### Writes (R312) -/

/-- Up to 8 bytes written inside one word. A whole word is written under valid check bits; fewer bytes merge, unless the word
is uncorrectable, which leaves it with the poison pattern and names the writer; a single-bit error is corrected first. -/
def writeWord (s : State) (a : Nat) (bs : List Byte) (core : Option Nat) : State :=
  if bs.length = 8 then
    { s with mem := writeBytes s.mem a bs, ue := s.ue.filter (· != a / 8), ce := s.ce.filter (· != a / 8) }
  else if s.ue.contains (a / 8) then noteUe s (a / 8 * 8) core readerPartial
  else { correctRead s (a / 8 * 8) 8 with mem := writeBytes s.mem a bs }

/-- Bytes written from an address on, word by word; `k` bounds the words. -/
def writeSpan : Nat → State → Nat → List Byte → Option Nat → State
  | 0, s, _, _, _ => s
  | k + 1, s, a, bs, core =>
    if bs.isEmpty then s
    else
      let n := 8 - a % 8
      writeSpan k (writeWord s a (bs.take n) core) (a + n) (bs.drop n) core

/-- A write of bytes at an address. -/
def cupWrite (s : State) (a : Nat) (bs : List Byte) (core : Option Nat) : State :=
  writeSpan (bs.length + 1) s a bs core

/-- A row copied with its poisoned words: `bad` lists the offsets of words that arrive poisoned (Table 9-7). -/
def cupWriteRow (s : State) (a : Nat) (bs : List Byte) (bad : List Nat) : State :=
  bad.foldl (fun s o => poisonWord s ((a + o) / 8)) (cupWrite s a bs none)

/-- Zeros under valid check bits over [a, a + n). -/
def cupZero (s : State) (a n : Nat) : State :=
  { s with
    mem := zeroRange s.mem a n
    ue := s.ue.filter fun w => decide (8 * w < a ∨ a + n ≤ 8 * w)
    ce := s.ce.filter fun w => decide (8 * w < a ∨ a + n ≤ 8 * w) }

/-! ### Arrival counters (R314 to R318) -/

/-- An increment of an arrival counter; discarded where the counter is invalid or its core is off (R317, R610). -/
def bumpCounter (s : State) (core ctr : Nat) : State :=
  if domainOn s core then
    modCore (touchCounter s core ctr) core fun c => { c with counters := vmod c.counters ctr fun k => if k.valid then { k with value := k.value + 1 } else k }
  else s

/-- A counter set and made valid (R180). -/
def setCounter (s : State) (core ctr : Nat) (v : W32) : State :=
  modCore s core fun c => { c with counters := vmod c.counters ctr fun _ => ⟨v, true, false⟩ }

/-- Every counter of the chip invalid with value 0 (R317). -/
def voidCounters (s : State) : State :=
  { s with cores := s.cores.map fun c => { c with counters := Vector.replicate 256 ⟨0, false, false⟩ } }

/-- A write of an arrival counter register, as CSET of a HALTED core (R318). -/
def counterWrite (s : State) (core ctr : Nat) (v : W32) : State :=
  if (coreAt s core).state != 0 || (s.wrg.enable && 254 ≤ ctr) then s else setCounter s core ctr v

def execArrivalCounterWrite (core : CoreId) (ctr : Byte) (via : Via) (v : W32) (s : State) :
    Host.Outcome State Fault Refusal :=
  .next (guarded s via (0x100400 + 0x10000 * core.val + 4 * ctr.toNat) fun s => counterWrite s core.val ctr.toNat v)

/-! ### Requests held by the swap barrier (R499) -/

/-- Cupboard address of a context's intake control block (R496). -/
def intakeBase (i : Intake) : Nat := 0x100000 * i.baseMb.toNat

/-- PRODUCED advances to W, and counter CTR of core CORE rises by 1 for each request that it passes (R499). -/
def advanceIntake (s : State) (t : Nat) : State :=
  let i := intakeAt s t
  if !i.enable || i.produced == i.w then s
  else
    let s := cupWrite s (intakeBase i) (leBytes 4 i.w.toNat) none
    let s := (List.range (i.w - i.produced).toNat).foldl (fun s _ => bumpCounter s i.core.toNat i.ctr.toNat) s
    { s with hst := { s.hst with intakes := vmod s.hst.intakes t fun i => { i with produced := i.w } } }

/-- Requests held back by the swap barrier are passed on once SWAP is clear (R499). -/
def releaseHeld (s : State) : State :=
  if s.wrg.swap then s else (List.range 16).foldl advanceIntake s

/-! ### COR_CPB_MODE and zero fills (R309, R310, R324, R328) -/

/-- Every core is HALTED and no transfer is outstanding. -/
def allHalted (s : State) : Bool := s.cores.toList.all fun c => c.state == 0 && movOut c == 0

/-- A write of COR_CPB_MODE: MODE changes only outside a formed partition with every core halted; a change zeroes the slice.
The other fields act in any case. -/
def cpbModeWrite (s : State) (n : Nat) (v : W32) : State :=
  let c := coreAt s n
  let want := bit v 0
  let ok := want == c.cpb.mode || (!formed s && allHalted s)
  let s := modCore s n fun c => { c with cpb := { c.cpb with
    ue := c.cpb.ue && !bit v 23, ceCnt := if bit v 22 then 0 else c.cpb.ceCnt, scrub := bit v 16,
    err := if ok then c.cpb.err else 1 } }
  if want == c.cpb.mode || !ok then s
  else
    cupZero (modCore s n fun c => { c with cpb := { c.cpb with mode := want, fill := true } }) (sliceAddr n 0) sliceBytes

def execCpbModeWrite (core : CoreId) (via : Via) (v : W32) (s : State) : Host.Outcome State Fault Refusal :=
  .next (guarded s via (cpbReg core.val) fun s => cpbModeWrite s core.val v)

def execCeClr (core : CoreId) (via : Via) (v : W32) (s : State) : Host.Outcome State Fault Refusal :=
  .next (guarded s via (cpbReg core.val) fun s => cpbModeWrite s core.val (v ||| 0x400000))

/-- A zero fill runs in a slice or frame, or in a ring region, that [a, a + n) reaches: an access waits until it ends (R310, R322,
R324). -/
def filling (s : State) (a n : Nat) : Bool :=
  (framesOf a n).any fun f =>
    (coreAt s (f / 24)).cpb.fill || s.fills.contains f || (s.wrg.regionFill && ringFrame f)

def execSliceFillEnd (core : CoreId) (s : State) : Host.Outcome State Fault Refusal :=
  .next (modCore s core.val fun c => { c with cpb := { c.cpb with fill := false } })

def execFrameFillEnd (frame : Fin 384) (s : State) : Host.Outcome State Fault Refusal :=
  .next { s with fills := s.fills.filter (· != frame.val) }

/-! ### The scrubber (R327) -/

/-- A scrub read of one place of each bank of a slice, 256 words: word `8·b + i` is word `i` of the line at that place of bank `b`.
`single` and `double` number the words in which a single-bit or an uncorrectable error has arisen by then. -/
def scrub (s : State) (n : Nat) (single double : List Nat) : State :=
  let c := (coreAt s n).cpb
  if !c.scrub || !domainOn s (16 + n / 4) then s
  else
    let word (j : Nat) : Nat := (sliceAddr n (64 * lineAt c.mode (j / 8) c.scrubAt)) / 8 + j % 8
    let all := List.range 256
    let bad := all.filter fun j => double.contains j || s.ue.contains (word j)
    let fixed := all.filter fun j => (single.contains j || s.ce.contains (word j)) && !bad.contains j
    let s := modCore { s with ce := s.ce.filter fun w => !(all.any fun j => word j == w) } n fun c => { c with cpb := { c.cpb with
      ceCnt := satAdd c.cpb.ceCnt fixed.length, scrubAt := (c.cpb.scrubAt + 1) % 12288 } }
    bad.foldl (fun s j => poisonWord (noteUe s (8 * word j) none readerScrub) (word j)) s

def execScrubRead (core : CoreId) (single double : List Nat) (s : State) : Host.Outcome State Fault Refusal :=
  .next (scrub s core.val single double)

end Sys2Proof.Machine
end

