-- ==== Sys2Proof/Machine/Shelf.lean ====
section
/-! DEFINITION. Machine/Shelf.lean: shelf headers and payload formats (R89 to R91, R338 to R347), the buffers and slots they lie
in (R103, R348), and damage (R352). -/

namespace Sys2Proof.Machine

/-! ### The header (Table 3-1) -/

/-- A field of `n` bytes at an offset of a header. -/
def hdr (h : List Byte) (o n : Nat) : Nat := ofLe ((h.drop o).take n)

def hdrFormat (h : List Byte) : Nat := hdr h 6 2
def hdrOrigin (h : List Byte) : Nat := hdr h 8 4 % 64
def hdrWest (h : List Byte) : Bool := hdr h 8 4 / 64 % 2 == 1
def hdrGroup (h : List Byte) : Nat := hdr h 8 4 / 256 % 4096
def hdrLapTag (h : List Byte) : Nat := hdr h 12 4
def hdrVersion (h : List Byte) : Nat := hdr h 16 2
def hdrPacked (h : List Byte) : Nat := hdr h 18 1
def hdrSealed (h : List Byte) : Bool := hdr h 19 1 % 2 == 1
def hdrPoison (h : List Byte) : Bool := hdr h 19 1 / 2 % 2 == 1
def hdrEncLen (h : List Byte) : Nat := hdr h 20 4
def hdrRawLen (h : List Byte) : Nat := hdr h 24 4
def hdrIndexOff (h : List Byte) : Nat := hdr h 28 4
def hdrKeySlot (h : List Byte) : Nat := hdr h 32 1

/-- Bytes of a list replaced from an offset on. -/
def splice (h : List Byte) (o : Nat) (bs : List Byte) : List Byte := h.take o ++ bs ++ h.drop (o + bs.length)

/-- HCRC holds (R90). -/
def hcrcOk (h : List Byte) : Bool := hdr h 0xFC 4 == (crc32c (h.take 0xFC)).toNat

/-- A header with HCRC recomputed (R91). -/
def reseal (h : List Byte) : List Byte := splice h 0xFC (leBytes 4 (crc32c (h.take 0xFC)).toNat)

/-- A header with POISON set and HCRC recomputed (R91, R119). -/
def poisonHdr (h : List Byte) : List Byte :=
  if hdrPoison h then reseal h else reseal (splice h 19 [BitVec.ofNat 8 (hdr h 19 1 + 2)])

/-- SHELF_ID of an origin, stream and group. -/
def shelfId (o : Nat) (west : Bool) (g : Nat) : Nat := o + 64 * boolNat west + 256 * g

/-! ### Formats (R338 to R347) -/

/-- Element width, exponent width and fraction width of an exponent-coded element format. -/
def expWidths (e : Nat) : Option (Nat × Nat × Nat) := match e with
  | 2 => some (16, 8, 7)
  | 3 => some (16, 5, 10)
  | 4 => some (32, 8, 23)
  | _ => none

/-- ⌈a / b⌉. -/
def ceilDiv (a b : Nat) : Nat := (a + b - 1) / b

/-- Every byte of [o, o + n) of a header is 0. -/
def hdrZero (h : List Byte) (o n : Nat) : Bool := ((h.drop o).take n).all (· == 0)

/-- Code length of an exponent value (Table 10-2). -/
def codeLen (h : List Byte) (v : Nat) : Nat := hdr h (0x40 + v / 2) 1 / (if v % 2 = 0 then 1 else 16) % 16

/-- LEN_TABLE is valid (R341). -/
def lenTableOk (h : List Byte) (e : Nat) : Bool :=
  let ls := (List.range 256).map fun v => codeLen h v
  ls.any (· != 0) && decide ((ls.foldl (fun a l => if l = 0 then a else a + 2 ^ (15 - l)) 0) ≤ 2 ^ 15) &&
    (e != 3 || (ls.drop 32).all (· == 0))

/-- Decode units of a shelf: blocks, groups, or none. -/
def unitCount (h : List Byte) : Nat := match hdrFormat h / 16, expWidths (hdrFormat h % 16) with
  | 1, some _ => ceilDiv (hdrRawLen h) 4096
  | 2, some (w, _, _) => hdrRawLen h * 8 / (64 * w)
  | _, _ => 0

/-- Bytes of an EXP-C group (R345). -/
def groupBytes (m : Nat) : Nat := 33 + 8 * (1 + m)

/-- A header meets the conditions of cause FORMAT (Table 10-6). -/
def formatOk (h : List Byte) : Bool :=
  let f := hdrFormat h
  let seal16 := if hdrSealed h then 16 else 0
  let e := f % 16
  if f = 0xFF then hdrEncLen h == 0 && hdrRawLen h == 0 && hdrIndexOff h == 0
  else match f / 16, expWidths e with
    | 0, _ => decide (e ≤ 4) && hdrIndexOff h == 0 && hdrZero h 0x40 176 && hdrEncLen h == hdrRawLen h + seal16
    | 1, some _ =>
      let n := ceilDiv (hdrRawLen h) 4096
      hdrIndexOff h != 0 && lenTableOk h e && hdr h 0xC0 4 == n && hdrZero h 0xC4 44 &&
        hdrEncLen h == hdrIndexOff h + 4 * (n + 1) + seal16
    | 2, some (w, _, m) =>
      let n := hdrRawLen h * 8 / (64 * w)
      hdrIndexOff h == 0 && hdr h 0x40 2 == groupBytes m && hdrZero h 0x42 2 && hdr h 0x44 4 == n &&
        hdrZero h 0x4C 164 && hdrEncLen h == n * groupBytes m + seal16
    | _, _ => false

/-- Bits of bytes, bit j of the stream being bit j mod 8 of byte j / 8 (R342). -/
def bitStream (bs : List Byte) : List Bool := bs.flatMap fun b => (List.range 8).map fun i => b.getLsbD i

/-- The number of bits read least significant first. -/
def bitsToNat : List Bool → Nat
  | [] => 0
  | b :: bs => boolNat b + 2 * bitsToNat bs

/-- The canonical codewords as (length, code, symbol) (R342). -/
def codewords (h : List Byte) : List (Nat × Nat × Nat) :=
  let syms := (List.range 16).flatMap fun l => if l = 0 then [] else
    ((List.range 256).filter fun v => codeLen h v == l).map fun v => (l, v)
  let rec go : List (Nat × Nat) → Nat → Nat → List (Nat × Nat × Nat)
    | [], _, _ => []
    | (l, v) :: r, pl, next =>
      let c := next * 2 ^ (l - pl)
      (l, c, v) :: go r l (c + 1)
  match syms with
  | [] => []
  | (l, v) :: r => (l, 0, v) :: go r l 1

/-- One codeword read from a stream, or the damage cause met: CODE 2 where the bits begin no codeword, LENGTH 3 where the stream
ends inside one. -/
def readCode (tbl : List (Nat × Nat × Nat)) : Nat → Nat → Nat → List Bool → Except Nat (Nat × List Bool)
  | 0, _, _, _ => .error 2
  | _, len, code, [] => .error (if tbl.any fun e => len ≤ e.1 && e.2.1 / 2 ^ (e.1 - len) == code then 3 else 2)
  | k + 1, len, code, b :: bs =>
    let c := 2 * code + boolNat b
    match tbl.find? fun e => e.1 == len + 1 && e.2.1 == c with
    | some e => .ok (e.2.2, bs)
    | none => readCode tbl k (len + 1) c bs

/-- `n` codewords that end exactly where the stream ends. -/
def readCodes (tbl : List (Nat × Nat × Nat)) : Nat → List Bool → Except Nat (List Nat)
  | 0, [] => .ok []
  | 0, _ => .error 3
  | n + 1, bs => match readCode tbl 15 0 0 bs with
    | .error e => .error e
    | .ok (v, r) => match readCodes tbl n r with
      | .error e => .error e
      | .ok vs => .ok (v :: vs)

/-- Elements reassembled from exponent fields and an SM plane (R343). -/
def joinElems (w m : Nat) : List Nat → List Bool → List Byte
  | [], _ => []
  | x :: xs, plane =>
    let f := bitsToNat (plane.take m)
    let sg := boolNat ((plane.drop m).headD false)
    leBytes (w / 8) (sg * 2 ^ (w - 1) + x * 2 ^ m + f) ++ joinElems w m xs (plane.drop (1 + m))

/-- Elements of EXP-X block `u` (R340). -/
def blockElems (h : List Byte) (w u : Nat) : Nat := 8 * min 4096 (hdrRawLen h - 4096 * u) / w

/-- Bytes of an EXP-X block with X code bits and n elements (R343). -/
def blockBytes (x n m : Nat) : Nat := 8 + 8 * ceilDiv x 64 + 8 * ceilDiv (n * (1 + m)) 64

/-- An EXP-X block decoded, or its damage cause. -/
def decodeBlock (h : List Byte) (u : Nat) (bs : List Byte) : Except Nat (List Byte) :=
  match expWidths (hdrFormat h % 16) with
  | none => .error 1
  | some (w, _, m) =>
    let n := blockElems h w u
    let x := hdr bs 0 3
    if hdr bs 3 1 != 0 || hdr bs 4 2 != n || hdr bs 6 2 != 0 then .error 2
    else
      let stream := bitStream ((bs.drop 8).take (8 * ceilDiv x 64))
      let plane := bitStream (bs.drop (8 + 8 * ceilDiv x 64))
      match readCodes (codewords h) n (stream.take x) with
      | .error e => .error e
      | .ok es =>
        if (stream.drop x).any id || (plane.drop (n * (1 + m))).any id then .error 2
        else .ok (joinElems w m es plane)

/-- An EXP-C group decoded, or its damage cause (R346). -/
def decodeGroup (h : List Byte) (bs : List Byte) : Except Nat (List Byte) :=
  match expWidths (hdrFormat h % 16) with
  | none => .error 1
  | some (w, ew, m) =>
    let b := hdr bs 0 1
    let ds := (List.range 64).map fun j => hdr bs (1 + j / 2) 1 / (if j % 2 = 0 then 1 else 16) % 16
    if 2 ^ ew ≤ b || ds.any fun d => d != 15 && decide (b < d + 1) then .error 2
    else .ok (joinElems w m (ds.map fun d => if d = 15 then 0 else b - d) (bitStream (bs.drop 33)))

/-! ### Places (R103, R104, R336, R348) -/

/-- Byte x of buffer k of a stream lies here (R348). -/
def encAddr (west : Bool) (k x : Nat) : Nat :=
  sliceAddr (x / 262144) (0x1700000 + 0x40000 * (2 * boolNat west + k) + x % 0x40000)

/-- The start of a ring slot of a core: 0 L0, 1 L1, 2 R0, 3 R1 (Table 3-4). -/
def slotAddr (core : Nat) (west : Bool) (i : Nat) : Nat := sliceAddr core (0x1400000 + 0x60000 * (4 * boolNat west + i))

/-- Bytes of an encoded buffer. -/
def encBytes (s : State) (west : Bool) (k x : Nat) : Nat → List Byte
  | 0 => []
  | n + 1 => readByte s.mem (encAddr west k x) :: encBytes s west k (x + 1) n

/-- Some word of bytes [x, x + n) of a buffer is uncorrectable: its address. -/
def encUe (s : State) (west : Bool) (k x n : Nat) : Option Nat :=
  (s.ue.find? fun w => (List.range (ceilDiv (x % 8 + n) 8)).any fun i => encAddr west k (x / 8 * 8 + 8 * i) / 8 == w).map (8 * ·)

/-- Bytes written into an encoded buffer, word pieces at a time. -/
def encWrite (s : State) (west : Bool) (k x : Nat) (bs : List Byte) : State :=
  let a := bs.take (262144 - x % 262144)
  let s := cupWrite s (encAddr west k x) a none
  if bs.length ≤ a.length then s else cupWrite s (encAddr west k (x + a.length)) (bs.drop a.length) none

/-- The two streams by a truth value. -/
def streamOf (west : Bool) : Stream := if west then .west else .east
def isWest (d : Stream) : Bool := d == .west

/-- The shelf that arrives on a stream, and the shelf held. -/
def arrOf (s : State) (west : Bool) : Option Shelf := if west then s.wrg.arrW else s.wrg.arrE
def heldOf (s : State) (west : Bool) : Option Shelf := if west then s.wrg.heldW else s.wrg.heldE

def setArr (s : State) (west : Bool) (x : Option Shelf) : State :=
  if west then { s with wrg := { s.wrg with arrW := x } } else { s with wrg := { s.wrg with arrE := x } }
def setHeld (s : State) (west : Bool) (x : Option Shelf) : State :=
  if west then { s with wrg := { s.wrg with heldW := x } } else { s with wrg := { s.wrg with heldE := x } }

/-- The shelf of a stream that arrived in a beat: held (late) or arriving. -/
def shelfAt (s : State) (west : Bool) (b : W64) : Option Shelf :=
  match heldOf s west with
  | some x => if x.beat = b then some x else (arrOf s west).filter (·.beat == b)
  | none => (arrOf s west).filter (·.beat == b)

/-- That shelf replaced. -/
def setShelf (s : State) (west : Bool) (x : Shelf) : State :=
  if (heldOf s west).any (·.beat == x.beat) then setHeld s west (some x)
  else if (arrOf s west).any (·.beat == x.beat) then setArr s west (some x)
  else s

/-- What is known of a ring slot of a core. -/
def slotMark (s : State) (core : Nat) (west : Bool) (i : Nat) : Option SlotMark :=
  s.wrg.slots.find? fun m => m.core == core && m.west == west && m.slot == i

/-- A ring slot of a core marked afresh. -/
def setMark (s : State) (m : SlotMark) : State :=
  { s with wrg := { s.wrg with
      slots := m :: s.wrg.slots.filter fun o => !(o.core == m.core && o.west == m.west && o.slot == m.slot) } }

/-- A slot takes bytes of a shelf: it is bound to the shelf's key slot where the shelf is sealed (R114). -/
def takeSlot (s : State) (x : Shelf) (core : Nat) (west : Bool) (i : Nat) : State :=
  setMark s ⟨core, west, i, if hdrSealed x.hdr then some (hdrKeySlot x.hdr) else none, false⟩

/-- No slot is marked poisoned by a halt any more. -/
def unmarkSlots (w : Wrg) : Wrg := { w with slots := w.slots.map fun m => { m with poison := false } }

/-- A plaintext payload byte of a shelf: decrypted where it is sealed (R356). -/
def payBytes (s : State) (west : Bool) (x : Shelf) (o n : Nat) : List Byte :=
  let raw := encBytes s west (x.beat.toNat % 2) o n
  match x.key with
  | none => raw
  | some k =>
    let iv := leBytes 4 (hdr x.hdr 8 4) ++ leBytes 2 (hdrVersion x.hdr) ++ leBytes 1 (hdrPacked x.hdr) ++ leBytes 5 0
    xorBytes raw (gcmKeystream k iv o n)

/-! ### Poison and damage (R119, R352) -/

/-- A poisoned shelf is held: WRG_STAT and its count, and the event with the beat number (R119). -/
def notePoison (s : State) (g : Nat) : State :=
  postReg { s with wrg := { s.wrg with
      poison := true, poisonCnt := satInc s.wrg.poisonCnt, group := BitVec.ofNat 12 g } } 2 none 0x60018 23 s.beat.count

/-- The queue space and the lanes of a shelf are freed. -/
def freeShelf (s : State) (west : Bool) (b : W64) : State :=
  { s with upk := { s.upk with
      lanes := s.upk.lanes.map fun l => match l with
        | some x => if x.stream == streamOf west && x.beat == b then none else some x
        | none => none
      queues := Vector.ofFn fun i : Fin 4 =>
        let q := s.upk.queues[i]
        if (2 ≤ i.val) == west then
          { q with spilled := q.spilled.filter (·.beat != b), queued := q.queued.filter (·.beat != b) }
        else q } }

/-- A held shelf found damaged before its forwarded header is sent leaves with POISON (R353). -/
def poisonSending (s : State) (west : Bool) (b : W64) : State :=
  let mend (x : Option Sending) : Option Sending := x.map fun y =>
    if y.home.isNone && y.buffer == b.toNat % 2 && y.sentA == 0 && y.sentB == 0 then { y with hdr := poisonHdr y.hdr } else y
  if !(heldOf s west).any (·.beat == b) then s
  else if west then { s with wrg := { s.wrg with sendW := mend s.wrg.sendW } }
  else { s with wrg := { s.wrg with sendE := mend s.wrg.sendE } }

/-- A cause of Table 10-6 met by a shelf: recorded once, decoding stops, and every cause but NOKEY poisons the shelf. -/
def damage (s : State) (west : Bool) (x : Shelf) (cause : Nat) : State :=
  if x.stopped then s
  else
    let g := hdrGroup x.hdr
    let s := { s with upk := { s.upk with
        errCause := BitVec.ofNat 4 cause, errStream := west, dmgCnt := satInc s.upk.dmgCnt,
        errGroup := BitVec.ofNat 12 g, dmg := true } }
    let slot := BitVec.ofNat 5 (hdrKeySlot x.hdr)
    let s := if cause = 5 then
        { s with arm := { s.arm with tagCnt := satInc s.arm.tagCnt, tag := true, lastSlot := slot } }
      else if cause = 6 then
        { s with arm := { s.arm with noKeyCnt := satInc s.arm.noKeyCnt, noKey := true, lastSlot := slot } }
      else s
    let held := (heldOf s west).any (·.beat == x.beat)
    let s := setShelf s west { x with stopped := true, noKey := cause == 6, poison := x.poison || cause != 6 }
    let s := freeShelf s west x.beat
    let s := if cause = 6 then s else poisonSending s west x.beat
    if held && !x.poison && cause != 6 then notePoison s g else s

/-- An accepted header as the shelf that arrives in this beat: FORMAT and NOKEY are checked here, and the key of a sealed
shelf is read here (R352, R357). A flit given up before the header came poisons the shelf (R119). -/
def acceptShelf (s : State) (west : Bool) (h : List Byte) (poison trusted : Bool) : State :=
  let slot := hdrKeySlot h
  let key := if hdrSealed h && slot < 32 then (s.arm.slots.toList.getD slot ⟨none, 0⟩).key else none
  let lost := if west then s.wrg.lostW else s.wrg.lostE
  let x : Shelf := ⟨h, s.beat.count, s.beat.startClock, poison || lost, !trusted || lost, false, key, false, 0, 0, false, [], [], none⟩
  let s := setArr s west (some x)
  if !trusted then s
  else if !formatOk h then damage s west x 1
  else if hdrSealed h && key.isNone then damage s west x 6
  else s

end Sys2Proof.Machine
end

