-- ==== Sys2Proof/Machine/Ring.lean ====
section
/-! DEFINITION. Machine/Ring.lean: circulating weights: formation, the check lap, passes, halts, in-place replacement, the core
ring and the WRG registers (R89 to R129). -/

namespace Sys2Proof.Machine

/-! ### The ring and its directory -/

/-- The other chips of the ring (R92). -/
def ringOthers (s : State) : List Coord :=
  match s.glb.part with
  | some v => (v.active.map fun w => { selfOf s with w := w }).filter (· != selfOf s)
  | none => []

/-- A stream is in use (R100). -/
def streamOn (s : State) (west : Bool) : Bool := if west then s.wrg.west else s.wrg.east

/-- The directory's address. -/
def dirAddr (s : State) : Nat := 0x100000 * s.wrg.dirMb.toNat

/-- A number of `n` bytes of the cupboard. -/
def cupLe (s : State) (a n : Nat) : Nat := readLe s.mem a n

/-- The 256 header bytes of a home image. -/
def imageHdr (s : State) (a : Nat) : List Byte := readBytes s.mem a 256

/-- The directory as the cupboard holds it (Table 3-3). -/
def readDir (s : State) : RingDir :=
  let b := dirAddr s
  let g := cupLe s (b + 8) 2
  { nPacked := cupLe s (b + 6) 1
    streams := cupLe s (b + 7) 1
    groups := g
    planLen := cupLe s (b + 10) 2
    version := BitVec.ofNat 16 (cupLe s (b + 12) 2)
    entries := (List.range (min g 1024)).map fun i => let e := b + 64 + 16 * i
      (cupLe s e 4, cupLe s (e + 4) 4, cupLe s (e + 8) 4, cupLe s (e + 12) 4)
    plan := (List.range (min (cupLe s (b + 10) 2) 4096)).map fun i => cupLe s (b + 64 + 16 * min g 1024 + 2 * i) 2 }

/-- Address of a group's image: current or NEXT, eastbound or westbound. -/
def imageAddr (d : RingDir) (g : Nat) (west next : Bool) : Nat :=
  match d.entries.getD g (0, 0, 0, 0) with
  | (ce, cw, ne, nw) => if next then (if west then nw else ne) else (if west then cw else ce)

/-- An image lies in one slice, outside its ring region, at a 4 KiB boundary, in SYS frames (R99, R323). -/
def imageOk (s : State) (a : Nat) : Bool :=
  let n := 256 + hdrEncLen (imageHdr s a)
  decide (a % 4096 = 0 ∧ a < chipBytes ∧ a % sliceBytes + n ≤ 0x1400000) && inSys s a n

/-- A header keeps R89 and R95 for a period and header window. -/
def lengthOk (h : List Byte) (p hw : Nat) : Bool :=
  decide (hdrEncLen h ≤ encLimit p hw ∧ hdrRawLen h % 1024 = 0 ∧ hdrRawLen h ≤ 6291456)

/-- The VERSION of a CUR image is the directory's; after a halt in SWAP it is V′ for a group copied by then (R111, R124). -/
def versionOk (s : State) (d : RingDir) (g v : Nat) : Bool :=
  v == d.version.toNat || (s.wrg.swap && decide (g < s.wrg.copyNext) && v == s.wrg.verNext.toNat)

/-- The directory keeps Table 3-3, R99 and R100, every CUR image header keeps R89 and R95 and has the expected SHELF_ID and VERSION,
and every image lies in SYS frames (R111, R323). A header that cannot be read is not as expected. -/
def dirOk (s : State) (d : RingDir) : Bool :=
  let b := dirAddr s
  decide (cupLe s b 4 = 0x52494457 ∧ cupLe s (b + 4) 2 = 1 ∧ 1 ≤ d.nPacked ∧ d.nPacked ≤ 64 ∧
    d.streams = boolNat s.wrg.east + 2 * boolNat s.wrg.west ∧ 1 ≤ d.groups ∧ d.groups ≤ 1024 ∧ 1 ≤ d.planLen ∧
    d.planLen ≤ 4096 ∧ d.version ≠ 0) &&
  (readBytes s.mem (b + 14) 50).all (· == 0) && inSys s b (64 + 16 * d.groups + 2 * d.planLen) &&
  (ueIn s b (64 + 16 * d.groups + 2 * d.planLen)).isNone && d.plan.all (fun g => decide (g < d.groups)) &&
  (List.range d.groups).all fun g => [false, true].all fun west =>
    let a := imageAddr d g west false
    if streamOn s west then
      let h := imageHdr s a
      let n := imageAddr d g west true
      imageOk s a && (ueIn s a 256).isNone && lengthOk h (period s) (headerWindow s) &&
        hdr h 8 4 == shelfId (ringPos s) west g && versionOk s d g (hdrVersion h) && (n == 0 || imageOk s n)
    else a == 0 && imageAddr d g west true == 0

/-- The WRG reads bytes of a home image of a group: an uncorrectable word marks the group HOME_UE (R118, R326). -/
def homeRead (s : State) (g a n : Nat) : State :=
  let bad := ueAny s a n
  let s := noteRead s a n none readerWrg
  if bad then
    { s with wrg := { s.wrg with
      homeUe := true, group := BitVec.ofNat 12 g,
      homeUeMarks := if s.wrg.homeUeMarks.contains g then s.wrg.homeUeMarks else g :: s.wrg.homeUeMarks } }
  else s

/-- The reads by which `dirOk` judges: the directory, and the header of each CUR image (R326). -/
def noteDir (s : State) (d : RingDir) : State :=
  (List.range d.entries.length).foldl (fun s g => [false, true].foldl (fun s west =>
    if streamOn s west then homeRead s g (imageAddr d g west false) 256 else s) s)
    (noteRead s (dirAddr s) (64 + 16 * d.entries.length + 2 * d.plan.length) none readerWrg)

/-- CRC-32C over the plan (R111). -/
def planCrc (d : RingDir) : W32 := crc32c (d.plan.flatMap fun g => leBytes 2 g)

/-- This chip's formation record (R111). -/
def ownRecord (s : State) (d : RingDir) : FormRec :=
  ⟨ringPos s, s.own.epoch, s.glb.fwVersion, ringN s, d.nPacked, d.groups, d.planLen, d.version, planCrc d, s.wrg.east,
    s.wrg.west, encLimit (period s) (headerWindow s) / 4096⟩

/-! ### Formation (R111, R112, R128) -/

/-- Every shelf in flight and every place is forgotten. -/
def clearRing (w : Wrg) : Wrg :=
  { w with
    posValid := false, checkDue := false, checkBad := none, arrE := none, arrW := none, heldE := none, heldW := none,
    sendE := none, sendW := none, halt := none, restartDue := none, trail := [], leadin := false, j := 0, step := 0,
    copying := none, copyNext := 0, passEnded := false, restartZero := false, swap := false, records := [],
    slots := (unmarkSlots w).slots, lostE := false, lostW := false }

/-- The decode queues, spills and lanes emptied (R362). -/
def clearUnpacker (u : Upk) : Upk :=
  { u with lanes := Vector.replicate 128 none, queues := u.queues.map fun q => { q with spilled := [], queued := [] } }

/-- The chip enters REFUSED with a cause; one that refuses by itself sends the refusal round the ring (R111). -/
def refuse (s : State) (cause : BitVec 4) (send : Bool) : State :=
  let s := { s with wrg := { clearRing s.wrg with state := 6, cause := cause }, upk := clearUnpacker s.upk }
  if send then sendAll s (ringOthers s) (.refusal cause.toNat) else s

/-- The cause by which a set of formation records is refused against this chip's own: PLAN where they come from two epochs (R128),
else in the order of Table 3-6. -/
def recordsCause (own : FormRec) (rs : List FormRec) : Option (BitVec 4) :=
  if rs.any (·.epoch != own.epoch) then some 3
  else if rs.any (·.fw != own.fw) then some 1
  else if rs.any fun r => r.nPacked != own.n || r.n != own.n then some 2
  else if rs.any fun r => { r with pos := own.pos } != own then some 3
  else none

/-- A chip that is FORMING judges the records it holds; agreement of all N lets the check lap start. -/
def judgeRecords (s : State) : State :=
  match s.wrg.dir with
  | none => s
  | some d =>
    if s.wrg.state != 1 || s.wrg.checkDue then s
    else match recordsCause (ownRecord s d) s.wrg.records with
      | some c => refuse s c true
      | none =>
        if (List.range (ringN s)).all fun p => s.wrg.records.any (·.pos == p) then
          { s with wrg := { s.wrg with checkDue := true } }
        else s

/-- Formation starts (R111). -/
def startForm (s : State) : State :=
  let d := readDir s
  let early := s.wrg.records
  let s := { s with wrg := { clearRing s.wrg with
      state := 1, abandoned := 0, late := 0, poisonCnt := 0, dir := some d, pass := 0, lap := 0 } }
  let s := noteDir s d
  if d.nPacked != ringN s then refuse s 2 true
  else if !dirOk s d then refuse s 3 true
  else
    let own := ownRecord s d
    let s := { s with wrg := { s.wrg with records := own :: early.filter (·.pos != own.pos) } }
    judgeRecords (sendAll s (ringOthers s) (.formation own))

/-- A formation record received; one that comes before this chip's own FORM is kept for it. -/
def formationRecord (s : State) (f : FormRec) : State :=
  if s.wrg.state == 0 || s.wrg.state == 6 || s.wrg.state == 1 then
    judgeRecords { s with wrg := { s.wrg with records := f :: s.wrg.records.filter (·.pos != f.pos) } }
  else s

def execFormationRecord (f : FormRec) (s : State) : Host.Outcome State Fault Refusal := .next (formationRecord s f)

def execFormationRecordTimeout (s : State) : Host.Outcome State Fault Refusal :=
  .next (if s.wrg.state == 1 && !s.wrg.checkDue then refuse s 3 true else s)

/-- A refusal received: a chip in formation refuses with the same cause, and records of a formation that failed are void. -/
def formationRefusal (s : State) (cause : Nat) : State :=
  if s.wrg.state == 1 || s.wrg.state == 2 then refuse s (BitVec.ofNat 4 cause) false
  else if s.wrg.state == 0 || s.wrg.state == 6 then { s with wrg := { s.wrg with records := [] } }
  else s

def execFormationRefusal (cause : Nat) (s : State) : Host.Outcome State Fault Refusal := .next (formationRefusal s cause)

/-! ### Places in the schedule (R96 to R98) -/

/-- The place now. -/
def placeNow (w : Wrg) : RingPlace := ⟨w.leadin, w.j.toNat, w.lap.toNat, w.pass.toNat⟩

/-- Group of a lap. -/
def lapGroup (d : RingDir) (l : Nat) : Nat := d.plan.getD l 0

/-- A beat injects: a lead-in beat, or the last of a lap (R97). -/
def injects (p : RingPlace) (n : Nat) : Bool := p.leadin || p.j + 1 == n

/-- The place of the next beat; none where no shelf is to be held in it: after the check lap, or at the end of a pass in SWAP
(R112, R115). -/
def nextPlace (s : State) (p : RingPlace) : Option RingPlace :=
  let n := ringN s
  if p.leadin then some { p with leadin := false, j := 0 }
  else if p.j + 1 < n then some { p with j := p.j + 1 }
  else if s.wrg.state == 2 then none
  else match s.wrg.dir with
    | none => none
    | some d =>
      if p.lap + 1 < d.planLen then some ⟨false, 0, p.lap + 1, p.pass⟩
      else if s.wrg.swap then none
      else some ⟨false, 0, 0, (p.pass + 1) % 65536⟩

/-- The origin of the shelf that a stream brings for a beat in lap (R96). -/
def originAt (s : State) (west : Bool) (j : Nat) : Nat :=
  let n := ringN s
  if west then (ringPos s + 1 + j) % n else subMod (ringPos s) (1 + j) n

/-- The WRG circulates shelves. -/
def circulating (s : State) : Bool := s.wrg.state == 2 || s.wrg.state == 3 || s.wrg.state == 4

/-- The place for which shelves arrive in the current beat. -/
def expectedPlace (s : State) : Option RingPlace :=
  if circulating s && !s.wrg.checkDue && !s.wrg.passEnded then nextPlace s (placeNow s.wrg) else none

/-! ### Sending -/

def setSend (s : State) (west : Bool) (x : Option Sending) : State :=
  if west then { s with wrg := { s.wrg with sendW := x } } else { s with wrg := { s.wrg with sendE := x } }

/-- The header of a check shelf (R112). -/
def checkHdr (s : State) (west : Bool) (ver : W16) : List Byte :=
  reseal (leBytes 4 0x464C4853 ++ leBytes 2 1 ++ leBytes 2 0xFF ++ leBytes 4 (shelfId (ringPos s) west 0) ++ leBytes 4 0 ++
    leBytes 2 ver.toNat ++ leBytes 1 (ringN s) ++ List.replicate 237 0)

/-- A check shelf injected on each stream in use. -/
def injectCheck (s : State) (ver : W16) : State :=
  [false, true].foldl (fun s west =>
    if streamOn s west then setSend s west (some ⟨checkHdr s west ver, none, 0, 0, 0, 0⟩) else s) s

/-- A home shelf injected for a lap of a pass: LAP_TAG written, POISON set where an uncorrectable word lies in the image, which
marks the group (R91, R118, R119). -/
def injectHome (s : State) (west : Bool) (d : RingDir) (lap pass : Nat) : State :=
  let g := lapGroup d lap
  let a := imageAddr d g west false
  let h := imageHdr s a
  let bad := ueAny s a (256 + hdrEncLen h)
  let h := splice h 12 (leBytes 4 (65536 * (pass % 65536) + lap))
  setSend (homeRead s g a (256 + hdrEncLen h)) west
    (some ⟨if bad then poisonHdr h else reseal h, some (a + 256), 0, hdrEncLen h, 0, 0⟩)

/-- The home shelves of a lap injected on each stream in use. -/
def injectLap (s : State) (lap pass : Nat) : State :=
  match s.wrg.dir with
  | none => s
  | some d => [false, true].foldl (fun s west => if streamOn s west then injectHome s west d lap pass else s) s

/-- The held shelf forwarded on its stream, with POISON where it is poisoned by now (R97, R119, R353). -/
def forwardHeld (s : State) (west : Bool) : State :=
  match heldOf s west with
  | none => s
  | some x => setSend s west
      (some ⟨if x.poison then poisonHdr x.hdr else x.hdr, none, x.beat.toNat % 2, hdrEncLen x.hdr, 0, 0⟩)

/-! ### Halts (R118, R120) -/

/-- A cause noted until the next beat boundary: on a running ring with the beat of the fault; on a halted one with the beat in which
it is met, where it only turns away a RESTART (R120, R124). -/
def noteHalt (s : State) (cause : BitVec 4) (b : W64) : State :=
  { s with wrg := { s.wrg with halt := some (cause, if s.wrg.state == 5 then s.beat.count else b) } }

/-- The WRG heeds a halt cause: it runs passes or is halted, and none is noted before. -/
def heedsHalt (s : State) : Bool := (s.wrg.state == 3 || s.wrg.state == 4 || s.wrg.state == 5) && s.wrg.halt.isNone

/-- A halt cause is met in a beat: the first one counts, and halt frames go round the ring. -/
def meetHalt (s : State) (cause : BitVec 4) (b : W64) : State :=
  if heedsHalt s then sendAll (noteHalt s cause b) (ringOthers s) (.halt ⟨b⟩) else s

/-- A halt frame received. It names the beat of the fault and no cause, so the cause this chip records is a free value
(assumption log 1). -/
def haltFrame (s : State) (f : HaltFrame) : State :=
  if heedsHalt s then { noteHalt s (BitVec.ofNat 4 (Config.freeNat s.draw)) f.beat with draw := s.draw + 1 } else s

def execHaltFrame (f : HaltFrame) (s : State) : Host.Outcome State Fault Refusal := .next (haltFrame s f)

/-- The ring slots of a stream that a halt at a beat boundary marks: those of the shelf held in the beat that ends, the landing slot
of the one that arrived in it, and the other landing slot where the fault lies further back (R120). -/
def haltSlots (s : State) (west : Bool) (fault : W64) : List Nat :=
  (match heldOf s west with
    | some x => if fault.toNat + 1 < s.beat.count.toNat then [0, 1, 2, 3] else [(x.beat.toNat + 1) % 2, 2, 3]
    | none => []) ++
  match arrOf s west with
  | some y => [(y.beat.toNat + 1) % 2]
  | none => []

/-- Those slots marked poisoned in every core. -/
def poisonSlots (s : State) (west : Bool) (fault : W64) : State :=
  (haltSlots s west fault).foldl (fun s i => (List.range 16).foldl (fun s c =>
    setMark s ⟨c, west, i, (slotMark s c west i).bind (·.key), true⟩) s) s

/-- The ring halts: position and lap return to the fault beat, every slot of the shelves held from that beat on is marked poisoned,
shelves stop, the unpacker abandons its work (R120, R362). WRG_POS.STEP reads 0 from then on: the manual has the register freeze at
the fault beat and names no step of it (DESIGN CHOICE, assumption log 26). -/
def haltNow (s : State) (cause : BitVec 4) (fault : W64) : State :=
  let p := match s.wrg.trail.find? fun e => e.1 == fault with
    | some e => e.2
    | none => placeNow s.wrg
  let s := poisonSlots (poisonSlots s false fault) true fault
  { s with
    wrg := { s.wrg with
      state := 5, cause := cause, halt := none, arrE := none, arrW := none, heldE := none, heldW := none, sendE := none,
      sendW := none, leadin := p.leadin, j := BitVec.ofNat 6 p.j, lap := BitVec.ofNat 12 p.lap,
      pass := BitVec.ofNat 16 p.pass, trail := [(s.beat.count, p)], step := 0 },
    upk := clearUnpacker s.upk }

/-! ### Received headers (R118) -/

/-- The first failing receive check of a header, in the order of Table 3-6. -/
def receiveCause (s : State) (west : Bool) (h : List Byte) (p : RingPlace) (d : RingDir) : Option (BitVec 4) :=
  if hdrPacked h != ringN s then some 2
  else if hdrLapTag h != 65536 * p.pass + p.lap then some 5
  else if hdrVersion h != s.wrg.passVersion.toNat then some 6
  else if hdr h 8 4 != shelfId (originAt s west p.j) west (lapGroup d p.lap) then some 7
  else none

/-- A shelf header received on a stream. -/
def shelfHeaderIn (s : State) (west : Bool) (h : List Byte) : State :=
  if !streamOn s west || (arrOf s west).isSome then s
  else match expectedPlace s, s.wrg.dir with
    | some p, some d =>
      let crc := hcrcOk h
      if s.wrg.state == 2 then
        if crc && !hdrPoison h && hdrFormat h == 0xFF && formatOk h && hdrPacked h == ringN s &&
            hdrOrigin h == originAt s west p.j && hdrWest h == west then
          acceptShelf s west h false true
        else
          let wrong := crc && !hdrPoison h && hdrPacked h != ringN s
          let s := acceptShelf s west h (hdrPoison h || !crc) crc
          { s with wrg := { s.wrg with checkBad := some (if wrong then 2 else 4) } }
      else if !crc then acceptShelf s west h true false
      else match receiveCause s west h p d with
        | some c => meetHalt s c s.beat.count
        | none => acceptShelf s west h (hdrPoison h) true
    | _, _ => s

/-! ### The core ring (R101 to R107) -/

/-- Bytes of a segment. -/
def segBytes (x : Shelf) : Nat := hdrRawLen x.hdr / 16

/-- The segment that a core holds at step `k` (R101). -/
def segAt (west : Bool) (core k : Nat) : Nat := if west then (core + k) % 16 else subMod core k 16

/-- The slot of step `k` of a shelf (R104). -/
def slotOfStep (x : Shelf) (k : Nat) : Nat := if k = 0 then (x.beat.toNat + 1) % 2 else 2 + k % 2

/-- The payload of a flit index: its offset and length (R94). -/
def flitRange (i len : Nat) : Nat × Nat :=
  let lo := max 256 (240 * i) - 256
  let hi := min (240 * (i + 1) - 256) len
  (lo, hi - lo)

/-- Payload bytes of the arriving shelf of a stream received without a gap. -/
def received (s : State) (west : Bool) (len : Nat) : Nat :=
  let a := (portAt s (if west then 2 else 0)).shelfFlits
  let b := (portAt s (if west then 3 else 1)).shelfFlits
  let n := if a ≤ b then 2 * a else 2 * b + 1
  min len (240 * n - 256)

/-- Payload received of a shelf: all of it once it is held. -/
def receivedOf (s : State) (west : Bool) (x : Shelf) : Nat :=
  if x.beat = s.beat.count then received s west (hdrEncLen x.hdr) else hdrEncLen x.hdr

/-- The queues of the two ports of a stream (R94, R348). -/
def streamQueues (s : State) (west : Bool) : List PortQueue := (s.upk.queues.toList.drop (if west then 2 else 0)).take 2

/-- Bytes [o, o + n) of a shelf have been received and none of them is spilled. -/
def inQueue (s : State) (west : Bool) (x : Shelf) (o n : Nat) : Bool :=
  decide (o + n ≤ receivedOf s west x) &&
    !((streamQueues s west).any fun q => q.spilled.any fun r => r.beat == x.beat && decide (r.off < o + n ∧ o < r.off + r.len))

/-- Every unit from `lo` to `hi` of a shelf has left its lane. -/
def unitsDone (s : State) (west : Bool) (x : Shelf) (lo hi : Nat) : Bool :=
  decide (hi < x.unit) && !(s.upk.lanes.toList.any fun l => match l with
    | some y => y.stream == streamOf west && y.beat == x.beat && decide (lo ≤ y.unit ∧ y.unit ≤ hi)
    | none => false)

/-- Segment `i` of a shelf is decoded and lies in its landing slot; a sealed one only once the tag has verified (R356). -/
def segReady (s : State) (west : Bool) (x : Shelf) (i : Nat) : Bool :=
  let n := segBytes x
  !x.stopped && decide (0 < n) && (x.key.isNone || x.tagOk) &&
    match hdrFormat x.hdr / 16, expWidths (hdrFormat x.hdr % 16) with
    | 0, _ => inQueue s west x (i * n) n
    | 1, _ => unitsDone s west x (i * n / 4096) (((i + 1) * n - 1) / 4096)
    | 2, some (w, _, _) => unitsDone s west x (i * n / (8 * w)) (((i + 1) * n - 1) / (8 * w))
    | _, _ => false

/-- The WRG counts a segment of a stream at a core (R105). -/
def bumpSegment (s : State) (west : Bool) (core : Nat) : State := bumpCounter s core (if west then 255 else 254)

/-- A segment has landed at a core: the shelf's record, and the counter. -/
def markLanded (s : State) (west : Bool) (x : Shelf) (core k : Nat) : State :=
  bumpSegment (takeSlot (setShelf s west { x with landed := (core, k) :: x.landed }) x core west (slotOfStep x k)) west core

/-- Time from the start of a shelf's arrival beat in 16 ns units, rounded up: 28.8 core clocks each (UPK_STAT.DEC_PEAK). -/
def decTime (s : State) (x : Shelf) : Nat := ceilDiv (5 * (s.clock - x.startClock).toNat) 144

/-- A step-0 segment lands in its landing slot; the last one of a shelf gives its decode time. -/
def landStep0 (s : State) (west : Bool) (x : Shelf) (core : Nat) : State :=
  let s := markLanded s west x core 0
  if (x.landed.filter (·.2 == 0)).length = 15 then
    let t := BitVec.ofNat 16 (min 65535 (decTime s x))
    { s with upk := { s.upk with decPeak := if s.upk.decPeak.toNat < t.toNat then t else s.upk.decPeak } }
  else s

/-- A segment of step `k` ≥ 1 lands: copied from the core before, with an uncorrectable word marking it poisoned (Table
9-7). -/
def landStep (s : State) (west : Bool) (x : Shelf) (core k : Nat) : State :=
  let src := if west then (core + 1) % 16 else subMod core 1 16
  let a := slotAddr src west (slotOfStep x (k - 1))
  let n := segBytes x
  let bad := ueIn s a n
  let seg := segAt west core k
  let s := match bad with
    | some w => noteUe s (8 * w) none readerForward
    | none => s
  let x := if bad.isSome && !x.badSegs.contains seg then { x with badSegs := seg :: x.badSegs } else x
  let s := cupWrite s (slotAddr core west (slotOfStep x k)) (readBytes s.mem a n) none
  markLanded s west x core k

/-- A segment lands in a core's slot: step 0 from the unpacker, for the arriving shelf or a late one; later steps round the
core ring, once their step's transfer has started. -/
def segmentLand (s : State) (west : Bool) (core k : Nat) : State :=
  if !(s.wrg.state == 3 || s.wrg.state == 4) then s
  else if k = 0 then
    match heldOf s west with
    | some x =>
      if !x.landed.contains (core, 0) && segReady s west x core then landStep0 s west x core
      else match arrOf s west with
        | some y => if !y.landed.contains (core, 0) && segReady s west y core then landStep0 s west y core else s
        | none => s
    | none => match arrOf s west with
      | some y => if !y.landed.contains (core, 0) && segReady s west y core then landStep0 s west y core else s
      | none => s
  else match heldOf s west with
    | some x =>
      let src := if west then (core + 1) % 16 else subMod core 1 16
      if k ≤ s.wrg.step.toNat + 1 && x.landed.contains (src, k - 1) && !x.landed.contains (core, k) then
        landStep s west x core k
      else s
    | none => s

def execSegmentLand (west : Bool) (core : CoreId) (k : Nat) (s : State) : Host.Outcome State Fault Refusal :=
  .next (segmentLand s west core.val k)

/-- Step `k` of the beat starts (R102). -/
def execCoreRingStep (k : Nat) (s : State) : Host.Outcome State Fault Refusal :=
  .next (if s.wrg.state == 3 || s.wrg.state == 4 then { s with wrg := { s.wrg with step := BitVec.ofNat 4 k } } else s)

/-! ### Reads of ring slots (R104, R107, R114, R215) -/

/-- The shelf and step whose segment a slot of a core holds now, where it may be read. -/
def slotShelf (s : State) (core : Nat) (west : Bool) (i : Nat) : Option (Shelf × Nat) :=
  let ok (x : Option Shelf) (k : Nat) : Option (Shelf × Nat) :=
    x.bind fun x => if slotOfStep x k == i && x.landed.contains (core, k) then some (x, k) else none
  if i < 2 then (ok (heldOf s west) 0).or (ok (arrOf s west) 0)
  else
    let st := s.wrg.step.toNat
    (if 1 ≤ st then ok (heldOf s west) st else none).or (if st + 1 < 16 then ok (heldOf s west) (st + 1) else none)

/-- What bytes [a, a + n) of a ring region are to a reader: `window` a read outside its window or of no segment, `poison` a
poisoned slot, `keys` the armoire slots of sealed segments. -/
structure RingView where
  window : Bool
  poison : Bool
  keys : List Nat
  deriving DecidableEq, Repr

/-- The ring bytes of one slot below its offset `hi`. A slot whose segment may not be read stays bound to the key slot of what it
holds, and one that a halt marked is poisoned (R114, R120). -/
def slotView (s : State) (core : Nat) (west : Bool) (i hi : Nat) : RingView :=
  match slotShelf s core west i with
  | none => match slotMark s core west i with
    | none => ⟨true, false, []⟩
    | some m => ⟨!m.poison, m.poison, m.key.toList⟩
  | some (x, k) =>
    ⟨decide (segBytes x < hi), x.poison || x.noKey || x.badSegs.contains (segAt west core k),
      if hdrSealed x.hdr then [hdrKeySlot x.hdr] else []⟩

/-- Two views together. -/
def RingView.join (u v : RingView) : RingView := ⟨u.window || v.window, u.poison || v.poison, u.keys ++ v.keys⟩

/-- The ring bytes of [a, a + n), over every slot of every slice that they touch; the encoded buffers hold no segment. -/
def ringView (s : State) (a n : Nat) : RingView :=
  (List.range 16).foldl (fun v c => (List.range 9).foldl (fun v i =>
    let lo := sliceAddr c (0x1400000 + 0x60000 * i)
    let hi := if i = 8 then sliceAddr c 0x1800000 else lo + 0x60000
    let from' := max a lo
    let hi' := min (a + n) hi
    if !s.wrg.enable || hi' ≤ from' then v
    else if i = 8 then v.join ⟨true, false, []⟩
    else v.join (slotView s c (4 ≤ i) (i % 4) (hi' - lo))) v) ⟨false, false, []⟩

/-- A read outside its window: OVERRUN, and an event naming the core (R107). -/
def ringOverrun (s : State) (core : Nat) : State :=
  postReg { s with wrg := { s.wrg with overrun := true } } 2 none 0x60018 21 (BitVec.ofNat 64 core)

/-- A context is bound to an armoire slot (R114, R357). -/
def keyBound (s : State) (ctx slot : Nat) : Bool := bit (s.arm.slots.toList.getD slot ⟨none, 0⟩).bind ctx

/-! ### The beat boundary (R96 to R98, R106, R112, R116, R120) -/

/-- Segments of a held shelf that have not landed when its beat ends are abandoned (R106). -/
def abandon (s : State) (west : Bool) : State :=
  match heldOf s west with
  | none => s
  | some x =>
    if segBytes x = 0 then s
    else
      let miss := (List.range 16).flatMap fun c => (List.range 16).filterMap fun k =>
        if x.landed.contains (c, k) then none else some c
      let s := miss.foldl (fun s c => bumpSegment s west c) s
      let s := freeShelf s west x.beat
      if miss.isEmpty then s
      else { s with wrg := { s.wrg with abandoned := satAdd s.wrg.abandoned miss.length, overrun := true } }

/-- The arrived shelf of a stream becomes the held one: late where a segment has not landed, poisoned where it is damaged or
not whole (R106, R119). -/
def holdShelf (s : State) (west : Bool) : State :=
  match arrOf s west with
  | none => setHeld s west none
  | some x =>
    let whole := x.stopped || received s west (hdrEncLen x.hdr) == hdrEncLen x.hdr
    let x' := if whole then x else { x with poison := true, stopped := true }
    let late := decide (0 < segBytes x) && !((List.range 16).all fun c => x.landed.contains (c, 0))
    let s := setArr (setHeld s west (some x')) west none
    let s := if whole then s else freeShelf s west x.beat
    let s := if late then { s with wrg := { s.wrg with late := satInc s.wrg.late } } else s
    if x'.poison && s.wrg.state != 2 then notePoison s (hdrGroup x.hdr) else s

/-- The position registers and the trail at a place. -/
def setPlace (s : State) (p : RingPlace) : State :=
  { s with wrg := { s.wrg with
      leadin := p.leadin, j := BitVec.ofNat 6 p.j, lap := BitVec.ofNat 12 p.lap, pass := BitVec.ofNat 16 p.pass, step := 0,
      sendE := none, sendW := none, trail := (s.beat.count, p) :: s.wrg.trail.take 63 } }

/-- A lead-in beat of a lap: the version of the pass is latched, and the lap's group injected; a group marked HOME_UE halts the ring
instead (R97, R116, R118). -/
def leadIn (s : State) (lap pass : Nat) : State :=
  let s := setPlace s ⟨true, 0, lap, pass⟩
  let s := { s with wrg := unmarkSlots { s.wrg with
      passVersion := s.wrg.verCur, passEnded := false, heldE := none, heldW := none, arrE := none, arrW := none } }
  if (s.wrg.dir.map fun d => s.wrg.homeUeMarks.contains (lapGroup d lap)) == some true then meetHalt s 9 s.beat.count
  else injectLap s lap pass

/-- The group that a beat at a place would inject is marked HOME_UE (R118). -/
def markedInjection (s : State) (p : RingPlace) : Bool :=
  match s.wrg.dir with
  | none => false
  | some d =>
    if s.wrg.state != 2 && injects p (ringN s) then
      (if p.leadin then some p else nextPlace s p).any fun q => s.wrg.homeUeMarks.contains (lapGroup d q.lap)
    else false

/-- A beat of a lap begins at a place: shelves are held, then forwarded or injected. -/
def lapBeat (s : State) (p : RingPlace) : State :=
  let s := setPlace (holdShelf (holdShelf s false) true) p
  if p.j + 1 < ringN s then forwardHeld (forwardHeld s false) true
  else if s.wrg.state == 2 then s
  else match nextPlace s p with
    | some q => injectLap s q.lap q.pass
    | none => s

/-- The WRG enters RUNNING from CHECK: counters 254 and 255 are 0, and pass 0 begins with its lead-in (R112, R316). -/
def startPasses (s : State) : State :=
  let s := { s with
    wrg := { s.wrg with state := 3, posValid := true, trail := [] },
    cores := s.cores.map fun c =>
      { c with counters := vmod (vmod c.counters 254 fun _ => ⟨0, true, false⟩) 255 fun _ => ⟨0, true, false⟩ } }
  leadIn s 0 0

/-- The check lap at a beat boundary (R112). -/
def checkBeat (s : State) : State :=
  let p := placeNow s.wrg
  let missing := (expectedPlace s).isSome && [false, true].any fun west => streamOn s west && (arrOf s west).isNone
  match s.wrg.checkBad with
  | some c => refuse s c true
  | none =>
    if missing then refuse s 4 true
    else match nextPlace s p with
      | some q => lapBeat s q
      | none => startPasses s

/-- The shelf of a stream has not come whole, and a port of the stream is or was stopped in the beat (R125). -/
def cutShort (s : State) (west : Bool) : Bool :=
  streamOn s west && (match arrOf s west with
    | none => true
    | some x => decide (received s west (hdrEncLen x.hdr) < hdrEncLen x.hdr) &&
      [0, 1].any fun i =>
        let p := (if west then 2 else 0) + i
        (portAt s p).state != 3 || classStopped s p false)

/-- Halt causes met at a beat boundary: a shelf that did not come, and a marked group that is to be injected at place `next` (R118,
R122, R125). -/
def beatHalts (s : State) (next : Option RingPlace) : State :=
  let old := s.beat.count - 1
  let missing := (expectedPlace s).isSome && [false, true].any (cutShort s)
  let s := if missing then meetHalt s 8 old else s
  if next.any (markedInjection s) then meetHalt s 9 old else s

/-- The ring at a beat boundary, with the new beat's number in BEAT_COUNT. -/
def ringBeat (s : State) : State :=
  let s := { s with wrg := { s.wrg with lostE := false, lostW := false } }
  if s.wrg.checkDue then
    match s.wrg.dir with
    | none => s
    | some d =>
      let s := { s with wrg := { s.wrg with state := 2, checkDue := false, checkBad := none, verCur := d.version } }
      injectCheck (setPlace s ⟨true, 0, 0, 0⟩) d.version
  else if s.wrg.state == 2 then checkBeat s
  else if s.wrg.state == 3 || s.wrg.state == 4 then
    let next := if s.wrg.passEnded then none else nextPlace s (placeNow s.wrg)
    let s := abandon (abandon (beatHalts s next) false) true
    match s.wrg.halt with
    | some (c, b) => haltNow s c b
    | none => match next with
      | some q => lapBeat s q
      | none =>
        { s with wrg := { s.wrg with
          passEnded := true, heldE := none, heldW := none, arrE := none, arrW := none, step := 0, sendE := none,
          sendW := none } }
  else if s.wrg.state == 5 then
    { s with wrg := { s.wrg with halt := s.wrg.halt.filter fun h => h.2 + 1 == s.beat.count } }
  else s

/-! ### Replacement and restart (R115, R121, R124) -/

/-- The last lap of the pass in flight that circulates a group has ended. -/
def groupOver (s : State) (d : RingDir) (g : Nat) : Bool := s.wrg.passEnded || !((d.plan.drop s.wrg.lap.toNat).contains g)

/-- The copy of the next group starts (R115). -/
def groupCopyStart (s : State) : State :=
  match s.wrg.dir with
  | none => s
  | some d =>
    if s.wrg.state == 4 && s.wrg.copying.isNone && s.wrg.copyNext < d.groups && groupOver s d s.wrg.copyNext then
      { s with wrg := { s.wrg with copying := some s.wrg.copyNext, copyNext := s.wrg.copyNext + 1 } }
    else s

def execGroupCopyStart (s : State) : Host.Outcome State Fault Refusal := .next (groupCopyStart s)

/-- A NEXT image written over its CUR image, uncorrectable words staying poisoned and marking the group (R326). -/
def copyImage (s : State) (d : RingDir) (g : Nat) (west : Bool) : State :=
  let src := imageAddr d g west true
  let dst := imageAddr d g west false
  let n := 256 + hdrEncLen (imageHdr s src)
  let bad := s.ue.filter fun w => decide (src ≤ 8 * w ∧ 8 * w < src + n)
  let s := homeRead s g src n
  bad.foldl (fun s w => poisonWord s ((dst + (8 * w - src)) / 8)) (cupWrite s dst (readBytes s.mem src n) none)

/-- The copy of a group ends (R115). -/
def groupCopyEnd (s : State) : State :=
  match s.wrg.copying, s.wrg.dir with
  | some g, some _ =>
    let d := readDir s
    let s := [false, true].foldl (fun s west => if streamOn s west then copyImage s d g west else s) s
    { s with wrg := { s.wrg with copying := none } }
  | _, _ => s

def execGroupCopyEnd (s : State) : Host.Outcome State Fault Refusal := .next (groupCopyEnd s)

/-- CUR and the directory VERSION become V′ (R115). -/
def takeVersion (s : State) (v : W16) : State :=
  let s := cupWrite s (dirAddr s + 12) (leBytes 2 v.toNat) none
  { s with wrg := { s.wrg with verCur := v, dir := s.wrg.dir.map fun d => { d with version := v } } }

/-- The switch of R115 at a beat boundary: the pass in flight has ended and every copy is done. -/
def swapSwitch (s : State) : State :=
  match s.wrg.dir with
  | none => s
  | some d =>
    if s.wrg.state == 4 && s.wrg.passEnded && s.wrg.copying.isNone && s.wrg.copyNext == d.groups then
      let s := takeVersion s s.wrg.verNext
      let s := releaseHeld { s with wrg := { s.wrg with state := 3, swap := false, restartZero := false } }
      leadIn s 0 ((s.wrg.pass.toNat + 1) % 65536)
    else s

def execSwapSwitch (s : State) : Host.Outcome State Fault Refusal := .next (swapSwitch s)

/-- SWAP begins at the COMMIT beat of a version change on a ring that runs; where that beat is the last of its pass, the shelves set
off for a following pass do not leave (R115, R124). -/
def enterSwap (s : State) : State :=
  if s.wrg.state == 3 then
    let s := { s with wrg := { s.wrg with state := 4, swap := true, copyNext := 0, copying := none, passEnded := false } }
    if (nextPlace s (placeNow s.wrg)).isNone then { s with wrg := { s.wrg with sendE := none, sendW := none } } else s
  else s

/-- A later lap of the frozen pass, or the frozen lap, circulates a group marked HOME_UE (R121). -/
def homeBad (s : State) : Bool :=
  match s.wrg.dir with
  | none => false
  | some d => (d.plan.drop s.wrg.lap.toNat).any fun g => s.wrg.homeUeMarks.contains g

/-- What a committed RESTART starts: with ZERO = 0 the pass goes on at the frozen lap, with ZERO = 1 a new pass starts, or the
replacement first goes on (R121, R124). -/
def restartRing (s : State) (zero : Bool) (d : RingDir) : State :=
  let s := { s with wrg := { s.wrg with dir := some d } }
  if !zero then leadIn { s with wrg := { s.wrg with state := if s.wrg.swap then 4 else 3 } } s.wrg.lap.toNat s.wrg.pass.toNat
  else if s.wrg.swap then { s with wrg := { s.wrg with state := 4, passEnded := true, restartZero := true } }
  else leadIn { s with wrg := { s.wrg with state := 3, verCur := d.version } } 0 ((s.wrg.pass.toNat + 1) % 65536)

/-- The directory read again shows a change that needs FORM instead of RESTART (R117, R121). -/
def restartBad (s : State) (zero : Bool) (d d0 : RingDir) : Bool :=
  (!zero && homeBad s) || !dirOk s d || d.nPacked != d0.nPacked || d.plan != d0.plan || d.groups != d0.groups

/-- A committed RESTART (R121, R124). It does not act where the ring halts at its beat or met a cause in the beat before, where it
would inject a group marked HOME_UE (R118), or where the directory, read again, shows a change that needs FORM instead (R117). -/
def restart (s : State) : State :=
  match s.wrg.restartDue, s.wrg.dir with
  | some zero, some d0 =>
    let s := { s with wrg := { s.wrg with restartDue := none } }
    if s.wrg.state != 5 || s.wrg.trail.any (·.1 == s.beat.count) then s
    else match s.wrg.halt with
      | some (c, _) => { s with wrg := { s.wrg with cause := c, halt := none } }
      | none =>
        let d := readDir s
        let s := noteDir s d
        if restartBad s zero d d0 then s
        else if zero && !s.wrg.swap && s.wrg.homeUeMarks.contains (lapGroup d 0) then
          sendAll { s with wrg := { s.wrg with cause := 9 } } (ringOthers s) (.halt ⟨s.beat.count⟩)
        else restartRing s zero d
  | _, _ => s

def execRestart (s : State) : Host.Outcome State Fault Refusal := .next (restart s)

/-- The WRG returns to OFF at an epoch change, with cause EPOCH (R113, R362). On a WRG that is OFF already CAUSE stays as it is; and
the HOME_UE marks of the groups go with the formation, though R122 names only the owner's write (DESIGN CHOICE, assumption log 26). -/
def ringEpoch (s : State) : State :=
  if s.wrg.state == 0 then { s with wrg := { s.wrg with records := [] } }
  else releaseHeld { s with
    wrg := { clearRing s.wrg with state := 0, cause := 11, homeUeMarks := [] },
    upk := clearUnpacker s.upk }

/-! ### WRG registers (Tables 3-7 to 3-14) -/

def wrgErr (s : State) (e : BitVec 4) : State := { s with wrg := { s.wrg with err := e } }

/-- The ring regions of all slices filled with zeros (R322). -/
def zeroRegions (s : State) : State :=
  (List.range 16).foldl (fun s c => cupZero s (sliceAddr c 0x1400000) 0x400000)
    { s with wrg := { s.wrg with regionFill := true, slots := [] } }

/-- A write of WRG_CTL. The manual puts NOPART before every other check of Table 3-14 and orders none of the others: the model takes
STAGE, STATE, DIR, LIVE, HOMEBAD (DESIGN CHOICE, assumption log 26). -/
def wrgCtlWrite (s : State) (v : W32) : State :=
  let w := s.wrg
  let form := bit v 4
  let rst := bit v 7
  let en := bit v 0
  let mb := v.extractLsb' 19 9
  let live := w.state == 1 || w.state == 2 || w.state == 3 || w.state == 4
  if form && !formed s then wrgErr s 6
  else if rst && s.own.stage.state != 1 then lockedErr (wrgErr s 4)
  else if (form && (!(w.state == 0 || w.state == 6) || !en)) || (rst && w.state != 5) then wrgErr s 1
  else if 383 < mb.toNat || (en && ringFrame mb.toNat) then wrgErr s 2
  else if live && (en != w.enable || mb != w.dirMb || bit v 2 != w.east || bit v 3 != w.west) then wrgErr s 3
  else if rst && !bit v 6 && homeBad s then wrgErr s 5
  else
    let s := { s with wrg := { s.wrg with dirMb := mb, east := bit v 2, west := bit v 3 } }
    let s := if rst then
        { s with own := { s.own with stage := { s.own.stage with staged := { s.own.stage.staged with restart := some (bit v 6) } } } }
      else s
    let s := if en == w.enable then s
      else
        let s := zeroRegions { s with wrg := { s.wrg with enable := en } }
        if !en && (w.state == 5 || w.state == 6) then
          releaseHeld { s with wrg := { clearRing s.wrg with state := 0 } } else s
    if bit v 5 && (w.state == 3 || w.state == 4 || w.state == 5) then meetHalt s 10 s.beat.count
    else if form then startForm s
    else s

def execForm (via : Via) (v : W32) (s : State) : Host.Outcome State Fault Refusal :=
  .next (guarded s via 0x60000 fun s => wrgCtlWrite s (v ||| 0x10))

def execWrgHalt (via : Via) (v : W32) (s : State) : Host.Outcome State Fault Refusal :=
  .next (guarded s via 0x60000 fun s => wrgCtlWrite s (v ||| 0x20))

def execWrgEnable (via : Via) (v : W32) (s : State) : Host.Outcome State Fault Refusal :=
  .next (guarded s via 0x60000 fun s => wrgCtlWrite s v)

def execRingRegionFillEnd (s : State) : Host.Outcome State Fault Refusal :=
  .next { s with wrg := { s.wrg with regionFill := false } }

/-- A write of WRG_STAT: its W1C bits; HOME_UE also clears the group marks (R122). -/
def wrgStatWrite (s : State) (v : W32) : State :=
  { s with wrg := { s.wrg with
      poison := s.wrg.poison && !bit v 23, homeUe := s.wrg.homeUe && !bit v 22, overrun := s.wrg.overrun && !bit v 21,
      homeUeMarks := if bit v 22 then [] else s.wrg.homeUeMarks } }

def execHomeUeClear (via : Via) (v : W32) (s : State) : Host.Outcome State Fault Refusal :=
  .next (guarded s via 0x60018 fun s => wrgStatWrite s (v ||| 0x400000))

end Sys2Proof.Machine
end

