-- ==== Sys2Proof/Machine/CoreCtl.lean ====
section
/-! DEFINITION. Machine/CoreCtl.lean: the states of a core, its control registers, faults and stall counters (R130 to R136,
R149 to R162, R191 to R195, R261 to R263). -/

namespace Sys2Proof.Machine

/-! ### Events and faults of a core (R191 to R195, R481) -/

/-- A class 0 event of a core, in the core's context. -/
def postCore (s : State) (n kind : Nat) (b : EvtBody) : State :=
  let c := coreAt s n
  post s 0 kind (some ⟨c.ctx.toNat, c.ctx.isLt⟩) b

/-- Bits 31:0 of the beat count; 0 outside a formed partition. -/
def beat32 (s : State) : W32 := if formed s then s.beat.count.setWidth 32 else 0

/-- A fault record posted: at most 8 in an episode, the eighth with MORE (R194). -/
def postFault (s : State) (n code sub agent : Nat) (precise : Bool) (instr detail : W32) : State :=
  let c := coreAt s n
  if 8 ≤ c.faults then s
  else
    postCore (modCore s n fun c => { c with faults := c.faults + 1 }) n 1
      (.fault code sub n agent precise c.ctx.toNat (c.faults == 7) instr detail (beat32 s))

/-- A wait or fence in progress in the CP is abandoned; COR_PC_LO stays at it (R157). -/
def dropWait (c : Core) : Core := { c with wait := .none, waitBeats := 0, waitClks := 0, waitPosted := false }

/-- A precise fault of the CP: no effect of the instruction, the core enters FAULTED with COR_PC_LO at it (R193). -/
def cpFault (s : State) (n code sub : Nat) (detail : W32) : State :=
  modCore (postFault s n code sub 0 true (coreAt s n).pc detail) n fun c => { dropWait c with state := 4, stopNext := 4 }

/-- What an imprecise fault does to the state of a core: issue stops, and STOP will record FAULT; in DRAINING it stops nothing
further (R157, R193, R195). -/
def imprecise (c : Core) : Core :=
  let c := dropWait c
  if c.state == 1 || c.state == 2 then { c with state := 4, stopNext := 4 }
  else if c.state == 3 && c.stopNext != 5 && c.stopNext != 6 then { c with stopNext := 4 }
  else c

/-- The register that a queue entry returns to. -/
def entryDest (e : QEntry) : Option (BitVec 5) := match e.work with
  | .tflg d => some d
  | .op (.cpri f) _ _ _ _ _ _ => some f.d
  | _ => none

/-- The entry is a CPRI. -/
def isCpri (e : QEntry) : Bool := match e.work with
  | .op (.cpri _) _ _ _ _ _ _ => true
  | _ => false

/-- TFLG.CP instructions that no earlier CPRI holds any more receive the CP's flag word in order, each clearing it (R216). -/
def flagBits (f : FlagWord) : W64 :=
  BitVec.ofNat 64 (boolNat f.invalid + 2 * boolNat f.overflow + 4 * boolNat f.nan + 8 * boolNat f.window + 256 * f.count.toNat)

/-- A scalar register written, and no longer pending (R139). -/
def putS (c : Core) (d : BitVec 5) (v : W64) : Core :=
  { c with s := vmod c.s d.toNat fun _ => v, sPend := setBit c.sPend d.toNat false }

/-- TFLG.CP results that are due are delivered. -/
def settleTflg : Nat → Core → Core
  | 0, c => c
  | k + 1, c => match c.tflgCp with
    | (d, 0) :: r => settleTflg k { putS c d (flagBits c.cpFlags) with cpFlags := .clear, tflgCp := r }
    | _ => c

/-- One outstanding CPRI fewer: a TFLG.CP issued after it waits for one fewer. -/
def cpriGone (c : Core) : Core :=
  settleTflg 32 { c with cpriOut := c.cpriOut - 1, tflgCp := c.tflgCp.map fun e => (e.1, e.2 - 1) }

/-- A discarded queue entry returns no value, so its register is no longer pending (R233, DEDUCED for TFLG and for a CPRI
that a fault discards). -/
def discardEntry (c : Core) (e : QEntry) : Core :=
  let c := match entryDest e with
    | some d => { c with sPend := setBit c.sPend d.toNat false }
    | none => c
  if isCpri e then cpriGone c else c

/-- A unit changed. -/
def modUnit (c : Core) (u : Nat) (f : CUnit → CUnit) : Core := { c with units := vmod c.units u f }

/-- The queue of a unit discarded. -/
def discardQueue (c : Core) (u : Nat) : Core :=
  let q := (c.units.toList.getD u CUnit.empty).queue
  modUnit (q.foldl discardEntry c) u fun x => { x with queue := [] }

/-- An imprecise fault of a unit: the rest of its queue is discarded (R193). -/
def unitFault (s : State) (n u code sub : Nat) (pc detail : W32) : State :=
  modCore (postFault s n code sub (u + 1) false pc detail) n fun c => imprecise (discardQueue c u)

/-- An array that holds nothing: neither generation's registers, nor sums, nor a tile; its configuration stays (R252, R267). -/
def TrsArray.clear (x : TrsArray) : TrsArray := { x with
  loaded := false, keepable := false, tile := [], regs0 := [], regs1 := [], cells := [], file := [], staging := none }

/-- An instruction, a wait or a TFLG reaches the head of a disabled trestle's queue: UNIT with OFFLINE, and an empty array (R252,
R263). -/
def unitOffline (s : State) (n u : Nat) (pc : W32) : State :=
  modCore (unitFault s n u 9 9 pc 0) n fun c => { c with arrays := vmod c.arrays u TrsArray.clear }

/-! ### HALTED (R132, R134, R175, R262) -/

/-- Every posted CP store is written to the cupboard (R175). -/
def flushStores (s : State) (n : Nat) : State :=
  let s := (coreAt s n).stores.foldl (fun s w => cupWrite s w.1 (leBytes w.2.1 w.2.2.toNat) (some n)) s
  modCore s n fun c => { c with stores := [] }

/-- Every value on its way to a scalar register is written. -/
def flushRets (c : Core) : Core := { c.rets.foldl (fun c r => putS c r.d r.value) c with rets := [] }

/-- Field disables requested take effect (R262). -/
def applyFdis (c : Core) : Core := if c.selfTested then { c with trsDis := c.trsDis ||| c.fdisReq } else c

/-- The core enters HALTED with the STOP code of its drain; after an epoch change its arrays are then empty (R252). -/
def enterHalted (s : State) (n : Nat) : State :=
  modCore (flushStores s n) n fun c =>
    applyFdis { dropWait (flushRets c) with
      state := 0, stop := c.stopNext, stopNext := 0, faults := 0
      arrays := if c.stopNext == 6 then c.arrays.map TrsArray.clear else c.arrays }

/-- Queues empty and no transfer outstanding. -/
def idleCore (c : Core) : Bool :=
  c.units.toList.all (fun u => u.queue.isEmpty && u.flight.isEmpty) && movOut c == 0

/-- A core that drains, or whose single step has completed, enters HALTED (R132, R135). -/
def coreDrained (s : State) (n : Nat) : State :=
  let c := coreAt s n
  if (c.state == 3 || c.state == 4) && idleCore c then enterHalted s n
  else if c.state == 2 && c.stopNext == 2 && idleCore c && c.rets.isEmpty then enterHalted s n
  else s

def execCoreDrained (core : CoreId) (s : State) : Host.Outcome State Fault Refusal := .next (coreDrained s core.val)

/-! ### COR_CTL and COR_PC_LO (R133 to R136, R156, R157) -/

/-- Offset of a core register. -/
def corReg (n off : Nat) : Nat := 0x100000 + 0x10000 * n + off

/-- COR_CTL.ERR set by a refused write (Table 4-10). -/
def corErr (s : State) (n : Nat) (e : BitVec 4) : State := modCore s n fun c => { c with err := e }

/-- A context exists on the chip. -/
def ctxExists (s : State) (t : Nat) : Bool := (s.own.ctxs.toList.getD t ⟨false, 0⟩).isPresent

/-- [a, a + n) lies in a context's cupboard space (R323). -/
def inSpace (s : State) (t a n : Nat) : Bool := inFrames s a n (readableKind t)

/-- RUN and STEP: the core starts; no core runs before its self-test has ended (R261). -/
def startCore (c : Core) (single : Bool) : Core :=
  if c.selfTested then { dropWait c with state := if single then 2 else 1, stopNext := 0, refetch := true, ahead := [] } else c

/-- HALT: issue stops, a wait in the CP is abandoned, queued work drains (R134, R157). -/
def haltCore (c : Core) : Core :=
  if c.state == 1 || c.state == 2 then { dropWait c with state := 3, stopNext := 1 } else c

/-- The command bit of a write of COR_CTL that acts: the highest-numbered of CRESET, STEP, HALT and RUN (R157). -/
def ctlCommand (v : W32) : Option Nat := [3, 2, 1, 0].find? fun i => bit v i

/-- The refusal code of a write of COR_CTL, 0 where it is accepted (Table 4-10). -/
def ctlRefusal (s : State) (n : Nat) (v : W32) : BitVec 4 :=
  let c := coreAt s n
  let starts := ctlCommand v == some 0 || ctlCommand v == some 2
  let moves := bits v 24 4 != c.ctx.toNat
  if !starts && !moves then 0
  else if c.state != 0 then 1
  else if !ctxExists s (bits v 24 4) then 2
  else if starts && !inSpace s (bits v 24 4) c.pc.toNat 8 then 3
  else 0

/-- The plain fields of COR_CTL written, and STALL_CLR. -/
def ctlFields (c : Core) (v : W32) : Core :=
  { c with
    ctx := v.extractLsb' 24 4, waitLimit := v.extractLsb' 20 4, stallSel := v.extractLsb' 17 3, freeze := bit v 16,
    stall := if bit v 15 then Vector.replicate 10 0 else c.stall }

/-- COR_PC_LO: writable in HALTED only; bits 2:0 read 0 (Table 4-8). A value above the cupboard's 29 bits stays as written, and RUN
or STEP then meets the code PC (Table 4-10). -/
def corPcWrite (s : State) (n : Nat) (v : W32) : State :=
  if (coreAt s n).state != 0 then corErr s n 1 else modCore s n fun c => { c with pc := v &&& 0xFFFFFFF8 }

def execStallLoRead (core : CoreId) (via : Via) (k : Fin 10) (s : State) : Host.Outcome State Fault Refusal :=
  .next (readOut s via (corReg core.val (0x100 + 8 * k.val)))

def execStallHiRead (core : CoreId) (via : Via) (k : Fin 10) (s : State) : Host.Outcome State Fault Refusal :=
  .next (readOut s via (corReg core.val (0x104 + 8 * k.val)))

/-! ### Self-test and field disable (R261, R262) -/

/-- The start-up steps that end without a command of their own: POWER once the sequencer has no switch left, SELFTEST once
every core that is on has been tested (Tables 16-1, 16-2). -/
def advanceBoot (s : State) : State :=
  let s := if s.glb.state == 1 && s.pwr.busy.isNone then { s with glb := { s.glb with state := 2 } } else s
  if s.glb.state == 2 && (List.range 16).all (fun n => (coreAt s n).selfTested || !domainOn s n) then
    { s with glb := { s.glb with state := 3 } }
  else s

/-- The spare rows and spare columns that a REPAIR word gives trestle `t` are within the limits of every cover: 8 and 2. -/
def coverFits (cover : BitVec 24) (t : Nat) : Bool := decide (bits cover (6 * t + 2) 4 ≤ 8 ∧ bits cover (6 * t) 2 ≤ 2)

/-- The cover of a trestle in two REPAIR words has the same numbers of spares. -/
def sameCover (x y : BitVec 24) (t : Nat) : Bool := bits x (6 * t) 6 == bits y (6 * t) 6

/-- The self-test of a core's trestles ends, once after a chip reset. `fails`: the trestles without a cover; `cover`: the covers found;
`soft`: the covers that name other spares than the fuse map's. A trestle whose faults take more spares than it has is without a cover
too, and its REPAIR field then reads 0 (assumption log 80). -/
def selftestEnd (s : State) (n : Nat) (fails soft : BitVec 4) (cover : BitVec 24) : State :=
  if !s.glb.fuseDone || !domainOn s n || (coreAt s n).selfTested then s
  else
    let fuse := s.glb.fuses.repair.toList.getD n 0
    let lost (t : Nat) : Bool := bit fails t || !coverFits cover t
    let fails : BitVec 4 := BitVec.ofNat 4 (bitsOf 4 lost)
    let s := modCore s n fun c => { c with
      selfTested := true, trsFail := fails, trsDis := fails ||| c.fdisReq
      soft := BitVec.ofNat 4 (bitsOf 4 fun t => !lost t && (bit soft t || !sameCover cover fuse t))
      repair := BitVec.ofNat 24 (((List.range 4).map fun t => if lost t then 0 else bits cover (6 * t) 6 * 64 ^ t).sum) }
    advanceBoot (((List.range 4).filter fun t => bit fails t).foldl
      (fun s t => postReg s 4 none (corReg n 0x010) (24 + t) (detail2 n t)) s)

def execSelftestEnd (core : CoreId) (fails soft : BitVec 4) (cover : BitVec 24) (s : State) :
    Host.Outcome State Fault Refusal := .next (selftestEnd s core.val fails soft cover)

/-- A write of COR_TRS_FUSE: FDIS bits set, but for a trestle that is disabled already (R270); at once on a HALTED core. -/
def fdisWrite (s : State) (n : Nat) (v : W32) : State :=
  modCore s n fun c =>
    let c := { c with fdisReq := c.fdisReq ||| (v.extractLsb' 28 4 &&& ~~~c.trsDis) }
    if c.state == 0 then applyFdis c else c

def execFdis (core : CoreId) (via : Via) (v : W32) (s : State) : Host.Outcome State Fault Refusal :=
  .next (guarded s via (corReg core.val 0x014) fun s => fdisWrite s core.val v)

end Sys2Proof.Machine
end

