-- ==== Sys2Proof/Machine/Numerics.lean ====
section
/-! DEFINITION. Machine/Numerics.lean: the arithmetic of chapter 8. A finite value is an exact dyadic number; every rounding
is one of the functions below, applied where the manual says a result is rounded. -/

namespace Sys2Proof.Machine

/-! ### Exact dyadic values -/

/-- The integer v. -/
def Dy.ofInt (v : Int) : Dy := ⟨v, 0⟩

/-- The numerator of a value at an exponent not above its own. -/
def Dy.at (x : Dy) (e : Int) : Int := x.m * 2 ^ (x.e - e).toNat

/-- Exact sum. -/
def Dy.add (x y : Dy) : Dy := let e := min x.e y.e; ⟨x.at e + y.at e, e⟩
/-- Exact negation. -/
def Dy.neg (x : Dy) : Dy := ⟨-x.m, x.e⟩
/-- Exact difference. -/
def Dy.sub (x y : Dy) : Dy := x.add y.neg
/-- Exact product. -/
def Dy.mul (x y : Dy) : Dy := ⟨x.m * y.m, x.e + y.e⟩
/-- Exact magnitude. -/
def Dy.abs (x : Dy) : Dy := ⟨x.m.natAbs, x.e⟩
/-- Exact scaling by 2^k. -/
def Dy.scale (x : Dy) (k : Int) : Dy := ⟨x.m, x.e + k⟩
/-- x < y. -/
def Dy.lt (x y : Dy) : Bool := let e := min x.e y.e; decide (x.at e < y.at e)
/-- x ≤ y. -/
def Dy.le (x y : Dy) : Bool := !(y.lt x)

/-- ⌊log₂ |x|⌋ of a non-zero value (R276). -/
def Dy.log2 (x : Dy) : Int := x.e + (Nat.log2 x.m.natAbs : Nat)

/-- The finite value of an exact result, a zero being +0. -/
def Num.ofDy (v : Dy) : Num := .fin (decide (v.m < 0)) v
/-- An integer element. -/
def Num.ofInt (v : Int) : Num := .ofDy (.ofInt v)

/-! ### Element formats (Tables 5-3, 8-1) -/

/-- Bits of an element of a format code; 0 for a code outside Table 5-3. -/
def fmtBits : Nat → Nat
  | 0 => 4 | 1 => 8 | 2 => 16 | 3 => 16 | 4 => 32 | 5 => 64 | 6 => 32 | 7 => 64 | _ => 0

/-- Exponent and fraction widths of a floating format code. -/
def fmtFloat : Nat → Option (Nat × Nat)
  | 2 => some (8, 7) | 3 => some (5, 10) | 4 => some (8, 23) | 5 => some (11, 52) | _ => none

/-- The format is an integer format. -/
def fmtInt (f : Nat) : Bool := f == 0 || f == 1 || f == 6 || f == 7

/-- The value of a two's-complement integer of `w` bits. -/
def intOf (w bits : Nat) : Int := if bits < 2 ^ (w - 1) then (bits : Int) else (bits : Int) - 2 ^ w

/-- The value of a floating encoding (R273). -/
def floatOf (ew mw bits : Nat) : Num :=
  let neg := decide (bits / 2 ^ (ew + mw) % 2 = 1)
  let ex := bits / 2 ^ mw % 2 ^ ew
  let fr := bits % 2 ^ mw
  let bias : Int := 2 ^ (ew - 1) - 1
  let sg : Int := if neg then -1 else 1
  if ex = 2 ^ ew - 1 then (if fr = 0 then .inf neg else .nan)
  else if ex = 0 then .fin neg ⟨sg * fr, 1 - bias - mw⟩
  else .fin neg ⟨sg * (2 ^ mw + fr : Nat), (ex : Int) - bias - mw⟩

/-- The value of an element of a format code. -/
def elemOf (fmt bits : Nat) : Num :=
  match fmtFloat fmt with
  | some (ew, mw) => floatOf ew mw bits
  | none => .ofInt (intOf (fmtBits fmt) bits)

/-! ### Rounding (R282 to R284, R286, R289) -/

/-- Whether a truncated quotient `k` with remainder `rem` of `den` is rounded up in magnitude under RND (Table 6-3). -/
def roundUp (rnd : BitVec 2) (neg : Bool) (k rem den : Nat) : Bool :=
  match rnd with
  | 0#2 => decide (2 * rem > den) || (decide (2 * rem = den) && decide (k % 2 = 1))
  | 1#2 => false
  | 2#2 => !neg && decide (rem ≠ 0)
  | _ => neg && decide (rem ≠ 0)

/-- The quiet NaN of a floating format (R286). -/
def qnan (ew mw : Nat) : Nat := (2 ^ ew - 1) * 2 ^ mw + 2 ^ (mw - 1)

/-- The encoding of ±∞. -/
def infBits (ew mw : Nat) (neg : Bool) : Nat := (if neg then 2 ^ (ew + mw) else 0) + (2 ^ ew - 1) * 2 ^ mw

/-- The magnitude of a non-zero value rounded to an integer number of units of 2^q. -/
def roundMag (rnd : BitVec 2) (neg : Bool) (v : Dy) (q : Int) : Nat :=
  let n := v.m.natAbs
  if q ≤ v.e then n * 2 ^ (v.e - q).toNat
  else
    let den := 2 ^ (q - v.e).toNat
    let k := n / den
    if roundUp rnd neg k (n % den) den then k + 1 else k

/-- A value rounded once into a floating format (R282, R283, Table 8-2). -/
def roundFloat (ew mw : Nat) (rnd : BitVec 2) (neg : Bool) (v : Dy) : Nat :=
  let sbit := if neg then 2 ^ (ew + mw) else 0
  if v.m = 0 then sbit
  else
    let emin : Int := 2 - 2 ^ (ew - 1)
    let q := max v.log2 emin - mw
    let k := roundMag rnd neg v q
    let enc := (q + mw - emin).toNat * 2 ^ mw + k
    let inf := (2 ^ ew - 1) * 2 ^ mw
    if enc < inf then sbit + enc
    else
      let toInf := match rnd with
        | 0#2 => true
        | 1#2 => false
        | 2#2 => !neg
        | _ => neg
      sbit + (if toInf then inf else inf - 1)

/-- A value rounded to an integer under RND. -/
def roundInt (rnd : BitVec 2) (v : Dy) : Int :=
  let neg := decide (v.m < 0)
  let k := roundMag rnd neg v 0
  if neg then -(k : Int) else k

/-- A written element: its bits, and whether it sets OVERFLOW or NAN (R216). -/
structure Elem where
  bits : Nat
  overflow : Bool
  nan : Bool
  deriving DecidableEq, Repr

/-- An integer saturated into `w` bits (R284, R289). -/
def satElem (w : Nat) (v : Int) : Elem :=
  if v < -(2 ^ (w - 1)) then ⟨2 ^ (w - 1), true, false⟩
  else if v > 2 ^ (w - 1) - 1 then ⟨2 ^ (w - 1) - 1, true, false⟩
  else ⟨(v % 2 ^ w).toNat, false, false⟩

/-- A result written in a format: rounded once, saturated into integer formats, NaN made quiet (R282 to R289). The
result of a fix64 destination is scaled by 2^σ first where the caller asks for it. -/
def writeElem (fmt : Nat) (rnd : BitVec 2) (x : Num) : Elem :=
  match fmtFloat fmt with
  | some (ew, mw) =>
    match x with
    | .nan => ⟨qnan ew mw, false, true⟩
    | .inf neg => ⟨infBits ew mw neg, false, false⟩
    | .fin neg v => ⟨roundFloat ew mw rnd neg v, false, false⟩
  | none =>
    let w := fmtBits fmt
    match x with
    | .nan => ⟨0, true, false⟩
    | .inf neg => ⟨if neg then 2 ^ (w - 1) else 2 ^ (w - 1) - 1, true, false⟩
    | .fin _ v => satElem w (roundInt rnd v)

/-- The drain's ROUND: an exactly zero finite accumulator writes +0 (R283), a fix64 destination is scaled by 2^σ. -/
def drain (fmt : Nat) (rnd : BitVec 2) (sigma : Int) (x : Num) : Elem :=
  match x with
  | .fin _ v => writeElem fmt rnd (.ofDy (if fmt = 7 then v.scale sigma else v))
  | y => writeElem fmt rnd y

/-! ### Block alignment (R275 to R280, R298) -/

/-- The exponent of an element that has one: finite and non-zero. -/
def Num.expo? : Num → Option Int
  | .fin _ v => if v.m = 0 then none else some v.log2
  | _ => none

/-- The larger of two block exponents, either of which may not exist. -/
def maxExp : Option Int → Option Int → Option Int
  | none, y => y
  | x, none => x
  | some x, some y => some (max x y)

/-- The block exponent of a list of elements (R276). -/
def blockExp (xs : List Num) : Option Int := xs.foldl (fun a x => maxExp a x.expo?) none

/-- A finite element aligned at width `b` with exponent `e` (R277): q = min(RNE(|x|·2^(b−1−E)), 2^b − 1). -/
def alignTo (b : Nat) (e : Option Int) (x : Num) : Num :=
  match x, e with
  | .fin neg v, some ex =>
    let unit := ex - b + 1
    let q := min (roundMag 0#2 false v.abs unit) (2 ^ b - 1)
    .fin neg ⟨if neg then -(q : Int) else q, unit⟩
  | .fin neg _, none => .fin neg ⟨0, 0⟩
  | y, _ => y

/-- A list of elements cut into blocks of 32 (R275); `fuel` bounds the number of blocks. -/
def blocksOf : Nat → List Num → List (List Num)
  | 0, _ => []
  | n + 1, xs => match xs with
    | [] => []
    | _ :: _ => xs.take 32 :: blocksOf n (xs.drop 32)

/-- A row of A or column of B aligned block by block on its own exponents (R275 to R277). -/
def alignRow (b : Nat) (xs : List Num) : List Num :=
  ((blocksOf (xs.length / 32 + 1) xs).map fun blk => blk.map (alignTo b (blockExp blk))).flatten

/-- The block exponents of a row. -/
def rowExps (xs : List Num) : List (Option Int) := (blocksOf (xs.length / 32 + 1) xs).map blockExp

/-- A row aligned with given block exponents. -/
def alignWith (b : Nat) (es : List (Option Int)) (xs : List Num) : List Num :=
  (((blocksOf (xs.length / 32 + 1) xs).zip es).map fun p => p.1.map (alignTo b p.2)).flatten

/-! ### Accumulation with classes (R281, R285, Table 8-3) -/

/-- A sum in progress: its exact finite part and the classes of its terms. -/
structure Acc where
  sum : Dy
  nan : Bool
  pinf : Bool
  ninf : Bool
  deriving DecidableEq, Repr

/-- The empty sum. -/
def Acc.zero : Acc := ⟨⟨0, 0⟩, false, false, false⟩

/-- A sum with one term more. -/
def Acc.add (a : Acc) : Num → Acc
  | .nan => { a with nan := true }
  | .inf true => { a with ninf := true }
  | .inf false => { a with pinf := true }
  | .fin _ v => { a with sum := a.sum.add v }

/-- The outcome of a sum (Table 8-3). -/
def Acc.result (a : Acc) : Num :=
  if a.nan || (a.pinf && a.ninf) then .nan
  else if a.pinf then .inf false
  else if a.ninf then .inf true
  else .ofDy a.sum

/-- A product term: classes come from the stored values `x`, `y`, the value from the aligned ones (R285). -/
def mulTerm (x y ax ay : Num) : Num :=
  match x, y with
  | .nan, _ => .nan
  | _, .nan => .nan
  | .inf s, .inf t => .inf (s != t)
  | .inf s, .fin t v => if v.m = 0 then .nan else .inf (s != t)
  | .fin s v, .inf t => if v.m = 0 then .nan else .inf (s != t)
  | .fin _ _, .fin _ _ =>
    match ax, ay with
    | .fin _ p, .fin _ q => .ofDy (p.mul q)
    | _, _ => .nan

/-- A difference term of TL1 and, squared, of TL2. -/
def diffTerm (square : Bool) (x y ax ay : Num) : Num :=
  match x, y with
  | .nan, _ => .nan
  | _, .nan => .nan
  | .inf s, .inf t => if s == t then .nan else .inf false
  | .inf _, _ => .inf false
  | _, .inf _ => .inf false
  | .fin _ _, .fin _ _ =>
    match ax, ay with
    | .fin _ p, .fin _ q => let d := p.sub q; .ofDy (if square then d.mul d else d.abs)
    | _, _ => .nan

/-- A sum term of TMINP and TMAXP. -/
def sumTerm (x y ax ay : Num) : Num :=
  match x, y with
  | .nan, _ => .nan
  | _, .nan => .nan
  | .inf s, .inf t => if s == t then .inf s else .nan
  | .inf s, _ => .inf s
  | _, .inf t => .inf t
  | .fin _ _, .fin _ _ =>
    match ax, ay with
    | .fin _ p, .fin _ q => .ofDy (p.add q)
    | _, _ => .nan

/-- x ≥ y under IEEE 754 ordering; false with a NaN. -/
def Num.ge (x y : Num) : Bool :=
  match x, y with
  | .nan, _ => false
  | _, .nan => false
  | .inf s, .inf t => !s || t
  | .inf s, .fin _ _ => !s
  | .fin _ _, .inf t => t
  | .fin _ p, .fin _ q => q.le p

/-- The lesser (`mx` false) or greater of two terms; NaN if either is NaN (Table 8-3). -/
def extTerm (mx : Bool) (x y : Num) : Num :=
  match x, y with
  | .nan, _ => .nan
  | _, .nan => .nan
  | _, _ => if x.ge y == mx then x else y

/-- Number of one bits among the low `n` bits. -/
def popcount : Nat → Nat → Nat
  | 0, _ => 0
  | n + 1, v => v % 2 + popcount n (v / 2)

/-! ### IEEE arithmetic of the vector unit (R288) -/

/-- The zero that an exact zero sum of two non-zero values takes. -/
def zeroSum (rnd : BitVec 2) : Num := .fin (rnd == 3#2) ⟨0, 0⟩

/-- Exact sum with IEEE zero signs. -/
def numAdd (rnd : BitVec 2) (x y : Num) : Num :=
  match x, y with
  | .nan, _ => .nan
  | _, .nan => .nan
  | .inf s, .inf t => if s == t then .inf s else .nan
  | .inf s, _ => .inf s
  | _, .inf t => .inf t
  | .fin s p, .fin t q =>
    let v := p.add q
    if v.m = 0 then (if p.m = 0 && q.m = 0 && s == t then .fin s ⟨0, 0⟩ else zeroSum rnd)
    else .ofDy v

/-- Negation. -/
def numNeg : Num → Num
  | .nan => .nan
  | .inf s => .inf !s
  | .fin s v => .fin (!s) v.neg

/-- Magnitude. -/
def numAbs : Num → Num
  | .nan => .nan
  | .inf _ => .inf false
  | .fin _ v => .fin false v.abs

/-- Exact product with IEEE signs. -/
def numMul (x y : Num) : Num :=
  match x, y with
  | .nan, _ => .nan
  | _, .nan => .nan
  | .inf s, .inf t => .inf (s != t)
  | .inf s, .fin t v => if v.m = 0 then .nan else .inf (s != t)
  | .fin s v, .inf t => if v.m = 0 then .nan else .inf (s != t)
  | .fin s p, .fin t q => .fin (s != t) (p.mul q)

/-- VMIN and VMAX: the other operand when exactly one is NaN; −0 below +0 (R288). -/
def numExt (mx : Bool) (x y : Num) : Num :=
  match x, y with
  | .nan, .nan => .nan
  | .nan, b => b
  | a, .nan => a
  | .fin s p, .fin t q =>
    if p.m = 0 && q.m = 0 then .fin (if mx then s && t else s || t) ⟨0, 0⟩
    else if q.le p == mx then x else y
  | _, _ => if x.ge y == mx then x else y

/-- The same value after one rounding into a floating format. -/
def roundNum (ew mw : Nat) (rnd : BitVec 2) (x : Num) : Num :=
  match x with
  | .fin neg v => floatOf ew mw (roundFloat ew mw rnd neg v)
  | y => y

/-- The IEEE 754 limit of a transcendental function where it has one: FN 10 to 14 (R288); `none` for an ordinary value. -/
def transLimit (fn : Nat) (x : Num) : Option Num :=
  match fn, x with
  | _, .nan => some .nan
  | 10, .inf s => some (.fin s ⟨0, 0⟩)
  | 10, .fin s v => if v.m = 0 then some (.inf s) else none
  | 11, .inf s => some (if s then .nan else .fin false ⟨0, 0⟩)
  | 11, .fin s v => if v.m = 0 then some (.inf s) else if s then some .nan else none
  | 12, .inf s => some (if s then .fin false ⟨0, 0⟩ else .inf false)
  | 12, .fin _ v => if v.m = 0 then some (.ofInt 1) else none
  | 13, .inf s => some (if s then .nan else .inf false)
  | 13, .fin s v => if v.m = 0 then some (.inf true) else if s then some .nan else none
  | 14, .inf s => some (.ofInt (if s then -1 else 1))
  | 14, .fin s v => if v.m = 0 then some (.fin s v) else none
  | _, _ => none

end Sys2Proof.Machine
end

