-- ==== Sys2Proof/Machine/Descriptor.lean ====
section
/-! DEFINITION. Machine/Descriptor.lean: tensor descriptors: their image and its check, extents, element addresses (R166 to
R169, R174, R306, R307), and the accesses of a core to the cupboard (R165, R323). -/

namespace Sys2Proof.Machine

/-! ### The image (Table 5-2) -/

/-- Size of dimension i, and its stride. -/
def TD.dim (t : TD) : Nat → Nat
  | 0 => t.dim0
  | 1 => t.dim1
  | 2 => t.dim2
  | _ => t.dim3

def TD.str (t : TD) : Nat → Nat
  | 0 => 0
  | 1 => t.str1
  | 2 => t.str2
  | _ => t.str3

/-- Element width in bits. -/
def TD.width (t : TD) : Nat := fmtBits t.format.toNat

/-- Bytes of a diagonal tile that BASE and the outer strides must keep to (R307). -/
def tileBytes (w : Nat) : Nat := max 2048 (128 * w)

/-- The conditions of the diagonal tile layout (R168, R307). -/
def viewOk (t : TD) : Bool :=
  let w := t.width
  decide (2 ≤ t.rank ∧ t.dim0 % 32 = 0 ∧ t.dim1 % 32 = 0 ∧ t.str1 = t.dim0 * w / 8 ∧
    t.base.toNat % tileBytes w = 0 ∧ t.str2 % tileBytes w = 0 ∧ t.str3 % tileBytes w = 0) &&
  (w != 8 || t.dim0 % 64 == 0) && (w != 4 || t.dim0 % 128 == 0)

/-- The descriptor that an image of 64 bytes spells; none where the image breaks Table 5-2, Table 5-3 or R168 (R174). -/
def parseTd (bs : List Byte) : Option TD :=
  let u (o n : Nat) : Nat := ofLe ((bs.drop o).take n)
  let shape := u 5 1
  let rank := shape % 8
  let t : TD :=
    { base := BitVec.ofNat 32 (u 0 4), format := BitVec.ofNat 8 (u 4 1), rank := rank, view := decide (128 ≤ shape),
      ctx := BitVec.ofNat 4 (u 6 1), dim0 := u 8 4, dim1 := u 12 4, dim2 := u 16 4, dim3 := u 20 4, str1 := u 24 4,
      str2 := u 28 4, str3 := u 32 4 }
  let dimsOk := (List.range 4).all fun i =>
    decide (1 ≤ t.dim i ∧ t.dim i ≤ 65536) && (i < rank || t.dim i == 1)
  let strsOk := [1, 2, 3].all fun i => t.str i % 8 == 0 && (i < rank || t.str i == 0)
  if decide (u 0 4 < 2 ^ 29 ∧ u 0 4 % 8 = 0 ∧ u 4 1 ≤ 7 ∧ 1 ≤ rank ∧ rank ≤ 4 ∧ shape / 8 % 16 = 0 ∧ u 6 1 < 16 ∧ u 7 1 = 0) &&
      dimsOk && strsOk && (bs.drop 0x24).all (· == 0) && (!t.view || viewOk t) then some t else none

/-- The image of a descriptor; 64 zero bytes for an empty one (TDST). -/
def tdImage : Option TD → List Byte
  | none => List.replicate 64 0
  | some t =>
    leBytes 4 t.base.toNat ++ [t.format, BitVec.ofNat 8 (t.rank + 128 * boolNat t.view), t.ctx.setWidth 8, 0] ++
      leBytes 4 t.dim0 ++ leBytes 4 t.dim1 ++ leBytes 4 t.dim2 ++ leBytes 4 t.dim3 ++ leBytes 4 t.str1 ++
      leBytes 4 t.str2 ++ leBytes 4 t.str3 ++ List.replicate 28 0

/-! ### Extents (R168, R169) -/

/-- Bytes of a row of DIM0 elements. -/
def rowBytes (t : TD) : Nat := (t.dim0 * t.width + 7) / 8

/-- Bytes of a descriptor's extent (R168). -/
def extent (t : TD) : Nat :=
  (t.dim1 - 1) * t.str1 + (t.dim2 - 1) * t.str2 + (t.dim3 - 1) * t.str3 + rowBytes t

/-- Two byte ranges overlap. -/
def overlap (a n b m : Nat) : Bool := decide (a < b + m ∧ b < a + n)

/-- The extents of two descriptors overlap. -/
def tdOverlap (x y : TD) : Bool := overlap x.base.toNat (extent x) y.base.toNat (extent y)

/-- The first byte of [a, a + n) outside the frames that `ok` admits (R332). -/
def firstBad (s : State) (a n : Nat) (ok : FrameKind → Bool) : Option Nat :=
  match (framesOf a n).find? fun f => decide (384 ≤ f) || !ok (frameKind s f) with
  | some f => some (max a (0x100000 * f))
  | none => none

/-- The first fault of a descriptor at issue: code, sub-code, detail (R169). -/
def tdFault (s : State) (n : Nat) (t : Option TD) : Option (Nat × Nat × W32) :=
  match t with
  | none => some (5, 0, 0)
  | some t =>
    if t.ctx != (coreAt s n).ctx then some (4, 0, 0)
    else match firstBad s t.base.toNat (extent t) (readableKind t.ctx.toNat) with
      | some a => some (3, 2, BitVec.ofNat 32 a)
      | none => none

/-! ### Elements (R166, R168, R306) -/

/-- The byte address of an element of outer indices (i1, i2, i3), and whether an int4 element lies in bits 7:4. -/
def elemAddr (t : TD) (i0 i1 i2 i3 : Nat) : Nat × Bool :=
  let w := t.width
  if t.view then
    let r := i1 % 32
    let k := (r + i0 % 32) % 32
    let outer := t.base.toNat + i2 * t.str2 + i3 * t.str3 + 32 * (i1 / 32) * t.str1
    if 16 ≤ w then (outer + 128 * w * (i0 / 32) + 2048 * (r * w / 512) + 64 * k + r * w / 8 % 64, false)
    else
      let g := 16 / w
      (outer + 2048 * (i0 / 32 / g) + 64 * k + 4 * w * (i0 / 32 % g) + r * w / 8, w == 4 && r % 2 == 1)
  else (t.base.toNat + i1 * t.str1 + i2 * t.str2 + i3 * t.str3 + i0 * w / 8, w == 4 && i0 % 2 == 1)

/-- The stored bits of the element at a place. -/
def elemBits (m : List Host.Cell) (t : TD) (p : Nat × Bool) : Nat :=
  if t.width = 4 then
    let b := (readByte m p.1).toNat
    if p.2 then b / 16 else b % 16
  else readLe m p.1 (t.width / 8)

/-- Outer indices of row `r`, dimension 1 fastest. -/
def rowIndex (t : TD) (r : Nat) : Nat × Nat × Nat := (r % t.dim1, r / t.dim1 % t.dim2, r / t.dim1 / t.dim2)

/-- Rows of DIM0 elements. -/
def rowsOf (t : TD) : Nat := t.dim1 * t.dim2 * t.dim3

/-- Element `i` of row `r` as the descriptor lays the tensor out. -/
def elemAt (m : List Host.Cell) (t : TD) (r i : Nat) : Nat :=
  let q := rowIndex t r
  elemBits m t (elemAddr t i q.1 q.2.1 q.2.2)

/-- Bytes of packed elements of `w` bits, two int4 elements to a byte, the lower-indexed one in bits 3:0. -/
def packElems (w : Nat) : List Nat → List Byte
  | [] => []
  | [x] => if w = 4 then [BitVec.ofNat 8 (x % 16)] else leBytes (w / 8) x
  | x :: y :: r =>
    if w = 4 then BitVec.ofNat 8 (x % 16 + 16 * (y % 16)) :: packElems w r
    else leBytes (w / 8) x ++ packElems w (y :: r)

/-- The bytes at the start of row `r`, from element 0, of a VIEW = 0 tensor: an odd last int4 element keeps its neighbour. -/
def rowWrite (m : List Host.Cell) (t : TD) (r : Nat) (xs : List Nat) : Nat × List Byte :=
  let q := rowIndex t r
  let a := (elemAddr { t with view := false } 0 q.1 q.2.1 q.2.2).1
  let bs := packElems t.width xs
  if t.width = 4 && xs.length % 2 = 1 then
    let last := (bs.getLastD 0).toNat % 16 + (readByte m (a + bs.length - 1)).toNat / 16 * 16
    (a, bs.dropLast ++ [BitVec.ofNat 8 last])
  else (a, bs)

/-- One element written in place, VIEW honoured: the bytes that hold it. -/
def elemWrite (m : List Host.Cell) (t : TD) (r i x : Nat) : Nat × List Byte :=
  let q := rowIndex t r
  let p := elemAddr t i q.1 q.2.1 q.2.2
  if t.width = 4 then
    let b := (readByte m p.1).toNat
    (p.1, [BitVec.ofNat 8 (if p.2 then b % 16 + 16 * (x % 16) else b / 16 * 16 + x % 16)])
  else (p.1, leBytes (t.width / 8) x)

/-! ### Accesses of the CP (R165, R175, R176, R323) -/

/-- A byte at an address under the posted stores, the latest of which counts. -/
def overlayByte (st : List (Nat × Nat × W64)) (a : Nat) (b : Byte) : Byte :=
  st.foldl (fun b w => if w.1 ≤ a && a < w.1 + w.2.1 then (leBytes w.2.1 w.2.2.toNat).getD (a - w.1) 0 else b) b

/-- The first uncorrectable word of [a, a + k) as the CP sees it: an earlier posted store of its own that covers a word whole gives
the word valid check bits (R175, R312). -/
def cpUe (s : State) (n a k : Nat) : Option Nat :=
  s.ue.find? fun w => decide (a < 8 * w + 8 ∧ 8 * w < a + k) && !(coreAt s n).stores.any fun x => x.1 == 8 * w && x.2.1 == 8

/-- Bytes as a load of the CP sees them: the cupboard under the CP's own posted stores (R175). -/
def cpBytes (s : State) (n a k : Nat) : List Byte :=
  ((List.range k).zip (readBytes s.mem a k)).map fun p => overlayByte (coreAt s n).stores (a + p.1) p.2

/-- A CP read that Table 9-6 admits waits for a zero fill in progress (R310, R324). -/
def cpWaits (s : State) (n a k : Nat) : Bool :=
  (firstBad s a k (readableKind (coreAt s n).ctx.toNat)).isNone && filling s a k

/-- The outcome of a CP read of [a, a + k): bytes, or a fault as code, sub-code and detail, with the state after its side
effects (Table 9-6, Table 9-7, R107, R114). -/
def cpRead (s : State) (n a k : Nat) : State × Except (Nat × Nat × W32) (List Byte) :=
  let d := BitVec.ofNat 32 a
  let t := (coreAt s n).ctx.toNat
  match firstBad s a k (readableKind t) with
  | some _ => (s, .error (3, 1, d))
  | none =>
    let v := ringView s a k
    if v.keys.any fun q => !keyBound s t q then (s, .error (4, 1, 0))
    else if v.window then (noteUe (ringOverrun s n) a (some n) readerCp, .error (10, 0, d))
    else if v.poison then (noteUe s a (some n) readerCp, .error (10, 0, d))
    else match cpUe s n a k with
      | some w => (noteUe s (8 * w) (some n) readerCp, .error (10, 0, d))
      | none => (correctRead s a k, .ok (cpBytes s n a k))

/-- A CP store checked (Table 9-6). -/
def cpStoreBad (s : State) (n a k : Nat) : Bool :=
  (firstBad s a k (writableKind (coreAt s n).ctx.toNat)).isSome

end Sys2Proof.Machine
end

