-- ==== Sys2Proof/Machine/IsaWord.lean ====
section
/-! DEFINITION. Machine/IsaWord.lean: the 64-bit instruction word decoded by the layouts of Tables 5-5 and 6-2 (R170, R172, R201,
R202), and the checks on its fields that raise ILLEGAL at decode. -/

namespace Sys2Proof.Machine

/-- Bits `lo + len − 1 : lo` of an instruction word. -/
def fld (w : W64) (lo len : Nat) : BitVec len := w.extractLsb' lo len

/-- The predicate field (R171). -/
def wordGuard (w : W64) : Guard := ⟨fld w 55 3, bit w 54⟩

def wordR (w : W64) : FieldsR := ⟨fld w 49 5, fld w 44 5, fld w 39 5, fld w 34 5⟩
def wordI (w : W64) : FieldsI := ⟨fld w 49 5, fld w 44 5, fld w 39 5, fld w 0 32⟩
def wordJ (w : W64) : FieldsJ := ⟨fld w 49 5, fld w 0 32⟩
def wordWC (w : W64) : FieldsWC := ⟨fld w 51 3, fld w 43 8, bit w 42, bit w 41, fld w 36 5, fld w 0 32⟩
def wordWB (w : W64) : FieldsWB := ⟨fld w 51 3, fld w 48 3, fld w 43 5⟩
def wordCT (w : W64) : FieldsCT := ⟨fld w 49 5, fld w 44 5, fld w 31 8⟩
def wordSG (w : W64) : FieldsSG := ⟨fld w 44 5, fld w 36 8⟩
def wordMV (w : W64) : FieldsMV := ⟨fld w 51 3, fld w 46 5, bit w 45, fld w 37 8, fld w 0 32⟩
def wordPT (w : W64) : FieldsPT := ⟨fld w 49 5, fld w 44 5, fld w 39 5, bit w 38, fld w 30 8⟩
def wordFL (w : W64) : FieldsFL := ⟨fld w 49 5, fld w 46 3⟩

def wordTM (w : W64) : FieldsTM where
  d := fld w 49 5
  a := fld w 44 5
  b := fld w 39 5
  c := fld w 34 5
  unit := fld w 32 2
  mw := fld w 29 3
  df := fld w 27 2
  bench := bit w 26
  ld := bit w 25
  keep := bit w 24
  acc := bit w 23
  aen := bit w 22
  rnd := fld w 20 2
  cen := bit w 19
  ccnt := fld w 11 8
  shx := bit w 10
  sh := fld w 5 5

def wordV (w : W64) : FieldsV where
  d := fld w 49 5
  a := fld w 44 5
  b := fld w 39 5
  c := fld w 34 5
  s := fld w 29 5
  fn := fld w 22 7
  rnd := fld w 20 2
  cen := bit w 19
  ccnt := fld w 11 8

def wordCX (w : W64) : FieldsCX where
  d := fld w 49 5
  a := fld w 44 5
  b := fld w 39 5
  c := fld w 34 5
  e := fld w 29 5
  grp := fld w 19 10
  unit := fld w 17 2
  mw := fld w 14 3
  ld := bit w 13
  acc := bit w 12
  aen := bit w 11
  op := fld w 9 2
  cen := bit w 8
  ccnt := fld w 0 8

def wordCL (w : W64) : FieldsCL := ⟨fld w 49 5, fld w 44 5, fld w 34 10, fld w 32 2, fld w 30 2, bit w 29, fld w 21 8⟩
def wordCP (w : W64) : FieldsCP := ⟨fld w 49 5, fld w 44 5, fld w 34 10, fld w 32 2, fld w 30 2, bit w 29, fld w 21 8⟩

/-- Bits `lo + len − 1 : lo` of a word are RSV and 0. -/
def rsv (w : W64) (lo len : Nat) : Bool := bits w lo len == 0

/-- The instruction that a word holds; none for a reserved opcode, a CTR function outside Table 5-8 or a set RSV bit. -/
def isaDecode (w : W64) : Option Isa :=
  let need (ok : Bool) (i : Isa) : Option Isa := if ok then some i else none
  match bits w 58 6 with
  | 0x00 => some .ill
  | 0x01 => need (rsv w 0 34) (.alu (wordR w))
  | 0x02 => need (rsv w 32 7) (.alui (wordI w))
  | 0x03 => need (rsv w 0 34) (.cmp (wordR w))
  | 0x04 => need (rsv w 32 7) (.cmpi (wordI w))
  | 0x05 => need (rsv w 0 34) (.plog (wordR w))
  | 0x06 => need (rsv w 32 7) (.aop (wordI w))
  | 0x07 => need (rsv w 32 7) (.ld (wordI w))
  | 0x08 => need (rsv w 32 7) (.st (wordI w))
  | 0x09 => need (rsv w 32 7) (.rdc (wordI w))
  | 0x0A => need (rsv w 32 7) (.tdld (wordI w))
  | 0x0B => need (rsv w 32 7) (.tdst (wordI w))
  | 0x0C => need (rsv w 32 7) (.tdbase (wordI w))
  | 0x10 => need (rsv w 32 5) (.move (wordMV w))
  | 0x11 => need (rsv w 0 30) (.put (wordPT w))
  | 0x14 => need (rsv w 32 17) (.j (wordJ w))
  | 0x15 => need (rsv w 32 17) (.jal (wordJ w))
  | 0x16 => need (rsv w 32 7) (.jalr (wordI w))
  | 0x17 => need (rsv w 32 17) (.djnz (wordJ w))
  | 0x18 => need (rsv w 32 4) (.waitc (wordWC w))
  | 0x19 => need (rsv w 0 43) (.waitb (wordWB w))
  | 0x1A => need (rsv w 0 46) (.fence (fld w 46 8))
  | 0x1B =>
    match bits w 39 5 with
    | 0 => need (rsv w 0 31) (.cset (wordCT w))
    | 1 => need (rsv w 0 31) (.cadd (wordCT w))
    | 2 => need (rsv w 0 31) (.cread (wordCT w))
    | _ => none
  | 0x1C => need (rsv w 49 5 && rsv w 0 36) (.signal (wordSG w))
  | 0x1D => need (rsv w 0 34) (.tdchk (wordR w))
  | 0x1E => need (rsv w 0 54) .endp
  | 0x1F => need (rsv w 0 54) .nop
  | 0x20 => need (rsv w 0 5) (.tm .tmul (wordTM w))
  | 0x21 => need (rsv w 0 5) (.tm .tl1 (wordTM w))
  | 0x22 => need (rsv w 0 5) (.tm .tl2 (wordTM w))
  | 0x23 => need (rsv w 0 5) (.tm .tminp (wordTM w))
  | 0x24 => need (rsv w 0 5) (.tm .tmaxp (wordTM w))
  | 0x25 => need (rsv w 0 5) (.tm .tham (wordTM w))
  | 0x26 => need (rsv w 0 5) (.tm .tccnt (wordTM w))
  | 0x2C => need (rsv w 0 5) (.tm .smv (wordTM w))
  | 0x2D => need (rsv w 0 11) (.vec (wordV w))
  | 0x2E => need (rsv w 0 46) (.tflg (wordFL w))
  | 0x38 => some (.gather (wordCX w))
  | 0x39 => some (.scatter (wordCX w))
  | 0x3A => need (rsv w 0 21) (.call (wordCL w))
  | 0x3B => need (rsv w 0 21) (.cpri (wordCP w))
  | _ => none

/-! ### The encoder, written from the same layouts -/

/-- A word: opcode, predicate field and the 54 bits below it (R170). -/
def word64 (op : BitVec 6) (g : Guard) (x : BitVec 54) : W64 := (op ++ g.p ++ BitVec.ofBool g.neg ++ x).setWidth 64

def encR (f : FieldsR) : BitVec 54 := f.d ++ f.a ++ f.b ++ f.fn ++ (0 : BitVec 34)
def encI (f : FieldsI) : BitVec 54 := f.d ++ f.a ++ f.fn ++ (0 : BitVec 7) ++ f.imm
def encJ (f : FieldsJ) : BitVec 54 := f.d ++ (0 : BitVec 17) ++ f.off
def encWC (f : FieldsWC) : BitVec 54 :=
  f.place ++ f.ctr ++ BitVec.ofBool f.eq ++ BitVec.ofBool f.vsrc ++ f.b ++ (0 : BitVec 4) ++ f.imm
def encWB (f : FieldsWB) : BitVec 54 := f.place ++ f.mode ++ f.b ++ (0 : BitVec 43)
def encCT (f : FieldsCT) (fn : BitVec 5) : BitVec 54 := f.d ++ f.b ++ fn ++ f.ctr ++ (0 : BitVec 31)
def encSG (f : FieldsSG) : BitVec 54 := (0 : BitVec 5) ++ f.b ++ f.code ++ (0 : BitVec 36)
def encMV (f : FieldsMV) : BitVec 54 := f.mov ++ f.a ++ BitVec.ofBool f.cen ++ f.ccnt ++ (0 : BitVec 5) ++ f.imm
def encPT (f : FieldsPT) : BitVec 54 := f.d ++ f.a ++ f.b ++ BitVec.ofBool f.den ++ f.dcnt ++ (0 : BitVec 30)
def encFL (f : FieldsFL) : BitVec 54 := f.d ++ f.place ++ (0 : BitVec 46)
def encTM (f : FieldsTM) : BitVec 54 :=
  f.d ++ f.a ++ f.b ++ f.c ++ f.unit ++ f.mw ++ f.df ++ BitVec.ofBool f.bench ++ BitVec.ofBool f.ld ++
    BitVec.ofBool f.keep ++ BitVec.ofBool f.acc ++ BitVec.ofBool f.aen ++ f.rnd ++ BitVec.ofBool f.cen ++ f.ccnt ++
    BitVec.ofBool f.shx ++ f.sh ++ (0 : BitVec 5)
def encV (f : FieldsV) : BitVec 54 :=
  f.d ++ f.a ++ f.b ++ f.c ++ f.s ++ f.fn ++ f.rnd ++ BitVec.ofBool f.cen ++ f.ccnt ++ (0 : BitVec 11)
def encCX (f : FieldsCX) : BitVec 54 :=
  f.d ++ f.a ++ f.b ++ f.c ++ f.e ++ f.grp ++ f.unit ++ f.mw ++ BitVec.ofBool f.ld ++ BitVec.ofBool f.acc ++
    BitVec.ofBool f.aen ++ f.op ++ BitVec.ofBool f.cen ++ f.ccnt
def encCL (f : FieldsCL) : BitVec 54 := f.d ++ f.a ++ f.grp ++ f.unit ++ f.op ++ BitVec.ofBool f.cen ++ f.ccnt ++ (0 : BitVec 21)
def encCP (f : FieldsCP) : BitVec 54 := f.d ++ f.b ++ f.grp ++ f.unit ++ f.op ++ BitVec.ofBool f.cen ++ f.ccnt ++ (0 : BitVec 21)

/-- The opcode of a trestle or stool instruction (Table 6-1). -/
def tmOpcode : TmOp → BitVec 6
  | .tmul => 0x20
  | .tl1 => 0x21
  | .tl2 => 0x22
  | .tminp => 0x23
  | .tmaxp => 0x24
  | .tham => 0x25
  | .tccnt => 0x26
  | .smv => 0x2C

/-- The word of an instruction, its RSV bits 0 (Tables 5-5, 5-6, 5-8, 6-1 and 6-2). -/
def isaEncode (g : Guard) : Isa → W64
  | .ill => word64 0x00 g 0
  | .alu f => word64 0x01 g (encR f)
  | .alui f => word64 0x02 g (encI f)
  | .cmp f => word64 0x03 g (encR f)
  | .cmpi f => word64 0x04 g (encI f)
  | .plog f => word64 0x05 g (encR f)
  | .aop f => word64 0x06 g (encI f)
  | .ld f => word64 0x07 g (encI f)
  | .st f => word64 0x08 g (encI f)
  | .rdc f => word64 0x09 g (encI f)
  | .tdld f => word64 0x0A g (encI f)
  | .tdst f => word64 0x0B g (encI f)
  | .tdbase f => word64 0x0C g (encI f)
  | .move f => word64 0x10 g (encMV f)
  | .put f => word64 0x11 g (encPT f)
  | .j f => word64 0x14 g (encJ f)
  | .jal f => word64 0x15 g (encJ f)
  | .jalr f => word64 0x16 g (encI f)
  | .djnz f => word64 0x17 g (encJ f)
  | .waitc f => word64 0x18 g (encWC f)
  | .waitb f => word64 0x19 g (encWB f)
  | .fence m => word64 0x1A g (m ++ (0 : BitVec 46))
  | .cset f => word64 0x1B g (encCT f 0)
  | .cadd f => word64 0x1B g (encCT f 1)
  | .cread f => word64 0x1B g (encCT f 2)
  | .signal f => word64 0x1C g (encSG f)
  | .tdchk f => word64 0x1D g (encR f)
  | .endp => word64 0x1E g 0
  | .nop => word64 0x1F g 0
  | .tm op f => word64 (tmOpcode op) g (encTM f)
  | .vec f => word64 0x2D g (encV f)
  | .tflg f => word64 0x2E g (encFL f)
  | .gather f => word64 0x38 g (encCX f)
  | .scatter f => word64 0x39 g (encCX f)
  | .call f => word64 0x3A g (encCL f)
  | .cpri f => word64 0x3B g (encCP f)

/-- Operands that a VEC function uses: a, b, c, s (Table 6-9). -/
def vecUses (fn : Nat) : Bool × Bool × Bool × Bool :=
  if fn ≤ 2 || fn = 4 || fn = 5 then (true, true, false, false)
  else if fn = 3 then (true, true, true, false)
  else if fn = 8 || fn = 16 || fn = 17 then (true, false, false, true)
  else if fn = 9 then (false, false, false, true)
  else (true, false, false, false)

/-- A field names an address register. -/
def isA (v : BitVec 5) : Bool := decide (v.toNat < 16)
/-- A field names a predicate. -/
def isP (v : BitVec 5) : Bool := decide (v.toNat < 8)

/-- The field checks of R172, R173, R178 to R187, R202, R217, R218 and R222 to R225: false raises ILLEGAL. -/
def legal : Isa → Bool
  | .ill => false
  | .alu f => decide (f.fn.toNat ≤ 16)
  | .alui f => decide (f.fn.toNat ≤ 9) && (!(4 ≤ f.fn.toNat && f.fn.toNat ≤ 6) || decide (f.imm.toNat < 64)) &&
      (f.fn != 7 || f.a == 0)
  | .cmp f => decide (f.fn.toNat ≤ 5) && isP f.d
  | .cmpi f => decide (f.fn.toNat ≤ 5) && isP f.d
  | .plog f => decide (f.fn.toNat ≤ 3) && isP f.d && isP f.a && isP f.b
  | .aop f =>
    match f.fn.toNat with
    | 0 => isA f.d && isA f.a
    | 1 => isA f.d && f.imm == 0
    | 2 => isA f.a && f.imm == 0
    | 3 => isA f.d && f.a == 0
    | _ => false
  | .ld f => decide (f.fn.toNat ≤ 2) && isA f.a
  | .st f => decide (f.fn.toNat ≤ 1) && isA f.a
  | .rdc f => f.fn == 0 && f.a == 0 && decide (f.imm.toNat ≤ 8)
  | .tdld f => f.fn == 0 && isA f.a
  | .tdst f => f.fn == 0 && isA f.a
  | .tdbase f => f.fn == 0 && isA f.a
  | .j f => f.d == 0
  | .jal f => isA f.d
  | .jalr f => decide (f.fn.toNat ≤ 1) && isA f.a && (f.fn == 0 || isA f.d)
  | .djnz _ => true
  | .waitc f => f.place != 7 && (f.vsrc || f.b == 0)
  | .waitb f => f.place != 7 && decide (f.mode.toNat ≤ 2) && (f.mode == 1 || f.b == 0)
  | .fence _ => true
  | .cset _ => true
  | .cadd _ => true
  | .cread _ => true
  | .signal _ => true
  | .tdchk f => decide (f.fn.toNat ≤ 1) && isP f.d && f.b == 0
  | .endp => true
  | .nop => true
  | .move f => decide (f.mov.toNat ≤ 4) && isA f.a && (f.cen || f.ccnt == 0)
  | .put f => isA f.a && (f.den || f.dcnt == 0)
  | .tm op f => f.df != 3 && (f.aen || f.c == 0) && (f.cen || f.ccnt == 0) && (f.shx || f.sh == 0) &&
      (op != .smv || (f.unit == 0 && f.mw == 0 && f.df == 0 && !f.bench && !f.ld && !f.keep))
  | .vec f =>
    let u := vecUses f.fn.toNat
    decide (f.fn.toNat ≤ 20) && (u.1 || f.a == 0) && (u.2.1 || f.b == 0) && (u.2.2.1 || f.c == 0) &&
      (u.2.2.2 || f.s == 0) && (f.cen || f.ccnt == 0)
  | .tflg f => f.place != 7
  | .gather f => decide (f.op.toNat ≤ 1) && (f.aen || f.c == 0) && (f.cen || f.ccnt == 0)
  | .scatter f => decide (f.op.toNat ≤ 2) && (f.aen || f.c == 0) && (f.cen || f.ccnt == 0)
  | .call f => decide (f.op.toNat ≤ 2) && (f.cen || f.ccnt == 0)
  | .cpri f => (f.op != 0 || f.b == 0) && (f.cen || f.ccnt == 0)

/-- Registers that an instruction reads or writes: scalar, address, predicate (R137). -/
def regsOf : Isa → List (BitVec 5) × List (BitVec 5) × List (BitVec 5)
  | .alu f => ([f.d, f.a, f.b], [], [])
  | .alui f => (if f.fn == 7 then [f.d] else [f.d, f.a], [], [])
  | .cmp f => ([f.a, f.b], [], [f.d])
  | .cmpi f => ([f.a], [], [f.d])
  | .plog f => ([], [], [f.d, f.a, f.b])
  | .aop f =>
    match f.fn.toNat with
    | 0 => ([], [f.d, f.a], [])
    | 1 => ([f.a], [f.d], [])
    | 2 => ([f.d], [f.a], [])
    | _ => ([], [f.d], [])
  | .ld f => ([f.d], [f.a], [])
  | .st f => ([f.d], [f.a], [])
  | .rdc f => ([f.d], [], [])
  | .tdld f => ([], [f.a], [])
  | .tdst f => ([], [f.a], [])
  | .tdbase f => ([], [f.a], [])
  | .jal f => ([], [f.d], [])
  | .jalr f => ([], if f.fn == 1 then [f.a, f.d] else [f.a], [])
  | .djnz f => ([f.d], [], [])
  | .waitc f => (if f.vsrc then [f.b] else [], [], [])
  | .waitb f => (if f.mode == 1 then [f.b] else [], [], [])
  | .cset f => ([f.b], [], [])
  | .cadd f => ([f.b], [], [])
  | .cread f => ([f.d], [], [])
  | .signal f => ([f.b], [], [])
  | .tdchk f => ([], [], [f.d])
  | .move f => ([], [f.a], [])
  | .put f => ([f.d, f.b], [f.a], [])
  | .tm _ f => (if f.shx then [f.sh] else [], [], [])
  | .vec f => (if (vecUses f.fn.toNat).2.2.2 then [f.s] else [], [], [])
  | .tflg f => ([f.d], [], [])
  | .cpri f => (if f.op == 0 then [f.d] else [f.d, f.b], [], [])
  | .ill | .j _ | .fence _ | .endp | .nop | .gather _ | .scatter _ | .call _ => ([], [], [])

/-- The unit whose queue an instruction enters: 0 to 3 T0 to T3, 4 the stool, 5 the vector unit (R137). -/
def unitOf : Isa → Option Nat
  | .waitc f => if f.place == 0 then none else some (f.place.toNat - 1)
  | .waitb f => if f.place == 0 then none else some (f.place.toNat - 1)
  | .tflg f => if f.place == 0 then none else some (f.place.toNat - 1)
  | .tm .smv _ => some 4
  | .tm _ f => some f.unit.toNat
  | .vec _ => some 5
  | .gather f => some f.unit.toNat
  | .scatter f => some f.unit.toNat
  | .call f => some f.unit.toNat
  | .cpri f => some f.unit.toNat
  | _ => none

end Sys2Proof.Machine
end

