-- ==== Sys2Proof/Machine/Issue.lean ====
section
/-! DEFINITION. Machine/Issue.lean: issue, and the meaning of every S-, X- and M-class instruction, and of the entry of T- and
C-class instructions into their queues (R137, R139, R163 to R200, R202). -/

namespace Sys2Proof.Machine

/-! ### The common steps of an instruction -/

/-- An instruction has issued and the next one stands at `pc`: a single step has then issued its one instruction (R135). -/
def retireTo (c : Core) (pc : W32) : Core :=
  { dropWait c with pc := pc, stopNext := if c.state == 2 then 2 else c.stopNext }

/-- The instruction retires, and the next in memory follows. -/
def retire (c : Core) : Core := retireTo c (c.pc + 8)

/-- A taken branch: the instructions at its target are fetched afresh (R189). -/
def retireBranch (c : Core) (pc : W32) : Core := { retireTo c pc with refetch := true, ahead := [] }

/-- The core may issue: it runs, or its single step has not issued yet, and no wait or fence is in progress (R137). -/
def mayIssue (c : Core) : Bool :=
  (c.state == 1 || (c.state == 2 && c.stopNext != 2)) && c.wait == .none

/-- A predicate with its negation (R171); p0 always reads 1 (R164). -/
def guardOf (c : Core) (g : Guard) : Bool := (g.p == 0 || c.p.toList.getD g.p.toNat false) != g.neg

/-- No register that an instruction reads or writes is pending (R137, R139). -/
def regsFree (c : Core) (i : Isa) : Bool :=
  let r := regsOf i
  r.1.all (fun x => !bit c.sPend x.toNat) && r.2.1.all (fun x => !bit c.aPend x.toNat) &&
    r.2.2.all fun x => !bit c.pPend x.toNat

/-- Entries of a unit's queue (Table 4-1). -/
def depthOf (u : Nat) : Nat := if u = 4 then 4 else 8

/-- A mover has a free slot. -/
def slotFree (c : Core) (m : Nat) : Bool := decide ((c.movers.toList.getD m []).length < 6)

/-- The mover that "any" selects: the most free slots, the lowest-numbered on a tie (R142). -/
def anyMover (c : Core) : Nat :=
  let n (m : Nat) : Nat := (c.movers.toList.getD m []).length
  (List.range 4).foldl (fun b m => if n m < n b then m else b) 0

/-- The mover of a MOVE or PUT. -/
def moverOf (c : Core) : Isa → Option Nat
  | .move f => some (if f.mov == 4 then anyMover c else f.mov.toNat)
  | .put _ => some (anyMover c)
  | _ => none

/-- The unit has a free queue entry, the mover a free slot, and a divide waits for an earlier one (R137, R188). -/
def hasRoom (c : Core) (i : Isa) : Bool :=
  (match unitOf i with
    | some u => decide ((c.units.toList.getD u CUnit.empty).queue.length < depthOf u)
    | none => true) &&
  (match moverOf c i with
    | some m => slotFree c m
    | none => true) &&
  match i with
  | .alu f => !(15 ≤ f.fn.toNat) || !(c.rets.any (·.isDiv))
  | _ => true

/-- One instruction at issue, in the order of R192: decode, predicate, then its effect `eff`; nothing where it must wait. -/
def issueWith (s : State) (n : Nat) (g : Guard) (i : Isa) (eff : State → State) : State :=
  let c := coreAt s n
  if !mayIssue c then s
  else if !legal i then cpFault s n 1 0 0
  else if bit c.pPend g.p.toNat then s
  else if !guardOf c g then modCore s n retire
  else if !regsFree c i || !hasRoom c i then s
  else eff s

/-! ### Registers -/

def getS (c : Core) (x : BitVec 5) : W64 := c.s.toList.getD x.toNat 0
def getA (c : Core) (x : BitVec 5) : W32 := c.a.toList.getD x.toNat 0
/-- p0 always reads 1 (R164). -/
def getP (c : Core) (x : BitVec 5) : Bool := x == 0 || c.p.toList.getD x.toNat false
def getTd (c : Core) (x : BitVec 5) : Option TD := c.td.toList.getD x.toNat none
def setS (c : Core) (d : BitVec 5) (v : W64) : Core := { c with s := vmod c.s d.toNat fun _ => v }
def setA (c : Core) (d : BitVec 5) (v : W32) : Core := { c with a := vmod c.a d.toNat fun _ => v }
/-- A write of p0 is discarded (R164). -/
def setP (c : Core) (d : BitVec 5) (v : Bool) : Core :=
  if d == 0 then c else { c with p := vmod c.p d.toNat fun _ => v }
def setTd (c : Core) (d : BitVec 5) (v : Option TD) : Core := { c with td := vmod c.td d.toNat fun _ => v }

/-- A scalar result that returns later; its register is pending until then (R139, R188). -/
def later (c : Core) (isLoad isDiv : Bool) (d : BitVec 5) (v : W64) : Core :=
  { c with rets := c.rets ++ [⟨isLoad, isDiv, d, v⟩], sPend := setBit c.sPend d.toNat true }

/-! ### S class (R173, Table 5-6) -/

/-- sext of a 32-bit immediate. -/
def sx (v : W32) : W64 := v.signExtend 64
/-- zext of a 32-bit immediate. -/
def zx (v : W32) : W64 := v.setWidth 64

/-- The function of ALU. -/
def aluValue (fn : Nat) (x y : W64) : W64 :=
  match fn with
  | 0 => x + y
  | 1 => x - y
  | 2 => x * y
  | 3 => BitVec.ofInt 64 (x.toInt * y.toInt / 2 ^ 64)
  | 4 => BitVec.ofNat 64 (x.toNat * y.toNat / 2 ^ 64)
  | 5 => x &&& y
  | 6 => x ||| y
  | 7 => x ^^^ y
  | 8 => x <<< (y.toNat % 64)
  | 9 => x >>> (y.toNat % 64)
  | 10 => x.sshiftRight (y.toNat % 64)
  | 11 => if x.toInt ≤ y.toInt then x else y
  | 12 => if x.toInt ≤ y.toInt then y else x
  | 13 => if x.toNat ≤ y.toNat then x else y
  | 14 => if x.toNat ≤ y.toNat then y else x
  | 15 => if y = 0 then BitVec.allOnes 64 else x / y
  | _ => if y = 0 then x else x % y

/-- ALU results of 4 or 34 clocks return later (Table 5-9). -/
def aluSlow (fn : Nat) : Bool := (2 ≤ fn && fn ≤ 4) || 15 ≤ fn

def doAlu (s : State) (n : Nat) (f : FieldsR) : State :=
  modCore s n fun c =>
    let v := aluValue f.fn.toNat (getS c f.a) (getS c f.b)
    retire (if aluSlow f.fn.toNat then later c false (15 ≤ f.fn.toNat) f.d v else setS c f.d v)

/-- The function of ALUI. -/
def aluiValue (fn : Nat) (x : W64) (imm : W32) : W64 :=
  match fn with
  | 0 => x + sx imm
  | 1 => x &&& zx imm
  | 2 => x ||| zx imm
  | 3 => x ^^^ zx imm
  | 4 => x <<< (imm.toNat % 64)
  | 5 => x >>> (imm.toNat % 64)
  | 6 => x.sshiftRight (imm.toNat % 64)
  | 7 => sx imm
  | 8 => (zx imm <<< 32) ||| (x &&& 0xFFFFFFFF)
  | _ => x * sx imm

def doAlui (s : State) (n : Nat) (f : FieldsI) : State :=
  modCore s n fun c =>
    let v := aluiValue f.fn.toNat (getS c f.a) f.imm
    retire (if f.fn == 9 then later c false false f.d v else setS c f.d v)

/-- The comparisons of CMP and CMPI. -/
def cmpValue (fn : Nat) (x y : W64) : Bool :=
  match fn with
  | 0 => x == y
  | 1 => x != y
  | 2 => decide (x.toInt < y.toInt)
  | 3 => decide (x.toNat < y.toNat)
  | 4 => decide (y.toInt ≤ x.toInt)
  | _ => decide (y.toNat ≤ x.toNat)

def doCmp (s : State) (n : Nat) (f : FieldsR) : State :=
  modCore s n fun c => retire (setP c f.d (cmpValue f.fn.toNat (getS c f.a) (getS c f.b)))

def doCmpi (s : State) (n : Nat) (f : FieldsI) : State :=
  modCore s n fun c => retire (setP c f.d (cmpValue f.fn.toNat (getS c f.a) (sx f.imm)))

/-- The function of PLOG. -/
def plogValue (fn : Nat) (x y : Bool) : Bool :=
  match fn with
  | 0 => x && y
  | 1 => x || y
  | 2 => x != y
  | _ => x && !y

def doPlog (s : State) (n : Nat) (f : FieldsR) : State :=
  modCore s n fun c => retire (setP c f.d (plogValue f.fn.toNat (getP c f.a) (getP c f.b)))

def doAop (s : State) (n : Nat) (f : FieldsI) : State :=
  modCore s n fun c => retire (match f.fn.toNat with
    | 0 => setA c f.d (getA c f.a + f.imm)
    | 1 => setA c f.d ((getS c f.a).setWidth 32)
    | 2 => setS c f.d (zx (getA c f.a))
    | _ => setA c f.d f.imm)

/-- Effective address of LD, ST, TDLD, TDST and MOVE. -/
def effAddr (c : Core) (a : BitVec 5) (imm : W32) : W32 := getA c a + imm

/-- The value of a load from its bytes: LD.D, LD.W, LD.WS. -/
def loadValue (fn : Nat) (bs : List Byte) : W64 :=
  match fn with
  | 0 => BitVec.ofNat 64 (ofLe bs)
  | 1 => BitVec.ofNat 64 (ofLe bs)
  | _ => sx (BitVec.ofNat 32 (ofLe bs))

/-- LD: the value is fixed at issue under the CP's own stores, and returns later (R175, R176). -/
def doLd (s : State) (n : Nat) (f : FieldsI) : State :=
  let c := coreAt s n
  let a := effAddr c f.a f.imm
  let k := if f.fn == 0 then 8 else 4
  if a.toNat % k != 0 then cpFault s n 2 0 a
  else if cpWaits s n a.toNat k then s
  else
    match cpRead s n a.toNat k with
    | (s, .error e) => cpFault s n e.1 e.2.1 e.2.2
    | (s, .ok bs) => modCore s n fun c => retire (later c true false f.d (loadValue f.fn.toNat bs))

/-- An address lies in the 16 instructions that the CP has fetched ahead of the one at its PC (R189). -/
def fetchedAhead (c : Core) (a len : Nat) : Bool := decide (c.pc.toNat + 8 < a + len ∧ a < c.pc.toNat + 136)

/-- A store posted (R175). Later fetches of the CP see it in program order, but for addresses already fetched ahead (R189). -/
def postStore (c : Core) (a k : Nat) (v : W64) : Core :=
  let seen := !fetchedAhead c a k
  { c with
    stores := c.stores ++ [(a, k, v)]
    imem := if seen then writeBytes c.imem a (leBytes k v.toNat) else c.imem
    ahead := if seen then c.ahead else c.ahead ++ [(a, k, v)] }

def doSt (s : State) (n : Nat) (f : FieldsI) : State :=
  let c := coreAt s n
  let a := effAddr c f.a f.imm
  let k := if f.fn == 0 then 8 else 4
  if a.toNat % k != 0 then cpFault s n 2 0 a
  else if cpStoreBad s n a.toNat k then cpFault s n 3 1 a
  else modCore s n fun c => retire (postStore c a.toNat k (getS c f.d))

/-- The control values of RDC (Table 5-7). USLOT stays at P − 1 until the next beat has started. -/
def rdcValue (s : State) (n code : Nat) : W64 :=
  match code with
  | 0 => if formed s then s.beat.count else 0
  | 1 => s.clock
  | 2 => BitVec.ofNat 64 n
  | 3 => zx (instCoord s &&& 0x7FFF)
  | 4 => (coreAt s n).ctx.setWidth 64
  | 5 => if formed s then zx s.own.epoch else 0
  | 6 => zx (wrgRead s 0x08)
  | 7 => zx (wrgRead s 0x0C)
  | _ => if formed s then BitVec.ofNat 64 (min (s.beat.ms - s.beat.startMs).toNat (period s - 1)) else 0

def doRdc (s : State) (n : Nat) (f : FieldsI) : State :=
  let v := rdcValue s n f.imm.toNat
  modCore s n fun c => retire (setS c f.d v)

def doTdld (s : State) (n : Nat) (f : FieldsI) : State :=
  let c := coreAt s n
  let a := effAddr c f.a f.imm
  if a.toNat % 64 != 0 then cpFault s n 2 0 a
  else if cpWaits s n a.toNat 64 then s
  else
    match cpRead s n a.toNat 64 with
    | (s, .error e) => cpFault s n e.1 e.2.1 e.2.2
    | (s, .ok bs) => match parseTd bs with
      | none => cpFault s n 5 0 a
      | some t => modCore s n fun c => retire (setTd c f.d (some t))

/-- The eight words of an image as posted stores. -/
def postImage (c : Core) (a : Nat) (bs : List Byte) : Core :=
  (List.range 8).foldl (fun c i => postStore c (a + 8 * i) 8 (BitVec.ofNat 64 (ofLe ((bs.drop (8 * i)).take 8)))) c

def doTdst (s : State) (n : Nat) (f : FieldsI) : State :=
  let c := coreAt s n
  let a := effAddr c f.a f.imm
  if a.toNat % 64 != 0 then cpFault s n 2 0 a
  else if cpStoreBad s n a.toNat 64 then cpFault s n 3 1 a
  else modCore s n fun c => retire (postImage c a.toNat (tdImage (getTd c f.d)))

/-- TDBASE (R174): alignment before the descriptor's own checks (R192). -/
def doTdbase (s : State) (n : Nat) (f : FieldsI) : State :=
  let c := coreAt s n
  let a := getA c f.a + f.imm
  if a.toNat % 8 != 0 then cpFault s n 2 0 a
  else match getTd c f.d with
    | none => cpFault s n 5 0 0
    | some t =>
      if t.view && a.toNat % tileBytes t.width != 0 then cpFault s n 5 0 0
      else modCore s n fun c => retire (setTd c f.d (some { t with base := a }))

/-! ### X class (R178 to R185, Table 5-8) -/

/-- PC + 8·off. -/
def branchTo (c : Core) (off : W32) : W32 := c.pc + off * 8

def doJ (s : State) (n : Nat) (f : FieldsJ) : State := modCore s n fun c => retireBranch c (branchTo c f.off)

def doJal (s : State) (n : Nat) (f : FieldsJ) : State :=
  modCore s n fun c => retireBranch (setA c f.d (c.pc + 8)) (branchTo c f.off)

def doJalr (s : State) (n : Nat) (f : FieldsI) : State :=
  let c := coreAt s n
  let t := getA c f.a + f.imm
  if t.toNat % 8 != 0 then cpFault s n 2 0 t
  else modCore s n fun c => retireBranch (if f.fn == 1 then setA c f.d (c.pc + 8) else c) t

def doDjnz (s : State) (n : Nat) (f : FieldsJ) : State :=
  modCore s n fun c =>
    let v := getS c f.d - 1
    if v != 0 then retireBranch (setS c f.d v) (branchTo c f.off) else retire (setS c f.d v)

/-- The condition of a WAITC holds (R179). -/
def waitcHolds (value : W32) (eq : Bool) (v : W32) : Bool :=
  if eq then value == v else decide ((value - v).toNat < 2 ^ 31)

/-- A fresh queue entry. -/
def mkEntry (pc : W32) (w : QWork) : QEntry := 
  { pc := pc, work := w, started := false, waited := false, sigma := 0, loads := 0, streams := 0, array := false, fill := false,
    pieces := 0, out := [], readAll := false, invalid := false, window := false, overflow := false, nan := false, coll := none,
    beats := 0, clks := 0, posted := false }

/-- An entry put at the end of a unit's queue. -/
def enqUnit (c : Core) (u : Nat) (w : QWork) : Core :=
  modUnit c u fun x => { x with queue := x.queue ++ [mkEntry c.pc w] }

/-- WAITC: at once where it holds, else the CP waits; a queued one enters its unit's queue (R141, R179). -/
def doWaitc (s : State) (n : Nat) (f : FieldsWC) : State :=
  let c := coreAt s n
  let v := if f.vsrc then (getS c f.b).setWidth 32 else f.imm
  match unitOf (.waitc f) with
  | some u => modCore s n fun c => retire (enqUnit c u (.waitc f.ctr f.eq v))
  | none =>
    let s := touchCounter s n f.ctr.toNat
    let k := counterAt s n f.ctr.toNat
    if !k.valid then cpFault s n 7 0 (f.ctr.setWidth 32)
    else if waitcHolds k.value f.eq v then modCore s n retire
    else modCore s n fun c => { c with wait := .waitc f.ctr f.eq v }

/-- The condition of a WAITB holds: NEXT at any beat after its issue, ABS from its beat on, LAP at the start of a beat with J = 0
outside the lead-in on a ring that is not halted (R182). -/
def waitbHolds (s : State) (mode : Nat) (v issued : W64) : Bool :=
  match mode with
  | 0 => decide (issued.toNat < s.beat.count.toNat)
  | 1 => decide (v.toNat ≤ s.beat.count.toNat)
  | _ => decide (issued.toNat < s.beat.count.toNat) && s.beat.ms == s.beat.startMs && s.wrg.posValid && s.wrg.j == 0 &&
      !s.wrg.leadin && s.wrg.state != 5

def doWaitb (s : State) (n : Nat) (f : FieldsWB) : State :=
  let c := coreAt s n
  let v := if f.mode == 1 then getS c f.b else 0
  let m := f.mode.toNat
  if !formed s || (m = 2 && !s.wrg.posValid) then cpFault s n 8 0 0
  else match unitOf (.waitb f) with
    | some u => modCore s n fun c => retire (enqUnit c u (.waitb m v s.beat.count))
    | none =>
      if waitbHolds s m v s.beat.count then modCore s n retire
      else modCore s n fun c => { c with wait := .waitb m v s.beat.count }

/-- Every item that a fence names has completed (R183). -/
def fenceHolds (c : Core) (mask : Byte) : Bool :=
  (!bit mask 0 || c.stores.isEmpty) && ((List.range 6).all fun u => !bit mask (u + 1) || !unitBusy c u) &&
    (!bit mask 7 || movOut c == 0)

/-- A FENCE completes: writes of others reach the fetch from here on, and with MASK bit 0 the instructions fetched ahead are fetched
again (R189). -/
def retireFence (c : Core) (mask : Byte) : Core :=
  { retire c with refetch := true, ahead := if bit mask 0 then [] else c.ahead }

def doFence (s : State) (n : Nat) (mask : Byte) : State :=
  modCore s n fun c => if fenceHolds c mask then retireFence c mask else { c with wait := .fence mask }

/-- CSET and CADD of counters 254 and 255 while the WRG is enabled (R180). -/
def wrgCounter (s : State) (ctr : Byte) : Bool := s.wrg.enable && decide (254 ≤ ctr.toNat)

def doCset (s : State) (n : Nat) (f : FieldsCT) : State :=
  if wrgCounter s f.ctr then cpFault s n 7 0 (f.ctr.setWidth 32)
  else modCore (setCounter s n f.ctr.toNat ((getS (coreAt s n) f.b).setWidth 32)) n retire

def doCadd (s : State) (n : Nat) (f : FieldsCT) : State :=
  let s := touchCounter s n f.ctr.toNat
  let k := counterAt s n f.ctr.toNat
  if wrgCounter s f.ctr || !k.valid then cpFault s n 7 0 (f.ctr.setWidth 32)
  else modCore (setCounter s n f.ctr.toNat (k.value + (getS (coreAt s n) f.b).setWidth 32)) n retire

/-- The value of CREAD: bit 63 marks an invalid counter. -/
def creadValue (k : Counter) : W64 := if k.valid then zx k.value else zx k.value ||| 0x8000000000000000

def doCread (s : State) (n : Nat) (f : FieldsCT) (parity : Bool) : State :=
  let s := if parity then counterParity s n f.ctr.toNat else touchCounter s n f.ctr.toNat
  let v := creadValue (counterAt s n f.ctr.toNat)
  modCore s n fun c => retire (setS c f.d v)

def doSignal (s : State) (n : Nat) (f : FieldsSG) : State :=
  modCore (postCore s n 2 (.signal f.code (BitVec.ofNat 8 n) (getS (coreAt s n) f.b))) n retire

def doTdchk (s : State) (n : Nat) (f : FieldsR) : State :=
  let c := coreAt s n
  let t := getTd c f.a
  let ok := (tdFault s n t).isNone &&
    (f.fn == 0 || t.any fun t => (firstBad s t.base.toNat (extent t) (writableKind c.ctx.toNat)).isNone)
  modCore s n fun c => retire (setP c f.d ok)

/-- END (R185). Under STEP both R135 (STOP = STEP) and R185 (STOP = END) name what STOP records; the model takes R185's, the
instruction's own (assumption log 32, DESIGN CHOICE). -/
def doEnd (s : State) (n : Nat) : State :=
  modCore s n fun c => { retire c with state := 3, stopNext := 3 }

def doNop (s : State) (n : Nat) : State := modCore s n retire

/-! ### M class (R142, R186, R187) -/

/-- A transfer descriptor from its 32 bytes (Table 4-3). -/
def parseXfer (bs : List Byte) : XDesc :=
  let u (o : Nat) : W32 := BitVec.ofNat 32 (ofLe ((bs.drop o).take 4))
  ⟨u 0, u 4, u 8, u 12, u 16, u 20, u 24, u 28⟩

/-- The lowest slot of a mover that no transfer holds. -/
def freeSlot (c : Core) (m : Nat) : Nat :=
  ((List.range 6).find? fun i => !((c.movers.toList.getD m []).any fun x => bits x.tag 7 3 == i)).getD 0

/-- A transfer launched on a mover of core `n`: a slot, and the TAG of Table 11-8 (R142, R146). -/
def launch (c : Core) (n m : Nat) (d : XDesc) (descAddr : W32) (put : Option W64) (cen : Bool) (ccnt : Byte) : Core :=
  let tag := BitVec.ofNat 16 (4096 * n + 1024 * m + 128 * freeSlot c m + c.launches.toNat)
  { c with
    movers := vmod c.movers m fun l => l ++ [⟨c.pc, d, descAddr, put, cen, ccnt, c.ctx, tag, false, false, [], [], 0, false⟩]
    launches := c.launches + 1 }

def doMove (s : State) (n : Nat) (f : FieldsMV) : State :=
  let c := coreAt s n
  let a := effAddr c f.a f.imm
  if a.toNat % 32 != 0 then cpFault s n 2 0 a
  else if cpWaits s n a.toNat 32 then s
  else
    match cpRead s n a.toNat 32 with
    | (s, .error e) => cpFault s n e.1 e.2.1 e.2.2
    | (s, .ok bs) => modCore s n fun c =>
      retire (launch c n ((moverOf c (.move f)).getD 0) (parseXfer bs) a none f.cen f.ccnt)

/-- The chip's own coordinate as a PUT names it (R187). -/
def ownCoord (s : State) : Nat := (instCoord s).toNat % 32768

/-- The chip at a packed coordinate is a member of this chip's formed partition. -/
def memberCoord (s : State) (k : Nat) : Bool :=
  match table? s, s.glb.part with
  | some t, some v => formed s && isMember t v (unpackCoord k)
  | _, _ => false

/-- The descriptor of a PUT: one row of 8 bytes. -/
def putDesc (addr : W32) (far : Bool) (coord : Nat) (den : Bool) (dcnt : Byte) : XDesc :=
  ⟨0, addr, BitVec.ofNat 32 (coord + 2 ^ 31 * boolNat far), 8, 1, 0, 0, BitVec.ofNat 32 (dcnt.toNat + 256 * boolNat den)⟩

def doPut (s : State) (n : Nat) (f : FieldsPT) : State :=
  let c := coreAt s n
  let a := getA c f.a
  let b := getS c f.b
  let coord := b.toNat % 32768
  let local' := coord == ownCoord s
  if a.toNat % 8 != 0 then cpFault s n 2 0 a
  else if chipBytes ≤ a.toNat then cpFault s n 3 5 a
  else if 32768 ≤ b.toNat || (!local' && !memberCoord s coord) then cpFault s n 6 0 (b.setWidth 32)
  else if local' && cpStoreBad s n a.toNat 8 then cpFault s n 3 5 a
  else modCore s n fun c =>
    retire (launch c n (anyMover c) (putDesc a (!local') coord f.den f.dcnt) 0 (some (getS c f.d)) false 0)

/-! ### T and C class at issue (R169, R202, R204, R216, R218) -/

/-- The first fault of the descriptors that an instruction uses, in the order of its fields. -/
def descFault (s : State) (n : Nat) (l : List (Option TD)) : Option (Nat × Nat × W32) := l.findSome? fun t => tdFault s n t

/-- Descriptors of an instruction as the queue entry captures them: d, a, b, c, e; `none` where the field is not used. -/
structure Capture where
  d : Option TD
  a : Option TD
  b : Option TD
  c : Option TD
  e : Option TD

/-- An instruction enters its queue, once every descriptor that it uses passes (R169). -/
def enqueueOp (s : State) (n : Nat) (i : Isa) (used : List (Option TD)) (k : Capture) (scalar : W64) : State :=
  match descFault s n used, unitOf i with
  | some e, _ => cpFault s n e.1 e.2.1 e.2.2
  | none, some u => modCore s n fun c => retire (enqUnit c u (.op i k.d k.a k.b k.c k.e scalar))
  | none, none => s

/-- The instructions of layout TM. -/
def doTm (s : State) (n : Nat) (op : TmOp) (f : FieldsTM) : State :=
  let c := coreAt s n
  let td := getTd c
  enqueueOp s n (.tm op f) ([td f.d, td f.a, td f.b] ++ if f.aen then [td f.c] else [])
    ⟨td f.d, td f.a, td f.b, if f.aen then td f.c else none, none⟩ (if f.shx then getS c f.sh else 0)

def doVec (s : State) (n : Nat) (f : FieldsV) : State :=
  let c := coreAt s n
  let td := getTd c
  let u := vecUses f.fn.toNat
  let a := if u.1 then td f.a else none
  let b := if u.2.1 then td f.b else none
  let c3 := if u.2.2.1 then td f.c else none
  enqueueOp s n (.vec f)
    ([td f.d] ++ (if u.1 then [td f.a] else []) ++ (if u.2.1 then [td f.b] else []) ++ if u.2.2.1 then [td f.c] else [])
    ⟨td f.d, a, b, c3, none⟩ (if u.2.2.2 then getS c f.s else 0)

/-- TFLG (R216): queued to a unit, or TFLG.CP behind the CPRIs issued before it. -/
def doTflg (s : State) (n : Nat) (f : FieldsFL) : State :=
  modCore s n fun c => retire (match unitOf (.tflg f) with
    | some u => { enqUnit c u (.tflg f.d) with sPend := setBit c.sPend f.d.toNat true }
    | none => settleTflg 32 { c with tflgCp := c.tflgCp ++ [(f.d, c.cpriOut)], sPend := setBit c.sPend f.d.toNat true })

/-- The instructions of layout CX: TMUL.GATHER and TMUL.SCATTER. -/
def doCx (s : State) (n : Nat) (i : Isa) (f : FieldsCX) : State :=
  let td := getTd (coreAt s n)
  enqueueOp s n i ([td f.d, td f.a, td f.b] ++ (if f.aen then [td f.c] else []) ++ [td f.e])
    ⟨td f.d, td f.a, td f.b, if f.aen then td f.c else none, td f.e⟩ 0

def doCall (s : State) (n : Nat) (f : FieldsCL) : State :=
  let td := getTd (coreAt s n)
  enqueueOp s n (.call f) [td f.d, td f.a] ⟨td f.d, td f.a, none, none, none⟩ 0

/-- CPRI: sb is read at issue, sd is pending until the result returns (R225). -/
def doCpri (s : State) (n : Nat) (f : FieldsCP) : State :=
  let v := if f.op == 0 then 0 else getS (coreAt s n) f.b
  modCore s n fun c => retire
    { enqUnit c f.unit.toNat (.op (.cpri f) none none none none none v) with
      sPend := setBit c.sPend f.d.toNat true, cpriOut := c.cpriOut + 1 }

/-! ### The rows -/

/-- The effect of an instruction whose conditions to issue hold. -/
def effect (s : State) (n : Nat) : Isa → State
  | .ill => cpFault s n 1 0 0
  | .alu f => doAlu s n f
  | .alui f => doAlui s n f
  | .cmp f => doCmp s n f
  | .cmpi f => doCmpi s n f
  | .plog f => doPlog s n f
  | .aop f => doAop s n f
  | .ld f => doLd s n f
  | .st f => doSt s n f
  | .rdc f => doRdc s n f
  | .tdld f => doTdld s n f
  | .tdst f => doTdst s n f
  | .tdbase f => doTdbase s n f
  | .j f => doJ s n f
  | .jal f => doJal s n f
  | .jalr f => doJalr s n f
  | .djnz f => doDjnz s n f
  | .waitc f => doWaitc s n f
  | .waitb f => doWaitb s n f
  | .fence m => doFence s n m
  | .cset f => doCset s n f
  | .cadd f => doCadd s n f
  | .cread f => doCread s n f false
  | .signal f => doSignal s n f
  | .tdchk f => doTdchk s n f
  | .endp => doEnd s n
  | .nop => doNop s n
  | .move f => doMove s n f
  | .put f => doPut s n f
  | .tm op f => doTm s n op f
  | .vec f => doVec s n f
  | .tflg f => doTflg s n f
  | .gather f => doCx s n (.gather f) f
  | .scatter f => doCx s n (.scatter f) f
  | .call f => doCall s n f
  | .cpri f => doCpri s n f

/-- One instruction at issue. -/
def issue (s : State) (n : Nat) (g : Guard) (i : Isa) : State := issueWith s n g i fun s => effect s n i

/-- A memory with stores written over it in order. -/
def overStores (m : List Host.Cell) (st : List (Nat × Nat × W64)) : List Host.Cell :=
  st.foldl (fun m w => writeBytes m w.1 (leBytes w.2.1 w.2.2.toNat)) m

/-- The CP fetches afresh where it is to: the cupboard under its own posted stores; what it fetched ahead and stored to since stays
as it was, unless a branch or FENCE discarded it (R175, R189). -/
def fetchFresh (m : List Host.Cell) (c : Core) : Core :=
  if c.refetch then
    { c with
      refetch := false
      imem := c.ahead.foldl (fun x w => writeBytes x w.1 (readBytes c.imem w.1 w.2.1)) (overStores m c.stores) }
  else c

/-- The word at the PC as fetch sees it. Where own stores met it after it was fetched ahead, how many of them it shows is a free
choice (R189). -/
def fetchWord (s : State) (n : Nat) : State × W64 :=
  let s := modCore s n (fetchFresh s.mem)
  let c := coreAt s n
  let hits := c.ahead.filter fun w => overlap w.1 w.2.1 c.pc.toNat 8
  let k := if hits.isEmpty then 0 else Config.freeNat s.draw % (hits.length + 1)
  (if hits.isEmpty then s else s.drawn 1, BitVec.ofNat 64 (readLe (overStores c.imem (hits.take k)) c.pc.toNat 8))

/-- The CP fetches at COR_PC_LO and issues (R133, R170, R178): a fetch outside the context's own frames raises BOUNDS, an
uncorrectable word MACHINE, an undefined word ILLEGAL. -/
def fetchIssue (s : State) (n : Nat) : State :=
  let c := coreAt s n
  let a := c.pc.toNat
  if !mayIssue c then s
  else if (firstBad s a 8 (writableKind c.ctx.toNat)).isSome then cpFault s n 3 0 c.pc
  else if filling s a 8 then s
  else match cpUe s n a 8 with
    | some w => cpFault (noteUe s (8 * w) (some n) readerCp) n 10 0 c.pc
    | none =>
      let f := fetchWord (correctRead s a 8) n
      match isaDecode f.2 with
      | none => cpFault f.1 n 1 0 0
      | some i => issue f.1 n (wordGuard f.2) i

def execInstructionIssue (core : CoreId) (s : State) : Host.Outcome State Fault Refusal := .next (fetchIssue s core.val)

def execIll (core : CoreId) (g : Guard) (s : State) : Host.Outcome State Fault Refusal := .next (issue s core.val g .ill)
def execAlu (core : CoreId) (g : Guard) (f : FieldsR) (s : State) : Host.Outcome State Fault Refusal :=
  .next (issue s core.val g (.alu f))
def execAlui (core : CoreId) (g : Guard) (f : FieldsI) (s : State) : Host.Outcome State Fault Refusal :=
  .next (issue s core.val g (.alui f))
def execCmp (core : CoreId) (g : Guard) (f : FieldsR) (s : State) : Host.Outcome State Fault Refusal :=
  .next (issue s core.val g (.cmp f))
def execCmpi (core : CoreId) (g : Guard) (f : FieldsI) (s : State) : Host.Outcome State Fault Refusal :=
  .next (issue s core.val g (.cmpi f))
def execPlog (core : CoreId) (g : Guard) (f : FieldsR) (s : State) : Host.Outcome State Fault Refusal :=
  .next (issue s core.val g (.plog f))
def execAop (core : CoreId) (g : Guard) (f : FieldsI) (s : State) : Host.Outcome State Fault Refusal :=
  .next (issue s core.val g (.aop f))
def execLd (core : CoreId) (g : Guard) (f : FieldsI) (s : State) : Host.Outcome State Fault Refusal :=
  .next (issue s core.val g (.ld f))
def execSt (core : CoreId) (g : Guard) (f : FieldsI) (s : State) : Host.Outcome State Fault Refusal :=
  .next (issue s core.val g (.st f))
def execRdc (core : CoreId) (g : Guard) (f : FieldsI) (s : State) : Host.Outcome State Fault Refusal :=
  .next (issue s core.val g (.rdc f))
def execTdld (core : CoreId) (g : Guard) (f : FieldsI) (s : State) : Host.Outcome State Fault Refusal :=
  .next (issue s core.val g (.tdld f))
def execTdst (core : CoreId) (g : Guard) (f : FieldsI) (s : State) : Host.Outcome State Fault Refusal :=
  .next (issue s core.val g (.tdst f))
def execTdbase (core : CoreId) (g : Guard) (f : FieldsI) (s : State) : Host.Outcome State Fault Refusal :=
  .next (issue s core.val g (.tdbase f))
def execJ (core : CoreId) (g : Guard) (f : FieldsJ) (s : State) : Host.Outcome State Fault Refusal :=
  .next (issue s core.val g (.j f))
def execJal (core : CoreId) (g : Guard) (f : FieldsJ) (s : State) : Host.Outcome State Fault Refusal :=
  .next (issue s core.val g (.jal f))
def execJalr (core : CoreId) (g : Guard) (f : FieldsI) (s : State) : Host.Outcome State Fault Refusal :=
  .next (issue s core.val g (.jalr f))
def execDjnz (core : CoreId) (g : Guard) (f : FieldsJ) (s : State) : Host.Outcome State Fault Refusal :=
  .next (issue s core.val g (.djnz f))
def execWaitc (core : CoreId) (g : Guard) (f : FieldsWC) (s : State) : Host.Outcome State Fault Refusal :=
  .next (issue s core.val g (.waitc f))
def execWaitb (core : CoreId) (g : Guard) (f : FieldsWB) (s : State) : Host.Outcome State Fault Refusal :=
  .next (issue s core.val g (.waitb f))
def execFence (core : CoreId) (g : Guard) (mask : Byte) (s : State) : Host.Outcome State Fault Refusal :=
  .next (issue s core.val g (.fence mask))
def execCset (core : CoreId) (g : Guard) (f : FieldsCT) (s : State) : Host.Outcome State Fault Refusal :=
  .next (issue s core.val g (.cset f))
def execCadd (core : CoreId) (g : Guard) (f : FieldsCT) (s : State) : Host.Outcome State Fault Refusal :=
  .next (issue s core.val g (.cadd f))
def execCread (core : CoreId) (g : Guard) (f : FieldsCT) (parityError : Bool) (s : State) :
    Host.Outcome State Fault Refusal :=
  .next (issueWith s core.val g (.cread f) fun s => doCread s core.val f parityError)
def execSignal (core : CoreId) (g : Guard) (f : FieldsSG) (s : State) : Host.Outcome State Fault Refusal :=
  .next (issue s core.val g (.signal f))
def execTdchk (core : CoreId) (g : Guard) (f : FieldsR) (s : State) : Host.Outcome State Fault Refusal :=
  .next (issue s core.val g (.tdchk f))
def execEndp (core : CoreId) (g : Guard) (s : State) : Host.Outcome State Fault Refusal := .next (issue s core.val g .endp)
def execNop (core : CoreId) (g : Guard) (s : State) : Host.Outcome State Fault Refusal := .next (issue s core.val g .nop)
def execMove (core : CoreId) (g : Guard) (f : FieldsMV) (s : State) : Host.Outcome State Fault Refusal :=
  .next (issue s core.val g (.move f))
def execPut (core : CoreId) (g : Guard) (f : FieldsPT) (s : State) : Host.Outcome State Fault Refusal :=
  .next (issue s core.val g (.put f))
def execTmul (core : CoreId) (g : Guard) (f : FieldsTM) (s : State) : Host.Outcome State Fault Refusal :=
  .next (issue s core.val g (.tm .tmul f))
def execTl1 (core : CoreId) (g : Guard) (f : FieldsTM) (s : State) : Host.Outcome State Fault Refusal :=
  .next (issue s core.val g (.tm .tl1 f))
def execTl2 (core : CoreId) (g : Guard) (f : FieldsTM) (s : State) : Host.Outcome State Fault Refusal :=
  .next (issue s core.val g (.tm .tl2 f))
def execTminp (core : CoreId) (g : Guard) (f : FieldsTM) (s : State) : Host.Outcome State Fault Refusal :=
  .next (issue s core.val g (.tm .tminp f))
def execTmaxp (core : CoreId) (g : Guard) (f : FieldsTM) (s : State) : Host.Outcome State Fault Refusal :=
  .next (issue s core.val g (.tm .tmaxp f))
def execTham (core : CoreId) (g : Guard) (f : FieldsTM) (s : State) : Host.Outcome State Fault Refusal :=
  .next (issue s core.val g (.tm .tham f))
def execTccnt (core : CoreId) (g : Guard) (f : FieldsTM) (s : State) : Host.Outcome State Fault Refusal :=
  .next (issue s core.val g (.tm .tccnt f))
def execSmv (core : CoreId) (g : Guard) (f : FieldsTM) (s : State) : Host.Outcome State Fault Refusal :=
  .next (issue s core.val g (.tm .smv f))
def execVec (core : CoreId) (g : Guard) (f : FieldsV) (s : State) : Host.Outcome State Fault Refusal :=
  .next (issue s core.val g (.vec f))
def execTflg (core : CoreId) (g : Guard) (f : FieldsFL) (s : State) : Host.Outcome State Fault Refusal :=
  .next (issue s core.val g (.tflg f))
def execTmulGather (core : CoreId) (g : Guard) (f : FieldsCX) (s : State) : Host.Outcome State Fault Refusal :=
  .next (issue s core.val g (.gather f))
def execTmulScatter (core : CoreId) (g : Guard) (f : FieldsCX) (s : State) : Host.Outcome State Fault Refusal :=
  .next (issue s core.val g (.scatter f))
def execCall (core : CoreId) (g : Guard) (f : FieldsCL) (s : State) : Host.Outcome State Fault Refusal :=
  .next (issue s core.val g (.call f))
def execCpri (core : CoreId) (g : Guard) (f : FieldsCP) (s : State) : Host.Outcome State Fault Refusal :=
  .next (issue s core.val g (.cpri f))

/-! ### Completions in the CP -/

/-- The first return of a kind is written. -/
def returnFirst (c : Core) (isLoad : Bool) : Core :=
  match c.rets.find? (·.isLoad == isLoad) with
  | some r => { putS c r.d r.value with rets := c.rets.eraseP (·.isLoad == isLoad) }
  | none => c

def execLdDataReturn (core : CoreId) (s : State) : Host.Outcome State Fault Refusal :=
  .next (modCore s core.val fun c => returnFirst c true)

def execAluResultReturn (core : CoreId) (s : State) : Host.Outcome State Fault Refusal :=
  .next (modCore s core.val fun c => returnFirst c false)

/-- The oldest posted store is written (R175), once no zero fill runs where it goes (R310, R324). -/
def storeWritten (s : State) (n : Nat) : State :=
  match (coreAt s n).stores with
  | [] => s
  | w :: r =>
    if filling s w.1 w.2.1 then s
    else cupWrite (modCore s n fun c => { c with stores := r }) w.1 (leBytes w.2.1 w.2.2.toNat) (some n)

def execCpStoreWritten (core : CoreId) (s : State) : Host.Outcome State Fault Refusal := .next (storeWritten s core.val)

/-- A trestle named by an agent is disabled (R263). -/
def offline (c : Core) (u : Nat) : Bool := decide (u < 4) && bit c.trsDis u

/-- The wait at the head of a unit's queue leaves it. -/
def popHead (c : Core) (u : Nat) : Core := modUnit c u fun x => { x with queue := x.queue.drop 1 }

/-- WAITC evaluated at its place (R179, R196): an invalid counter raises COUNTER. -/
def waitcComplete (s : State) (n agent : Nat) : State :=
  let c := coreAt s n
  if agent = 0 then
    match c.wait with
    | .waitc ctr eq v =>
      let s := touchCounter s n ctr.toNat
      let k := counterAt s n ctr.toNat
      if !k.valid then cpFault s n 7 0 (ctr.setWidth 32)
      else if waitcHolds k.value eq v then modCore s n retire else s
    | _ => s
  else
    let u := agent - 1
    match (c.units.toList.getD u CUnit.empty).queue with
    | e :: _ => match e.work with
      | .waitc ctr eq v =>
        if offline c u then unitOffline s n u e.pc
        else
          let s := touchCounter s n ctr.toNat
          let k := counterAt s n ctr.toNat
          if !k.valid then unitFault s n u 7 0 e.pc (ctr.setWidth 32)
          else if waitcHolds k.value eq v then modCore s n fun c => popHead c u else s
      | _ => s
    | [] => s

def execWaitcComplete (core : CoreId) (agent : Fin 7) (s : State) : Host.Outcome State Fault Refusal :=
  .next (waitcComplete s core.val agent.val)

/-- WAITB evaluated at its place (R182). -/
def waitbComplete (s : State) (n agent : Nat) : State :=
  let c := coreAt s n
  if agent = 0 then
    match c.wait with
    | .waitb m v b => if waitbHolds s m v b then modCore s n retire else s
    | _ => s
  else
    let u := agent - 1
    match (c.units.toList.getD u CUnit.empty).queue with
    | e :: _ => match e.work with
      | .waitb m v b =>
        if offline c u then unitOffline s n u e.pc
        else if waitbHolds s m v b then modCore s n fun c => popHead c u else s
      | _ => s
    | [] => s

def execWaitbComplete (core : CoreId) (agent : Fin 7) (s : State) : Host.Outcome State Fault Refusal :=
  .next (waitbComplete s core.val agent.val)

def execFenceComplete (core : CoreId) (s : State) : Host.Outcome State Fault Refusal :=
  .next (modCore s core.val fun c => match c.wait with
    | .fence m => if fenceHolds c m then retireFence c m else c
    | _ => c)

end Sys2Proof.Machine
end

