-- ==== Sys2Proof/Machine/Transcend.lean ====
section
/-! DEFINITION. Machine/Transcend.lean: VRECIP, VRSQRT, VEXP, VLOG and VTANH: their real values in fixed point, far finer than binary32,
and the binary32 results within 2 units in the last place of them (R218, Table 6-9, R288). -/

namespace Sys2Proof.Machine

/-- Fraction bits of the fixed-point work. -/
def fixBits : Nat := 256

/-- 1 in fixed point. -/
def fixOne : Int := 2 ^ fixBits

/-- A fixed-point product. -/
def fixMul (x y : Int) : Int := x * y / fixOne

/-- A dyadic value in fixed point. -/
def fixOf (v : Dy) : Int := if -(fixBits : Int) ≤ v.e then v.m * 2 ^ (v.e + fixBits).toNat else v.m / 2 ^ (-(v.e + fixBits)).toNat

/-- A fixed-point number as a dyadic value. -/
def fixDy (x : Int) : Dy := ⟨x, -(fixBits : Int)⟩

/-- e^r for a fixed-point |r| < 1: `n` terms of the series after the first, from the term `t` on, the `k`-th. -/
def expSeries : Nat → Nat → Int → Int → Int
  | 0, _, _, t => t
  | n + 1, k, r, t => t + expSeries n (k + 1) r (fixMul t r / k)

/-- A fixed-point number squared `n` times. -/
def squares : Nat → Int → Int
  | 0, x => x
  | n + 1, x => squares n (fixMul x x)

/-- e^v, of v no further than 128 from 0. -/
def fixExp (v : Dy) : Int := squares 8 (expSeries 64 1 (fixOf (v.scale (-8))) fixOne)

/-- Twice the inverse hyperbolic tangent of a fixed-point |t| ≤ 1/3, from the power `p` of t on. -/
def atanhSeries : Nat → Nat → Int → Int → Int
  | 0, _, _, _ => 0
  | n + 1, k, t2, p => 2 * p / (2 * k + 1) + atanhSeries n (k + 1) t2 (fixMul p t2)

/-- ln (a / b) of positive integers with b ≤ a ≤ 2b. -/
def fixLn (a b : Int) : Int :=
  let t := (a - b) * fixOne / (a + b)
  atanhSeries 84 0 (fixMul t t) t

/-- The natural logarithm of a positive dyadic value. -/
def fixLog (v : Dy) : Int :=
  let k := Nat.log2 v.m.natAbs
  fixLn v.m (2 ^ k) + (v.e + k) * fixLn 2 1

/-- Whole square root, bit by bit. -/
def wholeSqrt (n : Nat) : Nat :=
  (List.range 256).foldl (fun r j => let x := r + 2 ^ (255 - j); if x * x ≤ n then x else r) 0

/-- The value of a function at an ordinary argument, far closer than a unit of binary32: FN 10 to 14. Where e^v or tanh v is closer to
its limit than any binary32 number but the limit itself can be, a value beside the limit stands for it. -/
def transReal (fn : Nat) (v : Dy) : Dy :=
  match fn with
  | 10 => ⟨(if v.m < 0 then -1 else 1) * (2 ^ 400 / v.m.natAbs : Nat), -v.e - 400⟩
  | 11 =>
    let odd := v.e % 2
    ⟨wholeSqrt (2 ^ 480 / (v.m * 2 ^ odd.toNat).natAbs), -((v.e - odd) / 2) - 240⟩
  | 12 =>
    if (Dy.ofInt 89).lt v then ⟨1, 256⟩ else if v.lt (Dy.ofInt (-105)) then ⟨1, -200⟩ else fixDy (fixExp v)
  | 13 => fixDy (fixLog v)
  | _ =>
    if (Dy.ofInt 40).lt v.abs then ⟨(if v.m < 0 then -1 else 1) * (2 ^ 100 - 1), -100⟩
    else
      let x := fixExp (v.scale 1)
      fixDy ((x - fixOne) * fixOne / (x + fixOne))

/-- The bits of binary32 number `k`, counted from 0 through the positive and the negative numbers. -/
def numbered (k : Int) : Nat := if k < 0 then 2 ^ 31 + k.natAbs else k.natAbs

/-- The value of binary32 number `k`, in which +∞ and −∞ stand where the next number would. -/
def numberedDy (k : Int) : Dy :=
  match floatOf 8 23 (numbered k) with
  | .fin _ v => v
  | _ => ⟨if k < 0 then -1 else 1, 128⟩

/-- The binary32 numbers within 2 units in the last place of a real value. -/
def within2 (y : Dy) : List Nat :=
  let unit : Int := (if y.m = 0 then -126 else max y.log2 (-126)) - 23
  let near : Int := (roundFloat 8 23 1#2 false y.abs : Nat)
  let near := if y.m < 0 then -near else near
  ((List.range 9).map fun (j : Nat) => near + j - 4).filterMap fun k =>
    if k.natAbs ≤ 0x7F800000 && ((numberedDy k).sub y).abs.le ⟨2, unit⟩ then some (numbered k) else none

/-- The result of a transcendental function at an ordinary argument, in binary32: any of those within its bound, at a free choice; an
infinity where the value lies beyond every finite number's bound. -/
def transBits (fn : Nat) (x : BitVec 32) (neg : Bool) (v : Dy) : Nat :=
  let l := within2 (transReal fn v)
  l.getD ((Config.transcend fn x).toNat % max 1 l.length) (infBits 8 23 (neg && fn == 10))

end Sys2Proof.Machine
end

