-- ==== Sys2Proof/Machine/Tensor.lean ====
section
/-! DEFINITION. Machine/Tensor.lean: what T-class instructions, and the local part of C-class instructions, compute: shapes, the
checks of Table 6-10, and the values of trestles, stool and vector unit (R203 to R209, R215 to R229, R275 to R289). -/

namespace Sys2Proof.Machine

/-! ### The trestle view of an instruction -/

/-- The options of an instruction of layout TM, or of the TMUL inside one of layout CX (R222). -/
structure TmView where
  op : TmOp
  mw : BitVec 3
  df : BitVec 2
  bench : Bool
  keep : Bool
  acc : Bool
  aen : Bool
  rnd : BitVec 2
  shx : Bool
  deriving DecidableEq, Repr

def tmViewOf : Isa → Option TmView
  | .tm op f => some ⟨op, f.mw, f.df, f.bench, f.keep, f.acc, f.aen, f.rnd, f.shx⟩
  | .gather f => some ⟨.tmul, f.mw, 0, false, false, f.acc, f.aen, 0, false⟩
  | .scatter f => some ⟨.tmul, f.mw, 0, false, false, f.acc, f.aen, 0, false⟩
  | _ => none

/-- A C-class instruction. -/
def isClassC : Isa → Bool
  | .gather _ | .scatter _ | .call _ | .cpri _ => true
  | _ => false

/-- Mantissa width b of MW (Table 6-3). -/
def mwBits (mw : BitVec 3) : Nat := [2, 3, 4, 6, 8, 10, 12, 16].getD mw.toNat 16

/-- Rows and columns of the logical array (Table 6-8). -/
def arrayK (bench : Bool) : Nat := if bench then 64 else 256
def arrayN (bench : Bool) : Nat := if bench then 128 else 32

/-- Number of tiles T (Table 6-8). -/
def tilesOf (df : BitVec 2) (bench : Bool) (m k n : Nat) : Nat :=
  let kt := arrayK bench
  let nt := arrayN bench
  match df.toNat with
  | 0 => ceilDiv k kt * ceilDiv n nt * ceilDiv m 2048
  | 1 => ceilDiv m kt * ceilDiv n nt * ceilDiv k 2048
  | _ => ceilDiv k kt * ceilDiv m nt * ceilDiv n 2048

/-! ### Operands as matrices (Table 6-4) -/

/-- Rows and columns of operand A: M × K. -/
def shapeA (t : TD) : Nat × Nat := if t.view then (t.dim0, t.dim1) else (rowsOf t, t.dim0)
/-- Rows and columns of operand B: K × N. -/
def shapeB (t : TD) : Nat × Nat := if t.view then (t.dim0, t.dim1) else (t.dim1, t.dim0)

/-- Where element (r, c) of a matrix operand lies: a VIEW = 1 descriptor is read as its transpose. -/
def matAddr (t : TD) (r c : Nat) : Nat × Bool :=
  if t.view then elemAddr t r c 0 0
  else let q := rowIndex t r; elemAddr t c q.1 q.2.1 q.2.2

/-- Element (r, c) of a matrix operand. -/
def matBits (m : List Host.Cell) (t : TD) (r c : Nat) : Nat := elemBits m t (matAddr t r c)

/-- Row of an addend that applies to row `m`: its one row where it has only one (Table 6-4). -/
def addendRow (t : TD) (m : Nat) : Nat := if rowsOf t = 1 then 0 else m

/-- The descriptors agree in every field that R207 and R227 name. -/
def sameTd (x y : TD) : Bool := { x with ctx := 0 } == { y with ctx := 0 }

/-! ### Checks at the head of the queue (Table 6-10) -/

/-- The group of a C-class instruction: valid in the current epoch, with this chip among its members (R221). -/
def groupOf (s : State) (id : Nat) : Option GroupEntry :=
  if s.hut.loaded then
    s.hut.groups.find? fun g => g.id == id && g.epoch == s.own.epoch.setWidth 16 && g.members.contains (selfOf s)
  else none

/-- GRP of an instruction. -/
def grpOf : Isa → Option Nat
  | .gather f => some f.grp.toNat
  | .scatter f => some f.grp.toNat
  | .call f => some f.grp.toNat
  | .cpri f => some f.grp.toNat
  | _ => none

/-- G, the number of members of an instruction's group; 1 for an instruction without one. -/
def groupSize (s : State) (i : Isa) : Nat :=
  match (grpOf i).bind (groupOf s) with
  | some g => g.members.length
  | none => 1

/-- Captured descriptors: d, a, b, c, e. -/
structure Ops where
  d : Option TD
  a : Option TD
  b : Option TD
  c : Option TD
  e : Option TD
  deriving DecidableEq, Repr

/-- A descriptor's format code; 255 where there is none. -/
def fmtOf (t : Option TD) : Nat := (t.map fun t => t.format.toNat).getD 255

/-- Formats of a trestle instruction (Tables 6-5 and 6-6, R205): `dst` is the destination of the drain. -/
def tmFormats (v : TmView) (a b dst : Nat) (c : Option Nat) : Bool :=
  let ints := fmtInt a && fmtInt b
  let flt := (fmtFloat a).isSome && (fmtFloat b).isSome
  decide (a ≤ 4 ∧ b ≤ 4) && (ints || flt) && [2, 3, 4, 6, 7].contains dst &&
  (c.all fun c => c == dst || c == 4) &&
  match v.op with
  | .tmul => dst != 6 || ints
  | .tl1 | .tl2 => (flt || (a == 1 && b == 1)) && (dst != 6 || ints)
  | .tminp | .tmaxp => flt && dst != 6 && dst != 7
  | .tham => ints && dst != 7
  | .tccnt => dst != 7
  | .smv => true

/-- Formats of SMV (Table 6-5, R217). -/
def smvFormats (a b d : Nat) (c : Option Nat) : Bool :=
  decide (1 ≤ a ∧ a ≤ 4 ∧ b ≤ 3) && [2, 3, 4].contains d && (c.all fun c => c == d || c == 4)

/-- Formats of the vector unit (R219). -/
def vecFormats (fn d : Nat) (src : List Nat) : Bool :=
  let vu (f : Nat) : Bool := decide (1 ≤ f ∧ f ≤ 7)
  vu d && src.all vu &&
  (!(10 ≤ fn && fn ≤ 14) || (d :: src).all fun f => [2, 3, 4].contains f) &&
  (fn != 16 || d == 7) && (fn != 17 || src.all (· == 7))

/-- The effective shape (M, K, N) of a trestle or stool instruction; none raises SHAPE (R203, R204, R217, R222, R223). `dm`,
`dn`: what a destination of M rows or N columns holds. -/
def tmShape (v : TmView) (o : Ops) (scalar : W64) : Option (Nat × Nat × Nat) :=
  match o.d, o.a, o.b with
  | some d, some a, some b =>
    let sa := shapeA a
    let sb := shapeB b
    let flat (t : TD) : Bool := t.dim2 == 1 && t.dim3 == 1
    let views := !d.view && !(o.c.any (·.view)) && (!a.view || flat a) && flat b
    let cRows (m : Nat) (exact : Bool) : Bool := o.c.all fun c => rowsOf c == 1 || (if exact then rowsOf c == m else m ≤ rowsOf c)
    let cCols (n : Nat) (exact : Bool) : Bool := o.c.all fun c => if exact then c.dim0 == n else decide (n ≤ c.dim0)
    if v.shx then
      let m := bits scalar 0 21
      let k := bits scalar 21 17
      let n := bits scalar 38 17
      if views && decide (m ≤ 1048576 ∧ k ≤ 65536 ∧ n ≤ 65536 ∧ bits scalar 55 9 = 0 ∧ m ≤ sa.1 ∧ k ≤ sa.2 ∧ k ≤ sb.1 ∧
          n ≤ sb.2 ∧ m ≤ rowsOf d ∧ n ≤ d.dim0) && cRows m false && cCols n false then some (m, k, n) else none
    else if views && decide (sa.2 = sb.1 ∧ sa.1 ≤ 1048576 ∧ rowsOf d = sa.1 ∧ d.dim0 = sb.2) && cRows sa.1 true &&
        cCols sb.2 true then some (sa.1, sa.2, sb.2) else none
  | _, _, _ => none

/-- The shape of TMUL.GATHER and TMUL.SCATTER on one member's pieces, with D and e judged apart (R222, R223). -/
def cxShape (i : Isa) (g : Nat) (o : Ops) : Option (Nat × Nat × Nat) :=
  match o.d, o.a, o.b, o.e with
  | some d, some a, some b, some e =>
    let sa := shapeA a
    let sb := shapeB b
    let flat (t : TD) : Bool := t.dim2 == 1 && t.dim3 == 1
    let m := sa.1
    let k := sa.2
    let n := sb.2
    let dims : Option (Nat × Nat) := match i with
      | .gather f => some (if f.op == 0 then (g * m, n) else (m, g * n))
      | .scatter f => match f.op.toNat with
        | 0 => if m % g = 0 then some (m / g, n) else none
        | 1 => some (m, n)
        | _ => some (g * m, n)
      | _ => none
    let cDims : Nat × Nat := match i with
      | .gather f => if f.op == 0 then (g * m, n) else (m, g * n)
      | _ => (m, n)
    if !d.view && !e.view && !(o.c.any (·.view)) && (!a.view || flat a) && flat b && decide (k = sb.1 ∧ m ≤ 1048576) &&
        dims == some (rowsOf d, d.dim0) &&
        (o.c.all fun c => (rowsOf c == 1 || rowsOf c == cDims.1) && c.dim0 == cDims.2) then some (m, k, n) else none
  | _, _, _, _ => none

/-- The staging tensor is large enough (R222, R223). -/
def stageOk (i : Isa) (g : Nat) (o : Ops) (sh : Nat × Nat × Nat) : Bool :=
  match o.e with
  | none => true
  | some e =>
    let need : Nat × Nat := match i with
      | .gather f => if f.op == 0 then (g * sh.1, sh.2.1) else (sh.2.1, g * sh.2.2)
      | _ => (sh.1, sh.2.2)
    decide (need.1 ≤ rowsOf e ∧ need.2 ≤ e.dim0)

/-- The shape of CALL (R224). -/
def callShape (op g : Nat) (o : Ops) : Bool :=
  match o.d, o.a with
  | some d, some a =>
    let r := rowsOf a
    d.dim0 == a.dim0 && match op with
      | 0 => rowsOf d == r
      | 1 => r % g == 0 && rowsOf d == r / g
      | _ => rowsOf d == g * r
  | _, _ => false

/-- The shape rules of VEC (R218). -/
def vecShape (fn : Nat) (o : Ops) : Bool :=
  match o.d with
  | none => false
  | some d =>
    let same (t : TD) : Bool := t.dim0 == d.dim0 && t.dim1 == d.dim1 && t.dim2 == d.dim2 && t.dim3 == d.dim3
    let row (t : TD) : Bool := t.dim0 == d.dim0 && t.dim1 == 1 && t.dim2 == 1 && t.dim3 == 1
    if 18 ≤ fn then
      d.dim0 == 1 && o.a.all fun a => a.dim1 == d.dim1 && a.dim2 == d.dim2 && a.dim3 == d.dim3
    else o.a.all same && (o.b.all fun t => same t || row t) && o.c.all fun t => same t || row t

/-- Forbidden overlaps of D (R207); of a CALL, D may be a under ALLSUM (R224). -/
def aliased (i : Isa) (o : Ops) : Bool :=
  match o.d with
  | none => false
  | some d =>
    let hit (t : Option TD) : Bool := t.any fun t => tdOverlap d t
    match i with
    | .call f => hit o.a && !(f.op == 0 && o.a.any (sameTd d))
    | .vec _ => false
    | _ => hit o.a || hit o.b || (hit o.c && !(o.c.any (sameTd d)))

/-- An extent touches a ring region. -/
def touchesRing (s : State) (t : Option TD) : Bool := t.any fun t => meetsRing s t.base.toNat (extent t)

/-- KEEP is honoured (R227). -/
def keepOk (c : Core) (u : Nat) (v : TmView) (o : Ops) (sh : Nat × Nat × Nat) : Bool :=
  let x := c.arrays.toList.getD u TrsArray.empty
  x.loaded && x.keepable && x.op == v.op && x.df == v.df && x.bench == v.bench && x.mw == v.mw &&
    (match x.bDesc, o.b with
      | some p, some q => sameTd p q
      | _, _ => false) &&
    tilesOf v.df v.bench sh.1 sh.2.1 sh.2.2 == 1 && decide (sh.2.1 ≤ x.k ∧ sh.2.2 ≤ x.n)

/-- WIDTH: an integer input whose element width MW does not equal (R205, R278). -/
def widthOk (v : TmView) (a b : Nat) : Bool :=
  (!fmtInt a || fmtBits a == mwBits v.mw) && (!fmtInt b || fmtBits b == mwBits v.mw)

/-- The sub-code of the first check of Table 6-10 that an instruction at the head of unit `u` fails. -/
def unitCheck (s : State) (n u : Nat) (i : Isa) (o : Ops) (scalar : W64) : Option Nat :=
  let c := coreAt s n
  let g := groupSize s i
  let opt (ok : Bool) (k : Nat) (rest : Option Nat) : Option Nat := if ok then rest else some k
  let cf : Option Nat := o.c.map fun t => t.format.toNat
  let grp := match grpOf i with
    | some id => (groupOf s id).any fun e => e.ctx == c.ctx.toNat
    | none => true
  opt grp 1 <| match i with
  | .tm .smv f =>
    let v : TmView := ⟨.smv, 0, 0, false, false, f.acc, f.aen, f.rnd, f.shx⟩
    opt (smvFormats (fmtOf o.a) (fmtOf o.b) (fmtOf o.d) cf) 2 <|
    match tmShape v o scalar with
    | none => some 4
    | some sh => opt (decide (sh.1 ≤ 8)) 4 <| opt (!aliased i o) 5 <| opt (!touchesRing s o.d) 6 none
  | .tm op f =>
    let v : TmView := ⟨op, f.mw, f.df, f.bench, f.keep, f.acc, f.aen, f.rnd, f.shx⟩
    opt (tmFormats v (fmtOf o.a) (fmtOf o.b) (fmtOf o.d) cf) 2 <| opt (widthOk v (fmtOf o.a) (fmtOf o.b)) 3 <|
    match tmShape v o scalar with
    | none => some 4
    | some sh => opt (!aliased i o) 5 <| opt (!touchesRing s o.d) 6 <| opt (!f.keep || keepOk c u v o sh) 7 none
  | .vec f =>
    let src := (o.a.toList ++ o.b.toList ++ o.c.toList).map fun t => t.format.toNat
    opt (vecFormats f.fn.toNat (fmtOf o.d) src) 2 <| opt (vecShape f.fn.toNat o) 4 <| opt (!touchesRing s o.d) 6 none
  | .gather f =>
    let v : TmView := ⟨.tmul, f.mw, 0, false, false, f.acc, f.aen, 0, false⟩
    opt (tmFormats v (fmtOf o.a) (fmtOf o.b) (fmtOf o.d) cf && fmtOf o.e == (if f.op == 0 then fmtOf o.a else fmtOf o.b)) 2 <|
    opt (widthOk v (fmtOf o.a) (fmtOf o.b)) 3 <|
    match cxShape i g o with
    | none => some 4
    | some sh => opt (!aliased i o) 5 <| opt (!touchesRing s o.d && !touchesRing s o.e) 6 <| opt (stageOk i g o sh) 8 none
  | .scatter f =>
    let v : TmView := ⟨.tmul, f.mw, 0, false, false, f.acc, f.aen, 0, false⟩
    let fe := fmtOf o.e
    opt (tmFormats v (fmtOf o.a) (fmtOf o.b) fe cf && (fe == 4 || fe == 7) && fmtOf o.d == fe) 2 <|
    opt (widthOk v (fmtOf o.a) (fmtOf o.b)) 3 <|
    match cxShape i g o with
    | none => some 4
    | some sh => opt (!aliased i o) 5 <| opt (!touchesRing s o.d && !touchesRing s o.e) 6 <| opt (stageOk i g o sh) 8 none
  | .call f =>
    opt (fmtOf o.d == fmtOf o.a && (f.op == 2 || [4, 6, 7].contains (fmtOf o.a))) 2 <|
    opt (callShape f.op.toNat g o) 4 <| opt (!aliased i o) 5 <| opt (!touchesRing s o.d) 6 none
  | _ => none

/-! ### Values of a trestle or stool instruction (R208, R275 to R287) -/

/-- The elements of a matrix operand, row by row, as stored bits. -/
def matrix (m : List Host.Cell) (t : TD) (rows cols : Nat) : List (List Nat) :=
  (List.range rows).map fun r => (List.range cols).map fun c => matBits m t r c

/-- Columns of a matrix. -/
def columns (x : List (List Nat)) (cols : Nat) : List (List Nat) :=
  (List.range cols).map fun c => x.map fun r => r.getD c 0

/-- The value of an element of C or old D: fix64 on the grid 2^−σ (R281, R284). -/
def termOf (fmt : Nat) (sigma : Int) (b : Nat) : Num :=
  match elemOf fmt b with
  | .fin neg v => .fin neg (if fmt = 7 then v.scale (-sigma) else v)
  | x => x

/-- The exact outcome of one output: the cells' terms, then C and the old D (R208, Tables 6-6 and 8-3). `ar`, `bc`: stored
bits; `xa`, `xb`: their values; `la`, `lb`: the aligned ones. -/
def tmOutput (op : TmOp) (w : Nat) (ar bc : List Nat) (xa xb la lb : List Num) (extra : List Num) : Num :=
  let sum (terms : List Num) : Num := ((terms ++ extra).foldl Acc.add Acc.zero).result
  let quads := ((xa.zip xb).zip (la.zip lb))
  match op with
  | .tmul | .smv => sum (quads.map fun q => mulTerm q.1.1 q.1.2 q.2.1 q.2.2)
  | .tl1 => sum (quads.map fun q => diffTerm false q.1.1 q.1.2 q.2.1 q.2.2)
  | .tl2 => sum (quads.map fun q => diffTerm true q.1.1 q.1.2 q.2.1 q.2.2)
  | .tminp => ((quads.map fun q => sumTerm q.1.1 q.1.2 q.2.1 q.2.2) ++ extra).foldl (extTerm false) (.inf false)
  | .tmaxp => ((quads.map fun q => sumTerm q.1.1 q.1.2 q.2.1 q.2.2) ++ extra).foldl (extTerm true) (.inf true)
  | .tham => sum ((ar.zip bc).map fun p => .ofInt (popcount w (p.1 ^^^ p.2)))
  | .tccnt => sum (quads.map fun q =>
      let ge : Bool := match q.1.1, q.1.2 with
        | .fin _ _, .fin _ _ => q.2.1.ge q.2.2
        | x, y => x.ge y
      .ofInt (boolNat ge))

/-- Block exponents of a tile: per block, the largest over its columns (R280). -/
def tileExps (cols : List (List Num)) : List (Option Int) :=
  cols.foldl (fun es c => let e := rowExps c; if es.isEmpty then e else (es.zip e).map fun p => maxExp p.1 p.2) []

/-- All outputs of a trestle or stool instruction, M rows of N elements. -/
def tmValues (v : TmView) (fa fb : Nat) (a : List (List Nat)) (bcols : List (List Nat)) (extra : Nat → Nat → List Num) :
    List (List Num) :=
  let va := a.map fun r => r.map (elemOf fa)
  let vb := bcols.map fun c => c.map (elemOf fb)
  let w := mwBits v.mw
  let nt := arrayN v.bench
  let raw := v.op == .smv || fmtInt fa || v.op == .tham
  let common := v.op != .tmul && !raw
  let tiles (x : List (List Num)) (j : Nat) : List (Option Int) := tileExps ((x.drop (j / nt * nt)).take nt)
  ((List.range a.length).zip (a.zip va)).map fun p =>
    ((List.range bcols.length).zip (bcols.zip vb)).map fun q =>
      let x := p.2.2
      let y := q.2.2
      let la_lb : List Num × List Num :=
        if raw then (x, y)
        else if common then
          if v.df == 2 then
            let es := tiles va p.1
            (alignWith w es x, alignWith w ((es.zip (rowExps y)).map fun e => maxExp e.1 e.2) y)
          else
            let es := tiles vb q.1
            (alignWith w ((es.zip (rowExps x)).map fun e => maxExp e.1 e.2) x, alignWith w es y)
        else (alignRow w x, alignRow w y)
      tmOutput v.op (fmtBits fa) p.2.1 q.2.1 x y la_lb.1 la_lb.2 (extra p.1 q.1)

/-- The identity of a function as it is written at K = 0 (Table 6-6). -/
def identityOf (op : TmOp) : Num :=
  match op with
  | .tminp => .inf false
  | .tmaxp => .inf true
  | _ => .fin false ⟨0, 0⟩

/-- A signed scale. -/
def sigmaOf (b : Byte) : Int := b.toInt

/-- The elements of C and of the old D that enter output (r, n), on the destination's grid (R208, R281). -/
def addends (m : List Host.Cell) (acc : Bool) (fd : Nat) (sigma : Int) (o : Ops) (r n : Nat) : List Num :=
  (match o.c with
    | some c => [termOf c.format.toNat sigma (matBits m c (addendRow c r) n)]
    | none => []) ++
  (match acc, o.d with
    | true, some d => [termOf fd sigma (matBits m d r n)]
    | _, _ => [])

/-- The elements that an instruction of layout TM writes, M rows of N elements: none where it writes nothing (R209). -/
def tmResult (m : List Host.Cell) (v : TmView) (sigma : Int) (o : Ops) (sh : Nat × Nat × Nat) : List (List Elem) :=
  match o.d, o.a, o.b with
  | some d, some a, some b =>
    let fd := d.format.toNat
    let out (x : Num) : Elem := drain fd v.rnd sigma x
    if sh.1 = 0 || sh.2.2 = 0 then []
    else if sh.2.1 = 0 then
      (if v.acc then [] else List.replicate sh.1 (List.replicate sh.2.2 (out (identityOf v.op))))
    else
      (tmValues v a.format.toNat b.format.toNat (matrix m a sh.1 sh.2.1) (columns (matrix m b sh.2.1 sh.2.2) sh.2.2)
        (addends m v.acc fd sigma o)).map fun r => r.map out
  | _, _, _ => []

/-- The bytes of written rows. -/
def rowsBytes (m : List Host.Cell) (d : TD) (rows : List (List Elem)) : List (Nat × List Byte) :=
  ((List.range rows.length).zip rows).map fun p => rowWrite m d p.1 (p.2.map Elem.bits)

/-! ### The vector unit (R218, R219, R288, R289) -/

/-- The scalar of VSCALE and VFILL: binary64 where d is, else binary32. -/
def vecScalar (fd : Nat) (s : W64) : Num :=
  if fd = 5 then floatOf 11 52 s.toNat else floatOf 8 23 (s.toNat % 2 ^ 32)

/-- A transcendental function: the IEEE limit where there is one, else a binary32 value within its bound (R288; assumption log 1). -/
def transValue (fn : Nat) (x : Num) : Num :=
  match transLimit fn x with
  | some y => y
  | none => match x with
    | .fin neg v => floatOf 8 23 (transBits fn (BitVec.ofNat 32 (roundFloat 8 23 0 neg v)) neg v)
    | y => y

/-- One element of an elementwise function, exact but for its one rounding at the write. -/
def vecValue (fn fd : Nat) (rnd : BitVec 2) (s : W64) (a b c : Num) : Num :=
  let sg := sigmaOf (s.setWidth 8)
  match fn with
  | 0 => numAdd rnd a b
  | 1 => numAdd rnd a (numNeg b)
  | 2 => numMul a b
  | 3 => numAdd rnd (numMul a b) c
  | 4 => numExt false a b
  | 5 => numExt true a b
  | 6 => numAbs a
  | 7 => numNeg a
  | 8 => numMul a (vecScalar fd s)
  | 9 => vecScalar fd s
  | 15 => a
  | 16 => match a with
    | .fin neg v => .fin neg (v.scale sg)
    | x => x
  | 17 => match a with
    | .fin neg v => .fin neg (v.scale (-sg))
    | x => x
  | _ => transValue fn a

/-- A reduction along DIM0: VSUM of floating elements rounds once an addition into the working format, in ascending order. -/
def vecReduce (fn fa fd : Nat) (rnd : BitVec 2) (xs : List Num) : Num :=
  match xs with
  | [] => .fin false ⟨0, 0⟩
  | x :: r =>
    if fn = 18 then
      if fmtInt fa then (xs.foldl Acc.add Acc.zero).result
      else
        let wide := fa == 5 || fd == 5
        r.foldl (fun a y => roundNum (if wide then 11 else 8) (if wide then 52 else 23) rnd (numAdd rnd a y)) x
    else r.foldl (numExt (fn == 19)) x

/-- Element `i` of row `r` of an operand, where a single row applies to every row. -/
def vecOperand (m : List Host.Cell) (t : Option TD) (r i : Nat) : Num :=
  match t with
  | some t => elemOf t.format.toNat (elemAt m t (if rowsOf t = 1 then 0 else r) i)
  | none => .fin false ⟨0, 0⟩

/-- The element that a VEC writes at place `i` of row `r` of d. -/
def vecElem (m : List Host.Cell) (fn : Nat) (rnd : BitVec 2) (s : W64) (o : Ops) (fd r i : Nat) : Elem :=
  if 18 ≤ fn then
    match o.a with
    | some a => writeElem fd rnd (vecReduce fn a.format.toNat fd rnd ((List.range a.dim0).map fun i => vecOperand m o.a r i))
    | none => ⟨0, false, false⟩
  else writeElem fd rnd (vecValue fn fd rnd s (vecOperand m o.a r i) (vecOperand m o.b r i) (vecOperand m o.c r i))

/-! ### Bytes read (R107, R114, R215, R326) -/

/-- Bytes of the element at a place. -/
def elemLen (t : TD) : Nat := max 1 (t.width / 8)

/-- The elements of a matrix operand at the given rows and columns as byte ranges. -/
def gridReads (t : Option TD) (rows cols : List Nat) : List (Nat × Nat) :=
  match t with
  | none => []
  | some t => rows.flatMap fun r => cols.map fun c => ((matAddr t r c).1, elemLen t)

/-- The elements of C and of the old D that enter the outputs at the given rows and columns. -/
def addendReads (acc : Bool) (o : Ops) (rows cols : List Nat) : List (Nat × Nat) :=
  (match o.c with
    | some c => gridReads o.c (rows.map (addendRow c)) cols
    | none => []) ++ if acc then gridReads o.d rows cols else []

/-- The place `i` of row `r` of a vector operand; a single row applies to every row. -/
def placeReads (t : Option TD) (r i : Nat) : List (Nat × Nat) :=
  match t with
  | none => []
  | some t => let q := rowIndex t (if rowsOf t = 1 then 0 else r); [((elemAddr t i q.1 q.2.1 q.2.2).1, elemLen t)]

/-- One row of a tensor in its own layout as byte ranges. -/
def rowReads (t : Option TD) (r : Nat) : List (Nat × Nat) :=
  match t with
  | none => []
  | some t =>
    let q := rowIndex t (if rowsOf t = 1 then 0 else r)
    (List.range t.dim0).map fun i => ((elemAddr t i q.1 q.2.1 q.2.2).1, elemLen t)

/-- The outputs of a trestle instruction in the order in which their chunks and tile columns are written (R245): ranges of m
and n. -/
def combosOf (df : BitVec 2) (bench : Bool) (m n : Nat) : List ((Nat × Nat) × (Nat × Nat)) :=
  let kt := arrayK bench
  let nt := arrayN bench
  let p : Nat × Nat := match df.toNat with
    | 0 => (2048, nt)
    | 1 => (kt, nt)
    | _ => (nt, 2048)
  (List.range (ceilDiv m p.1)).flatMap fun i => (List.range (ceilDiv n p.2)).map fun j =>
    ((i * p.1, min m ((i + 1) * p.1)), (j * p.2, min n ((j + 1) * p.2)))

/-- The ring bytes among a list of reads. -/
def readsRing (s : State) (rs : List (Nat × Nat)) : RingView :=
  rs.foldl (fun v r => if s.wrg.enable then v.join (ringView s r.1 r.2) else v) ⟨false, false, []⟩

/-- A read of a sealed slot that the context is not bound to (R114). -/
def sealedOff (s : State) (ctx : Nat) (rs : List (Nat × Nat)) : Bool :=
  (readsRing s rs).keys.any fun k => !keyBound s ctx k

end Sys2Proof.Machine
end

