-- ==== Sys2Proof/Machine/Array.lean ====
section
/-! DEFINITION. Machine/Array.lean: how a trestle, the stool and the vector unit work through an instruction: tiles, stationary
loads, streamed chunks, the drain's row pieces, and the reads that spoil or refuse it (R107, R114, R208 to R217, R229, R237 to
R257, R266). -/

namespace Sys2Proof.Machine

/-! ### Shapes and regions -/

/-- The trestle options of an instruction, SMV's included. -/
def viewOf : Isa → Option TmView
  | .tm .smv f => some ⟨.smv, 0, 0, false, false, f.acc, f.aen, f.rnd, f.shx⟩
  | i => tmViewOf i

/-- The effective shape of an instruction that has passed its checks; of a C-class product, that of one piece. -/
def shapeOf (s : State) (i : Isa) (o : Ops) (scalar : W64) : Nat × Nat × Nat :=
  match i with
  | .gather _ | .scatter _ => (cxShape i (groupSize s i) o).getD (0, 0, 0)
  | _ => ((viewOf i).bind fun v => tmShape v o scalar).getD (0, 0, 0)

/-- M = 0, N = 0 or K = 0 (Table 6-7). -/
def degenerate (sh : Nat × Nat × Nat) : Bool := sh.1 == 0 || sh.2.1 == 0 || sh.2.2 == 0

/-- The old D is read. -/
def readsOldD : Isa → Bool
  | .tm _ f => f.acc
  | .gather f => f.acc
  | .scatter f => f.acc
  | _ => false

def keepsTile : Isa → Bool
  | .tm _ f => f.keep
  | _ => false

/-- The tensors that an instruction reads. -/
def tdsRead (i : Isa) (o : Ops) (sh : Nat × Nat × Nat) : List TD :=
  match i with
  | .tm _ _ =>
    if degenerate sh then []
    else o.a.toList ++ (if keepsTile i then [] else o.b.toList) ++ o.c.toList ++ if readsOldD i then o.d.toList else []
  | _ => o.a.toList ++ o.b.toList ++ o.c.toList ++ if readsOldD i then o.d.toList else []

/-- The tensors that a queue entry writes. -/
def tdsWritten (e : QEntry) : List TD :=
  match e.work with
  | .op _ d _ _ _ x _ => d.toList ++ x.toList
  | _ => []

/-- K = 0 with M and N above 0: IDENTITY, or nothing, through the fill port (R209, R255). -/
def fillOnly (sh : Nat × Nat × Nat) : Bool := sh.2.1 == 0 && sh.1 != 0 && sh.2.2 != 0

/-- The same-unit interlock: nothing read, nor a K = 0 instruction's D, overlaps what earlier instructions of the unit still
have to write (R138, R255). -/
def interlocked (x : CUnit) (i : Isa) (o : Ops) (sh : Nat × Nat × Nat) : Bool :=
  let writes := x.flight.flatMap tdsWritten
  let held (t : TD) : Bool := writes.any fun w => tdOverlap t w
  (tdsRead i o sh).any held ||
    (match i with
      | .tm op f => op != .smv && fillOnly sh && !f.acc && o.d.any held
      | _ => false)

/-! ### Reads of an operand (R107, R114, R215, R326) -/

/-- Reader number of a unit (R654). -/
def readerUnit (u : Nat) : Nat := if u < 4 then readerTrestle u else if u = 4 then readerStool else readerVu

/-- What a step of an instruction leaves: the state, the entry, and whether a read was refused. -/
structure StepOut where
  state : State
  entry : QEntry
  refused : Bool

/-- A unit reads byte ranges for an instruction. A sealed slot that the context is not bound to refuses the read; an uncorrectable
word, a poisoned slot or a segment outside its window spoils the instruction. -/
def readStep (s : State) (n u : Nat) (x : QEntry) (reads : List (Nat × Nat)) : StepOut :=
  if sealedOff s (coreAt s n).ctx.toNat reads then ⟨s, x, true⟩
  else
    let v := readsRing s reads
    let bad := reads.any fun r => ueAny s r.1 r.2
    let s := reads.foldl (fun s r => noteRead s r.1 r.2 (some n) (readerUnit u)) s
    let s := if v.window && !x.window then ringOverrun s n else s
    ⟨s, { x with invalid := x.invalid || bad || v.window || v.poison, window := x.window || v.window }, false⟩

/-! ### Elements written -/

/-- An element of a format with a free value, and the flags that go with it (R215, R301): a NaN is the quiet one, and only 0 or an
end of an integer format's range may have saturated. -/
def freeElem (fmt d : Nat) : Elem :=
  let b := Config.freeNat d % 2 ^ fmtBits fmt
  match fmtFloat fmt with
  | some (ew, mw) => match floatOf ew mw b with
    | .nan => ⟨qnan ew mw, false, true⟩
    | _ => ⟨b, false, false⟩
  | none =>
    let w := fmtBits fmt
    ⟨b, Config.freeBool (d + 1) && (b == 0 || b == 2 ^ (w - 1) || b == 2 ^ (w - 1) - 1), false⟩

/-- The elements that an instruction writes: those it computed, which carry no meaning where it is INVALID. -/
def settled (s : State) (fmt : Nat) (invalid : Bool) (es : List Elem) : State × List Elem :=
  if invalid then (s.drawn (2 * es.length), (List.range es.length).map fun j => freeElem fmt (s.draw + 2 * j)) else (s, es)

/-- A row piece of D, elements by row and column, ready to be written. -/
def pushPiece (s : State) (x : QEntry) (d : TD) (piece : List ((Nat × Nat) × Elem)) : State × QEntry :=
  let r := settled s d.format.toNat x.invalid (piece.map Prod.snd)
  (r.1, { x with
    pieces := x.pieces + 1, overflow := x.overflow || r.2.any (·.overflow), nan := x.nan || r.2.any (·.nan)
    out := x.out ++ [(piece.zip r.2).map fun p => elemWrite s.mem d p.1.1.1 p.1.1.2 p.2.bits] })

/-- Row pieces in order. -/
def pushPieces (s : State) (x : QEntry) (d : TD) (ps : List (List ((Nat × Nat) × Elem))) : State × QEntry :=
  ps.foldl (fun r p => pushPiece r.1 r.2 d p) (s, x)

/-! ### Tiles (Table 6-8, R245) -/

/-- A tile: its ranges of D's rows and columns and of the reduction, and whether it is the first or last reduction tile of its
outputs. -/
structure Tile where
  m : Nat × Nat
  n : Nat × Nat
  k : Nat × Nat
  first : Bool
  last : Bool
  deriving DecidableEq, Repr

/-- The indices of a range. -/
def upTo (r : Nat × Nat) : List Nat := (List.range (r.2 - r.1)).map (· + r.1)

/-- The tiles of a product in the order in which they run. -/
def tilesIn (v : TmView) (sh : Nat × Nat × Nat) : List Tile :=
  if degenerate sh then []
  else
    let kt := if v.df == 1 then 2048 else arrayK v.bench
    let ks := ceilDiv sh.2.1 kt
    (combosOf v.df v.bench sh.1 sh.2.2).flatMap fun c => (List.range ks).map fun i =>
      ⟨c.1, c.2, (i * kt, min sh.2.1 ((i + 1) * kt)), i == 0, i + 1 == ks⟩

/-- Elements of a matrix operand at given rows and columns, as stored bits. -/
def subBits (m : List Host.Cell) (t : Option TD) (rows cols : List Nat) : List (List Nat) :=
  match t with
  | some t => rows.map fun r => cols.map fun c => matBits m t r c
  | none => rows.map fun _ => cols.map fun _ => 0

/-- The bytes of a stationary load (Table 7-3): the tile of B, the tile of A transposed, or what the initial accumulators take. -/
def loadReads (v : TmView) (o : Ops) (t : Tile) : List (Nat × Nat) :=
  match v.df.toNat with
  | 0 => gridReads o.b (upTo t.k) (upTo t.n)
  | 1 => if t.first then addendReads v.acc o (upTo t.m) (upTo t.n) else []
  | _ => gridReads o.a (upTo t.m) (upTo t.k)

/-- What the stationary registers take, row by row: K down the rows (Table 7-3). -/
def loadBits (m : List Host.Cell) (v : TmView) (o : Ops) (t : Tile) : List (List Nat) :=
  match v.df.toNat with
  | 0 => subBits m o.b (upTo t.k) (upTo t.n)
  | 1 => []
  | _ => columns (subBits m o.a (upTo t.m) (upTo t.k)) (t.k.2 - t.k.1)

/-- Two exact partial results of one output combined (Tables 6-6 and 8-3). -/
def mergeTerm (op : TmOp) (x y : Num) : Num :=
  match op with
  | .tminp => extTerm false x y
  | .tmaxp => extTerm true x y
  | _ => ((Acc.zero.add x).add y).result

/-- The initial accumulators of a tile under OS: IDENTITY, with C and the old D for the first chunk (R246). -/
def initialCells (m : List Host.Cell) (v : TmView) (sigma : Int) (o : Ops) (t : Tile) : List Num :=
  (upTo t.m).flatMap fun r => (upTo t.n).map fun c =>
    (if t.first then addends m v.acc (fmtOf o.d) sigma o r c else []).foldl (mergeTerm v.op) (identityOf v.op)

/-! ### The activity ramp (R257, R259) -/

/-- ρ as PWR_RAMP sets it: 16 to 128 clocks. -/
def rhoNow (s : State) : Nat := 8 * (s.pwr.rho.toNat + 2)

/-- Work enters an array: after 32 idle clocks or more a ramp starts, at the level of the ramp-down where that still runs. -/
def wakeArray (rho : Nat) (x : TrsArray) : TrsArray :=
  if x.idle < 32 then { x with idle := 0 }
  else
    let level := if x.idle ≤ x.rho then 8 - ceilDiv (8 * x.idle) x.rho else 0
    { x with idle := 0, ramp := some (max 1 level, 0), rho := rho }

/-- One clock of an array's ramp and idle count. -/
def arrayClock (rho : Nat) (busy : Bool) (x : TrsArray) : TrsArray :=
  if busy then
    { x with
      idle := 0
      ramp := match x.ramp with
        | some (i, c) => if c + 1 < x.rho / 8 then some (i, c + 1) else if i < 8 then some (i + 1, 0) else none
        | none => none }
  else { x with ramp := none, idle := min 255 (x.idle + 1), rho := if x.idle = 0 then rho else x.rho }

/-! ### Stationary loads (R211, R212, R245, R247, R250 to R252) -/

/-- An array of a core. -/
def arrayAt (s : State) (n u : Nat) : TrsArray := (coreAt s n).arrays.toList.getD u TrsArray.empty

def modArray (s : State) (n u : Nat) (f : TrsArray → TrsArray) : State :=
  modCore s n fun c => { c with arrays := vmod c.arrays u f }

/-- The array has a configuration and an instruction's differs from it (R212, R252). -/
def reconfigures (x : TrsArray) (v : TmView) : Bool :=
  x.loaded && !(x.op == v.op && x.df == v.df && x.bench == v.bench && x.mw == v.mw)

/-- LD of an instruction. -/
def broadcastLd : Isa → Bool
  | .tm _ f => f.ld
  | .gather f => f.ld
  | .scatter f => f.ld
  | _ => false

/-- The generation that the next load writes. -/
def nextGen (c : Core) (u : Nat) : Bool := !bit c.trsGen u

/-- A load of stationary bits: the configuration, the registers of the other generation, whose bit flips (R212, R245, R251). -/
def loadTile (s : State) (n u : Nat) (v : TmView) (bits : List Nat) (cells : List Num) (f : TrsArray → TrsArray) : State :=
  let g := nextGen (coreAt s n) u
  let rho := rhoNow s
  modCore s n fun c => { c with
    trsGen := c.trsGen ^^^ (1#4 <<< u)
    arrays := vmod c.arrays u fun x =>
      let x := wakeArray rho x
      f { x with
        loaded := true, op := v.op, df := v.df, bench := v.bench, mw := v.mw, staging := none, cells := cells
        regs0 := if g then x.regs0 else bits, regs1 := if g then bits else x.regs1 } }

/-- Stored bits of a format, free where the instruction that reads them is INVALID. -/
def settledBits (s : State) (invalid : Bool) (width : Nat) (bits : List Nat) : State × List Nat :=
  if invalid then (s.drawn bits.length, (List.range bits.length).map fun j => Config.freeNat (s.draw + j) % 2 ^ width)
  else (s, bits)

/-- Element width of an optional tensor. -/
def widthOf (t : Option TD) : Nat := (t.map (·.width)).getD 0

/-- The feeder reads the next tile into the staging buffer, during the wait of a broadcast load (R266). -/
def stageTile (s : State) (n u : Nat) (x : QEntry) (v : TmView) (o : Ops) (t : Tile) : StepOut :=
  let r := readStep s n u x (loadReads v o t)
  if r.refused then r
  else
    let p := settledBits r.state r.entry.invalid (widthOf (if v.df == 0 then o.b else o.a)) (loadBits r.state.mem v o t).flatten
    ⟨modArray p.1 n u fun y => { y with staging := some p.2 }, r.entry, false⟩

/-- The next tile of a T-class instruction is loaded. Under WS it is the tile that KEEP may use, where it is the only one (R227). -/
def loadStep (s : State) (n u : Nat) (x : QEntry) (v : TmView) (o : Ops) (sh : Nat × Nat × Nat) (t : Tile) (total : Nat) : StepOut :=
  let r := if (arrayAt s n u).staging.isSome then ⟨s, x, false⟩ else stageTile s n u x v o t
  if r.refused then r
  else
    let bits := ((arrayAt r.state n u).staging).getD []
    let cells := if v.df == 1 then initialCells r.state.mem v (sigmaOf x.sigma) o t else []
    ⟨loadTile r.state n u v bits cells fun y => { y with
        keepable := total == 1, bDesc := o.b, k := sh.2.1, n := sh.2.2, tile := if v.df == 0 && total == 1 then bits else [] },
      { r.entry with loads := r.entry.loads + 1 }, false⟩

/-! ### Streaming and the drain (R208, R238, R244 to R246, R249) -/

/-- The bytes that stream through a tile: what is not held, and with the last tile of the outputs the C and old D that the drain
merges; under OS a load has placed those in the cells. -/
def streamReads (v : TmView) (o : Ops) (t : Tile) : List (Nat × Nat) :=
  let a := gridReads o.a (upTo t.m) (upTo t.k)
  let b := gridReads o.b (upTo t.k) (upTo t.n)
  let extra := if t.last && (v.keep || v.df != 1) then addendReads v.acc o (upTo t.m) (upTo t.n) else []
  (if v.keep || v.df.toNat ≤ 1 then a else []) ++ (if v.keep || v.df == 0 then [] else b) ++ extra

/-- Entry (r, c) of a row-major list of `w` columns. -/
def gridAt (l : List Nat) (w r c : Nat) : Nat := l.getD (r * w + c) 0

/-- The stationary registers of the generation loaded last. -/
def heldRegs (c : Core) (u : Nat) : List Nat :=
  let x := c.arrays.toList.getD u TrsArray.empty
  if bit c.trsGen u then x.regs1 else x.regs0

/-- The rows of A and the columns of B that meet in a tile, from the cells where they are held and from the cupboard else. -/
def tileOperands (s : State) (n u : Nat) (v : TmView) (o : Ops) (t : Tile) : List (List Nat) × List (List Nat) :=
  let c := coreAt s n
  let x := c.arrays.toList.getD u TrsArray.empty
  let regs := heldRegs c u
  let ks := t.k.2 - t.k.1
  let ns := t.n.2 - t.n.1
  let ms := t.m.2 - t.m.1
  let kept : List (List Nat) := (List.range ns).map fun j => (List.range ks).map fun i => gridAt x.tile x.n (t.k.1 + i) (t.n.1 + j)
  let a := if v.df.toNat = 2 && !v.keep then (List.range ms).map fun r => (List.range ks).map fun i => gridAt regs ms i r
    else subBits s.mem o.a (upTo t.m) (upTo t.k)
  let b := if v.keep then kept
    else if v.df == 0 then (List.range ns).map fun j => (List.range ks).map fun i => gridAt regs ns i j
    else columns (subBits s.mem o.b (upTo t.k) (upTo t.n)) ns
  (a, b)

/-- The exact results of a tile alone, row by row. -/
def tileValues (s : State) (n u : Nat) (v : TmView) (o : Ops) (t : Tile) : List Num :=
  let p := tileOperands s n u v o t
  (tmValues v (fmtOf o.a) (fmtOf o.b) p.1 p.2 fun _ _ => []).flatten

/-- Two lists of partial results merged place by place. -/
def mergeAll (op : TmOp) (xs ys : List Num) : List Num := (xs.zip ys).map fun p => mergeTerm op p.1 p.2

/-- The row pieces of a combination of chunk and tile column; under IS blocks of 32 columns of D, each written as row pieces of 32
elements (R244). -/
def drainRows (df : BitVec 2) (t : Tile) (es : List Elem) : List (List ((Nat × Nat) × Elem)) :=
  let w := t.n.2 - t.n.1
  let piece (r lo hi : Nat) : List ((Nat × Nat) × Elem) :=
    (upTo (lo, hi)).map fun c => ((r, c), es.getD ((r - t.m.1) * w + (c - t.n.1)) ⟨0, false, false⟩)
  if df.toNat ≤ 1 then (upTo t.m).map fun r => piece r t.n.1 t.n.2
  else (List.range (ceilDiv w 32)).flatMap fun j =>
    (upTo t.m).map fun r => piece r (t.n.1 + 32 * j) (min t.n.2 (t.n.1 + 32 * (j + 1)))

/-- A tile streams: the accumulator file takes its sums, and with the last tile of its outputs they are rounded into row pieces.
Under OS the sums form in the cells and descend at the end of the chunk. Under OS and IS the tile of B that streams is what KEEP may
use (R227). -/
def streamStep (s : State) (n u : Nat) (x : QEntry) (v : TmView) (o : Ops) (t : Tile) (total : Nat) : StepOut :=
  let r := readStep s n u x (streamReads v o t)
  if r.refused then r
  else
    let s := r.state
    let part := tileValues s n u v o t
    let inCells := v.df == 1 && !v.keep
    let sums := if inCells then mergeAll v.op (arrayAt s n u).cells part else part
    let file := if t.first then sums else mergeAll v.op (arrayAt s n u).file sums
    let seen := settledBits s r.entry.invalid (widthOf o.b) (subBits s.mem o.b (upTo t.k) (upTo t.n)).flatten
    let s := if v.df != 0 && !v.keep && total == 1 then modArray seen.1 n u fun y => { y with tile := seen.2 } else s
    let s := modArray s n u fun y => { wakeArray (rhoNow s) y with file := file, cells := if inCells then sums else y.cells }
    let x := { r.entry with streams := x.streams + 1, readAll := x.streams + 1 == total }
    match o.d with
    | none => ⟨s, x, false⟩
    | some d =>
      if !t.last then ⟨s, x, false⟩
      else
        let places := (upTo t.m).flatMap fun r => (upTo t.n).map fun c => (r, c)
        let es := (places.zip file).map fun p =>
          drain d.format.toNat v.rnd (sigmaOf x.sigma)
            ((if inCells then [] else addends s.mem v.acc d.format.toNat (sigmaOf x.sigma) o p.1.1 p.1.2).foldl (mergeTerm v.op) p.2)
        let q := pushPieces s x d (drainRows v.df t es)
        ⟨q.1, q.2, false⟩

/-! ### Stool and vector unit (R217, R218, R229) -/

/-- Elements that a stool or vector instruction writes. -/
def elemCount (i : Isa) (o : Ops) (sh : Nat × Nat × Nat) : Nat :=
  match i with
  | .tm _ _ => if degenerate sh then 0 else sh.1 * sh.2.2
  | _ => tdCount o.d
where
  /-- Elements of a tensor. -/
  tdCount : Option TD → Nat
  | some t => rowsOf t * t.dim0
  | none => 0

/-- Columns of a stool or vector instruction's D. -/
def elemCols (i : Isa) (o : Ops) (sh : Nat × Nat × Nat) : Nat :=
  match i with
  | .tm _ _ => sh.2.2
  | _ => (o.d.map (·.dim0)).getD 0

/-- The bytes that element (r, c) is computed from. -/
def elemReads (i : Isa) (o : Ops) (sh : Nat × Nat × Nat) (r c : Nat) : List (Nat × Nat) :=
  match i with
  | .tm _ f => gridReads o.a [r] (List.range sh.2.1) ++ gridReads o.b (List.range sh.2.1) [c] ++ addendReads f.acc o [r] [c]
  | .vec f => if 18 ≤ f.fn.toNat then rowReads o.a r else placeReads o.a r c ++ placeReads o.b r c ++ placeReads o.c r c
  | _ => []

/-- The value of element (r, c). -/
def elemValue (m : List Host.Cell) (i : Isa) (o : Ops) (sigma : Byte) (scalar : W64) (sh : Nat × Nat × Nat) (r c : Nat) : Elem :=
  match i with
  | .tm _ f =>
    let v : TmView := ⟨.smv, 0, 0, false, false, f.acc, f.aen, f.rnd, f.shx⟩
    let rows := tmValues v (fmtOf o.a) (fmtOf o.b) (subBits m o.a [r] (List.range sh.2.1))
      (columns (subBits m o.b (List.range sh.2.1) [c]) 1) fun _ _ => addends m f.acc (fmtOf o.d) (sigmaOf sigma) o r c
    drain (fmtOf o.d) f.rnd (sigmaOf sigma) ((rows.headD []).headD .nan)
  | .vec f => vecElem m f.fn.toNat f.rnd scalar o (fmtOf o.d) r c
  | _ => ⟨0, false, false⟩

/-- The next element, row by row, is computed. -/
def elemStep (s : State) (n u : Nat) (x : QEntry) (i : Isa) (o : Ops) (scalar : W64) (sh : Nat × Nat × Nat) : StepOut :=
  let total := elemCount i o sh
  match o.d with
  | none => ⟨s, { x with readAll := true }, false⟩
  | some d =>
    if total ≤ x.pieces then ⟨s, { x with readAll := true }, false⟩
    else
      let r := x.pieces / elemCols i o sh
      let c := x.pieces % elemCols i o sh
      let p := readStep s n u x (elemReads i o sh r c)
      if p.refused then p
      else
        let q := pushPiece p.state p.entry d [((r, c), elemValue p.state.mem i o x.sigma scalar sh r c)]
        ⟨q.1, { q.2 with readAll := x.pieces + 1 == total }, false⟩

/-! ### Steps of an entry -/

/-- The operands of an instruction. -/
def opsOf : QWork → Ops
  | .op _ d a b c e _ => ⟨d, a, b, c, e⟩
  | _ => ⟨none, none, none, none, none⟩

/-- The next step of a started T-class instruction: a load, a tile that streams, or an element. -/
def stepEntry (s : State) (n u : Nat) (x : QEntry) : StepOut :=
  match x.work with
  | .op i d a b c e scalar =>
    let o : Ops := ⟨d, a, b, c, e⟩
    let sh := shapeOf s i o scalar
    match i with
    | .tm .smv _ | .vec _ => elemStep s n u x i o scalar sh
    | .tm _ _ => match viewOf i with
      | some v =>
        let ts := tilesIn v sh
        match ts[x.streams]? with
        | some t =>
          if v.keep || decide (x.streams < x.loads) then streamStep s n u x v o t ts.length
          else loadStep s n u x v o sh t ts.length
        | none => ⟨s, { x with readAll := true }, false⟩
      | none => ⟨s, { x with readAll := true }, false⟩
    | _ => ⟨s, x, false⟩
  | _ => ⟨s, x, false⟩

/-- A bound on the steps that an entry still takes. -/
def stepsLeft (s : State) (x : QEntry) : Nat :=
  match x.work with
  | .op i d a b c e scalar =>
    let o : Ops := ⟨d, a, b, c, e⟩
    let sh := shapeOf s i o scalar
    if x.readAll then 0
    else match i with
      | .tm .smv _ | .vec _ => elemCount i o sh - x.pieces + 1
      | .tm _ _ => (viewOf i).elim 1 fun v => 2 * (tilesIn v sh).length - x.loads - x.streams + 1
      | _ => 0
  | _ => 0

/-- At most `k` steps of an entry, until every operand has been read or a read is refused. -/
def runEntry : Nat → State → Nat → Nat → QEntry → StepOut
  | 0, s, _, _, x => ⟨s, x, false⟩
  | k + 1, s, n, u, x =>
    if x.readAll then ⟨s, x, false⟩
    else
      let r := stepEntry s n u x
      if r.refused then r else runEntry k r.state n u r.entry

/-- Every remaining step of an entry. -/
def finishEntry (s : State) (n u : Nat) (x : QEntry) : StepOut := runEntry (stepsLeft s x) s n u x

/-- Bytes written by a core's unit. -/
def writeAll (s : State) (n : Nat) (ws : List (Nat × List Byte)) : State :=
  ws.foldl (fun s w => cupWrite s w.1 w.2 (some n)) s

/-! ### C-class products (R222, R223, R227, R245) -/

/-- Sums of earlier instructions are in a trestle's array, or in its drain. -/
def sumsBefore (y : CUnit) : Bool := y.flight.any (·.array)

/-- Tiles of one piece of a C-class product. -/
def pieceTiles (s : State) (i : Isa) (o : Ops) (scalar : W64) : List Tile :=
  ((tmViewOf i).map fun v => tilesIn v (shapeOf s i o scalar)).getD []

/-- The loads `lo` to `hi` of a C-class product, counted over its pieces: each flips the generation. None leaves a tile that KEEP may
use, so no instruction reads the registers again; they hold the tile of the chip's own B. -/
def loadPiece (s : State) (n u : Nat) (i : Isa) (o : Ops) (scalar : W64) (lo hi : Nat) : State :=
  match tmViewOf i with
  | none => s
  | some v =>
    let ts := pieceTiles s i o scalar
    (upTo (lo, hi)).foldl (fun s j => match ts[j % ts.length]? with
      | some t => loadTile s n u v (loadBits s.mem v o t).flatten [] fun y => { y with keepable := false, tile := [] }
      | none => s) s

end Sys2Proof.Machine
end

