-- ==== Sys2Proof/Machine/Coll.lean ====
section
/-! DEFINITION. Machine/Coll.lean: collectives: groups, agreement, bulk phases on axis rings, reduction engines, aborts, CPRI on its
combining tree, and the collective registers of the HUT block (R408 to R437). -/

namespace Sys2Proof.Machine

/-! ### Completion marks (R215, R216) -/

/-- A flag word with the flags of one completed instruction. -/
def FlagWord.note (f : FlagWord) (invalid overflow nan window : Bool) : FlagWord where
  invalid := f.invalid || invalid
  overflow := f.overflow || overflow
  nan := f.nan || nan
  window := f.window || (invalid && window)
  count := if invalid then satInc f.count else f.count

/-- The INVALID event of a unit, at most one a beat (R215). -/
def invalidEvent (s : State) (n u : Nat) (pc : W32) : State :=
  if ((coreAt s n).units.toList.getD u CUnit.empty).evtPosted then s
  else
    postCore (modCore s n fun c => modUnit c u fun x => { x with evtPosted := true }) n 3
      (.invalid (BitVec.ofNat 8 n) (BitVec.ofNat 8 (u + 1)) pc (if formed s then s.beat.count else 0))

/-- A collective result delivered with OVERFLOW (Table 12-11). -/
def ovfDelivered (s : State) : State :=
  let s := { s with hut := { s.hut with ovfCnt := satInc s.hut.ovfCnt } }
  if s.hut.evtOvf then postReg s 5 none 0x40010 24 0 else s

/-- `n` free bytes drawn from a counter. -/
def freeBytes (d n : Nat) : List Byte := (List.range n).map fun i => Config.freeByte (d + i)

/-- Free bytes written over [a, a + n): contents the manual leaves unspecified. -/
def freeRange (s : State) (a n : Nat) : State :=
  (cupWrite s a (freeBytes s.draw n) none).drawn n

/-- Free bytes written over the rows of a tensor, and over nothing else. -/
def freeRows (s : State) (t : TD) : State :=
  (List.range (rowsOf t)).foldl (fun s r =>
    let q := rowIndex t r
    if t.view then
      (List.range t.dim0).foldl (fun s i => freeRange s (elemAddr t i q.1 q.2.1 q.2.2).1 (elemLen t)) s
    else freeRange s (elemAddr t 0 q.1 q.2.1 q.2.2).1 (rowBytes t)) s

/-! ### Groups (R409, R412, R415) -/

/-- Every ring neighbour of this chip in a group, each once. -/
def groupNeighbours (s : State) (g : GroupEntry) : List Coord :=
  (groupRings g.single g.members g.order (selfOf s)).foldl (fun l r =>
    [r.2.2.2.1, r.2.2.2.2].foldl (fun l c => if l.contains c || c == selfOf s then l else l ++ [c]) l) []

/-- A frame of a group's context sent to a chip. -/
def sendColl (s : State) (ctx : Nat) (dest : Coord) (f : CollFrame) : State := inject s dest ctx (.coll f)

/-! ### Parts and chunks (R416 to R418) -/

/-- ⌈(n − 1)/2⌉ and ⌊(n − 1)/2⌋. -/
def chainA (n : Nat) : Nat := n / 2
def chainB (n : Nat) : Nat := (n - 1) / 2

/-- The parts of an ALLSUM phase that `e` elements enter. -/
def sumParts (e n : Nat) : List Nat :=
  let q := (ceilDiv e n + 15) / 16 * 16
  (List.range n).map fun j => min q (e - j * q)

/-- The first `j` parts' elements together. -/
def partBase (sizes : List Nat) (j : Nat) : Nat := (sizes.take j).foldl (· + ·) 0

/-- The reducing phases in ORDER that `e` elements enter (R416): ALLSUM by elements, REDUCE-SCATTER by rows. -/
def reducePhases (all : Bool) : Nat → Nat → List (Nat × Nat × Nat × Coord × Coord) → List Phase
  | _, _, [] => []
  | e, base, (k, i, n, p, m) :: r =>
    let sizes := if all then sumParts e n else List.replicate n (e / n)
    ⟨k, true, i, n, p, m, sizes, base, false⟩ :: reducePhases all (sizes.getD i 0) (base + partBase sizes i) r

/-- The joining phases in ORDER of pieces of `e` elements each. -/
def joinPhases : Nat → Nat → List (Nat × Nat × Nat × Coord × Coord) → List Phase
  | _, _, [] => []
  | e, base, (k, i, n, p, m) :: r =>
    let size := r.foldl (fun a q => a * q.2.2.1) e
    ⟨k, false, i, n, p, m, List.replicate n size, base, false⟩ :: joinPhases e (base + i * size) r

/-- Phases in ORDER run as gathering phases in reverse ORDER. -/
def gatherPhases (ps : List Phase) : List Phase :=
  match (ps.map fun p => { p with code := 4 + p.code, reduce := false }).reverse with
  | p :: r => { p with opens := true } :: r
  | [] => []

/-- The shape of a collective: 0 ALLSUM, 1 REDUCE-SCATTER, 2 ALLGATHER. -/
def phasesOf (shape e : Nat) (rings : List (Nat × Nat × Nat × Coord × Coord)) : List Phase :=
  match shape with
  | 0 => let r := reducePhases true e 0 rings; r ++ gatherPhases r
  | 1 => reducePhases false e 0 rings
  | _ => gatherPhases (joinPhases e 0 rings)

/-- Elements of a full chunk of 65,536 bytes. -/
def chunkElems (fmt : Nat) : Nat := 524288 / fmtBits fmt

/-- Chunks of a part. -/
def chunksIn (fmt size : Nat) : Nat := ceilDiv size (chunkElems fmt)

/-- Bytes of a part. -/
def partBytes (fmt size : Nat) : Nat := (size * fmtBits fmt + 7) / 8

/-- OFFSET of an element of part `j` within its phase's data. -/
def phaseOffset (fmt : Nat) (sizes : List Nat) (j first : Nat) : Nat :=
  ((sizes.take j).map (partBytes fmt)).foldl (· + ·) 0 + first * fmtBits fmt / 8

/-- The part and first element that an OFFSET names. -/
def offsetPart (fmt : Nat) (sizes : List Nat) (off : Nat) : Option (Nat × Nat) :=
  match (List.range sizes.length).find? fun j =>
      decide (phaseOffset fmt sizes j 0 ≤ off ∧ off < phaseOffset fmt sizes j 0 + partBytes fmt (sizes.getD j 0)) with
  | some j => some (j, (off - phaseOffset fmt sizes j 0) * 8 / fmtBits fmt)
  | none => none

/-- Packed elements of `w` bits from bytes. -/
def unpackElems (w : Nat) (bs : List Byte) : List Nat :=
  if w = 4 then bs.flatMap fun b => [b.toNat % 16, b.toNat / 16]
  else (List.range (bs.length / (w / 8))).map fun i => ofLe ((bs.drop (i * (w / 8))).take (w / 8))

/-- A position on a ring, `d` steps in the + direction. -/
def ringPlus (p n d : Nat) : Nat := (p + d) % n
def ringMinus (p n d : Nat) : Nat := subMod p (d % n) n

/-- A direction of a phase carries data: `minus` for the chains that travel − (R417). -/
def dirOn (p : Phase) (minus : Bool) : Bool := p.reduce == minus || 0 < chainB p.n

/-- Steps of the chains of a direction. -/
def dirSteps (p : Phase) (minus : Bool) : Nat := if p.reduce == minus then chainA p.n else chainB p.n

/-- The parts whose chunks this member receives in a direction. -/
def partsHeard (p : Phase) (minus : Bool) : List Nat :=
  (List.range (dirSteps p minus)).map fun d =>
    if p.reduce then (if minus then ringMinus p.pos p.n d else ringPlus p.pos p.n d)
    else (if minus then ringPlus p.pos p.n (d + 1) else ringMinus p.pos p.n (d + 1))

/-- Chunks that this member receives in a direction. -/
def chunksHeard (fmt : Nat) (p : Phase) (minus : Bool) : Nat :=
  ((partsHeard p minus).map fun j => chunksIn fmt (p.sizes.getD j 0)).foldl (· + ·) 0

/-- A part received in a gathering phase goes further. -/
def goesOn (p : Phase) (minus : Bool) (j : Nat) : Bool :=
  decide ((if minus then subMod j p.pos p.n else subMod p.pos j p.n) < dirSteps p minus)

def Coll.way (c : Coll) (minus : Bool) : Way := if minus then c.bwd else c.fwd
def Coll.modWay (c : Coll) (minus : Bool) (f : Way → Way) : Coll :=
  if minus then { c with bwd := f c.bwd } else { c with fwd := f c.fwd }

/-- The phase is over: every chunk worked on, every chunk gone, every direction granted (R414, R437). -/
def phaseDone (c : Coll) (p : Phase) : Bool :=
  c.ready.isEmpty && [false, true].all fun m =>
    !dirOn p m || (decide (chunksHeard c.format p m ≤ (c.way m).got) && decide (0 < (c.way m).credit))

/-- A chunk as it is sent: elements of part `j` from `first` on. -/
def mkChunk (c : Coll) (p : Phase) (minus : Bool) (j first : Nat) (xs : List CElem) : CollFrame :=
  ⟨c.grp, c.seq, if p.reduce then 0 else 1, xs.any (·.poison), xs.any (·.ovf), true, p.code, minus,
    phaseOffset c.format p.sizes j first, 0, packElems (fmtBits c.format) (xs.map CElem.bits)⟩

/-- The chunks of part `j`, whose elements are `xs`. -/
def chunksOf (c : Coll) (p : Phase) (minus : Bool) (j : Nat) (xs : List CElem) : List CollFrame :=
  let k := chunkElems c.format
  (List.range (chunksIn c.format xs.length)).map fun i => mkChunk c p minus j (i * k) ((xs.drop (i * k)).take k)

/-- This member's own elements of part `j` of the phase's data. -/
def ownPart (c : Coll) (p : Phase) (j : Nat) : List CElem := (c.data.drop (partBase p.sizes j)).take (p.sizes.getD j 0)

/-! ### Collectives of this chip -/

def sameColl (g : Nat) (q : W16) (c : Coll) : Bool := c.grp == g && c.seq == q

def collAt (s : State) (g : Nat) (q : W16) : Option Coll := s.hut.colls.find? (sameColl g q)

def modColl (s : State) (g : Nat) (q : W16) (f : Coll → Coll) : State :=
  { s with hut := { s.hut with colls := s.hut.colls.map fun c => if sameColl g q c then f c else c } }

/-- A chunk's flits: 224 bytes of data each, LAST on the last (R421). -/
def flitsOf (f : CollFrame) : List CollFrame :=
  let k := ceilDiv f.data.length 224
  (List.range k).map fun i =>
    { f with offset := f.offset + 224 * i, data := (f.data.drop (224 * i)).take 224, last := i + 1 == k }

/-- Chunks that are ready leave while the downstream neighbour's grants last (R414, R418). -/
def sendReady : Nat → State → Nat → W16 → State
  | 0, s, _, _ => s
  | k + 1, s, g, q =>
    match collAt s g q with
    | none => s
    | some c =>
      match c.phases, c.ready.find? fun f => decide ((c.way f.minus).sent < (c.way f.minus).credit) with
      | p :: _, some f =>
        let s := (flitsOf f).foldl (fun s x => sendColl s c.ctx (if f.minus then p.minus else p.plus) x) s
        sendReady k (modColl s g q fun c =>
          { c.modWay f.minus fun w => { w with sent := w.sent + 1 } with ready := c.ready.erase f }) g q
      | _, _ => s

/-- A GRANT to the upstream neighbour of a direction: chunks granted so far, under this member's signature. -/
def sendGrant (s : State) (c : Coll) (p : Phase) (minus : Bool) (granted : Nat) : State :=
  sendColl s c.ctx (if minus then p.plus else p.minus)
    ⟨c.grp, c.seq, 2, false, false, true, p.code, minus, 0, BitVec.ofNat 32 granted, c.signature⟩

/-! ### Final elements (R418, R419, R222 to R224) -/

/-- Hutch addition of two elements (R290, R291): binary32 to nearest even, integers modulo their width. -/
def hutAdd (fmt : Nat) (x y : CElem) : CElem :=
  let marks (b : Nat) (o : Bool) : CElem := ⟨b, x.poison || y.poison, x.ovf || y.ovf || o⟩
  if fmtInt fmt then
    let w := fmtBits fmt
    let v := intOf w x.bits + intOf w y.bits
    marks (v % 2 ^ w).toNat (decide (v < -(2 ^ (w - 1)) ∨ 2 ^ (w - 1) - 1 < v))
  else marks (writeElem fmt 0 (numAdd 0 (elemOf fmt x.bits) (elemOf fmt y.bits))).bits false

/-- The element written at a place of D, with the old D under ACC (R223): exact and saturating in fix64, one rounding in
binary32. A NaN is written as the quiet one (R286). -/
def lastWrite (acc : Bool) (fmt old : Nat) (x : CElem) : Elem :=
  let e : Elem :=
    if !acc then ⟨x.bits, false, false⟩
    else if fmtInt fmt then satElem (fmtBits fmt) (intOf (fmtBits fmt) x.bits + intOf (fmtBits fmt) old)
    else writeElem fmt 0 (numAdd 0 (elemOf fmt x.bits) (elemOf fmt old))
  let e := { e with overflow := e.overflow || x.ovf }
  match fmtFloat fmt, elemOf fmt e.bits with
  | some (ew, mw), .nan => { e with bits := qnan ew mw, nan := true }
  | _, _ => e

/-- Row and column of a final element: pieces joined by rows, or by columns (TMUL.GATHER OP 01). -/
def finalPlace (c : Coll) (i : Nat) : Nat × Nat :=
  match c.pieceRows with
  | none => (i / c.cols, i % c.cols)
  | some k => (i / c.cols % k, i / c.cols / k * c.cols + i % c.cols)

/-- Final elements written to the destination from element `i` on. -/
def writeFinal (s : State) (g : Nat) (q : W16) : Nat → List CElem → State
  | _, [] => s
  | i, x :: xs =>
    match collAt s g q with
    | some c => match c.out with
      | some t =>
        let at' := finalPlace c i
        let e := lastWrite c.acc c.format (elemAt s.mem t at'.1 at'.2) x
        let w := elemWrite s.mem t at'.1 at'.2 e.bits
        let s := modColl (cupWrite s w.1 w.2 none) g q fun c => { c with
          invalid := c.invalid || x.poison, overflow := c.overflow || e.overflow, nan := c.nan || e.nan }
        writeFinal s g q (i + 1) xs
      | none => s
    | none => s

/-! ### Aborts (R415, R420, R433) -/

/-- The instruction of an engine's or a waiting chunk's collective is over: waiting chunks of it are dropped. -/
def dropChunks (s : State) (g : Nat) (q : W16) : State :=
  { s with hut := { s.hut with waiting := s.hut.waiting.filter fun w => !(w.2.grp == g && w.2.seq == q) } }

/-- An abort's count and event, and an ABORT to every ring neighbour; once for a sequence number of a class. -/
def spreadAbort (s : State) (e : GroupEntry) (q : W16) (prio : Bool) (cause : Nat) : State :=
  let s := { s with hut := { s.hut with
    abortsSeen := (e.id, q, prio) :: s.hut.abortsSeen, aborts := satInc s.hut.aborts } }
  let s := if s.hut.evtAbort then
      postReg s 5 none 0x40000 20 (detail2 (e.id + 65536 * q.toNat) (cause + 256 * boolNat prio))
    else s
  sendAll s (groupNeighbours s e) (.abort ⟨e.id, q, prio, cause⟩)

/-- A queue entry of a CPRI of a group and sequence number. -/
def isCpriOf (g : Nat) (q : W16) (e : QEntry) : Bool := isCpri e && e.coll == some (g, q)

/-- A CPRI completes on this chip: sd, the CP's flags, the completion counter (R216, R225, R415, R429). -/
def cpriFinish (s : State) (n u g : Nat) (q : W16) (value : W64) (invalid ovf : Bool) : State :=
  let s := { s with hut := { s.hut with combines := s.hut.combines.filter fun b => !(b.grp == g && b.seq == q) } }
  let x := (coreAt s n).units.toList.getD u CUnit.empty
  match (x.flight ++ x.queue).find? (isCpriOf g q) with
  | some e => match e.work with
    | .op (.cpri f) _ _ _ _ _ _ =>
      let s := modCore s n fun c =>
        let c := modUnit c u fun x => { x with
          queue := x.queue.filter fun e => !isCpriOf g q e, flight := x.flight.filter fun e => !isCpriOf g q e }
        cpriGone { putS c f.d value with cpFlags := c.cpFlags.note invalid ovf false false }
      let s := if f.cen then bumpCounter s n f.ccnt.toNat else s
      let s := if invalid then invalidEvent s n u e.pc else s
      if ovf then ovfDelivered s else s
    | _ => s
  | none => s

/-- An abort of a collective on this chip: forwarded once; one in progress completes INVALID. -/
def abortColl (s : State) (e : GroupEntry) (q : W16) (prio : Bool) (cause : Nat) : State :=
  if s.hut.abortsSeen.contains (e.id, q, prio) then s
  else
    let s := spreadAbort s e q prio cause
    if prio then
      match s.hut.combines.find? fun b => b.grp == e.id && b.seq == q with
      | some b => match b.joined with
        | some (n, u) => cpriFinish s n u e.id q 0 true false
        | none => { s with hut := { s.hut with combines := s.hut.combines.filter fun b => !(b.grp == e.id && b.seq == q) } }
      | none => s
    else
      modColl (dropChunks s e.id q) e.id q fun c => if c.finished then c
        else { c with finished := true, invalid := true, phases := [], ready := [] }

/-! ### Running the phases (R414 to R419) -/

/-- A GRANT received for the phase in progress: a signature that differs aborts the collective (R414, R415). -/
def takeGrant (s : State) (c : Coll) (f : CollFrame) : State :=
  if f.data != c.signature then
    match groupOf s c.grp with
    | some e => abortColl s e c.seq false 1
    | none => s
  else
    modColl s c.grp c.seq fun c => c.modWay f.minus fun w => { w with
      credit := let more := (f.credits - BitVec.ofNat 32 w.credit).toNat
        if more < 2 ^ 31 then w.credit + more else w.credit }

/-- GRANTs that came before their phase started are taken. -/
def heldGrants (s : State) (g : Nat) (q : W16) (code : Nat) : State :=
  let mine (h : Coord × CollFrame) : Bool := h.2.grp == g && h.2.seq == q && h.2.phase == code
  let now := s.hut.grants.filter mine
  let s := { s with hut := { s.hut with grants := s.hut.grants.filter fun h => !mine h } }
  now.foldl (fun s h => match collAt s g q with
    | some c => if c.finished then s else takeGrant s c h.2
    | none => s) s

/-- A phase starts: this member's own data is written where no phase before has written it (R223), its first chunks, its grants to the upstream neighbours, and what it holds already. -/
def beginPhase (s : State) (c : Coll) (p : Phase) : State :=
  let half := c.depth / 2
  let w (m : Bool) : Way := ⟨0, 0, 0, if dirOn p m then half else 0⟩
  let chunks : List CollFrame :=
    if p.reduce then
      let up := ringMinus p.pos p.n (chainA p.n)
      let down := ringPlus p.pos p.n (chainB p.n)
      chunksOf c p true up (ownPart c p up) ++ if 0 < chainB p.n then chunksOf c p false down (ownPart c p down) else []
    else chunksOf c p false p.pos c.data ++ if 0 < chainB p.n then chunksOf c p true p.pos c.data else []
  let s := modColl s c.grp c.seq fun c => { c with
    own := if p.reduce then ownPart c p p.pos else [], parts := if p.reduce then [] else [(p.pos, 0, c.data)],
    fwd := w false, bwd := w true, ready := chunks }
  let s := if p.opens then writeFinal s c.grp c.seq (p.base + partBase p.sizes p.pos) c.data else s
  let s := [false, true].foldl (fun s m => if dirOn p m then sendGrant s c p m half else s) s
  sendReady chunks.length (heldGrants s c.grp c.seq p.code) c.grp c.seq

/-- The parts of a gathering phase joined in position order. -/
def joinParts (c : Coll) (p : Phase) : List CElem :=
  (List.range p.n).flatMap fun j =>
    let mine := c.parts.filter fun x => x.1 == j
    let k := chunkElems c.format
    if j == p.pos then mine.flatMap fun x => x.2.2
    else (List.range (chunksIn c.format (p.sizes.getD j 0))).flatMap fun i =>
      (mine.filter fun x => x.2.1 == i * k).flatMap fun x => x.2.2

/-- Phases that are over give way to the next; after the last the collective has finished. -/
def advance : Nat → State → Nat → W16 → State
  | 0, s, _, _ => s
  | k + 1, s, g, q =>
    match collAt s g q with
    | none => s
    | some c =>
      match c.phases with
      | [] => s
      | p :: r =>
        if !phaseDone c p then s
        else
          let d := if p.reduce then c.own else joinParts c p
          let s := modColl s g q fun c => { c with data := d, own := [], parts := [], phases := r, handed := true }
          match r with
          | [] =>
            modColl (if p.reduce then writeFinal s g q 0 d else s) g q fun c => { c with finished := true }
          | p' :: _ => match collAt s g q with
            | some c => advance k (beginPhase s c p') g q
            | none => s

/-- At most eight phases run. -/
def runColl (s : State) (g : Nat) (q : W16) : State :=
  let s := match collAt s g q with
    | some c => sendReady c.ready.length s g q
    | none => s
  advance 9 s g q

/-! ### Frames received -/

/-- How far a sequence number lies ahead of the next that this chip takes. -/
def seqAhead (next q : W16) : Nat := (q - next).toNat

/-- The next bulk and priority sequence numbers of a group (R413). -/
def nextSeqs (s : State) (g : Nat) : W16 × W16 :=
  match s.hut.seqs.find? fun e => e.1 == g with
  | some e => e.2
  | none => (0, 0)

def setSeqs (s : State) (g : Nat) (v : W16 × W16) : State :=
  { s with hut := { s.hut with seqs := (g, v) :: s.hut.seqs.filter fun e => e.1 != g } }

/-- A GRANT (R414): taken by the phase in progress, held for a phase that has not started, an abort where a neighbour runs
more than one collective ahead. -/
def grantFrame (s : State) (src : Coord) (f : CollFrame) : State :=
  match groupOf s f.grp with
  | none => s
  | some e =>
    let hold := { s with hut := { s.hut with grants := s.hut.grants ++ [(src, f)] } }
    match collAt s f.grp f.seq with
    | some c => match c.phases with
      | p :: r =>
        if f.phase == p.code then runColl (takeGrant s c f) f.grp f.seq
        else if r.any fun x => x.code == f.phase then hold else s
      | [] => s
    | none =>
      let ahead := seqAhead (nextSeqs s f.grp).1 f.seq
      if ahead = 0 then (if s.hut.abortsSeen.contains (f.grp, f.seq, false) then s else hold)
      else if ahead < 32768 then
        match s.hut.colls.find? fun c => c.grp == f.grp && !c.finished with
        | some c => abortColl s e c.seq false 1
        | none => hold
      else s

def execGrant (src : Coord) (f : CollFrame) (s : State) : Host.Outcome State Fault Refusal := .next (grantFrame s src f)

/-- Free engines take waiting chunks, the oldest first (R418). -/
def feedEngines : Nat → State → State
  | 0, s => s
  | k + 1, s =>
    match s.hut.waiting, (List.range 4).find? fun i => (s.hut.engines.toList.getD i none).isNone with
    | w :: r, some i =>
      feedEngines k { s with hut := { s.hut with waiting := r, engines := vmod s.hut.engines i fun _ => some w } }
    | _, _ => s

/-- A chunk lands in a granted buffer. -/
def chunkLands (s : State) (src : Coord) (f : CollFrame) : State :=
  match collAt s f.grp f.seq with
  | some c => match c.phases with
    | p :: _ =>
      if f.phase == p.code && f.typ == (if p.reduce then 0 else 1) && dirOn p f.minus &&
          src == (if f.minus then p.plus else p.minus) then
        feedEngines 4 { s with hut := { s.hut with waiting := s.hut.waiting ++ [(src, f)] } }
      else s
    | [] => s
  | none => s

def execCollChunk (src : Coord) (f : CollFrame) (s : State) : Host.Outcome State Fault Refusal := .next (chunkLands s src f)

/-! ### The engines (R293 to R295, R418, R429) -/

/-- A residue mismatch noted in HUT_RES_ERR, `k` times, with at most one event a beat (R295, R400). -/
def residue (s : State) (engine k grp fmt : Nat) : State :=
  let opk : Nat := if fmt = 6 then 0 else if fmt = 7 then 1 else if Config.freeBool s.draw then 2 else 3
  let s := { s with
    draw := s.draw + 1
    hut := { s.hut with
      resCount := satAdd s.hut.resCount k, resEngine := BitVec.ofNat 2 engine, resOpk := BitVec.ofNat 2 opk,
      resGroup := BitVec.ofNat 10 grp, resFlag := true } }
  if s.hut.evtRes && !s.hut.resPosted then postReg { s with hut := { s.hut with resPosted := true } } 5 none 0x4000C 0 0
  else s

/-- A list with elements from `i` on replaced. -/
def spliceAt {α : Type} (l : List α) (i : Nat) (xs : List α) : List α := l.take i ++ xs ++ l.drop (i + xs.length)

/-- An engine's work on a chunk: a sum forwarded or added to the owned part, or a copy written and forwarded. -/
def workChunk (s : State) (c : Coll) (p : Phase) (f : CollFrame) (bad : Bool) : State :=
  match offsetPart c.format p.sizes f.offset with
  | none => s
  | some (j, first) =>
    let k := min (chunkElems c.format) (p.sizes.getD j 0 - first)
    let xs := ((unpackElems (fmtBits c.format) f.data).take k).map fun b => (⟨b, f.poison || bad, f.ovf⟩ : CElem)
    if p.reduce then
      if j == p.pos then
        modColl s c.grp c.seq fun c => { c with
          own := spliceAt c.own first ((((c.own.drop first).take xs.length).zip xs).map fun q => hutAdd c.format q.1 q.2) }
      else
        let mine := ((ownPart c p j).drop first).take xs.length
        let sum := (mine.zip xs).map fun q => hutAdd c.format q.1 q.2
        modColl s c.grp c.seq fun c => { c with ready := c.ready ++ [mkChunk c p f.minus j first sum] }
    else
      let s := modColl s c.grp c.seq fun c => { c with
        parts := c.parts ++ [(j, first, xs)]
        ready := if goesOn p f.minus j then c.ready ++ [mkChunk c p f.minus j first xs] else c.ready }
      writeFinal s c.grp c.seq (p.base + partBase p.sizes j + first) xs

/-- An engine finishes its chunk: the buffer frees and is granted again. Of its additions at least one met a residue mismatch where
`mismatch` says so, and at least one met it again on its retry where `again` does; how many is a free choice (R295, R429). -/
def engineDone (s : State) (engine : Nat) (mismatch again : Bool) : State :=
  let faulty (k : Nat) : Nat := 1 + Config.freeNat s.draw % k
  match s.hut.engines.toList.getD engine none with
  | none => s
  | some (_, f) =>
    let s := { s with hut := { s.hut with engines := vmod s.hut.engines engine fun _ => none } }
    let s := match collAt s f.grp f.seq with
      | some c => match c.phases with
        | p :: _ =>
          if f.phase != p.code then s
          else
            let miss := mismatch && p.reduce
            let twice := miss && s.hut.resRetry && again
            let bad := miss && (!s.hut.resRetry || again)
            let first := faulty (max 1 (f.data.length * 8 / fmtBits c.format))
            let s := if miss then
                residue (s.drawn 1) engine (first + if twice then 1 + Config.freeNat (s.draw + 1) % first else 0) f.grp c.format
              else s
            let s := workChunk s c p f bad
            let s := modColl s f.grp f.seq fun c => c.modWay f.minus fun w => { w with got := w.got + 1, gave := w.gave + 1 }
            let s := sendGrant s c p f.minus ((c.way f.minus).gave + 1)
            runColl s f.grp f.seq
        | [] => s
      | none => s
    feedEngines 4 s

def execEngineDone (engine : Fin 4) (mismatch again : Bool) (s : State) : Host.Outcome State Fault Refusal :=
  .next (engineDone s engine.val mismatch again)

def execAbortFrame (_src : Coord) (f : AbortFrame) (s : State) : Host.Outcome State Fault Refusal :=
  .next (match groupOf s f.grp with
    | some e => abortColl s e f.seq f.prio f.cause
    | none => s)

/-! ### CPRI (R424, R425) -/

/-- Two values combined: BARRIER, SUM, MIN, MAX; and whether a SUM wrapped. -/
def combine (op : Nat) (x y : W64) : W64 × Bool :=
  match op with
  | 0 => (0, false)
  | 1 => (x + y, decide (x.toInt + y.toInt < -(2 ^ 63) ∨ 2 ^ 63 ≤ x.toInt + y.toInt))
  | 2 => (if x.toInt ≤ y.toInt then x else y, false)
  | _ => (if x.toInt ≤ y.toInt then y else x, false)

/-- A value joins a combining entry. -/
def Combine.add (b : Combine) (v : W64) (poison ovf : Bool) : Combine :=
  if b.heard = 0 && b.joined.isNone then { b with value := v, poison := poison, ovf := ovf }
  else
    let r := combine b.op b.value v
    { b with value := r.1, poison := b.poison || poison, ovf := b.ovf || ovf || r.2 }

/-- A value joins a combining entry through an adder that checks its residue (R294): a mismatch of a SUM counts in HUT_RES_ERR and is
retried under RES_RETRY; one that stays poisons the value, which is then free (R295, R429). -/
def addChecked (s : State) (b : Combine) (v : W64) (poison ovf mismatch again : Bool) : State × Combine :=
  let c := b.add v poison ovf
  if !mismatch || b.op != 1 || (b.heard = 0 && b.joined.isNone) then (s, c)
  else
    let d := s.draw
    let good := s.hut.resRetry && !again
    (residue (s.drawn 2) (Config.freeNat d % 4) (1 + boolNat (s.hut.resRetry && again)) b.grp 7,
      if good then c else { c with value := Config.freeWord (d + 1), poison := true })

def setCombine (s : State) (b : Combine) : State :=
  { s with hut := { s.hut with combines := b :: s.hut.combines.filter fun x => !(x.grp == b.grp && x.seq == b.seq) } }

/-- A complete entry moves: the root sends DOWN and completes, another member sends UP (R425). -/
def combineStep (s : State) (e : GroupEntry) (b : Combine) : State :=
  let me := selfOf s
  let kids := treeChildren e.single e.members e.order me
  match b.joined with
  | none => setCombine s b
  | some (n, u) =>
    if b.heard != kids.length then setCombine s b
    else
      let f : CpriFrame := ⟨e.id, b.seq, b.op, b.poison, b.ovf, b.value⟩
      match treeParent e.single e.members e.order me with
      | none => cpriFinish (sendAll s kids (.down f)) n u e.id b.seq b.value b.poison b.ovf
      | some p => setCombine (sendPrio s p (.up f)) { b with sent := true }

/-- The entry of a group that a sequence number selects by its low bit. -/
def combineSlot (s : State) (g : Nat) (q : W16) : Option Combine :=
  s.hut.combines.find? fun b => b.grp == g && bit b.seq 0 == bit q 0

/-- An UP: combined into the group's entry, in arrival order. -/
def upFrame (s : State) (src : Coord) (f : CpriFrame) (mismatch again : Bool) : State :=
  match groupOf s f.grp with
  | none => s
  | some e =>
    if !(treeChildren e.single e.members e.order (selfOf s)).contains src || s.hut.abortsSeen.contains (f.grp, f.seq, true) then s
    else match combineSlot s f.grp f.seq with
      | some b =>
        if b.seq != f.seq || b.op != f.op then abortColl s e b.seq true 1
        else
          let r := addChecked s b f.value f.poison f.ovf mismatch again
          combineStep r.1 e { r.2 with heard := b.heard + 1 }
      | none =>
        if 1 < seqAhead (nextSeqs s f.grp).2 f.seq then s
        else combineStep s e ⟨f.grp, f.seq, f.op, f.value, 1, f.poison, f.ovf, none, false⟩

def execUp (src : Coord) (f : UpFrame) (s : State) : Host.Outcome State Fault Refusal :=
  .next (upFrame s src f.frame f.mismatch f.again)

/-- A DOWN from the parent: the value is written to sd and forwarded. -/
def downFrame (s : State) (src : Coord) (f : CpriFrame) : State :=
  match groupOf s f.grp with
  | none => s
  | some e =>
    if treeParent e.single e.members e.order (selfOf s) != some src then s
    else match s.hut.combines.find? fun b => b.grp == f.grp && b.seq == f.seq with
      | some b => match b.joined with
        | some (n, u) =>
          if b.op != f.op then abortColl s e b.seq true 1
          else
            let s := sendAll s (treeChildren e.single e.members e.order (selfOf s)) (.down f)
            cpriFinish s n u f.grp f.seq f.value f.poison f.ovf
        | none => s
      | none => s

def execDown (src : Coord) (f : CpriFrame) (s : State) : Host.Outcome State Fault Refusal := .next (downFrame s src f)

/-! ### Starting a collective (R413, R420, R235, R437) -/

/-- A recorded abort of a sequence number half the range away is forgotten, so that numbers may come round. -/
def pruneAborts (s : State) (g : Nat) (q : W16) (prio : Bool) : State :=
  { s with hut := { s.hut with abortsSeen := s.hut.abortsSeen.filter fun a => a != (g, q + 0x8000, prio) } }

/-- The elements of a tensor in flattened order. -/
def flatElems (m : List Host.Cell) (t : TD) : List Nat :=
  (List.range (rowsOf t)).flatMap fun r => (List.range t.dim0).map fun i => elemAt m t r i

/-- A matrix operand's elements, row by row. -/
def flatMatrix (m : List Host.Cell) (t : TD) (rows cols : Nat) : List Nat := (matrix m t rows cols).flatten

def tdElems (t : Option TD) : Nat := match t with
  | some t => rowsOf t * t.dim0
  | none => 0

/-- The signature of Table 12-3. -/
def signatureOf (opcode op fmt contribution dest g : Nat) : List Byte :=
  leBytes 1 opcode ++ leBytes 1 op ++ leBytes 1 fmt ++ [0] ++
    leBytes 4 (crc32c (leBytes 4 contribution ++ leBytes 4 dest ++ leBytes 4 g)).toNat

/-- What a bulk collective sends and where its final elements go: opcode, OP, shape of phases, format, this member's elements, the
elements of its destination, the destination, its columns, the rows of a piece, ACC. -/
structure Plan where
  opcode : Nat
  op : Nat
  shape : Nat
  format : Nat
  data : List Nat
  dest : Nat
  out : Option TD
  cols : Nat
  pieceRows : Option Nat
  acc : Bool

/-- The plan of a bulk C-class instruction, whose e (of a scatter) has been written. -/
def planOf (s : State) (i : Isa) (o : Ops) : Option Plan :=
  match i with
  | .call f => match o.d, o.a with
    | some d, some a => some ⟨0x3A, f.op.toNat, f.op.toNat, fmtOf o.a, flatElems s.mem a, tdElems o.d, o.d, d.dim0, none, false⟩
    | _, _ => none
  | .gather f => match o.a, o.b with
    | some a, some b =>
      let k := (shapeA a).2
      let n := (shapeB b).2
      if f.op == 0 then
        some ⟨0x38, 0, 2, fmtOf o.e, flatMatrix s.mem a (shapeA a).1 k, tdElems o.e, o.e, k, none, false⟩
      else some ⟨0x38, 1, 2, fmtOf o.e, flatMatrix s.mem b k n, tdElems o.e, o.e, n, some k, false⟩
    | _, _ => none
  | .scatter f => match o.d, o.a, o.b, o.e with
    | some d, some a, some b, some e =>
      some ⟨0x39, f.op.toNat, (if f.op == 0 then 1 else if f.op == 1 then 0 else 2), fmtOf o.e,
        (List.range (shapeA a).1).flatMap fun r => (List.range (shapeB b).2).map fun c => elemAt s.mem e r c,
        tdElems o.d, o.d, d.dim0, none, f.acc⟩
    | _, _, _, _ => none
  | _ => none

/-- The local product of TMUL.SCATTER, drained into e (R223): its rows, with C and without the old D. -/
def scatterRows (s : State) (i : Isa) (sigma : Byte) (o : Ops) : List (List Elem) :=
  match tmViewOf i, o.a, o.b with
  | some v, some a, some b =>
    tmResult s.mem { v with acc := false } (sigmaOf sigma) { o with d := o.e }
      ((shapeA a).1, (shapeA a).2, (shapeB b).2)
  | _, _, _ => []

/-- The local product written to e. -/
def scatterLocal (s : State) (i : Isa) (o : Ops) (rows : List (List Elem)) : State :=
  match i, o.e with
  | .scatter _, some e => (rowsBytes s.mem e rows).foldl (fun s w => cupWrite s w.1 w.2 none) s
  | _, _ => s

/-- Two staging areas overlap. -/
def stagesMeet (a da b db : Nat) : Bool := overlap a (65536 * da) b (65536 * db)

/-- A planned bulk collective enters the Hutch: aborted at once, complete at once, or with its first phase begun. -/
def enterColl (s : State) (e : GroupEntry) (aborted clash : Bool) (c : Coll) : State :=
  let s := { s with hut := { s.hut with colls := s.hut.colls ++ [c] } }
  if aborted then modColl s e.id c.seq fun c => { c with finished := true, invalid := true, phases := [] }
  else if clash then abortColl s e c.seq false 2
  else match c.phases with
    | [] => modColl (writeFinal s e.id c.seq 0 c.data) e.id c.seq fun c => { c with finished := true }
    | ph :: _ => advance 9 (beginPhase (freeRange s e.stage (65536 * e.depth)) c ph) e.id c.seq

/-- A bulk collective starts: its number is taken, its source read, its first phase begun. -/
def startBulk (s : State) (n u : Nat) (e : GroupEntry) (q : W16) (x : QEntry) (i : Isa) (o : Ops) : State :=
  let rows := match i with
    | .scatter _ => scatterRows s i x.sigma o
    | _ => []
  let s := scatterLocal s i o rows
  match planOf s i o with
  | none => s
  | some p =>
    let rings := groupRings e.single e.members e.order (selfOf s)
    let phases := phasesOf p.shape p.data.length rings
    let xs : List CElem := ((List.range p.data.length).zip p.data).map fun d =>
      ⟨if x.invalid then Config.freeNat (s.draw + d.1) % 2 ^ fmtBits p.format else d.2, false, false⟩
    let s := if x.invalid then s.drawn p.data.length else s
    let stage : Option Nat := if phases.isEmpty then none else some e.stage
    let aborted := s.hut.abortsSeen.contains (e.id, q, false)
    let clash := stage.any fun a => s.hut.colls.any fun c => c.grp != e.id && c.stage.any fun b => stagesMeet a e.depth b c.depth
    let c : Coll :=
      { core := n, unit := u, grp := e.id, ctx := e.ctx, seq := q, opcode := p.opcode, op := p.op, format := p.format,
        signature := signatureOf p.opcode p.op p.format p.data.length p.dest e.members.length, phases := phases, data := xs,
        own := [], parts := [], fwd := ⟨0, 0, 0, 0⟩, bwd := ⟨0, 0, 0, 0⟩, ready := [], depth := e.depth, stage := stage,
        out := p.out, cols := p.cols, pieceRows := p.pieceRows, acc := p.acc, handed := false, invalid := false,
        overflow := rows.any fun r => r.any (·.overflow), nan := rows.any fun r => r.any (·.nan), finished := false }
    enterColl s e aborted clash c

/-- A CPRI starts: it joins the group's combining entry. -/
def startCpri (s : State) (n u : Nat) (e : GroupEntry) (q : W16) (f : FieldsCP) (v : W64) (mismatch again : Bool) : State :=
  if s.hut.abortsSeen.contains (e.id, q, true) then cpriFinish s n u e.id q 0 true false
  else match combineSlot s e.id q with
    | some b =>
      if b.seq != q || b.op != f.op.toNat then
        abortColl (setCombine s { b with seq := q, joined := some (n, u) }) e q true 1
      else
        let r := addChecked s b v false false mismatch again
        combineStep r.1 e { r.2 with joined := some (n, u) }
    | none => combineStep s e ⟨e.id, q, f.op.toNat, v, 0, false, false, some (n, u), false⟩

/-- The same group and class has a collective on this chip that has not completed. -/
def classBusy (s : State) (g : Nat) (prio : Bool) : Bool :=
  if prio then s.hut.combines.any fun b => b.grp == g && b.joined.isSome
  else s.hut.colls.any fun c => c.grp == g

/-- The bytes that a C-class instruction reads of its own operands as its collective starts. -/
def ownReads (i : Isa) (o : Ops) : List (Nat × Nat) :=
  let grid (t : Option TD) (f : TD → Nat × Nat) : List (Nat × Nat) :=
    gridReads t (List.range ((t.map fun t => (f t).1).getD 0)) (List.range ((t.map fun t => (f t).2).getD 0))
  match i with
  | .cpri _ => []
  | .call _ => (List.range ((o.a.map rowsOf).getD 0)).flatMap fun r => rowReads o.a r
  | .scatter _ => grid o.a shapeA ++ grid o.b shapeB ++
      addendReads false o (List.range ((o.a.map fun t => (shapeA t).1).getD 0)) (List.range ((o.b.map fun t => (shapeB t).2).getD 0))
  | _ => grid o.a shapeA ++ grid o.b shapeB

/-- The C-class instruction at the head of a unit starts its collective: its operands are read and its own piece goes through the
array (R222, R223, R229, R413). -/
def collectiveStart (s : State) (n u : Nat) (mismatch again : Bool) : State :=
  match ((coreAt s n).units.toList.getD u CUnit.empty).queue with
  | [] => s
  | x :: r => match x.work with
    | .op i d a b c e scalar =>
      match (grpOf i).bind (groupOf s) with
      | none => s
      | some g =>
        let prio := isCpri x
        let o : Ops := ⟨d, a, b, c, e⟩
        if !x.started || x.coll.isSome || classBusy s g.id prio then s
        else
          let p := readStep s n u x (ownReads i o)
          if p.refused then unitFault s n u 4 1 x.pc 0
          else
            let tiles := (pieceTiles s i o scalar).length
            let s := loadPiece p.state n u i o scalar x.loads tiles
            let x := { p.entry with loads := tiles, streams := tiles }
            let next := nextSeqs s g.id
            let q := if prio then next.2 else next.1
            let s := pruneAborts (setSeqs s g.id (if prio then (next.1, next.2 + 1) else (next.1 + 1, next.2))) g.id q prio
            let x := { x with coll := some (g.id, q) }
            let s := modCore s n fun c => modUnit c u fun y => { y with queue := x :: r }
            match i with
            | .cpri f => startCpri s n u g q f scalar mismatch again
            | _ => startBulk s n u g q x i o
    | _ => s

def execCollectiveStart (core : CoreId) (unit : CollUnit) (s : State) : Host.Outcome State Fault Refusal :=
  .next (collectiveStart s core.val unit.unit.val unit.mismatch unit.again)

/-! ### The group table and the HUT registers (R408 to R411, R432) -/

/-- The copy of a committed group table ends: numbers of entries that have become valid start at 0 (R410, R413). -/
def copyEnd (s : State) : State :=
  match s.hut.copying with
  | none => s
  | some l =>
    let old := s.hut.groups
    { s with hut := { s.hut with
      groups := l, copying := none, loaded := true, seqs := s.hut.seqs.filter fun e => old.any fun g => g.id == e.1 && l.contains g } }

def execGroupTableCopyEnd (s : State) : Host.Outcome State Fault Refusal := .next (copyEnd s)

/-- A write of HUT_CTL. -/
def hutCtlWrite (s : State) (v : W32) : State :=
  { s with hut := { s.hut with
    evtAbort := bit v 19, resRetry := bit v 18, aborts := if bit v 17 then 0 else s.hut.aborts,
    misroute := if bit v 7 then 0 else s.hut.misroute, discEvt := if bit v 7 then 0 else s.hut.discEvt,
    resCount := if bit v 7 then 0 else s.hut.resCount, evtRes := bit v 6, localWt := v.extractLsb' 3 3 } }

def execAbortClr (via : Via) (v : W32) (s : State) : Host.Outcome State Fault Refusal :=
  .next (guarded s via 0x40000 fun s => hutCtlWrite s (v ||| 0x20000))

/-- The staged copies changed. -/
def modStaged (s : State) (f : Staged → Staged) : State :=
  { s with own := { s.own with stage := { s.own.stage with staged := f s.own.stage.staged } } }

/-- A write of HUT_EXACT_CFG: a write of SCALE outside an OPEN change is refused whole. -/
def exactWrite (s : State) (v : W32) : State :=
  let scale : Byte := v.setWidth 8
  let moves := bits (regValue s .pf 0x40010) 0 8 != scale.toNat
  if moves && s.own.stage.state != 1 then lockedErr { s with hut := { s.hut with cerr := 1 } }
  else
    let s := if moves then modStaged s fun g => { g with scale := some scale } else s
    { s with hut := { s.hut with ovfCnt := if bit v 16 then 0 else s.hut.ovfCnt, evtOvf := bit v 8 } }

def execOvfClr (via : Via) (v : W32) (s : State) : Host.Outcome State Fault Refusal :=
  .next (guarded s via 0x40010 fun s => exactWrite s (v ||| 0x10000))

/-- A write of HUT_GRP_BASE. -/
def grpBaseWrite (s : State) (v : W32) : State :=
  let addr : BitVec 17 := v.extractLsb' 12 17
  if bits (regValue s .pf 0x40008) 12 17 == addr.toNat then s
  else if s.own.stage.state != 1 then lockedErr { s with hut := { s.hut with cerr := 1 } }
  else modStaged s fun g => { g with grpAddr := some addr }

end Sys2Proof.Machine
end

