-- ==== Sys2Proof/Machine/Units.lean ====
section
/-! DEFINITION. Machine/Units.lean: the units at work: the start of an instruction at the head of a queue, how far it gets, its
release, its drain and its completion (R138, R140, R209, R212 to R216, R226, R227, R229, R245, R249, R252, R255, R263). -/

namespace Sys2Proof.Machine

/-! ### What an entry is and waits for -/

/-- Completion counter of an instruction. -/
def ccntOf : Isa → Option Byte
  | .tm _ f => if f.cen then some f.ccnt else none
  | .vec f => if f.cen then some f.ccnt else none
  | .gather f => if f.cen then some f.ccnt else none
  | .scatter f => if f.cen then some f.ccnt else none
  | .call f => if f.cen then some f.ccnt else none
  | .cpri f => if f.cen then some f.ccnt else none
  | _ => none

/-- Unit `u` of a core. -/
def unitAt (s : State) (n u : Nat) : CUnit := (coreAt s n).units.toList.getD u CUnit.empty

/-- The head of a unit's queue replaced. -/
def setHead (s : State) (n u : Nat) (x : QEntry) : State :=
  modCore s n fun c => modUnit c u fun y => { y with queue := x :: y.queue.drop 1 }

/-- A zero fill runs under a tensor: an access to it waits (R310, R324). -/
def tdFilling (s : State) (t : TD) : Bool := filling s t.base.toNat (extent t)

/-- A zero fill runs under what an entry reads or writes. -/
def entryFilling (s : State) (x : QEntry) : Bool :=
  match x.work with
  | .op _ d a b c e _ => [d, a, b, c, e].any fun t => t.any (tdFilling s)
  | _ => false

/-- The next step of a started entry is a load that waits for the sums of the tile before it: a broadcast load, asked for by LD or
forced by a change of configuration. After a wait under R138 no earlier instruction's sums are left (R211, R212, R250, R268). -/
def broadcastWait (s : State) (n u : Nat) (x : QEntry) : Bool :=
  match x.work with
  | .op i d a b c e scalar =>
    match viewOf i with
    | some v =>
      let forced := decide (x.loads = 0) && reconfigures (arrayAt s n u) v
      let before := if x.loads = 0 then sumsBefore (unitAt s n u) && !x.waited else true
      x.array && !v.keep && !isClassC i && decide (x.loads = x.streams) && (broadcastLd i || forced) && before &&
        decide (x.loads < (tilesIn v (shapeOf s i ⟨d, a, b, c, e⟩ scalar)).length)
    | none => false
  | _ => false

/-! ### Refused reads (R193, R229) -/

/-- How many pieces of an entry are out once each of its combinations of chunk and tile column has drained; of a stool or vector
instruction every element stands alone. -/
def pieceEnds (s : State) (x : QEntry) : List Nat :=
  match x.work with
  | .op i d a b c e scalar =>
    let sh := shapeOf s i ⟨d, a, b, c, e⟩ scalar
    match i with
    | .tm .smv _ | .vec _ => List.range (x.pieces + 1)
    | _ => match viewOf i with
      | some v =>
        let rows (p : (Nat × Nat) × (Nat × Nat)) : Nat :=
          (p.1.2 - p.1.1) * if v.df.toNat ≤ 1 then 1 else ceilDiv (p.2.2 - p.2.1) 32
        (combosOf v.df v.bench sh.1 sh.2.2).foldl (fun l p => l ++ [l.getLastD 0 + rows p]) [0]
      | none => [0]
  | _ => [0]

/-- A unit's instruction stopped by a refused read: of the pieces formed, those of a free number of whole combinations have drained
and stay written; what was staged for it is dropped (R229). -/
def refuseRead (s : State) (n u : Nat) (x : QEntry) : State :=
  let gone := x.pieces - x.out.length
  let ends := (pieceEnds s x).filter fun k => decide (gone ≤ k ∧ k ≤ x.pieces)
  let k := ends.getD (Config.freeNat s.draw % (max 1 ends.length)) gone
  let s := writeAll (s.drawn 1) n (x.out.take (k - gone)).flatten
  unitFault (modArray s n u fun y => { y with staging := none }) n u 4 1 x.pc 0

/-- A bulk collective that its instruction leaves: what the Hutch holds for it goes. -/
def dropColl (s : State) (g : Nat) (q : W16) : State :=
  dropChunks { s with hut := { s.hut with
    colls := s.hut.colls.filter fun y => !sameColl g q y
    grants := s.hut.grants.filter fun h => !(h.2.grp == g && h.2.seq == q) } } g q

/-! ### Start (R138, R209, R215, R229, R252, R263) -/

/-- The entry as an instruction starts: whether it has work for the array, or writes through the fill port; with K = 0 the pieces of
IDENTITY (R209, R255). -/
def beginEntry (s : State) (u : Nat) (x : QEntry) (i : Isa) (o : Ops) (sh : Nat × Nat × Nat) : State × QEntry :=
  let tensor : Bool := match i with
    | .tm op _ => op != .smv
    | _ => false
  let x := { x with
    started := true, sigma := s.hut.scale
    array := decide (u < 4) && (tmViewOf i).isSome && !degenerate sh
    fill := tensor && fillOnly sh
    readAll := match i with
      | .tm _ _ => degenerate sh
      | _ => false }
  match o.d, viewOf i with
  | some d, some v =>
    if fillOnly sh && !isClassC i then
      pushPieces s x d (((List.range sh.1).zip (tmResult s.mem v (sigmaOf x.sigma) o sh)).map fun p =>
        ((List.range p.2.length).zip p.2).map fun q => ((p.1, q.1), q.2))
    else (s, x)
  | _, _ => (s, x)

/-- The instruction at the head of a unit's queue starts, where it may. -/
def unitStart (s : State) (n u : Nat) : State :=
  let c := coreAt s n
  let y := unitAt s n u
  match y.queue with
  | [] => s
  | x :: _ =>
    if x.started then s
    else if offline c u then unitOffline s n u x.pc
    else match x.work with
      | .waitc ctr _ _ =>
        let s := touchCounter s n ctr.toNat
        if (counterAt s n ctr.toNat).valid then s else unitFault s n u 7 0 x.pc (ctr.setWidth 32)
      | .waitb _ _ _ => s
      | .tflg _ => s
      | .op i d a b c3 e scalar =>
        let o : Ops := ⟨d, a, b, c3, e⟩
        if isClassC i && s.hut.copying.isSome then s
        else match unitCheck s n u i o scalar with
          | some sub => unitFault s n u 9 sub x.pc 0
          | none =>
            let sh := shapeOf s i o scalar
            if interlocked y i o sh then s
            else
              let p := beginEntry s u x i o sh
              let s := if isClassC i then modArray p.1 n u fun z => { z with keepable := false, tile := [] } else p.1
              setHead s n u p.2

def execUnitInstructionStart (core : CoreId) (unit : Fin 6) (s : State) : Host.Outcome State Fault Refusal :=
  .next (unitStart s core.val unit.val)

/-! ### Progress and release (R214, R226, R245) -/

/-- The instruction at a head takes at most `k` of its remaining steps. -/
def unitAdvance (s : State) (n u k : Nat) : State :=
  match (unitAt s n u).queue with
  | [] => s
  | x :: _ =>
    if !x.started || entryFilling s x then s
    else
      let p := runEntry (min k (stepsLeft s x)) s n u x
      if p.refused then refuseRead p.state n u p.entry else setHead p.state n u p.entry

/-- A CPRI's frame waits at an output of this chip for a priority window. -/
def cpriQueued (s : State) (g : Nat) (q : W16) : Bool :=
  s.ports.toList.any fun p => p.prioOut.any fun o => o.input == 10 && match o.frame.body with
    | .up f => f.grp == g && f.seq == q
    | _ => false

/-- A C-class instruction may leave the head (R226): a TMUL.GATHER with its last piece, a TMUL.SCATTER once e is drained, a CALL once
its chunks are handed over, a CPRI once its frame has gone. -/
def mayRelease (s : State) (x : QEntry) (i : Isa) : Bool :=
  match x.coll with
  | none => false
  | some (g, q) => match i with
    | .gather _ => (collAt s g q).any (·.finished)
    | .call _ => (collAt s g q).any fun c => c.finished || c.handed || c.ready.isEmpty
    | .cpri _ => (s.hut.combines.any fun b => b.grp == g && b.seq == q && b.sent) && !cpriQueued s g q
    | _ => true

/-- The reads of a bulk instruction's own operands go on while it holds the head: whether the last of them came after what now
stands in the way is a free choice (R215, R231). -/
def rereadOwn (s : State) (n u : Nat) (x : QEntry) (i : Isa) (o : Ops) : StepOut :=
  if isCpri x then ⟨s, x, false⟩
  else if Config.freeBool s.draw then readStep (s.drawn 1) n u x (ownReads i o)
  else ⟨s.drawn 1, x, false⟩

/-- A refused read of a bulk C-class instruction: its collective is left too. -/
def refuseColl (s : State) (n u : Nat) (x : QEntry) : State :=
  let s := match x.coll with
    | some (g, q) => dropColl s g q
    | none => s
  unitFault (modCore s n fun c => modUnit c u fun y => { y with
    queue := y.queue.filter fun z => z.coll.isNone || z.coll != x.coll
    flight := y.flight.filter fun z => z.coll.isNone || z.coll != x.coll }) n u 4 1 x.pc 0

/-- The instruction at the head leaves the queue: its last operand has been read. -/
def unitRelease (s : State) (n u : Nat) : State :=
  match (unitAt s n u).queue with
  | [] => s
  | x :: r =>
    match x.work with
    | .op i d a b c e _ =>
      let leave (s : State) (x : QEntry) : State :=
        modCore s n fun c => modUnit c u fun y => { y with queue := r, flight := y.flight ++ [x] }
      if !x.started || entryFilling s x then s
      else if isClassC i then
        if !mayRelease s x i then s
        else
          let p := rereadOwn s n u x i ⟨d, a, b, c, e⟩
          if p.refused then refuseColl p.state n u x
          else leave p.state (match i with
            | .scatter _ => { p.entry with array := false }
            | _ => p.entry)
      else
        let p := finishEntry s n u x
        if p.refused then refuseRead p.state n u p.entry else leave p.state p.entry
    | _ => s

def execUnitHeadRelease (core : CoreId) (unit : Fin 6) (s : State) : Host.Outcome State Fault Refusal :=
  .next (unitRelease s core.val unit.val)

/-! ### The drain (R238, R245, R249, R255) -/

/-- An entry writes in the order of its unit: not through the fill port, and not an instruction that writes nothing. -/
def inOrder (x : QEntry) : Bool :=
  x.array || match x.work with
    | .op (.tm .smv _) _ _ _ _ _ _ | .op (.vec _) _ _ _ _ _ _ => 0 < x.pieces || !x.readAll
    | _ => false

/-- The entries of which a piece may be written next: the first in order, and any that writes through the fill port. -/
def drainable (y : CUnit) : List QEntry :=
  let l := y.flight ++ y.queue.take 1
  ((l.find? inOrder).toList ++ l.filter fun x => !inOrder x).filter fun x => !x.out.isEmpty

/-- An entry of a unit replaced. -/
def replaceEntry (s : State) (n u : Nat) (x z : QEntry) : State :=
  let f (y : QEntry) : QEntry := if y == x then z else y
  modCore s n fun c => modUnit c u fun y => { y with queue := y.queue.map f, flight := y.flight.map f }

/-- One row piece, or one element, is written. -/
def drainNext (s : State) (n u : Nat) : State :=
  let l := drainable (unitAt s n u)
  match l[Config.freeNat s.draw % (max 1 l.length)]? with
  | none => s
  | some x =>
    if entryFilling s x then s
    else match x.out with
      | [] => s
      | w :: r => writeAll (replaceEntry (s.drawn 1) n u x { x with out := r }) n w

/-! ### Completion (R140, R215, R216, R222, R419, R436) -/

/-- What a finished bulk collective leaves unspecified: the source of a reduction, and everything of one that is aborted or
poisoned (R419, R436). Without a phase nothing is reduced in place (R235). -/
def leaveOpen (s : State) (i : Isa) (o : Ops) (c : Coll) : State :=
  let all := (o.d.toList ++ o.a.toList ++ o.e.toList)
  let source : List TD := match i with
    | .call f => if f.op == 2 then [] else o.a.toList.filter fun a => !(o.d.any (sameTd a))
    | .scatter f => if f.op == 2 then [] else o.e.toList
    | _ => []
  let spoiled : List TD := match i with
    | .call _ => o.d.toList ++ o.a.toList
    | .gather _ => o.d.toList ++ o.e.toList
    | _ => all.filter fun t => !(o.a.any (sameTd t))
  if c.invalid then
    let s := match c.stage with
      | some a => freeRange s a (65536 * c.depth)
      | none => s
    spoiled.foldl freeRows s
  else if c.stage.isSome then source.foldl freeRows s
  else s

/-- The common end of a unit's instruction: flags, INVALID event, completion counter. -/
def endOp (s : State) (n u : Nat) (x : QEntry) (i : Isa) : State :=
  let s := modCore s n fun c => modUnit c u fun y => { y with flags := y.flags.note x.invalid x.overflow x.nan x.window }
  let s := match ccntOf i with
    | some k => bumpCounter s n k.toNat
    | none => s
  if x.invalid then invalidEvent s n u x.pc else s

/-- A T-class instruction whose operands have all been read writes what is left of its result and completes. -/
def endPlain (s : State) (n u : Nat) (x : QEntry) (i : Isa) : State :=
  endOp (writeAll s n x.out.flatten) n u x i

/-- The whole product of a TMUL.GATHER: its options, operands and shape, with the staging tensor in place of the gathered operand. -/
def gatherView (s : State) (i : Isa) (o : Ops) : Option (TmView × Ops × (Nat × Nat × Nat)) :=
  match i with
  | .gather f =>
    let g := groupSize s i
    let sh := shapeOf s i o 0
    (viewOf i).map fun v =>
      if f.op == 0 then (v, { o with a := o.e }, (g * sh.1, sh.2.1, sh.2.2)) else (v, { o with b := o.e }, (sh.1, sh.2.1, g * sh.2.2))
  | _ => none

/-- The bytes that a C-class instruction reads after its pieces have come: the operand that meets the gathered one, C and the old D
of a TMUL.GATHER, and the old D of a TMUL.SCATTER. -/
def endReads (s : State) (i : Isa) (o : Ops) : List (Nat × Nat) :=
  match i with
  | .gather f => match gatherView s i o with
    | some (v, _, sh) =>
      (if f.op == 0 then gridReads o.b (List.range sh.2.1) (List.range sh.2.2)
        else gridReads o.a (List.range sh.1) (List.range sh.2.1)) ++ addendReads v.acc o (List.range sh.1) (List.range sh.2.2)
    | none => []
  | .scatter f => if f.acc then (List.range ((o.d.map rowsOf).getD 0)).flatMap fun r => rowReads o.d r else []
  | _ => []

/-- The product of the gathered pieces goes through the array and the drain (R222). -/
def gatherProduct (s : State) (n u : Nat) (x : QEntry) (i : Isa) (o : Ops) (scalar : W64) : State × QEntry :=
  match gatherView s i o, o.d with
  | some (v, w, sh), some d =>
    let t := (pieceTiles s i o scalar).length
    let s := loadPiece s n u i o scalar t (t * groupSize s i)
    let rows := tmResult s.mem v (sigmaOf x.sigma) w sh
    pushPieces s x d (((List.range rows.length).zip rows).map fun p =>
      ((List.range p.2.length).zip p.2).map fun q => ((p.1, q.1), q.2))
  | _, _ => (s, x)

/-- A bulk C-class instruction completes once its collective has finished. -/
def endBulk (s : State) (n u : Nat) (x : QEntry) (i : Isa) (o : Ops) (scalar : W64) (c : Coll) : State :=
  let p := readStep s n u x (endReads s i o)
  if p.refused then refuseColl p.state n u x
  else
    let q := gatherProduct p.state n u { p.entry with invalid := p.entry.invalid || c.invalid } i o scalar
    let x := { q.2 with overflow := q.2.overflow || c.overflow, nan := q.2.nan || c.nan }
    let s := leaveOpen (writeAll q.1 n x.out.flatten) i o c
    endOp (if x.overflow then ovfDelivered (dropColl s c.grp c.seq) else dropColl s c.grp c.seq) n u x i

/-- An entry can complete: a started T-class instruction, a bulk C-class instruction whose collective has finished, a TFLG with
nothing before it. A CPRI completes with its DOWN. -/
def canComplete (s : State) (alone : Bool) (x : QEntry) : Bool :=
  match x.work with
  | .tflg _ => alone
  | .op i _ _ _ _ _ _ =>
    x.started && !entryFilling s x && if isCpri x then false
      else if isClassC i then (x.coll.bind fun k => collAt s k.1 k.2).any (·.finished) else true
  | _ => false

/-- The entry that completes next: the oldest that can; or, at a free choice, a later one that keeps no order (R255). -/
def nextComplete (s : State) (n u : Nat) : Option QEntry :=
  let y := unitAt s n u
  let l := (y.flight ++ y.queue.take 1).filter (canComplete s y.flight.isEmpty)
  match l with
  | [] => none
  | x :: r =>
    let late := r.filter fun z => !inOrder z
    if late.isEmpty then some x else (x :: late)[Config.freeNat s.draw % (late.length + 1)]?

/-- An instruction of the unit that can complete does so. -/
def unitComplete (s : State) (n u : Nat) : State :=
  match nextComplete s n u with
  | none => s
  | some x =>
    let drop (s : State) : State := modCore s n fun c => modUnit c u fun y =>
      if y.flight.contains x then { y with flight := y.flight.erase x } else { y with queue := y.queue.drop 1 }
    match x.work with
    | .tflg d =>
      if offline (coreAt s n) u then s
      else
        let flags := (unitAt s n u).flags
        modCore (drop s) n fun c => modUnit (putS c d (flagBits flags)) u fun y => { y with flags := .clear }
    | .op i d a b c e scalar =>
      let s := drop (s.drawn 1)
      match x.coll.bind fun k => collAt s k.1 k.2 with
      | some k => endBulk s n u x i ⟨d, a, b, c, e⟩ scalar k
      | none =>
        let p := finishEntry s n u x
        if p.refused then refuseRead p.state n u p.entry else endPlain p.state n u p.entry i
    | _ => s

def execUnitInstructionComplete (core : CoreId) (unit : Fin 6) (s : State) : Host.Outcome State Fault Refusal :=
  .next (unitComplete s core.val unit.val)

end Sys2Proof.Machine
end

