-- ==== Sys2Proof/Machine/Movers.lean ====
section
/-! DEFINITION. Machine/Movers.lean: mover transfers, local and remote, and the landing of remote rows (R142 to R147, R158, R159,
R186, R187, R319, R320, R377, R378). -/

namespace Sys2Proof.Machine

/-! ### Transfers of a mover -/

/-- The transfers of a mover of a core. -/
def xfers (s : State) (n m : Nat) : List Xfer := (coreAt s n).movers.toList.getD m []

def setXfers (s : State) (n m : Nat) (l : List Xfer) : State :=
  modCore s n fun c => { c with movers := vmod c.movers m fun _ => l }

/-- The transfer with a TAG replaced. -/
def modXfer (s : State) (n m : Nat) (tag : W16) (f : Xfer → Xfer) : State :=
  setXfers s n m ((xfers s n m).map fun x => if x.tag == tag then f x else x)

def dropXfer (s : State) (n m : Nat) (tag : W16) : State := setXfers s n m ((xfers s n m).filter fun x => x.tag != tag)

/-- Fields of Table 4-3. -/
def XDesc.remote (d : XDesc) : Bool := bit d.node 31
def XDesc.dest (d : XDesc) : Nat := bits d.node 0 15
def Xfer.rows (x : Xfer) : Nat := x.desc.rows.toNat
def Xfer.rowLen (x : Xfer) : Nat := x.desc.rowLen.toNat

/-- Where row `r` starts at the source and at the destination. -/
def Xfer.srcAt (x : Xfer) (r : Nat) : Int := (x.desc.src.toNat : Int) + x.desc.srcStride.toInt * r
def Xfer.dstAt (x : Xfer) (r : Nat) : Int := (x.desc.dst.toNat : Int) + x.desc.dstStride.toInt * r

/-- The descriptor keeps to Table 4-3 and R143. -/
def xdescOk (d : XDesc) : Bool :=
  decide (d.src.toNat < 2 ^ 29 ∧ d.src.toNat % 8 = 0 ∧ d.dst.toNat < 2 ^ 29 ∧ d.dst.toNat % 8 = 0 ∧ bits d.node 15 16 = 0 ∧
    8 ≤ d.rowLen.toNat ∧ d.rowLen.toNat ≤ 16777216 ∧ d.rowLen.toNat % 8 = 0 ∧ 1 ≤ d.rows.toNat ∧ d.rows.toNat ≤ 65536 ∧
    d.rowLen.toNat * d.rows.toNat ≤ 67108864 ∧ d.srcStride.toNat % 8 = 0 ∧ d.dstStride.toNat % 8 = 0 ∧
    bits d.ctl 9 7 = 0 ∧ bits d.ctl 25 7 = 0)

/-- The first byte of the rows outside the frames that `ok` admits, in row order. -/
def rowsBad (s : State) (at' : Nat → Int) (len rows : Nat) (ok : FrameKind → Bool) : Option W32 :=
  (List.range rows).findSome? fun r =>
    if at' r < 0 then some (BitVec.ofInt 32 (at' r))
    else (firstBad s (at' r).toNat len ok).map fun a => BitVec.ofNat 32 a

/-- A fault of a mover: the slot frees, and the core stops issuing (R158, R193). -/
def moverFault (s : State) (n m code sub : Nat) (x : Xfer) (detail : W32) : State :=
  let s := dropXfer (postFault s n code sub 7 false x.pc detail) n m x.tag
  modCore s n imprecise

/-- The mover's next transfer starts once the earlier ones have been read, after the checks of R186; a PUT was checked at
issue. -/
def transferStart (s : State) (n m : Nat) : State :=
  match (xfers s n m).find? fun x => !x.srcRead with
  | none => s
  | some x =>
    let t := x.ctx.toNat
    let go := modXfer s n m x.tag fun x => { x with started := true }
    if x.started then s
    else if x.put.isSome then go
    else if !xdescOk x.desc then moverFault s n m 5 0 x x.descAddr
    else match rowsBad s x.srcAt x.rowLen x.rows (readableKind t) with
      | some a => moverFault s n m 3 3 x a
      | none =>
        if x.desc.remote then
          (if memberCoord s x.desc.dest then go else moverFault s n m 6 0 x (BitVec.ofNat 32 x.desc.dest))
        else match rowsBad s x.dstAt x.rowLen x.rows (writableKind t) with
          | some a => moverFault s n m 3 4 x a
          | none => go

def execTransferStart (core : CoreId) (mover : Fin 4) (s : State) : Host.Outcome State Fault Refusal :=
  .next (transferStart s core.val mover.val)

/-! ### Copying (R107, R114, R144, R145, R147) -/

/-- A word that reaches a sealed slot its context is not bound to. -/
def wordSealed (s : State) (t a : Nat) : Bool := s.wrg.enable && (ringView s a 8).keys.any fun k => !keyBound s t k

/-- The first word of a row that meets a sealed slot. -/
def firstSealed (s : State) (t a len : Nat) : Option Nat :=
  (List.range (len / 8)).find? fun i => wordSealed s t (a + 8 * i)

/-- A word of the source is met as the poison pattern: uncorrectable, of a poisoned slot or outside a read window. -/
def wordBad (s : State) (a : Nat) : Bool :=
  s.ue.contains (a / 8) || (s.wrg.enable && let v := ringView s a 8; v.window || v.poison)

/-- Words copied one after another, which is what overlapping source and destination show (R147). -/
def copyWords : Nat → State → Nat → Nat → Nat → State
  | 0, s, _, _, _ => s
  | k + 1, s, n, a, d =>
    let s := if wordBad s a then poisonWord { s with mem := writeBytes s.mem d (readBytes s.mem a 8) } (d / 8)
      else cupWrite s d (readBytes s.mem a 8) (some n)
    copyWords k s n (a + 8) (d + 8)

/-- What a read of a source row leaves behind: UE of the slices read, a ring slot's poison pattern among them, OVERRUN (R107, R326). -/
def rowNotes (s : State) (n a len : Nat) : State :=
  let s := noteRead s a len (some n) readerMover
  let v := ringView s a len
  if !s.wrg.enable || !(v.window || v.poison) then s
  else
    let s := noteUe s a (some n) readerMover
    if v.window then ringOverrun s n else s

/-- A row's bytes wait for a zero fill in progress at its source or at its local destination (R310, R324). -/
def rowWaits (s : State) (x : Xfer) (r : Nat) : Bool :=
  (x.put.isNone && filling s (x.srcAt r).toNat x.rowLen) || (!x.desc.remote && filling s (x.dstAt r).toNat x.rowLen)

/-- DST_CNT after a row has landed: of the core whose slice receives its first byte (R145). -/
def rowCount (s : State) (ctl : W32) (a : Nat) : State :=
  if bit ctl 8 then bumpCounter s (sliceOf a) (bits ctl 0 8) else s

/-- A row refused by a sealed slot: the words before it may have been written; the mover faults (R114). -/
def sealedRow (s : State) (n m : Nat) (x : Xfer) (a d k : Nat) : State :=
  let k' := Config.freeNat s.draw % (k + 1)
  moverFault (copyWords k' (s.drawn 1) n a d) n m 4 1 x 0

/-- The pieces of a row as BULK_DATA payloads of at most 224 bytes (R377). -/
def rowPieces (x : Xfer) (r : Nat) (bs : List Byte) (bad : List Nat) : List BulkData :=
  let k := ceilDiv bs.length 224
  (List.range k).map fun i =>
    { addr := BitVec.ofInt 32 (x.dstAt r + ((224 * i : Nat) : Int)), tag := x.tag, cnt := x.desc.ctl.setWidth 8, cntEn := bit x.desc.ctl 8,
      rowEnd := i + 1 == k, xferEnd := i + 1 == k && r + 1 == x.rows, put := x.put.isSome, row := BitVec.ofNat 32 r,
      data := (bs.drop (224 * i)).take 224
      bad := (bad.filter fun o => decide (224 * i ≤ o ∧ o < 224 * i + 224)).map fun o => o - 224 * i }

/-- Rows of a remote transfer read and sent in order, from row `r` on (R143, R144). -/
def sendRows : Nat → Nat → State → Nat → Nat → Xfer → State × Bool
  | 0, _, s, _, _, _ => (s, true)
  | k + 1, r, s, n, m, x =>
    let a := (x.srcAt r).toNat
    let dest := unpackCoord x.desc.dest
    match x.put with
    | some v => ((rowPieces x r (leBytes 8 v.toNat) []).foldl (fun s p => inject s dest x.ctx.toNat (.bulkData p)) s, true)
    | none =>
      match firstSealed s x.ctx.toNat a x.rowLen with
      | some _ => (moverFault s n m 4 1 x 0, false)
      | none =>
        let bad := ((List.range (x.rowLen / 8)).filter fun i => wordBad s (a + 8 * i)).map (8 * ·)
        let bs := readBytes s.mem a x.rowLen
        let s := rowNotes s n a x.rowLen
        let s := (rowPieces x r bs bad).foldl (fun s p => inject s dest x.ctx.toNat (.bulkData p)) s
        sendRows k (r + 1) s n m x

/-- The slot of a transfer frees: its completion counter increments unless a refusal arrived (R145, R158). -/
def freeXfer (s : State) (n m : Nat) (x : Xfer) : State :=
  let s := dropXfer s n m x.tag
  if x.cen && !x.refused then bumpCounter s n x.ccnt.toNat else s

/-- A piece of a transfer that this chip injected, still queued at an output: it has not been sent. -/
def ownPiece (tag : W16) (o : OutFrame) : Bool := o.input == 10 && match o.frame.body with
  | .bulkData f => f.tag == tag
  | _ => false

/-- Pieces of a transfer wait at an output of this chip. -/
def unsent (s : State) (tag : W16) : Bool := s.ports.toList.any fun q => q.bulkOut.any (ownPiece tag)

/-- The pieces of a transfer that have not been sent are not sent any more (R136). -/
def dropUnsent (s : State) (tag : W16) : State :=
  { s with ports := s.ports.map fun q => { q with bulkOut := q.bulkOut.filter fun o => !ownPiece tag o } }

/-- The slot of a refused transfer frees once its last piece has been sent (R158). -/
def pieceSent (s : State) (f : Frame) : State :=
  match f.body with
  | .bulkData b =>
    if !b.xferEnd || f.src != selfOf s then s
    else match (xfers s (bits b.tag 12 4) (bits b.tag 10 2)).find? fun x => x.tag == b.tag with
      | some x => if x.refused && x.srcRead then freeXfer s (bits b.tag 12 4) (bits b.tag 10 2) x else s
      | none => s
  | _ => s

/-- SRC_CNT after the last source byte (R145). -/
def srcCount (s : State) (n : Nat) (x : Xfer) : State :=
  if bit x.desc.ctl 24 && x.put.isNone then bumpCounter s n (bits x.desc.ctl 16 8) else s

/-- The last source byte of the mover's transfer is read: a remote transfer's rows have then all been sent; of a local one the
last row, whose earlier rows have landed, is held as the sequential copy gives it. -/
def sourceRead (s : State) (n m : Nat) : State :=
  match (xfers s n m).find? fun x => x.started && !x.srcRead with
  | none => s
  | some x =>
    if (List.range x.rows).any (rowWaits s x) then s
    else if x.desc.remote then
      let r := sendRows x.rows 0 s n m x
      if !r.2 then r.1
      else
        let s := srcCount (modXfer r.1 n m x.tag fun x => { x with srcRead := true }) n x
        if x.refused && !unsent s x.tag then freeXfer s n m x else s
    else if x.rowsLanded + 1 != x.rows then s
    else match x.put with
      | some v => modXfer s n m x.tag fun x => { x with srcRead := true, lastRow := leBytes 8 v.toNat }
      | none =>
        let a := (x.srcAt x.rowsLanded).toNat
        let d := (x.dstAt x.rowsLanded).toNat
        match firstSealed s x.ctx.toNat a x.rowLen with
        | some k => sealedRow s n m x a d k
        | none =>
          let t := copyWords (x.rowLen / 8) s n a d
          let bad := ((List.range (x.rowLen / 8)).filter fun i => t.ue.contains (d / 8 + i)).map (8 * ·)
          let s := rowNotes s n a x.rowLen
          srcCount (modXfer s n m x.tag fun x => { x with
            srcRead := true, lastRow := readBytes t.mem d x.rowLen, lastBad := bad }) n x

def execTransferSourceRead (core : CoreId) (mover : Fin 4) (s : State) : Host.Outcome State Fault Refusal :=
  .next (sourceRead s core.val mover.val)

/-- The next row of a local transfer lands whole. -/
def rowLanded (s : State) (n m : Nat) : State :=
  match (xfers s n m).find? fun x => x.started && !x.desc.remote && decide (x.rowsLanded < x.rows) with
  | none => s
  | some x =>
    let r := x.rowsLanded
    if rowWaits s x r then s else
    let a := (x.srcAt r).toNat
    let d := (x.dstAt r).toNat
    let one (s : State) : State := rowCount (modXfer s n m x.tag fun x => { x with rowsLanded := r + 1 }) x.desc.ctl d
    if r + 1 == x.rows then
      (if x.srcRead then one (cupWriteRow s d x.lastRow x.lastBad) else s)
    else match firstSealed s x.ctx.toNat a x.rowLen with
      | some k => sealedRow s n m x a d k
      | none => one (copyWords (x.rowLen / 8) (rowNotes s n a x.rowLen) n a d)

def execTransferRowLanded (core : CoreId) (mover : Fin 4) (s : State) : Host.Outcome State Fault Refusal :=
  .next (rowLanded s core.val mover.val)

/-- The slot of a local transfer whose last row has landed frees. -/
def slotFrees (s : State) (n m : Nat) : State :=
  match (xfers s n m).find? fun x => x.started && !x.desc.remote && x.rowsLanded == x.rows with
  | some x => freeXfer s n m x
  | none => s

def execTransferSlotFree (core : CoreId) (mover : Fin 4) (s : State) : Host.Outcome State Fault Refusal :=
  .next (slotFrees s core.val mover.val)

/-! ### Landing of remote rows (R319, R320, R377, R378) -/

/-- A frame that remote rows of a context may land in. -/
def landKind (ctx : Nat) : FrameKind → Bool
  | .ctx t rwe => t == ctx && rwe
  | _ => false

/-- A piece of one row of one transfer. -/
def sameXfer (src : Coord) (tag : W16) (l : LandingRow) : Bool := l.src == src && l.tag == tag

def sameRecord (src : Coord) (tag : W16) (r : RefusalRec) : Bool := r.src == src && r.tag == tag

/-- The held pieces of a transfer's row are dropped. -/
def dropRow (s : State) (src : Coord) (tag : W16) : State :=
  { s with hut := { s.hut with landing := s.hut.landing.filter fun l => !sameXfer src tag l } }

def dropRecord (s : State) (src : Coord) (tag : W16) : State :=
  { s with hut := { s.hut with records := s.hut.records.filter fun r => !sameRecord src tag r } }

/-- The pieces of a row are written. -/
def landPieces (s : State) (ps : List BulkData) : State :=
  ps.foldl (fun s p => cupWriteRow s p.addr.toNat p.data p.bad) s

/-- A BULK_DATA piece that has reached this chip: it lands only under the current epoch, in frames that admit it (R319, R331). -/
def bulkLands (s : State) (src : Coord) (ctx : Nat) (epoch : W16) (f : BulkData) : State :=
  if !formed s then s
  else if s.hut.records.any (sameRecord src f.tag) then (if f.xferEnd then dropRecord s src f.tag else s)
  else if epoch != s.own.epoch.setWidth 16 || !inFrames s f.addr.toNat f.data.length (landKind ctx) then
    let s := inject (dropRow s src f.tag) src 0 (.bulkCtl ⟨f.tag, true, f.row⟩)
    if f.xferEnd || 256 ≤ s.hut.records.length then s
    else { s with hut := { s.hut with records := s.hut.records ++ [⟨src, f.tag⟩] } }
  else
    let held := match s.hut.landing.find? (sameXfer src f.tag) with
      | some l => l.pieces
      | none => []
    let ps := held ++ [f]
    let s := dropRow s src f.tag
    if !f.rowEnd then { s with hut := { s.hut with landing := s.hut.landing ++ [⟨src, f.tag, ps⟩] } }
    else
      let s := landPieces s ps
      let first := (ps.head?.map fun p => p.addr.toNat).getD 0
      let s := if f.cntEn then bumpCounter s (sliceOf first) f.cnt.toNat else s
      if f.xferEnd then inject s src 0 (.bulkCtl ⟨f.tag, false, 0⟩) else s

def execBulkData (src : Coord) (ctx : FrameTag) (f : BulkData) (s : State) : Host.Outcome State Fault Refusal :=
  .next (bulkLands s src ctx.ctx.val ctx.epoch f)

/-- The remote transfer of this chip that a reply's TAG names. -/
def xferOf (s : State) (src : Coord) (tag : W16) : Option Xfer :=
  (xfers s (bits tag 12 4) (bits tag 10 2)).find? fun x =>
    x.tag == tag && x.started && x.desc.remote && unpackCoord x.desc.dest == src

/-- A LANDED frees the slot; one after a refusal frees nothing more (R146, R158). -/
def landedReply (s : State) (src : Coord) (f : BulkCtl) : State :=
  match xferOf s src f.tag with
  | some x => if x.srcRead && !x.refused then freeXfer s (bits f.tag 12 4) (bits f.tag 10 2) x else s
  | none => s

def execLanded (src : Coord) (f : BulkCtl) (s : State) : Host.Outcome State Fault Refusal := .next (landedReply s src f)

/-- The first REFUSED posts an event and withholds the completion increment; the slot frees once the last piece is sent. -/
def refusedReply (s : State) (src : Coord) (f : BulkCtl) : State :=
  match xferOf s src f.tag with
  | some x =>
    if x.refused then s
    else
      let n := bits f.tag 12 4
      let m := bits f.tag 10 2
      let s := modXfer s n m x.tag fun x => { x with refused := true }
      let s := post s 0 5 (some ⟨x.ctx.toNat, x.ctx.isLt⟩) (.refused f)
      if x.srcRead && !unsent s x.tag then freeXfer s n m { x with refused := true } else s
  | none => s

def execRefused (src : Coord) (f : BulkCtl) (s : State) : Host.Outcome State Fault Refusal := .next (refusedReply s src f)

/-- No piece of a transfer for 1 ms: its refusal record is released, and pieces that passed and wait for the rest of their row
land, uncounted (R136, R378). -/
def recordTimeout (s : State) (src : Coord) (tag : W16) : State :=
  let ps := match s.hut.landing.find? (sameXfer src tag) with
    | some l => l.pieces
    | none => []
  landPieces (dropRow (dropRecord s src tag) src tag) ps

def execRefusalRecordTimeout (src : Coord) (tag : W16) (s : State) : Host.Outcome State Fault Refusal :=
  .next (recordTimeout s src tag)

end Sys2Proof.Machine
end

