-- ==== Sys2Proof/Machine/CoreCmd.lean ====
section
/-! DEFINITION. Machine/CoreCmd.lean: the commands of COR_CTL, the core reset, and what an epoch change does to the cores (R133 to
R136, R157, R160, R232, R233, R267, R436). -/

namespace Sys2Proof.Machine

/-! ### Work abandoned by a core reset (R136, R267) -/

/-- Bytes written word by word, each 64-bit word or its part at the model's free choice (R136). -/
def mixBytes : Nat → State → Nat → Nat → List Byte → State
  | 0, s, _, _, _ => s
  | k + 1, s, n, a, bs =>
    if bs.isEmpty then s
    else
      let len := 8 - a % 8
      let s' := if Config.freeBool s.draw then cupWrite s a (bs.take len) (some n) else s
      mixBytes k (s'.drawn 1) n (a + len) (bs.drop len)

/-- A started instruction abandoned: its destination holds any mix of old and new words. Of a C-class instruction what has landed stays
(R136, R232; assumption log 81). -/
def abandonOp (s : State) (n u : Nat) (x : QEntry) : State :=
  if !x.started then s
  else match x.work with
    | .op i _ _ _ _ _ _ =>
      if !isClassC i then
        let p := finishEntry s n u x
        p.entry.out.flatten.foldl (fun s w => mixBytes (w.2.length + 1) s n w.1 w.2) p.state
      else match x.coll with
        | none => s
        | some (g, q) =>
          let s := match groupOf s g with
            | some en => if s.hut.abortsSeen.contains (g, q, isCpri x) then s else spreadAbort s en q (isCpri x) 3
            | none => s
          if isCpri x then { s with hut := { s.hut with combines := s.hut.combines.filter fun y => !(y.grp == g && y.seq == q) } }
          else dropColl s g q
    | _ => s

/-- A started remote transfer abandoned: what waits at an output is not sent any more. Of one whose rows have not all been read, a
free number of whole rows may have been sent, where the way was open (R136, R159; assumption log 42). -/
def abandonRemote (s : State) (n m : Nat) (x : Xfer) : State :=
  if x.srcRead then dropUnsent s x.tag
  else if !outOpen s (unpackCoord x.desc.dest) (.bulkCtl ⟨x.tag, false, 0⟩) then s
  else (sendRows (Config.freeNat s.draw % x.rows) 0 (s.drawn 1) n m x).1

/-- A started transfer abandoned: of a local one the row being copied stays partly written and is not counted. -/
def abandonXfer (s : State) (n m : Nat) (x : Xfer) : State :=
  if !x.started then s
  else if x.desc.remote then abandonRemote s n m x
  else if x.rows ≤ x.rowsLanded then s
  else
    let k := Config.freeNat s.draw % (x.rowLen / 8 + 1)
    let s := s.drawn 1
    let d := (x.dstAt x.rowsLanded).toNat
    if x.srcRead then cupWriteRow s d (x.lastRow.take (8 * k)) (x.lastBad.filter fun o => decide (o < 8 * k))
    else
      let a := (x.srcAt x.rowsLanded).toNat
      copyWords (match firstSealed s x.ctx.toNat a (8 * k) with
        | some j => j
        | none => k) s n a d

/-- The arrays of a core emptied, and the generation of a trestle whose instruction was abandoned is 0. An array whose instruction goes on
keeps what that instruction uses, and is only no longer the array of a previous instruction (R233, R252, R267). -/
def emptyArrays (c : Core) (hit kept : Nat → Bool) : Core :=
  { c with
    arrays := Vector.ofFn fun t : Fin 4 =>
      if kept t.val then { c.arrays[t] with loaded := false, keepable := false } else c.arrays[t].clear
    trsGen := BitVec.ofNat 4 (bitsOf 4 fun t => bit c.trsGen t && !hit t) }

/-- A core reset (R136). -/
def creset (s : State) (n : Nat) : State :=
  let c := coreAt s n
  let hit (t : Nat) : Bool :=
    let y := c.units.toList.getD t CUnit.empty
    !y.flight.isEmpty || y.queue.any (·.started)
  let s := (List.range 6).foldl (fun s u =>
    let y := c.units.toList.getD u CUnit.empty
    (y.flight ++ y.queue).foldl (fun s x => abandonOp s n u x) s) s
  let s := (List.range 4).foldl (fun s m => (xfers s n m).foldl (fun s x => abandonXfer s n m x) s) s
  modCore s n fun c =>
    let c := { dropWait c with
      units := c.units.map fun y => { y with queue := [], flight := [] }
      movers := Vector.replicate 4 []
      sPend := 0, aPend := 0, pPend := 0, rets := [], tflgCp := [], cpriOut := 0 }
    let c := emptyArrays c hit fun _ => false
    if c.state == 0 then { c with stop := 5 } else { c with state := 3, stopNext := 5 }

/-! ### COR_CTL -/

/-- A write of COR_CTL: refused whole, or its plain fields and its highest-numbered command (R157); a FENCED or FAULTED chip runs no core
(R551, R566). -/
def corCtlWrite (s : State) (n : Nat) (v : W32) : State :=
  let e := ctlRefusal s n v
  if e != 0 then corErr s n e
  else
    let s := modCore s n fun c => ctlFields c v
    match ctlCommand v with
    | some 3 => creset s n
    | some 2 => if stopped s then s else modCore s n fun c => startCore c true
    | some 1 => modCore s n haltCore
    | some 0 => if stopped s then s else modCore s n fun c => startCore c false
    | _ => s

def execRun (core : CoreId) (via : Via) (v : W32) (s : State) : Host.Outcome State Fault Refusal :=
  .next (guarded s via (corReg core.val 0) fun s => corCtlWrite s core.val (v ||| 1))
def execHalt (core : CoreId) (via : Via) (v : W32) (s : State) : Host.Outcome State Fault Refusal :=
  .next (guarded s via (corReg core.val 0) fun s => corCtlWrite s core.val (v ||| 2))
def execStepOne (core : CoreId) (via : Via) (v : W32) (s : State) : Host.Outcome State Fault Refusal :=
  .next (guarded s via (corReg core.val 0) fun s => corCtlWrite s core.val (v ||| 4))
def execCreset (core : CoreId) (via : Via) (v : W32) (s : State) : Host.Outcome State Fault Refusal :=
  .next (guarded s via (corReg core.val 0) fun s => corCtlWrite s core.val (v ||| 8))
def execStallClr (core : CoreId) (via : Via) (v : W32) (s : State) : Host.Outcome State Fault Refusal :=
  .next (guarded s via (corReg core.val 0) fun s => corCtlWrite s core.val (v ||| 0x8000))

/-! ### The epoch change (R160, R193, R195, R233, R267) -/

/-- A C-class instruction that is executing completes at once, INVALID and uncounted; what has landed stays, and a CPRI leaves sd unchanged
and no longer pending (R233; assumption log 81). -/
def epochOp (s : State) (n u : Nat) (x : QEntry) : State :=
  match x.work with
  | .op i _ _ _ _ _ _ =>
    if !x.started || !isClassC i then s
    else if isCpri x then
      modCore s n fun c => discardEntry { c with cpFlags := c.cpFlags.note true false false false } x
    else
      let s := modCore s n fun c => modUnit c u fun y => { y with flags := y.flags.note true false false x.window }
      invalidEvent s n u x.pc
  | _ => s

/-- The epoch change on one core: what has not started is discarded, what executes completes, remote transfers are
abandoned, and the arrays are empty; on a HALTED core nothing else changes. -/
def epochCore (s : State) (n : Nat) : State :=
  let c := coreAt s n
  if c.state == 0 then modCore s n fun c => emptyArrays c (fun _ => false) fun _ => false
  else
    let s := (List.range 6).foldl (fun s u =>
      let y := c.units.toList.getD u CUnit.empty
      let s := (y.flight ++ y.queue).foldl (fun s x => epochOp s n u x) s
      let keeps (x : QEntry) : Bool := match x.work with
        | .op i _ _ _ _ _ _ => x.started && !isClassC i
        | _ => false
      let gone := y.queue.filter fun x => !x.started
      modCore s n fun c => modUnit (gone.foldl discardEntry c) u fun z => { z with
        queue := z.queue.filter keeps, flight := z.flight.filter keeps }) s
    let ended (x : QEntry) : Bool := x.started && match x.work with
      | .op i _ _ _ _ _ _ => isClassC i
      | _ => false
    let hit (t : Nat) : Bool :=
      let y := c.units.toList.getD t CUnit.empty
      (y.flight ++ y.queue).any ended
    modCore (flushStores s n) n fun c =>
      let c := { dropWait c with movers := c.movers.map fun l => l.filter fun x => x.started && !x.desc.remote }
      let c := emptyArrays c hit fun t => unitBusy c t
      { c with state := if c.state == 4 then 4 else 3, stopNext := 6 }

/-- The epoch change on every core, and of the arrival counters and collectives (R160, R233, R317, R430). -/
def epochCores (s : State) : State :=
  let s := (List.range 16).foldl (fun s n => epochCore s n) s
  let s := voidCounters s
  { s with hut := { s.hut with
      seqs := [], colls := [], combines := [], abortsSeen := [], grants := [], waiting := []
      engines := Vector.replicate 4 none, records := [], landing := [] } }

end Sys2Proof.Machine
end

