-- ==== Sys2Proof/Machine/Unpacker.lean ====
section
/-! DEFINITION. Machine/Unpacker.lean: flits into buffers, queues and landing slots, decode lanes, the armoire, and the UPK and
ARM registers (R348 to R364). -/

namespace Sys2Proof.Machine

/-- Bytes of a shelf that pass through a decode queue: its blocks, its groups, or the RAW image. -/
def queueLimit (h : List Byte) : Nat := match hdrFormat h / 16, expWidths (hdrFormat h % 16) with
  | 0, _ => hdrRawLen h
  | 1, some _ => hdrIndexOff h
  | 2, some (_, _, m) => unitCount h * groupBytes m
  | _, _ => 0

/-- The payload is the decoded image itself (R339). -/
def isRaw (h : List Byte) : Bool := hdrFormat h / 16 == 0

/-- Bytes in a queue. -/
def queueFill (q : PortQueue) : Nat := q.queued.foldl (fun a r => a + r.len) 0

/-- The queue with its peak raised to its fill, in 512-byte units rounded up (Table 10-8). -/
def raisePeak (q : PortQueue) (fill : Nat) : PortQueue :=
  let u := ceilDiv fill 512
  { q with peak := if q.peak.toNat < u then BitVec.ofNat 8 u else q.peak }

/-- Decoded bytes from an offset of the image written to the landing slots, segment by segment; `k` bounds the pieces (R336). -/
def landBytes : Nat → State → Bool → Shelf → Nat → List Byte → State
  | 0, s, _, _, _, _ => s
  | k + 1, s, west, x, o, bs =>
    let n := segBytes x
    if bs.isEmpty || n = 0 then s
    else
      let room := n - o % n
      let s := takeSlot s x (o / n) west (slotOfStep x 0)
      let s := cupWrite s (slotAddr (o / n) west (slotOfStep x 0) + o % n) (bs.take room) none
      landBytes k s west x (o + room) (bs.drop room)

/-- The ciphertext, tag and additional data of a sealed shelf verify (R355). -/
def tagHolds (s : State) (west : Bool) (x : Shelf) (k : BitVec 256) : Bool :=
  let n := hdrEncLen x.hdr - 16
  let b := x.beat.toNat % 2
  let iv := leBytes 4 (hdr x.hdr 8 4) ++ leBytes 2 (hdrVersion x.hdr) ++ leBytes 1 (hdrPacked x.hdr) ++ leBytes 5 0
  let aad := splice (splice (x.hdr.take 0xFC) 12 (leBytes 4 0)) 19 [BitVec.ofNat 8 (hdr x.hdr 19 1) &&& ~~~2#8]
  gcmTag k iv aad (encBytes s west b 0 n) == encBytes s west b n 16

/-- The tag is checked when the last byte arrives (R352, R356). -/
def checkTag (s : State) (west : Bool) (x : Shelf) : State :=
  match x.key with
  | none => s
  | some k =>
    if x.stopped || x.tagOk || receivedOf s west x != hdrEncLen x.hdr then s
    else if tagHolds s west x k then setShelf s west { x with tagOk := true }
    else damage s west x 5

/-- The starts of `n` EXP-X blocks by their own sizes, from an offset. -/
def blockStarts (s : State) (west : Bool) (x : Shelf) (w m : Nat) : Nat → Nat → Nat → List Nat
  | 0, _, o => [o]
  | k + 1, u, o =>
    o :: blockStarts s west x w m k (u + 1) (o + blockBytes (ofLe (payBytes s west x o 3)) (blockElems x.hdr w u) m)

/-- The index table, read from the encoded buffer, against the block starts, once every block is decoded and the last byte has come
(R344, R352). -/
def checkIndex (s : State) (west : Bool) (x : Shelf) : State :=
  match hdrFormat x.hdr / 16, expWidths (hdrFormat x.hdr % 16) with
  | 1, some (w, _, m) =>
    let n := unitCount x.hdr
    if x.stopped || x.bad.isSome || x.unit != n || !unitsDone s west x 0 (n - 1) || receivedOf s west x != hdrEncLen x.hdr then s
    else match encUe s west (x.beat.toNat % 2) (hdrIndexOff x.hdr) (4 * (n + 1)) with
    | some a => damage (noteUe s a none readerUnpacker) west x 7
    | none =>
      let at' (i : Nat) : Nat := ofLe (payBytes s west x (hdrIndexOff x.hdr + 4 * i) 4)
      let starts := blockStarts s west x w m n 0 0
      if ((List.range (n + 1)).zip starts).all fun p => at' p.1 == p.2 then s else damage s west x 4
  | _, _ => s

/-- A cause met at a unit of a shelf counts once every earlier unit has left its lane: causes count in payload order (R352). -/
def settleBad (s : State) (west : Bool) (b : W64) : State :=
  match (shelfAt s west b).bind fun x => x.bad.map fun c => (x, c) with
  | some (x, u, c) => if u = 0 || unitsDone s west { x with unit := max x.unit u } 0 (u - 1) then damage s west x c else s
  | none => s

/-- A cause met at a unit, kept where none is known at an earlier one. -/
def meetBad (s : State) (west : Bool) (x : Shelf) (u c : Nat) : State :=
  settleBad (setShelf s west { x with bad := match x.bad with
    | some (v, d) => if v < u then some (v, d) else some (u, c)
    | none => some (u, c) }) west x.beat

/-- The checks that follow the last byte and the last unit. -/
def finishChecks (s : State) (west : Bool) (b : W64) : State :=
  let s := settleBad s west b
  let s := match shelfAt s west b with
    | some x => checkTag s west x
    | none => s
  match shelfAt s west b with
  | some x => checkIndex s west x
  | none => s

/-- The first spill of a shelf: UPK_STAT, the count, and the event with EVT_SPILL (R348, R654). -/
def noteSpill (s : State) (west : Bool) (x : Shelf) (port : Nat) : State :=
  if x.spilled then s
  else
    let s := setShelf s west { x with spilled := true }
    let s := { s with upk := { s.upk with spill := true, spillCnt := satInc s.upk.spillCnt } }
    if s.upk.evtSpill then
      postReg s 2 none 0x7000C 0 (detail2 (hdrGroup x.hdr + 65536 * boolNat west) port)
    else s

/-- The payload bytes of a flit enter the port's queue, go straight to the landing slots (RAW), or are spilled (R348, R349). -/
def queueFlit (s : State) (west : Bool) (x : Shelf) (port o n : Nat) (bs : List Byte) : State :=
  let n := min (o + n) (queueLimit x.hdr) - o
  if n = 0 || x.stopped then s
  else
    let q := s.upk.queues.toList.getD port ⟨[], [], 0⟩
    let r : QRange := ⟨x.beat, o, n⟩
    if q.spilled.isEmpty && queueFill q + n ≤ 65536 then
      let q' := raisePeak (if isRaw x.hdr then q else { q with queued := q.queued ++ [r] }) (queueFill q + n)
      let s := { s with upk := { s.upk with queues := vmod s.upk.queues port fun _ => q' } }
      if isRaw x.hdr then
        landBytes (bs.length + 1) s west x o (if x.key.isSome then payBytes s west x o n else bs.take n)
      else s
    else
      noteSpill { s with upk := { s.upk with queues := vmod s.upk.queues port fun q => { q with spilled := q.spilled ++ [r] } } }
        west x port

/-- A port's count of shelf flits. -/
def countFlit (s : State) (port : Nat) : State :=
  { s with ports := vmod s.ports port fun q => { q with shelfFlits := q.shelfFlits + 1 } }

/-- A flit that belongs to the beat before is one that was owed. -/
def countOwed (s : State) (port : Nat) : State :=
  { s with ports := vmod s.ports port fun q => { q with shelfOwed := q.shelfOwed - 1 } }

/-- A shelf flit delivered in order on ports 0 to 3 (R94, R348): into the inbound encoded buffer, and on to the queue. One that was
owed for the beat before comes too late for its shelf, which is poisoned. -/
def flitIn (s : State) (port : Nat) (data : List Byte) : State :=
  let west := decide (2 ≤ port)
  let i := 2 * (portAt s port).shelfFlits + port % 2
  if 0 < (portAt s port).shelfOwed then countOwed s port
  else if !circulating s then countFlit s port
  else
    let s := countFlit s port
    let x? := (arrOf s west).filter (·.beat == s.beat.count)
    let r := flitRange i ((x?.map fun x => hdrEncLen x.hdr).getD 4194304)
    let bs := (data.drop (if i = 1 then 16 else 0)).take r.2
    if i = 0 then s
    else
      let s := encWrite s west (s.beat.count.toNat % 2) r.1 bs
      match x? with
      | some x => finishChecks (queueFlit s west x port r.1 r.2 bs) west x.beat
      | none => s

/-- A shelf flit given up after eight retries: its shelf is poisoned and decodes no further; the shelf is the one of the beat before
where a flit of that was owed (R119, R384). -/
def flitLost (s : State) (port : Nat) : State :=
  let west := decide (2 ≤ port)
  if 0 < (portAt s port).shelfOwed then countOwed s port
  else
    let s := countFlit s port
    let s := if west then { s with wrg := { s.wrg with lostW := true } } else { s with wrg := { s.wrg with lostE := true } }
    match (arrOf s west).filter (·.beat == s.beat.count) with
    | some x => freeShelf (setArr s west (some { x with poison := true, stopped := true })) west x.beat
    | none => s

/-- Flits of the arriving shelf that came before its header was known take their way into the queue: `k` of them from flit `i` on
(R348). The header ends in flit 1, so flit 1 is one of them. -/
def queueEarly : Nat → State → Bool → Nat → State
  | 0, s, _, _ => s
  | k + 1, s, west, i =>
    let port := (if west then 2 else 0) + i % 2
    let s := match (arrOf s west).filter (·.beat == s.beat.count) with
      | some x =>
        let r := flitRange i (hdrEncLen x.hdr)
        if i / 2 < (portAt s port).shelfFlits then
          finishChecks (queueFlit s west x port r.1 r.2 (encBytes s west (x.beat.toNat % 2) r.1 r.2)) west x.beat
        else s
      | none => s
    queueEarly k s west (i + 1)

/-- A shelf header received on a stream, with the flits of the shelf that came before it. -/
def execShelfHeader (west : Bool) (bytes : List Byte) (s : State) : Host.Outcome State Fault Refusal :=
  let t := shelfHeaderIn s west bytes
  let p := if west then 2 else 0
  .next (if (arrOf s west).isNone && (arrOf t west).isSome then
      queueEarly (2 * max (portAt s p).shelfFlits (portAt s (p + 1)).shelfFlits) t west 1
    else t)

/-- The oldest spilled bytes of a port read back (R348, R363). -/
def spillReadback (s : State) (port : Nat) : State :=
  let west := decide (2 ≤ port)
  let q := s.upk.queues.toList.getD port ⟨[], [], 0⟩
  match q.spilled with
  | [] => s
  | r :: rest =>
    match shelfAt s west r.beat with
    | none => { s with upk := { s.upk with queues := vmod s.upk.queues port fun q => { q with spilled := rest } } }
    | some x =>
      match encUe s west (r.beat.toNat % 2) r.off r.len with
      | some a => damage (noteUe s a none readerUnpacker) west x 7
      | none =>
        if 65536 < queueFill q + r.len then s
        else
          let q' := raisePeak { q with spilled := rest, queued := if isRaw x.hdr then q.queued else q.queued ++ [r] }
            (queueFill q + r.len)
          let s := { s with upk := { s.upk with queues := vmod s.upk.queues port fun _ => q' } }
          if isRaw x.hdr then landBytes (r.len + 1) s west x r.off (payBytes s west x r.off r.len) else s

def execSpillReadback (port : Fin 4) (s : State) : Host.Outcome State Fault Refusal := .next (spillReadback s port.val)

/-- The lowest-numbered free lane of a stream (R349, R358). -/
def freeLane (s : State) (west : Bool) : Option Nat :=
  let split := s.upk.split.toNat
  let mine (i : Nat) : Bool := !(s.wrg.east && s.wrg.west) || (if west then split ≤ i else i < split)
  (List.range 128).find? fun i => mine i && (s.upk.lanes.toList.getD i none).isNone

/-- The next unit of a shelf: its bytes, once enough of it is in the queue to tell. -/
def nextUnit (s : State) (west : Bool) (x : Shelf) : Option Nat :=
  match hdrFormat x.hdr / 16, expWidths (hdrFormat x.hdr % 16) with
  | 1, some (w, _, m) =>
    if inQueue s west x x.unitOff 8 then
      some (blockBytes (ofLe (payBytes s west x x.unitOff 3)) (blockElems x.hdr w x.unit) m)
    else none
  | 2, some (_, _, m) => some (groupBytes m)
  | _, _ => none

/-- The shelf whose units are dispatched next: the late one held, else the arriving one. -/
def decoding (s : State) (west : Bool) : Option Shelf :=
  let open' (x : Shelf) : Bool := !x.stopped && x.bad.isNone && decide (x.unit < unitCount x.hdr)
  ((heldOf s west).filter open').or ((arrOf s west).filter open')

/-- The reserved bytes and NELEM of an EXP-X block's header are right (R343, R352). -/
def blockHeadOk (s : State) (west : Bool) (x : Shelf) (w : Nat) : Bool :=
  let b := payBytes s west x x.unitOff 8
  hdr b 3 1 == 0 && hdr b 4 2 == blockElems x.hdr w x.unit && hdr b 6 2 == 0

/-- The cause that ends the walk of the blocks at the next one, which would end at `fin`: CODE of its own header where that lies
before INDEX_OFF, else LENGTH (R340, R352). -/
def walkCause (s : State) (west : Bool) (x : Shelf) : Nat :=
  match expWidths (hdrFormat x.hdr % 16) with
  | some (w, _, _) => if x.unitOff + 8 ≤ hdrIndexOff x.hdr && !blockHeadOk s west x w then 2 else 3
  | none => 3

/-- The next unit of a stream goes to a lane (R349). A block that runs past INDEX_OFF goes to none, and the last block short of
INDEX_OFF is damage behind it: the cause waits for the blocks before it (R352). -/
def laneDispatch (s : State) (west : Bool) : State :=
  match decoding s west, freeLane s west with
  | some x, some l =>
    match nextUnit s west x with
    | none => s
    | some n =>
      let fin := x.unitOff + n
      let blocks := hdrFormat x.hdr / 16 == 1
      if blocks && decide (hdrIndexOff x.hdr < fin) then meetBad s west x x.unit (walkCause s west x)
      else if !inQueue s west x x.unitOff n then s
      else
        let short := blocks && x.unit + 1 == unitCount x.hdr && fin != hdrIndexOff x.hdr
        let s := setShelf s west { x with unit := x.unit + 1, unitOff := fin, bad := if short then some (x.unit + 1, 3) else none }
        { s with upk := { s.upk with lanes := vmod s.upk.lanes l fun _ => some ⟨streamOf west, x.beat, x.unit, x.unitOff, n⟩ } }
  | _, _ => s

def execLaneDispatch (west : Bool) (s : State) : Host.Outcome State Fault Refusal := .next (laneDispatch s west)

/-- A range of a shelf leaves a queue. -/
def cutRange (b : W64) (o n : Nat) (q : PortQueue) : PortQueue :=
  { q with queued := q.queued.flatMap fun r =>
      if r.beat != b || r.off + r.len ≤ o || o + n ≤ r.off then [r]
      else (if r.off < o then [⟨b, r.off, o - r.off⟩] else []) ++
        (if o + n < r.off + r.len then [⟨b, o + n, r.off + r.len - (o + n)⟩] else []) }

/-- A lane finishes its unit: the decoded bytes land, or damage is met (R350, R352). -/
def laneFinish (s : State) (l : Nat) : State :=
  match s.upk.lanes.toList.getD l none with
  | none => s
  | some y =>
    let west := isWest y.stream
    let s := { s with upk := { s.upk with
        lanes := vmod s.upk.lanes l fun _ => none
        queues := Vector.ofFn fun i : Fin 4 =>
          if (2 ≤ i.val) == west then cutRange y.beat y.off y.len s.upk.queues[i] else s.upk.queues[i] } }
    match shelfAt s west y.beat with
    | none => s
    | some x =>
      let bs := payBytes s west x y.off y.len
      let r := if hdrFormat x.hdr / 16 = 1 then decodeBlock x.hdr y.unit bs else decodeGroup x.hdr bs
      match r with
      | .error c => meetBad s west x y.unit c
      | .ok out =>
        let per := if hdrFormat x.hdr / 16 = 1 then 4096 else out.length
        finishChecks (landBytes (out.length + 1) s west x (y.unit * per) out) west y.beat

def execLaneFinish (lane : Fin 128) (s : State) : Host.Outcome State Fault Refusal := .next (laneFinish s lane.val)

/-! ### Registers -/

/-- A write of UPK_CTL (Table 10-7). -/
def upkCtlWrite (s : State) (v : W32) : State :=
  let n := bits v 8 7
  if n < 16 || 112 < n || n % 8 != 0 then { s with upk := { s.upk with err := 1 } }
  else
    let s := { s with upk := { s.upk with eastLanes := v.extractLsb' 8 7, evtSpill := bit v 2 } }
    if bit v 1 then
      { s with upk := { s.upk with
        spillCnt := 0, dmgCnt := 0, decPeak := 0, queues := s.upk.queues.map fun q => { q with peak := 0 } } }
    else s

def execUpkCntClr (via : Via) (v : W32) (s : State) : Host.Outcome State Fault Refusal :=
  .next (guarded s via 0x70000 fun s => upkCtlWrite s (v ||| 2))

/-- A write of UPK_STAT: its W1C bits. -/
def upkStatWrite (s : State) (v : W32) : State :=
  { s with upk := { s.upk with dmg := s.upk.dmg && !bit v 1, spill := s.upk.spill && !bit v 0 } }

/-- A write of ARM_CTL (Table 10-11): ZERO erases slot SEL at the next beat boundary. -/
def armCtlWrite (s : State) (v : W32) : State :=
  let sel := v.extractLsb' 18 5
  { s with arm := { s.arm with
      sel := sel,
      zeroDue := if bit v 17 && !s.arm.zeroDue.contains sel.toNat then s.arm.zeroDue ++ [sel.toNat] else s.arm.zeroDue } }

def execArmZero (via : Via) (v : W32) (s : State) : Host.Outcome State Fault Refusal :=
  .next (guarded s via 0x80000 fun s => armCtlWrite s (v ||| 0x20000))

/-- A write of ARM_ERR: W1C bits that also clear the matching count (R360). -/
def armErrWrite (s : State) (v : W32) : State :=
  { s with arm := { s.arm with
      tag := s.arm.tag && !bit v 15, tagCnt := if bit v 15 then 0 else s.arm.tagCnt,
      noKey := s.arm.noKey && !bit v 14, noKeyCnt := if bit v 14 then 0 else s.arm.noKeyCnt } }

def execArmErrClear (via : Via) (v : W32) (s : State) : Host.Outcome State Fault Refusal :=
  .next (guarded s via 0x80008 fun s => armErrWrite s v)

/-- The unpacker and the armoire at a beat boundary: the split takes effect, due slots are erased (R358, R360). -/
def unpackBeat (s : State) : State :=
  { s with
    upk := { s.upk with split := s.upk.eastLanes }
    arm := { s.arm with
      zeroDue := []
      slots := Vector.ofFn fun i : Fin 32 => if s.arm.zeroDue.contains i.val then ⟨none, 0⟩ else s.arm.slots[i] } }

end Sys2Proof.Machine
end

