-- ==== Sys2Proof/Machine/Link.lean ====
section
/-! DEFINITION. Machine/Link.lean: the Afarvo links: port states and training, frames received in order, acknowledgement,
retransmission and recovery, and the AFV and HUT registers (R365 to R407). -/

namespace Sys2Proof.Machine

/-- The state with one port changed. -/
def modPort (s : State) (p : Nat) (f : Port → Port) : State := { s with ports := vmod s.ports p f }

/-- A class of a port: priority or bulk. -/
def classOf (q : Port) (prio : Bool) : LinkClass := if prio then q.prio else q.bulk

/-- A port with one class changed. -/
def modClass (q : Port) (prio : Bool) (f : LinkClass → LinkClass) : Port :=
  if prio then { q with prio := f q.prio } else { q with bulk := f q.bulk }

/-- The state with one class of a port changed. -/
def modLink (s : State) (p : Nat) (prio : Bool) (f : LinkClass → LinkClass) : State := modPort s p fun q => modClass q prio f

/-- How far a sequence number lies after another, modulo 4,096 (R380). -/
def seqAfter (x y : Nat) : Nat := (x + 4096 - y % 4096) % 4096

/-- A sequence number lies in FIRST to LAST, modulo 4,096. -/
def seqIn (x first last : Nat) : Bool := seqAfter x first ≤ seqAfter last first

/-- AFV register of a port. -/
def afvReg (p o : Nat) : Nat := 0x50000 + 0x1000 * p + o

/-! ### Discards by epoch (R393, R402) -/

/-- A frame whose EPOCH is not that of the formed partition; a shelf flit is of the epoch it travels in. -/
def stale (s : State) (f : Frame) : Bool :=
  f.epoch != s.own.epoch.setWidth 16 && (match f.body with
    | .shelf _ => false
    | _ => true)

/-- The discards of an epoch change, counted once. -/
def countDiscard (s : State) : State :=
  if s.hut.discSeen then s
  else { s with hut := { s.hut with discEvt := satInc s.hut.discEvt, discSeen := true } }

/-- The VC code of Table 11-1. -/
def vcCode (prio vc : Bool) : Nat := 2 * boolNat prio + boolNat vc

/-- A slot of an input buffer frees: the cumulative count rises and a CREDIT word returns it (R388). -/
def giveCredit (s : State) (p code : Nat) : State :=
  let n := ((portAt s p).freedHere.toList.getD code 0 + 1) % 65536
  { s with ports := vmod s.ports p fun q => { q with freedHere := vmod q.freedHere code fun _ => n } }.emit
    (.word p (.credit code n))

/-- The input slot of a frame that leaves this Hutch frees; local injection has none. -/
def freeInput (s : State) (o : OutFrame) : State :=
  if o.input < 10 then giveCredit s o.input (vcCode (isPrio o.frame.body) o.inVc) else s

/-- The stale frames of a port's output queues are discarded; stale frames of its retry and input buffers keep their sequence
numbers alone, and the receiver discards them (R393). -/
def dropStale (s : State) (p : Nat) : State :=
  let q := portAt s p
  let old := (q.bulkOut ++ q.prioOut).filter fun o => stale s o.frame
  let kept := (q.bulk.retry ++ q.prio.retry).any (fun r => stale s r.frame) ||
    (q.bulk.held ++ q.prio.held).any (fun h => h.2.any (stale s))
  let s := modPort s p fun q => { q with
    bulkOut := q.bulkOut.filter fun o => !stale s o.frame
    prioOut := q.prioOut.filter fun o => !stale s o.frame }
  let s := old.foldl freeInput s
  if kept || !old.isEmpty then countDiscard s else s

/-- R393 at the start of the beat in which PART_EPOCH changes; a port that is not UP waits until it is (R402). -/
def epochPorts (s : State) : State :=
  let s := { s with hut := { s.hut with discSeen := false } }
  (List.range 10).foldl (fun s p => if (portAt s p).state == 3 then dropStale s p else s) s

/-! ### Port states (R371 to R373, R385, R386) -/

/-- A port enters OFF: it carries nothing. -/
def toOff (q : Port) : Port :=
  { q with
    state := 0, step := 0, wlLock := 0, wlWarn := 0, peer := none, peerStep := 0, stepHere := false, timings := 0,
    stateValid := false,
    rxPower := Vector.replicate 8 0x80, txPower := Vector.replicate 8 0x80 }

/-- A port enters DOWN with the failing step and the cause (R372, R373). -/
def enterDown (s : State) (p : Nat) (cause step : BitVec 4) : State :=
  let q := portAt s p
  let s := modPort s p fun q => { q with
    state := 5, cause := cause, step := step, wlLock := 0, peer := none, peerStep := 0, stepHere := false, timings := 0,
    attempts := satInc q.attempts, beenUp := false
    downs := if q.state == 3 || q.state == 4 then satInc q.downs else q.downs }
  if q.beenUp then postReg s 3 none (afvReg p 8) 28 (detail2 p cause.toNat) else s

/-- The RESYNC word of a port: the in-order points of its receiver (R385, R386). -/
def resyncWord (q : Port) : CtlWord := .resync q.bulk.expected q.prio.expected q.stateValid

/-- A port enters RECOVER, or DOWN on the fourth time within 100 ms (R385). -/
def enterRecover (s : State) (p : Nat) : State :=
  let q := portAt s p
  if q.state != 3 then s
  else
    let recent := q.recoveries.filter fun m => s.beat.ms.toNat < m.toNat + 100000
    let s := modPort s p fun q => { q with recoveries := (s.beat.ms :: recent).take 4 }
    if 3 ≤ recent.length then enterDown s p 9 0
    else
      let s := modPort s p fun q => { q with state := 4, peer := none, recov := satInc q.recov }
      s.emit (.word p (resyncWord (portAt s p)))

/-- A class whose retransmission starts from the far end's in-order point; the retransmission counts restart (R384, R385). -/
def resend (c : LinkClass) (point : Nat) : LinkClass :=
  { c with retry := (c.retry.filter fun r => seqAfter r.frame.seq point < 2048).map fun r => { r with tries := 0, again := true } }

/-- A port returns to UP with both classes resent from the far end's in-order points. -/
def resume (s : State) (p bulk prio : Nat) : State :=
  let s := modPort s p fun q => { q with
    state := 3, step := 0, peer := none, stateValid := true, beenUp := true
    bulk := resend q.bulk bulk, prio := resend q.prio prio }
  dropStale s p

/-- Sequence state that one end does not hold: everything kept for the port is discarded, both spaces restart at 0, and the
credits in use are taken back with the frames (R386). -/
def restartLink (s : State) (p : Nat) : State :=
  let q := portAt s p
  let any := !(q.bulkOut.isEmpty && q.prioOut.isEmpty && q.bulk.retry.isEmpty && q.prio.retry.isEmpty &&
    q.bulk.held.isEmpty && q.prio.held.isEmpty)
  let s := modPort s p fun q => { q with
    bulk := .empty, prio := .empty, bulkOut := [], prioOut := [], sent := q.freed, peerReset := true }
  let s := (q.bulkOut ++ q.prioOut).foldl freeInput s
  let s := if any then { s with hut := { s.hut with discEvt := satInc s.hut.discEvt } } else s
  postReg s 3 none (afvReg p 4) 25 0

/-- Training step SEQ completes (R386). -/
def finishSeq (s : State) (p : Nat) : State :=
  let q := portAt s p
  match q.peer with
  | none => s
  | some (b, r, v) =>
    if q.stateValid && v then resume (modPort s p fun q => { q with peerReset := false }) p b r
    else resume (restartLink s p) p 0 0

/-- The delay limit of R52 in 0.5 ns units. -/
def delayLimit (s : State) (p : Nat) : Nat := match table? s with
  | some t => if rowClass t p then 1300 else 300
  | none => 300

/-- The mean one-way delay of the 64 echoes in 0.5 ns units, rounded (R374). -/
def meanDelay (q : Port) : Nat := (q.echoSum + 128) / 256

/-- The local time in 0.25 ns units (R374): one core clock is 5/9 ns. -/
def localTime (s : State) : BitVec 24 := BitVec.ofNat 24 (s.clock.toNat * 20 / 9)

/-- A timing word leaves (R374). -/
def sendTiming (s : State) (p : Nat) : State :=
  (modPort s p fun q => { q with timings := q.timings + 1, timingAt := s.clock }).emit (.word p (.timing (localTime s)))

/-- Both ends have completed the current step: the next one begins (R372). Step DELAY begins with the first of 64 timing words,
and step SEQ with the RESYNC word. -/
def nextStep (s : State) (p : Nat) : State :=
  let q := portAt s p
  let s := modPort s p fun q => { q with step := q.step + 1, stepHere := false }
  match q.step.toNat with
  | 5 => sendTiming (modPort s p fun q => { q with echoSum := 0, echoes := 0, timings := 0 }) p
  | 6 => s.emit (.word p (resyncWord (portAt s p)))
  | 7 => finishSeq s p
  | _ => s

/-- This end has completed the current step: a TRAIN word says so, and the port goes on once the far end has said the same. -/
def stepComplete (s : State) (p : Nat) : State :=
  let q := portAt s p
  let s := (modPort s p fun q => { q with stepHere := true }).emit (.word p (.train q.step.toNat))
  if q.step.toNat ≤ q.peerStep.toNat then nextStep s p else s

/-- The table state permits training (R45). -/
def tableAnchored (s : State) : Bool := 4 ≤ s.inst.state.toNat

/-- A training step completes on this end (Table 11-4, R372). -/
def trainStepDone (s : State) (p : Nat) (power : Vector (BitVec 8) 8) : State :=
  let q := portAt s p
  if q.state != 2 || q.stepHere || !tableAnchored s then s
  else match q.step.toNat with
    | 2 => stepComplete (modPort s p fun q => { q with wlLock := 0xFF }) p
    | 3 =>
      let s := modPort s p fun q => { q with rxPower := power }
      if power.toList.any fun x => x.toInt < -90 then enterDown s p 2 3
      else if power.toList.any fun x => 30 < x.toInt then enterDown s p 3 3
      else stepComplete s p
    | 4 => stepComplete s p
    | 5 => stepComplete s p
    | 6 =>
      if q.echoes < 64 then s
      else if delayLimit s p < meanDelay q then enterDown s p 7 6
      else stepComplete (modPort s p fun q => { q with delay := BitVec.ofNat 12 (meanDelay q) }) p
    | 7 => if q.peer.isSome then stepComplete s p else s
    | _ => s

def execTrainStepDone (port : PortId) (power : Vector (BitVec 8) 8) (s : State) : Host.Outcome State Fault Refusal :=
  .next (trainStepDone s port.val power)

/-- A step exceeds its limit: the cause is the step's own, IDENT, LOCK, EQ, SKEW or TIMEOUT as measured (Table 11-5). -/
def trainStepTimeout (s : State) (p cause : Nat) : State :=
  let q := portAt s p
  if q.state == 1 && q.step == 1 && q.enable then enterDown s p 1 1
  else if q.state == 2 then enterDown s p (BitVec.ofNat 4 cause) q.step
  else s

def execTrainStepTimeout (port : PortId) (cause : Nat) (s : State) : Host.Outcome State Fault Refusal :=
  .next (trainStepTimeout s port.val cause)

def execDownRetry (port : PortId) (s : State) : Host.Outcome State Fault Refusal :=
  .next (if (portAt s port.val).state == 5 then enterIdent s port.val id else s)

/-! ### Control words (R368, R369, R374) -/

/-- A control word other than PARK reaches a port: a PARKED port returns to IDENT (Table 11-3); the word acts where its port is
in one of the states `ok`. -/
def ctlIn (s : State) (p : Nat) (ok : Nat → Bool) (f : State → State) : State :=
  let n := (portAt s p).state.toNat
  if n = 6 then enterIdent s p id
  else if ok n then f s
  else s

/-- The states in which acknowledgements and credits flow (R385, R403). -/
def linked (n : Nat) : Bool := n == 3 || n == 4

def execIdle (port : PortId) (s : State) : Host.Outcome State Fault Refusal := .next (ctlIn s port.val (fun _ => false) id)

/-- A TRAIN word reports the step that the far end has completed; a port that waits for it goes on (R372). -/
def trainIn (s : State) (p step : Nat) : State :=
  let q := portAt s p
  let s := modPort s p fun q => { q with peerStep := BitVec.ofNat 4 step }
  if q.state == 2 && q.stepHere && decide (q.step.toNat ≤ step % 16) && tableAnchored s then nextStep s p else s

def execTrain (port : PortId) (step : Nat) (s : State) : Host.Outcome State Fault Refusal :=
  .next (ctlIn s port.val (fun n => n == 1 || n == 2) fun s => trainIn s port.val step)

def execTimingWord (port : PortId) (time : BitVec 24) (hold : W16) (s : State) : Host.Outcome State Fault Refusal :=
  .next (ctlIn s port.val (· == 2) fun s =>
    if (portAt s port.val).step == 6 then s.emit (.word port.val (.echo time hold)) else s)

/-- One round trip less the hold time, in 0.25 ns units (R374). -/
def echoIn (q : Port) (arrival time : BitVec 24) (hold : W16) : Port :=
  if q.step == 6 && decide (q.echoes < 64) then
    { q with echoSum := q.echoSum + ((arrival - time).toNat - hold.toNat), echoes := q.echoes + 1 }
  else q

def execEcho (port : PortId) (arrival time : BitVec 24) (hold : W16) (s : State) : Host.Outcome State Fault Refusal :=
  .next (ctlIn s port.val (· == 2) fun s => modPort s port.val fun q => echoIn q arrival time hold)

/-- PARK parks every lit port that is not closed on itself (R368). -/
def parkIn (q : Port) : Port :=
  let n := q.state.toNat
  if 1 ≤ n && n ≤ 5 && !q.inService then
    { q with
      state := 6, step := 0, wlLock := 0, peer := none, peerStep := 0, stepHere := false, timings := 0,
      rxPower := dimmed q.rxPower, txPower := dimmed q.txPower }
  else q

def execPark (port : PortId) (s : State) : Host.Outcome State Fault Refusal := .next (modPort s port.val parkIn)

def execCredit (port : PortId) (vc : Fin 4) (freed : Nat) (s : State) : Host.Outcome State Fault Refusal :=
  .next (ctlIn s port.val linked fun s =>
    modPort s port.val fun q => { q with freed := vmod q.freed vc.val fun _ => freed % 65536 })

/-- A RESYNC word; on a port that is UP it tells of the far end's recovery (R385, R386). -/
def resyncIn (s : State) (p bulk prio : Nat) (valid : Bool) : State :=
  let s := enterRecover s p
  let n := (portAt s p).state
  if n == 2 || n == 4 then modPort s p fun q => { q with peer := some (bulk % 4096, prio % 4096, valid) } else s

def execResync (port : PortId) (bulk prio : Nat) (valid : Bool) (s : State) : Host.Outcome State Fault Refusal :=
  .next (ctlIn s port.val (fun n => linked n || n == 2) fun s => resyncIn s port.val bulk prio valid)

/-- Recovery ends once the far end's in-order points are known (R385). -/
def recoveryEnd (s : State) (p : Nat) : State :=
  let q := portAt s p
  if q.state != 4 then s
  else match q.peer with
    | some (b, r, _) => resume s p b r
    | none => s

def execRecoveryEnd (port : PortId) (s : State) : Host.Outcome State Fault Refusal := .next (recoveryEnd s port.val)

def execRecoveryTimeout (port : PortId) (s : State) : Host.Outcome State Fault Refusal :=
  .next (if (portAt s port.val).state == 4 then enterDown s port.val 10 0 else s)

def execLossOfLight (port : PortId) (s : State) : Host.Outcome State Fault Refusal :=
  .next (enterRecover (modPort s port.val fun q => { q with rxPower := Vector.replicate 8 0x80 }) port.val)

/-! ### Acknowledgement and retransmission (R381 to R384) -/

def execAck (port : PortId) (prio : Bool) (first last : Nat) (s : State) : Host.Outcome State Fault Refusal :=
  .next (ctlIn s port.val linked fun s => modLink s port.val prio fun c =>
    { c with retry := c.retry.filter fun r => !seqIn r.frame.seq first last })

/-- A shelf flit is given up: LOST goes out, and the flit leaves the retry buffer (R384). -/
def giveUp (s : State) (p seq : Nat) : State :=
  let s := modLink s p false fun c => { c with retry := c.retry.filter fun r => r.frame.seq != seq }
  (modPort s p fun q => { q with lost := satInc q.lost }).emit (.word p (.lost seq))

/-- A body of a shelf flit. -/
def isShelf : Body → Bool
  | .shelf _ => true
  | _ => false

/-- A NAK: the frames named are sent again; one whose eighth retransmission it names is given up, or starts a recovery
(R382, R384). -/
def nakIn (s : State) (p : Nat) (prio : Bool) (first last : Nat) : State :=
  let named := (classOf (portAt s p) prio).retry.filter fun r => seqIn r.frame.seq first last && !r.again
  let spent := named.filter fun r => 8 ≤ r.tries
  if spent.any fun r => !isShelf r.frame.body then enterRecover s p
  else
    let s := spent.foldl (fun s r => giveUp s p r.frame.seq) s
    modLink s p prio fun c => { c with
      retry := c.retry.map fun r => if seqIn r.frame.seq first last then { r with again := true } else r }

def execNak (port : PortId) (prio : Bool) (first last : Nat) (s : State) : Host.Outcome State Fault Refusal :=
  .next (ctlIn s port.val (· == 3) fun s => nakIn s port.val prio first last)

/-- A frame's timer runs: it has been sent, and is not a retransmission that a stopped class defers (R383). -/
def timerRuns (s : State) (p : Nat) (prio : Bool) (r : TxRec) : Bool := !r.again || !classStopped s p prio

def execAckTimeout (port : PortId) (s : State) : Host.Outcome State Fault Refusal :=
  let q := portAt s port.val
  .next (if q.bulk.retry.any (timerRuns s port.val false) || q.prio.retry.any (timerRuns s port.val true) then
    enterRecover s port.val else s)

def execTailSend (port : PortId) (prio : Bool) (s : State) : Host.Outcome State Fault Refusal :=
  let q := portAt s port.val
  .next (if q.state == 3 then s.emit (.word port.val (.tail prio (classOf q prio).next)) else s)

/-! ### Receiving (R379, R381, R382, R393, R395) -/

/-- A frame handed to the Hutch in its place in the order. -/
def deliver (s : State) (p : Nat) (prio : Bool) (x : Option Frame) : State :=
  match x with
  | none => flitLost s p
  | some f =>
    let free (s : State) : State := giveCredit s p (vcCode prio f.vc)
    if f.body = .malformed || (portAt s p).state != 3 || !admittedPort s p then free (misroute s false)
    else if stale s f then free (countDiscard s)
    else match f.body with
      | .shelf d => free (if p < 4 then flitIn s p d else misroute s false)
      | _ => match nextHop s f with
        | some (some _, _) => forward s p f
        | _ => free (forward s p f)

/-- Held frames that follow on from the in-order point are delivered; `k` bounds them. -/
def drainHeld : Nat → State → Nat → Bool → State
  | 0, s, _, _ => s
  | k + 1, s, p, prio =>
    let c := classOf (portAt s p) prio
    match c.held.find? fun h => h.1 == c.expected with
    | none => s
    | some (n, x) =>
      drainHeld k (deliver (modLink s p prio fun c => { c with
        expected := (c.expected + 1) % 4096, held := c.held.filter fun h => h.1 != n }) p prio x) p prio

/-- The sequence number after the last one received of a class. -/
def frontier (c : LinkClass) : Nat :=
  let far := c.held.foldl (fun a h => max a (seqAfter h.1 c.expected + 1)) 0
  (c.expected + far) % 4096

/-- A sequence number, with its frame or given up, takes its place behind the in-order point. -/
def place (s : State) (p : Nat) (prio : Bool) (n : Nat) (x : Option Frame) : State :=
  let c := classOf (portAt s p) prio
  if 2048 ≤ seqAfter n c.expected || c.held.any (fun h => h.1 == n) then s
  else
    let s := modLink s p prio fun c => { c with held := c.held ++ [(n, x)] }
    drainHeld (c.held.length + 1) s p prio

/-- A frame with a good CRC arrives: acknowledged, NAKed for the gap before it, held or delivered; a duplicate is acknowledged
and discarded (R381, R382). -/
def receive (s : State) (p : Nat) (prio : Bool) (n : Nat) (f : Frame) : State :=
  let q := portAt s p
  let m := q.state.toNat
  if m = 0 || m = 6 || m = 7 then s
  else
    let c := classOf q prio
    let s := s.emit (.word p (.ack prio n n))
    let gap := seqAfter n (frontier c)
    let s := if 0 < gap && gap < 2048 then s.emit (.word p (.nak prio (frontier c) ((n + 4095) % 4096))) else s
    place s p prio n (some f)

/-- A shelf flit as a frame: DEST, SRC and the route fields are 0 (Table 11-7). -/
def shelfFrame (n : Nat) (data : List Byte) : Frame :=
  ⟨false, n, Coord.zero, Coord.zero, false, 0, false, false, false, 0, 0, .shelf data⟩

def execShelfFlit (port : Fin 4) (seq : Nat) (data : List Byte) (s : State) : Host.Outcome State Fault Refusal :=
  .next (receive s port.val false (seq % 4096) (shelfFrame (seq % 4096) data))

def execHutchForward (port : PortId) (f : Frame) (s : State) : Host.Outcome State Fault Refusal :=
  .next (receive s port.val (isPrio f.body) (f.seq % 4096) f)

/-- LOST: the flit counts as failed after eight retries, in its place in the order (R384). -/
def execLost (port : PortId) (seq : Nat) (s : State) : Host.Outcome State Fault Refusal :=
  .next (ctlIn s port.val (· == 3) fun s => place s port.val false (seq % 4096) none)

/-- Consecutive numbers of a list as ranges. -/
def ranges : List Nat → List (Nat × Nat)
  | [] => []
  | x :: xs => match ranges xs with
    | (a, b) :: r => if (x + 1) % 4096 = a then (x, b) :: r else (x, x) :: (a, b) :: r
    | [] => [(x, x)]

/-- TAIL: every number before NEXT that has not come is named in a NAK (R381). -/
def tailIn (s : State) (p : Nat) (prio : Bool) (next : Nat) : State :=
  let c := classOf (portAt s p) prio
  let n := seqAfter next c.expected
  if 2048 ≤ n then s
  else
    let missing := ((List.range n).map fun i => (c.expected + i) % 4096).filter fun x => !c.held.any fun h => h.1 == x
    (ranges missing).foldl (fun s r => s.emit (.word p (.nak prio r.1 r.2))) s

def execTail (port : PortId) (prio : Bool) (next : Nat) (s : State) : Host.Outcome State Fault Refusal :=
  .next (ctlIn s port.val (· == 3) fun s => tailIn s port.val prio (next % 4096))

/-- A frame whose CRC-32C fails is counted and nothing else (R379, R404). -/
def execFrameCrcFailure (port : PortId) (s : State) : Host.Outcome State Fault Refusal :=
  .next (modPort s port.val fun q => { q with framesErr := satInc q.framesErr })

/-- A word whose CRC-8 fails or whose TYPE is reserved is discarded and counted (R369); any other word is no such word. -/
def execControlWordDiscard (port : PortWord) (s : State) : Host.Outcome State Fault Refusal :=
  .next (if ctlOk port.word then s else modPort s port.port.val fun q => { q with ctrlErr := satInc q.ctrlErr })

/-! ### Receive power (R375) -/

/-- The 1 ms measurement: each wavelength's warning, with an event for each that rises. -/
def powerSample (s : State) (p : Nat) (rx tx : Vector (BitVec 8) 8) : State :=
  let q := portAt s p
  if !linked q.state.toNat then s
  else
    let low : BitVec 8 := BitVec.ofNat 8 (bitsOf 8 fun i => (rx.toList.getD i 0x80).toInt < q.warnPwr.toInt)
    let s := modPort s p fun q => { q with rxPower := rx, txPower := tx, wlWarn := low }
    (List.range 8).foldl (fun s i =>
      if bit low i && !bit q.wlWarn i then postReg s 3 none (afvReg p 4) (8 + i) 0 else s) s

def execRxPowerSample (port : PortId) (rx tx : Vector (BitVec 8) 8) (s : State) : Host.Outcome State Fault Refusal :=
  .next (powerSample s port.val rx tx)

/-! ### AFV registers (R371, R396 to R401) -/

/-- A port of a non-W axis of length 1, which never runs (R22). -/
def axisDead (s : State) (p : Nat) : Bool := match table? s with
  | some t => !portExists t p
  | none => false

/-- The refusal of a write of AFV_CTL (Table 11-18). -/
def afvRefusal (s : State) (p : Nat) (v : W32) : BitVec 4 :=
  let q := portAt s p
  let w : BitVec 8 := v.extractLsb' 8 8
  if bit v 0 && !q.enable && axisDead s p then 1
  else if admittedPort s p && (!bit v 0 || bit v 19) then 2
  else if w.toInt < -120 || 0 < w.toInt then 3
  else 0

/-- The port's counters cleared (R399). -/
def clearCounts (q : Port) : Port :=
  { q with framesErr := 0, ctrlErr := 0, retx := 0, lost := 0, recov := 0, downs := 0, prbsErr := 0, edge := 0 }

/-- ENABLE goes to 1: IDENT, or TEST where MODE holds the port in it (R371, R398). -/
def enablePort (q : Port) : Port :=
  let q := { q with enable := true, stateValid := false }
  if q.mode == 2 then { q with state := 7 } else toIdent q

/-- A write of AFV_CTL: refused whole, or its fields and actions (R371, R399, R401). ENABLE is written by each, which clears
ATTEMPTS (R373). -/
def afvCtlWrite (s : State) (p : Nat) (v : W32) : State :=
  let e := afvRefusal s p v
  if e != 0 then modPort s p fun q => { q with err := e }
  else
    let s := modPort s p fun q =>
      let q := { q with warnPwr := v.extractLsb' 8 8, evtRetx := bit v 17, attempts := 0 }
      if bit v 18 then clearCounts q else q
    let q := portAt s p
    if !bit v 0 then
      if !q.enable then s
      else
        let s := if q.state != 0 then s.emit (.word p .park) else s
        modPort s p fun q => toOff { q with enable := false }
    else if !q.enable then (if stopped s then s else modPort s p enablePort)
    else if bit v 19 && (q.state == 3 || q.state == 4 || q.state == 5) then enterIdent s p id
    else s

def execAfvEnable (port : PortId) (via : Via) (v : W32) (s : State) : Host.Outcome State Fault Refusal :=
  .next (guarded s via (afvReg port.val 0) fun s => afvCtlWrite s port.val v)

def execRetrain (port : PortId) (via : Via) (v : W32) (s : State) : Host.Outcome State Fault Refusal :=
  .next (guarded s via (afvReg port.val 0) fun s => afvCtlWrite s port.val (v ||| 0x80000))

def execAfvCntClr (port : PortId) (via : Via) (v : W32) (s : State) : Host.Outcome State Fault Refusal :=
  .next (guarded s via (afvReg port.val 0) fun s => afvCtlWrite s port.val (v ||| 0x40000))

/-- A write of AFV_LOOP.MODE (R398, Table 11-18). -/
def afvLoopWrite (s : State) (p : Nat) (v : W32) : State :=
  let q := portAt s p
  let m : BitVec 2 := v.setWidth 2
  let refuse (e : BitVec 4) : State := modPort s p fun q => { q with err := e }
  if admittedPort s p then refuse 2
  else if bit v 0 || (m == 2 && q.inService) then refuse 4
  else if m == 2 then
    modPort s p fun q =>
      let q := { q with mode := 2 }
      if q.enable && q.state != 7 then { q with state := 7, step := 0, peer := none, prbsLock := false } else q
  else if q.state == 7 then enterIdent s p fun q => { q with mode := 0, prbsLock := false }
  else modPort s p fun q => { q with mode := 0 }

def execLoopModeWrite (port : PortId) (via : Via) (v : W32) (s : State) : Host.Outcome State Fault Refusal :=
  .next (guarded s via (afvReg port.val 0x18) fun s => afvLoopWrite s port.val v)

/-- A write of AFV_RXPWR: SEL. -/
def afvPwrWrite (s : State) (p : Nat) (v : W32) : State := modPort s p fun q => { q with sel := v.extractLsb' 16 3 }

def execHutCntClr (via : Via) (v : W32) (s : State) : Host.Outcome State Fault Refusal :=
  .next (guarded s via 0x40000 fun s => hutCtlWrite s (v ||| 0x80))

end Sys2Proof.Machine
end

