-- ==== Sys2Proof/Machine/Partition.lean ====
section
/-! DEFINITION. Machine/Partition.lean: the service tree (R444), the service latency (R445), the ports of a partition, and the
effects of forming, of an epoch change and of leaving that several commands share (R160, R393, R560, R563, R570, R575). -/

namespace Sys2Proof.Machine

/-! ### The service tree -/

/-- The axes of ORDER = 0xE4. -/
def treeOrder : List Nat := [0, 1, 2, 3]

/-- The service root, standby, parent and children over the active chips (R444, R567). -/
def buildTree (s : State) : State :=
  match table? s, s.glb.part with
  | some t, some v =>
    let ms := membersOf t v
    let root := ms.head?
    { s with own := { s.own with
        serviceRoot := root
        serviceStandby := ms.find? fun c => some (trayIndex t c) != root.map (trayIndex t)
        parent := treeParent false ms treeOrder (selfOf s)
        children := treeChildren false ms treeOrder (selfOf s) } }
  | _, _ => { s with own := { s.own with serviceRoot := none, serviceStandby := none, parent := none, children := [] } }

/-- This chip is the service root. -/
def isRoot (s : State) : Bool := s.own.serviceRoot == some (selfOf s)

/-- The chip is the only active chip of its partition (R475). -/
def alone (s : State) : Bool := s.own.parent.isNone && s.own.children.isEmpty

/-- SVC_LAT as the root computes it: 20 on a chip alone; otherwise it rests on delays measured on other chips, and is free
(R426, R445, R475). -/
def newSvcLat (s : State) : State :=
  if alone s then { s with own := { s.own with svcLat := 20 } }
  else { s.drawn 1 with own := { s.own with svcLat := BitVec.ofNat 16 (Config.freeNat s.draw) } }

/-- What the service root starts from when it takes the role: the state in force; a staged change is not carried over. -/
def takeRoot (s : State) : State :=
  { s with own := { s.own with root := {
      state := if s.own.state == 2 then 1 else s.own.state
      owner := s.own.owner, leaseX := s.own.leaseX.getD 0, force := s.own.force, claims := [], electEnd := 0
      stage := s.own.stage.state, seq := s.own.nextSeq, waiting := [] } } }

/-! ### Beats to come -/

/-- MS at which beat `n` starts: the period in force, and from a commit beat on the period staged for it (R53, R463). -/
def startOfBeat (s : State) (n : Nat) : Nat :=
  let b := s.beat.count.toNat
  let p := period s
  let at' (n p b m : Nat) : Nat := if b ≤ n then m + (n - b) * p else m - (b - n) * p
  match s.own.stage.commitAt, s.own.stage.staged.nextM1 with
  | some c, some m1 =>
    if b < c.toNat && c.toNat < n then at' n (m1.toNat + 1) c.toNat (at' c.toNat p b s.beat.startMs.toNat)
    else at' n p b s.beat.startMs.toNat
  | _, _ => at' n p b s.beat.startMs.toNat

/-- The first beat after the present one that starts at or after a microslot. -/
def beatAfter (s : State) (ms : Nat) : Nat :=
  let b := s.beat.count.toNat
  let n := b + max 1 ((ms - s.beat.startMs.toNat + period s - 1) / period s)
  match s.own.stage.commitAt, s.own.stage.staged.nextM1 with
  | some c, some m1 =>
    if b < c.toNat && c.toNat < n then
      c.toNat + (ms - startOfBeat s c.toNat + m1.toNat) / (m1.toNat + 1)
    else n
  | _, _ => n

/-- The effective beat of a decision taken now (R445). -/
def effectiveBeat (s : State) : W64 := BitVec.ofNat 64 (beatAfter s (s.beat.ms.toNat + s.own.svcLat.toNat))

/-! ### Ports of a partition -/

/-- The ports of the partition that passed the neighbour check; those of a ring of one chip close on themselves (R29, R41,
R560). -/
def partPorts (s : State) : BitVec 10 :=
  match table? s, s.glb.part with
  | some t, some v => BitVec.ofNat 10 (bitsOf 10 fun p =>
      if v.box.wext = 1 && p < 4 then (portAt s p).enable
      else (linkFar t v t.self p).isSome && bit s.inst.nbrOk p)
  | _, _ => 0

/-- Ports 0 to 3 enter or leave in-service loopback; one that changes parks its far end and trains afresh (R368). -/
def setLoopback (s : State) (on : Bool) : State :=
  (List.range 4).foldl (fun s p =>
    let q := portAt s p
    if q.inService == on then s
    else if q.state == 0 then modPort s p fun q => { q with inService := on }
    else
      let s := if on then s.emit (.word p .park) else s
      enterIdent s p fun q => { q with inService := on, stateValid := false }) s

/-! ### Staged changes, epochs and leaving -/

/-- A staged change is discarded on this chip (R460). -/
def discardChange (g : Stage) : Stage :=
  { g with state := 0, staged := .none, commitAt := none, checking := false, localCause := 0, vote := none, votes := 0 }

/-- A staged change is aborted, with its mark; none open: nothing (R451, R460, R570). -/
def abortChange (s : State) : State :=
  if s.own.stage.state == 0 then s
  else { s with own := { s.own with
      stage := { discardChange s.own.stage with aborted := true }, root := { s.own.root with stage := 0 } } }

/-- A staged change short of COMMITTING is aborted (R451, R474). -/
def abortUncommitted (s : State) : State := if s.own.stage.state == 4 then s else abortChange s

/-- The chip-wide effects of a change of PART_EPOCH to a new value (R113, R160, R233, R317, R393, R430). -/
def changeEpoch (s : State) (e : W32) : State :=
  epochPorts (ringEpoch (epochCores { s with own := { s.own with epoch := e } }))

/-- The partition settings that chip reset gives (R563); frames become FREE without a fill. -/
def clearSettings (s : State) : State :=
  { s with
    frames := Vector.replicate 384 0
    own := { s.own with ctxs := Vector.replicate 16 ⟨false, 0⟩ }
    hut := { s.hut with loaded := false, addr := 0, groups := [], crc := 0, copying := none }
    arm := { s.arm with slots := Vector.replicate 32 ⟨none, 0⟩, zeroDue := [] }
    hst := { s.hst with intakes := s.hst.intakes.map fun i => { i with enable := false } } }

/-- The chip leaves its partition and enters a state of Table 16-1 (R563, R570). -/
def leavePartition (s : State) (st : BitVec 4) : State :=
  let s := abortChange s
  let s := changeEpoch { s with own := { s.own with valid := false, partId := 0 } } 0
  let s := clearSettings s
  let s := setLoopback s ((table? s).any fun t => t.lw == 1)
  { s with
    own := { s.own with
      state := 0, owner := 0, leaseX := none, svcLat := 0, force := none, root := .reset, parent := none, children := []
      serviceRoot := none, serviceStandby := none, orders := [], nextSeq := 0, awaiting := []
      stage := { s.own.stage with change := 0 } }
    beat := { s.beat with admitted := 0, count := 0 }
    glb := { s.glb with
      state := st, wait := 0, instant := none, confirmed := false, formUp := none, formUps := 0, part := none
      darkSent := 0, reports := [], fences := [], fenced := [] } }

/-! ### READY and FORMING (R559) -/

/-- A partition port delivers headers with FLAGS.PART = 1: the partition is already formed. -/
def liveAround (s : State) : Bool :=
  match table? s with
  | none => false
  | some t => (partOf t t.self).any fun b =>
      let v : PartView := ⟨b, planesNow s t b, []⟩
      (List.range 10).any fun p =>
        let q := beatPort s p
        (linkFar t v t.self p).isSome && q.heard && q.part && decide (q.missing < 4)

/-- JOIN moves a READY chip to FORMING unless its partition is live, and a FORMING chip that has not formed back to READY. -/
def joinChanged (s : State) : State :=
  let g := s.glb
  if g.state == 5 then
    if !g.join then { s with glb := { g with wait := 7 } }
    else if liveAround s then { s with glb := { g with wait := 8 } }
    else { s with glb := { g with state := 6, wait := 0 } }
  else if g.state == 6 && g.instant.isNone && !g.join then { s with glb := { g with state := 5, wait := 7 } }
  else s

end Sys2Proof.Machine
end

