-- ==== Sys2Proof/Machine/Own.lean ====
section
/-! DEFINITION. Machine/Own.lean: agents and their commands, the service root's decisions, ORDERs and their effects, elections
and leases, forced claims, the claim button and the seal plug (R442 to R455, R467 to R475). -/

namespace Sys2Proof.Machine

/-! ### The stage image and the local check begin in Stage.lean; here a CHECK only marks that it has begun. -/

/-- A decision's lease: 5 s from the start of its effective beat (R448, R450, R452). -/
def leaseFrom (s : State) (e : W64) : W64 := BitVec.ofNat 64 (startOfBeat s e.toNat + 5000000)

/-- A state with an owner (Table 13-4). -/
def hasOwner (st : BitVec 4) : Bool := st == 3 || st == 4

/-- The state of an owned partition: FORCING while a force is pending (Table 13-4). -/
def ownedState (force : Option (Agent × W64)) : BitVec 4 := if force.isSome then 4 else 3

/-! ### Refusals and answers at the entry chip -/

/-- The refusal of a command of a KIND: OWN_STATE.ERR of its path, or STAGE_CTL.ERR (Table 13-3). -/
def refuseCommand (s : State) (p : PathKind) (kind : Nat) (e : BitVec 4) : State :=
  if 7 ≤ kind && kind ≤ 10 then { s with own := { s.own with stage := { s.own.stage with err := e } } }
  else setOwnErrOf s p e

/-- An ORDER of a KIND answers a REQ of a KIND: ELECTING and ELECT answer claims, RENEW a claim by the owner (R448). -/
def answers (order req : Nat) : Bool := order == req || (req == 1 && (order == 2 || order == 11 || order == 12))

/-- The first command that an ORDER answers. -/
def awaited (s : State) (f : OrderFrame) : Option Awaiting :=
  s.own.awaiting.find? fun a => answers f.kind a.kind && (a.agent == f.agent || 11 ≤ f.kind || f.kind == 4)

/-- A list without its first element that satisfies a test. -/
def dropFirst {α : Type} (p : α → Bool) : List α → List α
  | [] => []
  | a :: as => if p a then as else a :: dropFirst p as

/-- The commands answered by an ORDER no longer wait: every claim at the end of an election, else the first (R446). -/
def settle (s : State) (f : OrderFrame) : State :=
  let l := s.own.awaiting
  let l :=
    if 11 ≤ f.kind then l.filter fun a => a.kind != 1
    else if f.entry = selfOf s then dropFirst (fun a => answers f.kind a.kind && (a.agent == f.agent || f.kind == 4)) l
    else l
  { s with own := { s.own with awaiting := l } }

/-- An ORDER that refuses its command: it carries no effective beat and goes to the entry chip alone (R444). -/
def isRefusal (f : OrderFrame) : Bool := f.result != 0 && f.effective == 0

/-- A refusal arrives at its entry chip. -/
def refusalIn (s : State) (f : OrderFrame) : State :=
  match awaited s f with
  | some a =>
    refuseCommand (settle s f) a.path a.kind (BitVec.ofNat 4 f.result)
  | none => s

/-! ### The service root (R444 to R452) -/

/-- The root's view changed. -/
def modRoot (s : State) (f : RootView → RootView) : State := { s with own := { s.own with root := f s.own.root } }

/-- A decision: numbered, queued on this chip and sent down the tree (R444, R446). -/
def issueOrder (s : State) (f : OrderFrame) : State :=
  let f := { f with seq := s.own.root.seq }
  let s := modRoot s fun r => { r with seq := r.seq + 1 }
  let s := { s with own := { s.own with orders := s.own.orders ++ [f], nextSeq := f.seq + 1 } }
  sendAll s s.own.children (.order f)

/-- A refusal, to the entry chip only. -/
def refuseReq (s : State) (f : ReqFrame) (code : Nat) : State :=
  let o : OrderFrame := ⟨f.kind, code, 0, f.agent, 0, 0, f.entry⟩
  if f.entry = selfOf s then refusalIn s o else sendPrio s f.entry (.order o)

/-- An accepted decision with its effective beat (R445). -/
def accept (s : State) (f : ReqFrame) (kind : Nat) (agent : Agent) (arg : W64) : State :=
  issueOrder s ⟨kind, 0, 0, agent, arg, effectiveBeat s, f.entry⟩

/-- Ownership passes at the root: the lease starts afresh and a change short of COMMITTING is aborted (R451). -/
def passOwner (s : State) (st : BitVec 4) (a : Agent) (e : W64) : State :=
  modRoot s fun r => { r with
    state := st, owner := a, leaseX := leaseFrom s e, claims := [], stage := if r.stage == 4 then 4 else 0 }

/-- RENEW, or CLAIM by the owner (R448, R449). -/
def decideRenew (s : State) (f : ReqFrame) : State :=
  let e := effectiveBeat s
  if s.own.root.leaseX.toNat < startOfBeat s e.toNat then refuseReq s f 4
  else accept (modRoot s fun r => { r with leaseX := leaseFrom s e }) f 2 f.agent 0

/-- CLAIM (R448). -/
def decideClaim (s : State) (f : ReqFrame) : State :=
  let r := s.own.root
  let entry : Agent × Nat := (f.agent, f.pref)
  match r.state.toNat with
  | 1 =>
    accept (modRoot s fun r => { r with state := 2, claims := [entry], electEnd := s.beat.ms + 1000 }) f 12 f.agent 0
  | 2 =>
    if s.beat.ms.toNat ≤ r.electEnd.toNat then
      modRoot s fun r => { r with claims := (r.claims.filter fun c => c.1 != f.agent) ++ [entry] }
    else refuseReq s f 3
  | _ => if hasOwner r.state && r.owner == f.agent then decideRenew s f else refuseReq s f 3

/-- The root decides a command (R448 to R452, R459, R463, R470). -/
def decide' (s : State) (f : ReqFrame) : State :=
  let r := s.own.root
  let e := effectiveBeat s
  let mine := hasOwner r.state && r.owner == f.agent
  let stage (ok : Bool) (next : BitVec 4) : State :=
    if ok && mine then accept (modRoot s fun r => { r with stage := next }) f f.kind f.agent f.arg else refuseReq s f 1
  match f.kind with
  | 1 => decideClaim s f
  | 2 => if mine then decideRenew s f else refuseReq s f 5
  | 3 =>
    if !mine then refuseReq s f 5
    else accept (modRoot s fun r => { r with state := 1, owner := 0, stage := if r.stage == 4 then 4 else 0 }) f 3 f.agent 0
  | 4 =>
    let a : Agent := f.arg.setWidth 24
    if !mine then refuseReq s f 5
    else if a == 0 || a == r.owner || a == 0xFFFFFF then refuseReq s f 9
    else accept (passOwner s r.state a e) f 4 a 0
  | 5 =>
    if !hasOwner r.state then refuseReq s f 7
    else if r.force.isSome then refuseReq s f 6
    else accept (modRoot s fun r => { r with state := 4, force := some (f.agent, s.beat.ms) }) f 5 f.agent s.beat.ms
  | 6 => match r.force with
    | some (a, mf) =>
      if f.ms.toNat ≤ mf.toNat + 30000000 then accept (modRoot (passOwner s 3 a e) fun r => { r with force := none }) f 6 a 0
      else s
    | none => s
  | 7 => stage (r.stage == 0) 1
  | 8 => stage (r.stage == 1) 2
  | 9 =>
    let st := startOfBeat s f.arg.toNat
    if r.stage != 3 then refuseReq s f 1
    else if st < s.beat.ms.toNat + s.own.svcLat.toNat then refuseReq s f 2
    else if s.beat.ms.toNat + 1000000 < st then refuseReq s f 3
    else stage true 4
  | 10 => stage (r.stage == 1 || r.stage == 2 || r.stage == 3) 0
  | _ => s

/-- A REQ at a chip of the tree: up to the parent; at the root decided once formation is confirmed (R444, R561). -/
def reqIn (s : State) (f : ReqFrame) : State :=
  if !formed s then s
  else if isRoot s then
    if s.glb.confirmed then decide' s f else modRoot s fun r => { r with waiting := r.waiting ++ [f] }
  else match s.own.parent with
    | some p => sendPrio s p (.req f)
    | none => s

/-- The root's REQs that waited for the confirmation of formation (R561). -/
def releaseWaiting (s : State) : State :=
  let w := s.own.root.waiting
  w.foldl (fun s f => decide' s f) (modRoot s fun r => { r with waiting := [] })

def execReq (f : ReqFrame) (s : State) : Host.Outcome State Fault Refusal := .next (reqIn s f)

/-! ### Commands of OWN_CLAIM (R442, R448 to R452) -/

/-- A command of this chip set on its way to the root. -/
def submit (s : State) (p : PathKind) (kind pref : Nat) (a : Agent) (arg : W64) : State :=
  reqIn { s with own := { s.own with awaiting := s.own.awaiting ++ [⟨p, kind, a⟩] } }
    ⟨kind, pref, 0, a, arg, s.beat.ms, selfOf s⟩

/-- BIND and unbind (R442, R472); a KBT message names its own agent. The manual states no result for an identity outside 1 to 0xFF_FFFE:
the model binds it (assumption log 83, DESIGN CHOICE). -/
def bindPath (s : State) (v : Via) (a : Agent) : State :=
  let b := if a == 0 then none else some a
  match v with
  | .pf => { s with own := { s.own with boundPf := b } }
  | .i3c => { s with own := { s.own with boundI3c := b } }
  | .kbt _ _ => s

/-- A write of OWN_CLAIM, which R443 never refuses (Tables 13-2, 13-15, 13-22). -/
def ownClaimWrite (s : State) (v : Via) (w : W32) : State :=
  let cmd := bits w 28 4
  let a : Agent := w.setWidth 24
  if cmd = 0 then s
  else if cmd = 1 then bindPath s v a
  else if 6 < cmd then setOwnErr s v 11
  else if !formed s then setOwnErr s v 8
  else match agentOf s v with
    | none => setOwnErr s v 2
    | some g => submit s (pathOf v) (cmd - 1) (bits w 24 4) g (if cmd = 5 then a.setWidth 64 else 0)

/-- OWN_CLAIM written with a CMD code. -/
def withCmd (w : W32) (cmd : W32) : W32 := (w &&& 0x0FFFFFFF) ||| (cmd <<< 28)

def execBind (via : Via) (v : W32) (s : State) : Host.Outcome State Fault Refusal := .next (ownClaimWrite s via (withCmd v 1))
def execClaim (via : Via) (v : W32) (s : State) : Host.Outcome State Fault Refusal := .next (ownClaimWrite s via (withCmd v 2))
def execRenew (via : Via) (v : W32) (s : State) : Host.Outcome State Fault Refusal := .next (ownClaimWrite s via (withCmd v 3))
def execRelease (via : Via) (v : W32) (s : State) : Host.Outcome State Fault Refusal := .next (ownClaimWrite s via (withCmd v 4))
def execHandover (via : Via) (v : W32) (s : State) : Host.Outcome State Fault Refusal :=
  .next (ownClaimWrite s via (withCmd v 5))
def execForce (via : Via) (v : W32) (s : State) : Host.Outcome State Fault Refusal := .next (ownClaimWrite s via (withCmd v 6))

/-- NOROOT: a command has had no ORDER for 10 ms (R446); the REQ stays queued. -/
def execNorootTimeout (path : PathKind) (s : State) : Host.Outcome State Fault Refusal :=
  .next (if s.own.awaiting.any fun a => a.path == path then setOwnErrOf s path 10 else s)

/-! ### ORDERs (R445, R446) -/

/-- An ORDER arrives: a refusal ends here; any other is forwarded down the tree and queued in sequence order. -/
def orderIn (s : State) (f : OrderFrame) : State :=
  if !formed s then s
  else if isRefusal f then (if f.entry = selfOf s then refusalIn s f else s)
  else if 2 ^ 15 ≤ (f.seq - s.own.nextSeq).toNat then s
  else
    let s := sendAll s s.own.children (.order f)
    let before := s.own.orders.takeWhile fun o => (o.seq - f.seq).toNat ≥ 2 ^ 15
    let queue := before ++ f :: s.own.orders.drop before.length
    let next := queue.foldl (fun n o => if o.seq == n then n + 1 else n) s.own.nextSeq
    { s with own := { s.own with orders := queue, nextSeq := next } }

def execOrder (f : OrderFrame) (s : State) : Host.Outcome State Fault Refusal := .next (orderIn s f)

/-- A new owner on this chip (R448, R450, R452). -/
def newOwner (s : State) (st : BitVec 4) (f : OrderFrame) : State :=
  let s := abortUncommitted s
  { s with own := { s.own with state := st, owner := f.agent, leaseX := some (leaseFrom s f.effective) } }

/-- The partition has no owner (R449, R450). -/
def noOwner (s : State) : State :=
  let s := abortUncommitted s
  { s with own := { s.own with state := 1, owner := 0, leaseX := none } }

/-- The staged-change unit changed. -/
def modStage (s : State) (f : Stage → Stage) : State := { s with own := { s.own with stage := f s.own.stage } }

/-- The result of a CHECK on this chip (R462). -/
def checkResult (g : Stage) (cause : Nat) : Stage :=
  let h := { g with checking := false, vote := none, votes := 0 }
  if cause = 0 then { h with state := 3, cause := 0 }
  else if g.localCause != 0 then { h with state := 1, cause := g.localCause }
  else { h with state := 1, cause := BitVec.ofNat 4 cause, remoteFail := true }

/-- The decision of an ORDER takes effect (R445 to R452, R459 to R463); `begin'` starts the local check of a CHECK. -/
def applyOrder (begin' : State → State) (s : State) (f : OrderFrame) : State :=
  match f.kind with
  | 2 => if hasOwner s.own.state then { s with own := { s.own with leaseX := some (leaseFrom s f.effective) } } else s
  | 3 => noOwner s
  | 4 => newOwner s (if s.own.state == 4 then 4 else 3) f
  | 5 => { s with own := { s.own with force := some (f.agent, f.arg), state := if s.own.state == 3 then 4 else s.own.state } }
  | 6 => newOwner { s with own := { s.own with force := none } } 3 f
  | 7 => modStage s fun g => { discardChange g with state := 1 }
  | 8 =>
    if s.own.stage.state == 1 then begin' (modStage s fun g => { g with state := 2, checking := true, localCause := 0 })
    else if s.own.stage.state == 2 then modStage s fun g => checkResult g f.result
    else s
  | 9 => if s.own.stage.state == 3 then modStage s fun g => { g with state := 4, commitAt := some f.arg } else s
  | 10 => if s.own.stage.state == 4 then s else modStage s fun g => { discardChange g with aborted := true }
  | 11 => newOwner s 3 f
  | 12 => { s with own := { s.own with state := 2 } }
  | _ => s

/-- An ORDER applied after the start of its effective beat is marked late, with an event (R446). -/
def noteLate (s : State) (f : OrderFrame) : State :=
  if f.effective.toNat < s.beat.count.toNat then
    postReg (modStage s fun g => { g with late := true }) 6 none 0x20024 22 0
  else s

/-- The ORDERs at the head of the queue that are due and in sequence take effect; `k` bounds them. -/
def applyDue (begin' : State → State) : Nat → State → State
  | 0, s => s
  | k + 1, s => match s.own.orders with
    | f :: rest =>
      if f.effective.toNat ≤ s.beat.count.toNat && (s.own.nextSeq - f.seq).toNat < 2 ^ 15 && f.seq != s.own.nextSeq then
        applyDue begin' k (settle (applyOrder begin' (noteLate { s with own := { s.own with orders := rest } } f) f) f)
      else s
    | [] => s

/-! ### Elections, leases and forces -/

/-- The claimant that wins: the highest PREF, then the lowest identity (R448, R467). -/
def bestClaim : List (Agent × Nat) → Option (Agent × Nat)
  | [] => none
  | c :: cs => match bestClaim cs with
    | none => some c
    | some d => some (if d.2 < c.2 || (d.2 == c.2 && c.1.toNat < d.1.toNat) then c else d)

/-- The election window has closed: ELECT (R448). -/
def electionClose (s : State) : State :=
  if !isRoot s || s.own.root.state != 2 || s.beat.ms.toNat < s.own.root.electEnd.toNat then s
  else match bestClaim s.own.root.claims with
    | some (a, _) =>
      let e := effectiveBeat s
      issueOrder (passOwner s 3 a e) ⟨11, 0, 0, a, 0, e, selfOf s⟩
    | none => s

def execElectionClose (s : State) : Host.Outcome State Fault Refusal := .next (electionClose s)

/-- The lease has expired at a beat start: OPEN, on this chip and in the root's view (R449, R473). -/
def leaseExpiry (s : State) : State :=
  let due : Bool := match s.own.leaseX with
    | some x => x.toNat ≤ s.beat.startMs.toNat
    | none => false
  if !(formed s && hasOwner s.own.state && due) then s
  else
    let s := noOwner s
    if hasOwner s.own.root.state && s.own.root.leaseX.toNat ≤ s.beat.startMs.toNat then
      modRoot s fun r => { r with state := 1, owner := 0, stage := if r.stage == 4 then 4 else 0 }
    else s

def execLeaseExpiry (s : State) : Host.Outcome State Fault Refusal := .next (leaseExpiry s)

/-- A force has seen no press within 30 s (R452). -/
def forceLapse (s : State) : State :=
  let lapsed (f : Option (Agent × W64)) : Bool := match f with
    | some (_, mf) => mf.toNat + 30000000 ≤ s.beat.ms.toNat
    | none => false
  let s := if lapsed s.own.force then
    { s with own := { s.own with force := none, state := if s.own.state == 4 then 3 else s.own.state } } else s
  if lapsed s.own.root.force then
    modRoot s fun r => { r with force := none, state := if r.state == 4 then 3 else r.state } else s

def execForceLapse (s : State) : Host.Outcome State Fault Refusal := .next (forceLapse s)

/-! ### The claim button and the seal plug (R453, R454) -/

/-- The seal changed. -/
def modSeal (s : State) (f : Seal → Seal) : State := { s with own := { s.own with sealing := f s.own.sealing } }

def execClaimNAssert (s : State) : Host.Outcome State Fault Refusal :=
  .next (if s.own.sealing.button then s else modSeal s fun q => { q with button := true, counted := false })

def execClaimNRelease (s : State) : Host.Outcome State Fault Refusal :=
  .next (modSeal s fun q => { q with button := false, counted := false })

/-- The chip's tray slot is 0. -/
def slotZero (s : State) : Bool := match table? s with
  | some t => t.slot == 0
  | none => false

/-- CLAIM_N held for 50 ms: counted once for each hold; slot 0 of a formed partition's tray sends PRESS (R453). -/
def press (s : State) : State :=
  if !s.own.sealing.button || s.own.sealing.counted then s
  else
    let s := modSeal s fun q => { q with counted := true, presses := satInc q.presses }
    if formed s && slotZero s then reqIn s ⟨6, 0, 0, 0, 0, s.beat.ms, selfOf s⟩ else s

def execPress (s : State) : Host.Outcome State Fault Refusal := .next (press s)

def execSealPlugRemove (s : State) : Host.Outcome State Fault Refusal :=
  .next (modSeal s fun q => if q.plug then { q with plug := false, removing := true } else q)

/-- The plug has been seen removed for 50 ms: the window opens for 600 s (R454). -/
def execSealWindowOpen (s : State) : Host.Outcome State Fault Refusal :=
  .next (modSeal s fun q =>
    if q.removing then
      { q with
        windowOpen := true, removing := false, absent := false, closeAt := s.clock + 1080000000000
        openings := satInc q.openings }
    else q)

def execSealWindowClose (s : State) : Host.Outcome State Fault Refusal :=
  .next (modSeal s fun q => { q with windowOpen := false })

/-- The plug is seen present: the window closes (R454). -/
def execSealPlugInsert (s : State) : Host.Outcome State Fault Refusal :=
  .next (modSeal s fun q =>
    { q with plug := true, removing := false, windowOpen := false })

end Sys2Proof.Machine
end

