-- ==== Sys2Proof/Machine/Stage.lean ====
section
/-! DEFINITION. Machine/Stage.lean: staged changes: staged writes, the stage and group table images, local checks and the vote,
COMMIT and its application (R410, R411, R438 to R441, R456 to R464, R574 to R576, R609). -/

namespace Sys2Proof.Machine

/-! ### What a change would put in force -/

/-- The frame table entries after the change. -/
def framesAfter (s : State) (i : Option StageImage) : List W16 := (i.bind (·.frames)).getD s.frames.toList

/-- The contexts after the change. -/
def ctxsAfter (s : State) (i : Option StageImage) : List CtxEntry := (i.bind (·.contexts)).getD s.own.ctxs.toList

/-- The epoch after the change: BUMP or a REFORM adds exactly 1 (R438, R575). -/
def epochAfter (s : State) (g : Staged) : W32 :=
  if g.bump.getD s.own.stage.bump || g.reform == some 1 then s.own.epoch + 1 else s.own.epoch

/-- The membership after the change: a REFORM drops every plane retired or left (R575). -/
def viewAfter (s : State) (t : Table) (v : PartView) (g : Staged) : PartView :=
  if g.reform == some 1 then ⟨v.box, planesNow s t v.box, []⟩ else v

/-- The kind of a frame under a table of entries. -/
def kindUnder (s : State) (fs : List W16) (f : Nat) : FrameKind :=
  if s.wrg.enable && ringFrame f then .ring else entryKind (fs.getD f 0)

/-! ### The stage image (Tables 13-1, 13-6, 13-9) -/

/-- STAGE_CTL.IMG_MB as the change has it. -/
def imageMb (s : State) : Nat := (s.own.stage.staged.imgMb.getD s.own.stage.imgMb).toNat

/-- The bytes of an image part are all 0. -/
def cupZeros (s : State) (a n : Nat) : Bool := (readBytes s.mem a n).all (· == 0)

/-- A context table entry of the image. -/
def readCtx (s : State) (a : Nat) : CtxEntry :=
  ⟨bit (readByte s.mem a) 0, BitVec.ofNat 112 (readLe s.mem (a + 2) 14)⟩

/-- A key record of the image with its key unwrapped (R456); none: refused. -/
def readKey (s : State) (a : Nat) : Option KeyRec :=
  let slot := (readByte s.mem a).toNat
  if 31 < slot then none
  else (Config.unwrapKey (readBytes s.mem (a + 8) 64) s.glb.fuses.serial slot (readBytes s.mem (a + 72) 40)).map fun k =>
    ⟨slot, BitVec.ofNat 16 (readLe s.mem (a + 2) 2), k⟩

/-- The stage image at an address breaks Table 13-9, lies outside FREE or SYS frames, or holds an uncorrectable word. -/
def imageBad (s : State) (a : Nat) : Bool :=
  let parts := readLe s.mem (a + 6) 2
  let kc := (readByte s.mem (a + 8)).toNat
  let n := 0x440 + 112 * kc
  !(decide (readLe s.mem a 4 = 0x47545353 ∧ readLe s.mem (a + 4) 2 = 1 ∧ parts < 8 ∧ kc ≤ 32 ∧ (kc = 0 ∨ 4 ≤ parts)) &&
    cupZeros s (a + 9) 3 && cupZeros s (a + 16) 48 && inFrames s a n managementKind && (ueIn s a n).isNone &&
    readLe s.mem (a + 12) 4 == (crc32c (readBytes s.mem (a + 0x40) (n - 0x40))).toNat &&
    (parts / 2 % 2 == 0 || (List.range 16).all fun t =>
      decide ((readByte s.mem (a + 0x340 + 16 * t)).toNat < 2) && cupZeros s (a + 0x341 + 16 * t) 1) &&
    (List.range kc).all fun i => cupZeros s (a + 0x441 + 112 * i) 1 && cupZeros s (a + 0x444 + 112 * i) 4)

/-- The parts of the image that the change carries. -/
def readImage (s : State) (a : Nat) : StageImage :=
  let parts := readLe s.mem (a + 6) 2
  { frames := if parts % 2 = 1 then some ((List.range 384).map fun i => BitVec.ofNat 16 (readLe s.mem (a + 0x40 + 2 * i) 2)) else none
    contexts := if parts / 2 % 2 = 1 then some ((List.range 16).map fun t => readCtx s (a + 0x340 + 16 * t)) else none
    keys := if 4 ≤ parts then (List.range (readByte s.mem (a + 8)).toNat).filterMap fun i => readKey s (a + 0x440 + 112 * i) else [] }

/-! ### The group table image (Tables 12-1, 12-2; R410, R411) -/

/-- The address of the image of a group table. -/
def groupAddr (a : BitVec 17) : Nat := 4096 * a.toNat

/-- A valid entry of the image, with its member list. -/
def readGroup (s : State) (a i : Nat) : GroupEntry :=
  let e := a + 0x40 + 32 * i
  let o := readByte s.mem (e + 13)
  { id := i
    single := bit (readByte s.mem e) 1
    epoch := BitVec.ofNat 16 (readLe s.mem (e + 2) 2)
    ctx := (readByte s.mem (e + 12)).toNat
    members := (List.range (readLe s.mem (e + 4) 4)).map fun k =>
      unpackCoord (readLe s.mem (a + 0x8040 + readLe s.mem (e + 8) 4 + 2 * k) 2)
    order := [bits o 0 2, bits o 2 2, bits o 4 2, bits o 6 2]
    depth := (readByte s.mem (e + 14)).toNat
    stage := readLe s.mem (e + 16) 4 }

/-- An entry of the image is VALID. -/
def groupValid (s : State) (a i : Nat) : Bool := bit (readByte s.mem (a + 0x40 + 32 * i)) 0

/-- A list holds no element twice. -/
def noTwice : List Coord → Bool
  | [] => true
  | c :: cs => !cs.contains c && noTwice cs

/-- A VALID entry keeps Table 12-2, and lists active chips of the partition only (R410). -/
def groupEntryOk (s : State) (t : Table) (v : PartView) (a i listLen : Nat) : Bool :=
  let e := a + 0x40 + 32 * i
  let n := readLe s.mem (e + 4) 4
  let off := readLe s.mem (e + 8) 4
  let stage := readLe s.mem (e + 16) 4
  decide ((readByte s.mem e).toNat < 4 ∧ readLe s.mem (e + 1) 1 = 0 ∧ 1 ≤ n ∧ n ≤ 32768 ∧ off % 2 = 0 ∧
    off + 2 * n ≤ listLen ∧ stage < 2 ^ 29 ∧ stage % 65536 = 0) && cupZeros s (e + 15) 1 && cupZeros s (e + 20) 12 &&
  (let g := readGroup s a i
   decide (g.ctx < 16 ∧ 4 ≤ g.depth ∧ g.depth ≤ 16 ∧ g.depth % 2 = 0) &&
   [0, 1, 2, 3].all (fun x => g.order.contains x) && noTwice g.members &&
   ((List.range n).all fun k => decide (readLe s.mem (a + 0x8040 + off + 2 * k) 2 < 32768)) &&
   g.members.all (fun c => isMember t v c) && (g.members.contains t.self || stage == 0))

/-- A group's staging area lies wholly in CTX frames of its tag with RWE = 1 (R410). -/
def stagingOk (s : State) (fs : List W16) (g : GroupEntry) : Bool :=
  decide (g.stage + 65536 * g.depth ≤ chipBytes) &&
    (framesOf g.stage (65536 * g.depth)).all fun f => kindUnder s fs f == .ctx g.ctx true

/-- The groups of an image. -/
def readGroups (s : State) (a : Nat) : List GroupEntry :=
  ((List.range 1024).filter fun i => groupValid s a i).map fun i => readGroup s a i

/-- CRC-32C of the image from its first entry on, every STAGE field taken as 0 (R411). -/
def groupCrc (s : State) (a : Nat) : W32 :=
  let entry (i : Nat) : List Byte := splice (readBytes s.mem (a + 0x40 + 32 * i) 32) 16 [0, 0, 0, 0]
  crc32c ((List.range 1024).flatMap entry ++ readBytes s.mem (a + 0x8040) (readLe s.mem (a + 8) 4))

/-- A staged group table is refused (R410). -/
def groupsBad (s : State) (t : Table) (v : PartView) (fs : List W16) (g : Staged) (addr : BitVec 17) : Bool :=
  let a := groupAddr addr
  let len := readLe s.mem (a + 8) 4
  let n := 0x8040 + len
  !(decide (readLe s.mem a 4 = 0x54505247 ∧ readLe s.mem (a + 4) 2 = 1 ∧ readLe s.mem (a + 6) 2 = 0 ∧ len ≤ 262144) &&
    cupZeros s (a + 16) 48 && inSys s a n && (ueIn s a n).isNone &&
    readLe s.mem (a + 12) 4 == (crc32c (readBytes s.mem (a + 0x40) (n - 0x40))).toNat &&
    ((List.range 1024).all fun i => !groupValid s a i || groupEntryOk s t v a i len) &&
    (let new := readGroups s a
     (new.all fun e => !e.members.contains t.self || stagingOk s fs e) &&
     (epochAfter s g != s.own.epoch ||
       s.hut.groups.all fun e => e.epoch != s.own.epoch.setWidth 16 || new.contains e)))

/-- The groups valid after the change. -/
def groupsAfter (s : State) (g : Staged) : List GroupEntry :=
  let l := match g.grpAddr with
    | some a => readGroups s (groupAddr a)
    | none => s.hut.copying.getD s.hut.groups
  l.filter fun e => e.epoch == (epochAfter s g).setWidth 16

/-! ### The local checks (R462, Table 13-11) -/

/-- A core runs a context's tag and is not HALTED. -/
def runsTag (s : State) (t : Nat) : Bool := s.cores.toList.any fun c => c.state != 0 && c.ctx.toNat == t

/-- An entry keeps Table 9-5 (R321). -/
def frameEntryOk (e : W16) : Bool :=
  bits e 4 9 == 0 && (match bits e 14 2 with
    | 1 => true
    | 3 => false
    | _ => bits e 0 14 == 0)

/-- FRAMES: R321, R324, or the staging rule for a group in force. -/
def framesBad (s : State) (t : Table) (g : Staged) (fs : List W16) : Bool :=
  !(fs.all frameEntryOk) ||
  ((s.frames.toList.zip fs).any fun p => match entryKind p.1 with
    | .ctx tag _ => (bits p.1 14 2 != bits p.2 14 2 || bits p.1 0 4 != bits p.2 0 4) && runsTag s tag
    | _ => false) ||
  (g.grpAddr.isNone && (groupsAfter s g).any fun e => e.members.contains t.self && !stagingOk s fs e)

/-- The context quota of a partition (R439). -/
def quota (t : Table) (v : PartView) : Nat :=
  if isKd1 t then 16 else min 16 (2 * (v.box.wext * v.box.xtext * v.box.ytext * v.box.zext))

/-- CONTEXT: the quota, or a destruction that R441 refuses. -/
def contextsBad (s : State) (t : Table) (v : PartView) (g : Staged) (fs : List W16) (cs : List CtxEntry) : Bool :=
  decide (quota t v < (cs.filter CtxEntry.isPresent).length) ||
  (List.range 16).any fun c =>
    (s.own.ctxs.toList.getD c ⟨false, 0⟩).isPresent && !(cs.getD c ⟨false, 0⟩).isPresent &&
      (runsTag s c || fs.any (fun e => match entryKind e with
        | .ctx tag _ => tag == c
        | _ => false) || (groupsAfter s g).any fun e => e.ctx == c)

/-- KEY: a record that does not unwrap, or binds a context that will not exist (R456). -/
def keysBad (s : State) (a : Nat) (cs : List CtxEntry) : Bool :=
  (List.range (readByte s.mem (a + 8)).toNat).any fun i => match readKey s (a + 0x440 + 112 * i) with
    | none => true
    | some k => (List.range 16).any fun c => bit k.bind c && !(cs.getD c ⟨false, 0⟩).isPresent

/-- A NEXT image of an in-place replacement keeps R89, R95, VERSION and SHELF_ID (R115). -/
def nextOk (s : State) (d : RingDir) (ver : W16) (p : Nat) : Bool :=
  (List.range d.groups).all fun g => [false, true].all fun west =>
    !streamOn s west ||
      (let a := imageAddr d g west true
       let h := imageHdr s a
       imageOk s a && hcrcOk h && lengthOk h p (headerWindow s) && hdrVersion h == ver.toNat &&
         hdr h 8 4 == hdr (imageHdr s (imageAddr d g west false)) 8 4)

/-- WRG: RESTART or the NEXT images refused (R115, R121). R115 lists the NEXT headers' faults; that the ring must run, and that a
header with a wrong HCRC fails too, is the model's (DESIGN CHOICE, assumption log 26). -/
def ringBad (s : State) (g : Staged) (p : Nat) : Bool :=
  (match g.restart with
    | some zero => s.wrg.state != 5 || (!zero && homeBad s)
    | none => false) ||
  (match g.version with
    | some ver => s.wrg.state != 3 || !nextOk s (readDir s) ver p
    | none => false)

/-- PERIOD: below the minimum, or an image of the ring's directory too long for it (R51, R95). -/
def periodBad (s : State) (g : Staged) (m1 : Byte) : Bool :=
  let d := readDir s
  decide (m1.toNat < minM1 s) ||
  (1 ≤ s.wrg.state.toNat && s.wrg.state.toNat ≤ 5 && (List.range d.groups).any fun i => [false, true].any fun west =>
    streamOn s west && [false, true].any fun next =>
      (!next || g.version.isSome || s.wrg.swap) &&
        decide (encLimit (m1.toNat + 1) (headerWindow s) < hdrEncLen (imageHdr s (imageAddr d i west next))))

/-- Two planes that follow each other in the ring are more than one retired plane apart (R27). -/
def gapTooWide (t : Table) (planes : List Nat) : Bool :=
  (List.range planes.length).any fun i =>
    let w := planes.getD i 0
    2 < subMod (planes.getD ((i + 1) % planes.length) 0) w t.lw

/-- MEMBERSHIP: a REFORM that R574 refuses. -/
def reformBad (s : State) (t : Table) (v : PartView) : Bool :=
  let new : PartView := ⟨v.box, planesNow s t v.box, []⟩
  v.box.wext == 1 || gapTooWide t new.planes ||
  (List.range 4).any fun p => match linkFar t new t.self p with
    | some q => q.1 != (neighbour t t.self p).1 && !((portAt s p).state == 3 && bit s.inst.bypassed p)
    | none => false

/-- The first cause of Table 13-11 that the change meets on this chip; 0 where it passes. -/
def localCheck (s : State) (t : Table) (v : PartView) (g : Staged) : Nat :=
  let mb := imageMb s
  let a := 0x100000 * mb
  let hasImage := mb != 0x1FF
  if hasImage && (383 < mb || imageBad s a) then 1
  else
    let i := if hasImage then some (readImage s a) else none
    let keys := hasImage && 4 ≤ readLe s.mem (a + 6) 2
    let fs := framesAfter s i
    let cs := ctxsAfter s i
    let m1 := g.nextM1.getD s.beat.curM1
    if (i.bind (·.frames)).isSome && framesBad s t g fs then 2
    else if (i.bind (·.contexts)).isSome && contextsBad s t v g fs cs then 3
    else if keys && keysBad s a cs then 4
    else if keys && !s.own.sealing.windowOpen then 5
    else if g.grpAddr.any fun x => groupsBad s t (viewAfter s t v g) fs g x then 6
    else if ringBad s g (m1.toNat + 1) then 7
    else if g.nextM1.any fun x => periodBad s g x then 8
    else if g.reform == some 1 && reformBad s t v then 10
    else 0

/-- The manifest record that the change would produce (R462, Table 13-10). -/
def digestAfter (s : State) (g : Staged) : W64 :=
  let s' : State := { s with
    own := { s.own with
      epoch := epochAfter s g
      stage := { s.own.stage with change := s.own.stage.change + 1 }
      ctxs := Vector.ofFn fun i : Fin 16 => (ctxsAfter s g.image).getD i.val ⟨false, 0⟩ }
    beat := { s.beat with curM1 := g.nextM1.getD s.beat.curM1 }
    hut := { s.hut with
      scale := g.scale.getD s.hut.scale
      loaded := s.hut.loaded || g.groups.isSome
      crc := (g.groups.map Prod.snd).getD s.hut.crc } }
  (sha256 (manifestRecord s')).setWidth 64

/-- The reads of a local check that meet uncorrectable words: of the stage image by the management core, of the group table image by
the Hutch (R326). -/
def noteChecked (s : State) (g : Staged) : State :=
  let mb := imageMb s
  let a := 0x100000 * mb
  let s := if mb ≤ 383 then noteRead s a (0x440 + 112 * (readByte s.mem (a + 8)).toNat) none readerManagement else s
  match g.grpAddr with
  | some x => noteRead s (groupAddr x) (0x8040 + min 262144 (readLe s.mem (groupAddr x + 8) 4)) none readerHutch
  | none => s

/-- The local check begins at the start of the effective beat: images, seal and settings are judged as they stand (R462,
R471). -/
def beginCheck (s : State) : State :=
  match table? s, s.glb.part with
  | some t, some v =>
    let g := s.own.stage.staged
    let cause := localCheck s t v g
    let mb := imageMb s
    let s := noteChecked s g
    let image := if cause = 0 && mb != 0x1FF then some (readImage s (0x100000 * mb)) else none
    let groups := if cause = 0 then g.grpAddr.map fun a => (readGroups s (groupAddr a), groupCrc s (groupAddr a)) else none
    modStage s fun h => { h with
      localCause := BitVec.ofNat 4 cause, staged := { h.staged with image := image, groups := groups } }
  | _, _ => s

/-! ### The vote (R462) -/

/-- Two votes combined: FAILS adds, the digests' extremes, and the first failure in order of arrival. -/
def joinVotes (a b : VoteFrame) : VoteFrame :=
  { a with
    fails := min 65535 (a.fails + b.fails)
    first := if a.fails = 0 then b.first else a.first
    cause := if a.fails = 0 then b.cause else a.cause
    dmin := if b.dmin.toNat < a.dmin.toNat then b.dmin else a.dmin
    dmax := if a.dmax.toNat < b.dmax.toNat then b.dmax else a.dmax }

/-- A vote added to those heard. -/
def addVote (g : Stage) (f : VoteFrame) : Stage :=
  { g with vote := some ((g.vote.map fun a => joinVotes a f).getD f) }

/-- The root's result: passed with no failure and one digest; else the first cause, or DISAGREE. -/
def voteCause (f : VoteFrame) : Nat := if f.fails ≠ 0 then f.cause else if f.dmin = f.dmax then 0 else 9

/-- Once this chip and all its children have voted, the vote goes up; at the root it is decided. -/
def settleVote (s : State) : State :=
  let g := s.own.stage
  if g.checking || g.state != 2 || g.votes < s.own.children.length then s
  else match g.vote with
    | none => s
    | some f =>
      let s := modStage s fun g => { g with vote := none, votes := 0 }
      match s.own.parent with
      | some p => sendPrio s p (.vote f)
      | none =>
        if !isRoot s || s.own.root.stage != 2 then s
        else
          let c := voteCause f
          issueOrder (modRoot s fun r => { r with stage := if c = 0 then 3 else 1 })
            ⟨8, c, 0, s.own.root.owner, 0, effectiveBeat s, selfOf s⟩

/-- This chip's own local checks have ended. -/
def localCheckEnd (s : State) : State :=
  let g := s.own.stage
  if !g.checking || g.state != 2 then s
  else
    let d := digestAfter s g.staged
    let c := g.localCause.toNat
    let own : VoteFrame := ⟨g.change.setWidth 16, if c = 0 then 0 else 1, if c = 0 then Coord.zero else selfOf s, d, d, c⟩
    settleVote (modStage s fun g => addVote { g with checking := false } own)

def execLocalCheckEnd (s : State) : Host.Outcome State Fault Refusal := .next (localCheckEnd s)

/-- A VOTE from a child; one of another change is not counted. -/
def voteIn (s : State) (f : VoteFrame) : State :=
  if !formed s || f.change != s.own.stage.change.setWidth 16 then s
  else settleVote (modStage s fun g => { addVote g f with votes := g.votes + 1 })

def execVote (f : VoteFrame) (s : State) : Host.Outcome State Fault Refusal := .next (voteIn s f)

/-- ORDERs that are due take effect (R445, R446). -/
def execOrderApply (s : State) : Host.Outcome State Fault Refusal :=
  .next (applyDue beginCheck (s.own.orders.length + 1) s)

/-! ### COMMIT (R463, R574 to R576) -/

/-- The frames whose KIND or CTX a new table changes (R324). -/
def changedFrames (s : State) (fs : List W16) : List Nat :=
  (List.range 384).filter fun f =>
    let a := s.frames.toList.getD f 0
    let b := fs.getD f 0
    (bits a 14 2 != bits b 14 2 || bits a 0 4 != bits b 0 4) && !(s.wrg.enable && ringFrame f)

/-- The new frame table with the fills it starts. -/
def applyFrames (s : State) (fs : List W16) : State :=
  let ch := changedFrames s fs
  let s := ch.foldl (fun s f => cupZero s (0x100000 * f) 0x100000) s
  { s with
    frames := Vector.ofFn fun i : Fin 384 => fs.getD i.val 0
    fills := s.fills.filter (fun f => !ch.contains f) ++ ch }

/-- The new context table: a context that goes takes its bindings and its intake with it, and one that
comes starts its energy count at 0 (R441, R457, R536). -/
def applyContexts (s : State) (cs : List CtxEntry) : State :=
  let gone (c : Nat) : Bool := (s.own.ctxs.toList.getD c ⟨false, 0⟩).isPresent && !(cs.getD c ⟨false, 0⟩).isPresent
  let mask : W16 := BitVec.ofNat 16 (bitsOf 16 fun c => !gone c)
  { s with
    own := { s.own with ctxs := Vector.ofFn fun i : Fin 16 => cs.getD i.val ⟨false, 0⟩ }
    arm := { s.arm with
     slots := s.arm.slots.map fun x =>
      let b := x.bind &&& mask
      if b != x.bind && b == 0 then ⟨none, 0⟩ else { x with bind := b } }
    tel := { s.tel with energy := { s.tel.energy with
      ctx := Vector.ofFn fun i : Fin 16 =>
        if (cs.getD i.val ⟨false, 0⟩).isPresent && !(s.own.ctxs.toList.getD i.val ⟨false, 0⟩).isPresent then 0
        else s.tel.energy.ctx[i] } }
    hst := { s.hst with
      intakes := Vector.ofFn fun i : Fin 16 => { s.hst.intakes[i] with enable := s.hst.intakes[i].enable && !gone i.val } } }

/-- The keys of the change (R456). -/
def applyKeys (s : State) (ks : List KeyRec) : State :=
  ks.foldl (fun s k => { s with arm := { s.arm with slots := vmod s.arm.slots k.slot fun _ => ⟨some k.key, k.bind⟩ } }) s

/-- The register settings of the change. -/
def applySettings (s : State) (g : Staged) : State :=
  let s := match g.nextM1 with
    | some m => { s with beat := { s.beat with curM1 := m, nextM1 := m } }
    | none => s
  let s := match g.scale with
    | some x => { s with hut := { s.hut with scale := x } }
    | none => s
  let s := match g.groups, g.grpAddr with
    | some (l, c), some a => { s with hut := { s.hut with copying := some l, crc := c, addr := a, loaded := true } }
    | _, _ => s
  let s := match g.version with
    | some v => enterSwap { s with wrg := { s.wrg with verNext := v } }
    | none => s
  match g.restart with
  | some z => { s with wrg := { s.wrg with restartDue := some z } }
  | none => s

/-- The image settings of the change. -/
def applyImage (s : State) (i : StageImage) : State :=
  let s := match i.frames with
    | some fs => applyFrames s fs
    | none => s
  let s := match i.contexts with
    | some cs => applyContexts s cs
    | none => s
  applyKeys s i.keys

/-- A REFORM's membership (R575). -/
def applyReform (s : State) : State :=
  match table? s, s.glb.part with
  | some t, some v =>
    let s := { s with glb := { s.glb with part := some ⟨v.box, planesNow s t v.box, []⟩ } }
    let wasRoot := isRoot s
    let s := newSvcLat (buildTree s)
    let s := if isRoot s && !wasRoot then takeRoot s else s
    { s with beat := { s.beat with admitted := partPorts s } }
  | _, _ => s

/-- Beat B of a COMMITTING change: every setting applies at once (R463). -/
def stagedCommitApply (s : State) : State :=
  let g := s.own.stage
  match g.commitAt with
  | none => s
  | some b =>
    if g.state != 4 || s.beat.count.toNat < b.toNat then s
    else
      let st := g.staged
      let e := epochAfter s st
      let s := applySettings s st
      let s := (st.image.map fun i => applyImage s i).getD s
      let s := modStage s fun g => { discardChange g with
        change := g.change + 1, imgMb := st.imgMb.getD g.imgMb, bump := false }
      let s := modRoot s fun r => { r with stage := 0 }
      if st.reform == some 2 then leavePartition s 4
      else
        let s := if e != s.own.epoch then changeEpoch s e else s
        if st.reform == some 1 then applyReform s
        else if e != s.own.epoch then newSvcLat s else s

def execStagedCommitApply (s : State) : Host.Outcome State Fault Refusal := .next (stagedCommitApply s)

/-! ### Commands of STAGE_CTL and staged writes (R458 to R460, R609) -/

/-- STAGE_CTL.ERR set. -/
def stageErr (s : State) (e : BitVec 4) : State := modStage s fun g => { g with err := e }

/-- A command of STAGE_CTL.CMD on its entry chip (Tables 13-8, 13-21). -/
def stageCommand (s : State) (v : Via) (cmd : Nat) : State :=
  let st := s.own.stage.state.toNat
  let ok : Bool := match cmd with
    | 1 => st == 0
    | 2 => st == 1
    | 3 => st == 3
    | 4 => st == 1 || st == 2 || st == 3
    | _ => false
  if cmd = 0 then s
  else if !formed s then stageErr s 5
  else if !ok then stageErr s 1
  else submit s (pathOf v) (6 + cmd) 0 ((agentOf s v).getD 0) (if cmd = 3 then s.own.stage.b else 0)

/-- A write of STAGE_CTL: its staged fields where they change, then its command. -/
def stageCtlWrite (s : State) (v : Via) (w : W32) : State :=
  let r := regValue s .pf 0x20020
  let moves := bits r 16 9 != bits w 16 9 || bit r 4 != bit w 4
  let st := s.own.stage.state
  if moves && st != 1 then stageErr s (if st == 0 then 1 else 4)
  else
    let s := if moves then modStaged s fun g => { g with imgMb := some (w.extractLsb' 16 9), bump := some (bit w 4) } else s
    stageCommand s v (bits w 0 4)

/-- STAGE_CTL written with a CMD code. -/
def withStageCmd (w : W32) (cmd : Nat) : W32 := (w &&& ~~~15#32) ||| BitVec.ofNat 32 cmd

/-- A write of STAGE_CTL with a CMD code, on a path. -/
def stageCmdWrite (s : State) (via : Via) (v : W32) (cmd : Nat) : State :=
  guarded s via 0x20020 fun s => stageCtlWrite s via (withStageCmd v cmd)

def execOpenChange (via : Via) (v : W32) (s : State) : Host.Outcome State Fault Refusal :=
  .next (stageCmdWrite s via v 1)
def execCheck (via : Via) (v : W32) (s : State) : Host.Outcome State Fault Refusal :=
  .next (stageCmdWrite s via v 2)
def execCommit (via : Via) (v : W32) (s : State) : Host.Outcome State Fault Refusal :=
  .next (stageCmdWrite s via v 3)
def execAbort (via : Via) (v : W32) (s : State) : Host.Outcome State Fault Refusal :=
  .next (stageCmdWrite s via v 4)

def execStageCommitLoRead (via : Via) (s : State) : Host.Outcome State Fault Refusal := .next (readOut s via 0x20028)

/-- A write of STAGE_COMMIT_LO or _HI, writable in CHECKED. -/
def stageCommitWrite (s : State) (hi : Bool) (w : W32) : State :=
  if s.own.stage.state != 3 then s
  else modStage s fun g => { g with b := if hi then w ++ g.b.setWidth 32 else g.b.extractLsb' 32 32 ++ w }

/-- A write of STAGE_STAT: its W1C bits. -/
def stageStatWrite (s : State) (w : W32) : State :=
  modStage s fun g => { g with
    remoteFail := g.remoteFail && !bit w 23, late := g.late && !bit w 22, aborted := g.aborted && !bit w 21 }

/-- A write of BEAT_PERIOD: NEXT_M1 acts at once outside a partition, else through a change (R53, Table 2-14). -/
def beatPeriodWrite (s : State) (w : W32) : State :=
  let m : Byte := w.extractLsb' 8 8
  if m == nextM1 s then s
  else if formed s && s.own.stage.state != 1 then lockedErr (beatErr s 4)
  else if m.toNat < minM1 s then beatErr s 1
  else if formed s then modStaged s fun g => { g with nextM1 := some m }
  else { s with beat := { s.beat with nextM1 := m } }

/-- A write of WRG_VERSION: NEXT (R115, Table 3-14). -/
def wrgVersionWrite (s : State) (w : W32) : State :=
  let n : W16 := w.extractLsb' 16 16
  if bits (regValue s .pf 0x60010) 16 16 == n.toNat then s
  else if s.own.stage.state != 1 then lockedErr (wrgErr s 4)
  else modStaged s fun g => { g with version := some n }

/-- A write of GLB_STATE: REFORM is staged, DARK, DEGRADED_OK and JOIN act at once (R574, R582, R583, Table 16-12). -/
def glbStateWrite (s : State) (w : W32) : State :=
  let f : BitVec 2 := w.extractLsb' 8 2
  let moves := bits (regValue s .pf 0x8) 8 2 != f.toNat
  let err (e : BitVec 4) : State := { s with glb := { s.glb with err := e } }
  if f == 3 then err 3
  else if moves && s.own.stage.state != 1 then lockedErr (err 2)
  else
    let s := if moves then modStaged s fun g => { g with reform := some f } else s
    joinChanged { s with glb := { s.glb with dark := w.extractLsb' 14 2, degradedOk := bit w 7, join := bit w 6 } }

/-- A write to one of the registers that hold a staged field (Table 18-6). -/
def stagedWrite (s : State) (v : Via) (off : Nat) (w : W32) : State :=
  match off with
  | 0x8 => glbStateWrite s w
  | 0x10004 => beatPeriodWrite s w
  | 0x20020 => stageCtlWrite s v w
  | 0x40008 => grpBaseWrite s w
  | 0x40010 => exactWrite s w
  | 0x60000 => wrgCtlWrite s w
  | 0x60010 => wrgVersionWrite s w
  | _ => s

def execStagedWrite (off : Nat) (via : Via) (v : W32) (s : State) : Host.Outcome State Fault Refusal :=
  .next (guarded s via off fun s => stagedWrite s via off v)

end Sys2Proof.Machine
end

