-- ==== Sys2Proof/Machine/Host.lean ====
section
/-! DEFINITION. Machine/Host.lean: the host's side of a chip: cupboard windows, function level resets, event queues, the load
buffer, the I3C target, Ethernet and IEEE 1588, KBT sessions and intake queues (R475 to R510). -/

namespace Sys2Proof.Machine

/-- The host block changed. -/
def modHst (s : State) (f : Hst → Hst) : State := { s with hst := f s.hst }

/-- A VF page changed. -/
def modVf (s : State) (t : Nat) (f : Vf → Vf) : State := modHst s fun h => { h with vfs := vmod h.vfs t f }

/-- The intake of a context changed. -/
def modIntake (s : State) (t : Nat) (f : Intake → Intake) : State :=
  modHst s fun h => { h with intakes := vmod h.intakes t f }

/-- A management write of memory on a path: as `f` says, or refused with READONLY (R443). -/
def managed (s : State) (v : Via) (f : State → State) : State := if mayWrite s v then f s else setOwnErr s v 1

/-! ### Cupboard windows (R478, R494) -/

/-- The quadrant whose slices hold an address is on (R514). -/
def quadOn (s : State) (a : Nat) : Bool := domainOn s (16 + a / (4 * sliceBytes))

/-- Rights over [a, a + n): those of the management core, or of a mover of a context (Table 9-6). -/
def hostReadOk (s : State) (ctx : Option Nat) (a n : Nat) : Bool := match ctx with
  | none => inFrames s a n managementKind
  | some t => ctxExists s t && inFrames s a n (readableKind t) && !(s.wrg.enable && (ringView s a n).keys.any fun k => !keyBound s t k)

def hostWriteOk (s : State) (ctx : Option Nat) (a n : Nat) : Bool := match ctx with
  | none => inFrames s a n managementKind
  | some t => ctxExists s t && inFrames s a n (writableKind t)

/-- A byte as a host path reads it: free where its word is uncorrectable, its ring slot is not readable or its quadrant is
off, since the manual states no value there. -/
def hostByte (s : State) (a i : Nat) : Byte :=
  if !quadOn s (a + i) || wordBad s ((a + i) / 8 * 8) then Config.freeByte (s.draw + i) else readByte s.mem (a + i)

/-- Bytes read on a host path, with what the read leaves behind (R107, R326). -/
def hostRead (s : State) (a n : Nat) : State × List Byte :=
  let bs := (List.range n).map fun i => hostByte s a i
  let s := noteRead (s.drawn n) a n none readerManagement
  (if s.wrg.enable && (ringView s a n).window then ringOverrun s (sliceOf a) else s, bs)

/-- Bytes written on a host path; a quadrant that is off holds nothing. -/
def hostWrite (s : State) (a : Nat) (bs : List Byte) : State :=
  let n := 4 * sliceBytes - a % (4 * sliceBytes)
  let s := if quadOn s a then cupWrite s a (bs.take n) none else s
  if n < bs.length && quadOn s (a + n) then cupWrite s (a + n) (bs.drop n) none else s

/-- A refused access of a function: one HOST event per function and beat (R478). -/
def hostRefused (s : State) (fn : Option Nat) : State :=
  match fn with
  | none => if s.hst.pfEvtPosted then s else postNone (modHst s fun h => { h with pfEvtPosted := true }) 8 none 0
  | some t =>
    if (s.hst.vfs.toList.getD t Vf.reset).evtPosted then s
    else postNone (modVf s t fun v => { v with evtPosted := true }) 8 none 0

/-- An access of a BAR2 window that its rights have been judged for. -/
def bar2 (s : State) (fn : Option Nat) (a n : Nat) (wr : Option (List Byte)) : State :=
  match wr with
  | some bs => if hostWriteOk s fn a bs.length then hostWrite s a bs else hostRefused s fn
  | none =>
    if hostReadOk s fn a n then
      let r := hostRead s a n
      r.1.emit (.completion r.2)
    else (hostRefused s fn).emit (.completion (List.replicate n 0xFF))

def execPfBar2Access (addr len : Nat) (wr : Option (List Byte)) (s : State) : Host.Outcome State Fault Refusal :=
  .next (if wr.isSome then managed s .pf fun s => bar2 s none addr len wr else bar2 s none addr len wr)

def execVfBar2Access (vf : Ctx) (addr len : Nat) (wr : Option (List Byte)) (s : State) : Host.Outcome State Fault Refusal :=
  .next (bar2 s (some vf.val) addr len wr)

/-! ### Function level resets (R479) -/

/-- A VF's page cleared and its undecided doorbell discarded. -/
def vfReset (s : State) (t : Nat) : State :=
  modHst (modVf s t fun v => { Vf.reset with evtPosted := v.evtPosted }) fun h =>
    { h with requests := h.requests.filter fun r => !(r.pcie && r.ctx.val == t) }

def execVfFlr (vf : Ctx) (s : State) : Host.Outcome State Fault Refusal := .next (vfReset s vf.val)

def execPfFlr (s : State) : Host.Outcome State Fault Refusal :=
  let s := (List.range 16).foldl vfReset s
  .next { s with
    own := { s.own with boundPf := none }
    latches := s.latches.filter fun l => !sameLatch l.via .pf
    hst := { s.hst with pfQueue := { s.hst.pfQueue with enable := false } } }

/-! ### Event queue registers (R480, R483, R504, R505) -/

/-- EVT_Q_HEAD written: ENABLE from 0 to 1 starts the queue afresh; else HEAD moves, unless beyond TAIL. -/
def headWrite (q : EvtQueue) (v : W32) : EvtQueue :=
  let h := bits v 0 16
  let len := queueLen q
  if bit v 31 && !q.enable then { q with enable := true, head := 0, tail := 0, dropped := 0, signalled := false }
  else
    let q := { q with enable := bit v 31 }
    if h < len && (h + len - q.head.toNat) % len ≤ (q.tail.toNat + len - q.head.toNat) % len then
      { q with head := BitVec.ofNat 16 h, signalled := false }
    else q

/-- A write of one of the four registers of an event queue (Table 14-17); a LOST record that was due is then written. -/
def queueWrite (s : State) (fn o : Nat) (v : W32) : State :=
  let q := getQueue s fn
  match o with
  | 0x00 => if q.enable then s else setQueue s fn { q with base := v }
  | 0x04 => reportLost (setQueue s fn (headWrite q v)) fn
  | 0x08 => if q.enable then s else setQueue s fn { q with size := BitVec.ofNat 4 (min 7 (bits v 28 4)) }
  | 0x0C => setQueue s fn { q with mask := v.setWidth 9 }
  | _ => s

/-- A write of an event queue register through PF BAR0, or through the page of a VF whose context exists (R478). -/
def queueAccess (s : State) (vf : Option Ctx) (o : Nat) (v : W32) : State :=
  match vf with
  | none => guarded s .pf (0xC0000 + o) fun s => queueWrite s 0 o v
  | some t => if ctxExists s t.val then queueWrite s (t.val + 1) o v else hostRefused s (some t.val)

def execEvtQHeadWrite (vf : Option Ctx) (v : W32) (s : State) : Host.Outcome State Fault Refusal := .next (queueAccess s vf 4 v)

def execEvtQueueEnable (vf : Option Ctx) (v : W32) (s : State) : Host.Outcome State Fault Refusal :=
  .next (queueAccess s vf 4 (v ||| 0x80000000))

/-- A host write of a record fails: the queue is disabled, and AER reports it (R505). -/
def execEventWriteFail (vf : Option Ctx) (s : State) : Host.Outcome State Fault Refusal :=
  let fn := match vf with
    | none => 0
    | some t => t.val + 1
  .next ((setQueue s fn { getQueue s fn with enable := false }).emit .aer)

/-! ### The load buffer (R484, R485, R495) -/

/-- The first 128 bits of the table's digest as INST_HASH0 to INST_HASH3 hold them, each little-endian. -/
def hashBytes (s : State) : List Byte :=
  (List.range 4).flatMap fun i => leBytes 4 (instRead s (0x20 + 4 * i)).toNat

/-- The identity record (Table 14-12). -/
def identity (s : State) : List Byte :=
  let f := s.glb.fuses
  let r := leBytes 4 0x4E44494B ++ leBytes 2 1 ++ leBytes 1 0x42 ++ leBytes 1 0 ++
    leBytes 8 (if s.glb.fuseDone then f.serial.toNat else 0) ++ beBytes 6 f.mac.toNat ++ leBytes 2 0 ++
    leBytes 4 s.glb.fwVersion.toNat ++ leBytes 4 (instCoord s).toNat ++ beBytes 64 f.pubKey.toNat ++ hashBytes s ++
    leBytes 4 (partIdWord s).toNat ++ leBytes 4 s.own.epoch.toNat ++ leBytes 4 0
  r ++ leBytes 4 (crc32c r).toNat

/-- Bytes of the load buffer as they read. -/
def lbRead (s : State) (off n : Nat) : List Byte :=
  (List.range n).map fun i =>
    let a := off + i
    if a < 0x80040 then readByte s.hst.loadBuf a
    else if 0x81000 ≤ a && a < 0x81080 then (identity s).getD (a - 0x81000) 0
    else 0

/-- Bytes written to the load buffer: the table image and the network record take them. -/
def lbWrite (s : State) (off : Nat) (bs : List Byte) : State :=
  modHst s fun h => { h with loadBuf := writeBytes h.loadBuf off (bs.take (0x80040 - off)) }

def execLoadBufferWrite (off : Nat) (data : List Byte) (s : State) : Host.Outcome State Fault Refusal :=
  .next (managed s .pf fun s => lbWrite s off data)

/-- A number of the network record. -/
def net (s : State) (o n : Nat) : Nat := readLe s.hst.loadBuf (0x80000 + o) n

/-- The network record, if it is acceptable (R485, Table 14-5). -/
def readNet (s : State) : Option NetRec :=
  let fl := net s 6 2
  let be (o n : Nat) : Nat := ofBe (readBytes s.hst.loadBuf (0x80000 + o) n)
  if net s 0 4 == 0x54454E4B && net s 4 2 == 1 && fl / 2 % 4 != 0 && 1024 ≤ net s 10 2 &&
      net s 0x3C 4 == (crc32c (readBytes s.hst.loadBuf 0x80000 0x3C)).toNat then
    some { vlan := fl % 2 == 1, ipv4On := fl / 2 % 2 == 1, ipv6On := fl / 4 % 2 == 1,
           tag := BitVec.ofNat 16 (net s 8 2), port := BitVec.ofNat 16 (net s 10 2), ipv4 := BitVec.ofNat 32 (be 0x0C 4),
           prefix4 := BitVec.ofNat 8 (net s 0x10 1), ptpDomain := BitVec.ofNat 8 (net s 0x11 1),
           gateway4 := BitVec.ofNat 32 (be 0x14 4), ipv6 := BitVec.ofNat 128 (be 0x18 16),
           prefix6 := BitVec.ofNat 8 (net s 0x28 1), gateway6 := BitVec.ofNat 128 (be 0x2C 16) }
  else none

/-- A write of HST_ETH_CTL (R485, Table 14-14): a bad record refuses the write. -/
def ethCtlWrite (s : State) (v : W32) : State :=
  let en := bit v 0
  let rec' := readNet s
  if (en || bit v 1) && rec'.isNone then modHst s fun h => { h with ethErr := 1 }
  else
    let ptp := en && bit v 12
    modHst s fun h => { h with
      ptpEn := bit v 12, kbtEn := bit v 11, ethEnable := en, net := if en then rec' else none
      link := h.link && en, fecLock := h.fecLock && en
      fecUe := if bit v 2 then 0 else h.fecUe
      kbtDrop := if bit v 2 then 0 else h.kbtDrop
      rxDrop := if bit v 2 then 0 else h.rxDrop
      ptpState := if !ptp then 0 else if h.ptpState == 0 then 1 else h.ptpState
      ptpLocked := h.ptpLocked && ptp
      ptpRun := if ptp then h.ptpRun else 0
      ptpTwoStep := h.ptpTwoStep && ptp }

def execEthEnable (via : Via) (v : W32) (s : State) : Host.Outcome State Fault Refusal :=
  .next (guarded s via 0xB0004 fun s => ethCtlWrite s (v ||| 1))
def execEthReload (via : Via) (v : W32) (s : State) : Host.Outcome State Fault Refusal :=
  .next (guarded s via 0xB0004 fun s => ethCtlWrite s (v ||| 2))
def execEthCntClr (via : Via) (v : W32) (s : State) : Host.Outcome State Fault Refusal :=
  .next (guarded s via 0xB0004 fun s => ethCtlWrite s (v ||| 4))

/-! ### The I3C target (R486 to R488) -/

/-- The I3C target changed. -/
def modI3c (s : State) (f : I3c → I3c) : State := modHst s fun h => { h with i3c := f h.i3c }

/-- The 48-bit provisioned ID, most significant byte first (R487). -/
def provisionedId (s : State) : List Byte :=
  beBytes 6 (2 ^ 33 * Config.mipiId.toNat + 2 ^ 32 + (regValue s .i3c 0x18).toNat)

/-- Bytes returned to the controller by a target that has a dynamic address. -/
def i3cReply (s : State) (bs : List Byte) : State := if s.hst.i3c.valid then s.emit (.i3c bs) else s

/-- ENTDAA: a target without a dynamic address arbitrates and takes the address it is given. -/
def execEntdaa (addr : BitVec 7) (s : State) : Host.Outcome State Fault Refusal :=
  .next (if s.hst.i3c.valid then s
    else modI3c (s.emit (.i3c (provisionedId s ++ [0x0E, 0x00]))) fun t => { t with valid := true, da := addr, hjPend := false })

def execRstdaa (s : State) : Host.Outcome State Fault Refusal := .next (modI3c s fun t => { t with valid := false, da := 0 })

def execSetnewda (addr : BitVec 7) (s : State) : Host.Outcome State Fault Refusal :=
  .next (if s.hst.i3c.valid then modI3c s fun t => { t with da := addr } else s)

def execEnec (s : State) : Host.Outcome State Fault Refusal := .next (modI3c s fun t => { t with ibiEn := true })
def execDisec (s : State) : Host.Outcome State Fault Refusal := .next (modI3c s fun t => { t with ibiEn := false })
def execGetpid (s : State) : Host.Outcome State Fault Refusal := .next (i3cReply s (provisionedId s))
def execGetbcr (s : State) : Host.Outcome State Fault Refusal := .next (i3cReply s [0x0E])
def execGetdcr (s : State) : Host.Outcome State Fault Refusal := .next (i3cReply s [0x00])

/-- GETSTATUS: the two bytes of target status are those of MIPI I3C, which the manual does not give: free bytes. -/
def execGetstatus (s : State) : Host.Outcome State Fault Refusal :=
  .next (i3cReply (s.drawn 2) [Config.freeByte s.draw, Config.freeByte (s.draw + 1)])

def execSetmwl (len : W16) (s : State) : Host.Outcome State Fault Refusal := .next (modI3c s fun t => { t with mwl := len })
def execSetmrl (len : W16) (s : State) : Host.Outcome State Fault Refusal := .next (modI3c s fun t => { t with mrl := len })
def execGetmwl (s : State) : Host.Outcome State Fault Refusal := .next (i3cReply s (beBytes 2 s.hst.i3c.mwl.toNat))
def execGetmrl (s : State) : Host.Outcome State Fault Refusal := .next (i3cReply s (beBytes 2 s.hst.i3c.mrl.toNat))

def execHotJoin (s : State) : Host.Outcome State Fault Refusal :=
  .next (if s.hst.i3c.valid then s else modI3c (s.emit .hotJoin) fun t => { t with hjPend := true })

/-- The STATUS of a message that reads: the next private read returns its data and STATUS (Table 14-7). -/
def i3cAsk (s : State) (st : Byte) (bs : List Byte) : State :=
  modI3c s fun t => { t with status := st, pendingRead := bs, pendingStatus := st }

/-- The STATUS of a message that writes. -/
def i3cWrote (s : State) (st : Byte) : State := modI3c s fun t => { t with status := st, writeStatus := st }

/-- A message of a target that has a dynamic address. -/
def addressed (s : State) (f : State → State) : State := if s.hst.i3c.valid then f s else s

/-- A private read (R488). -/
def execPrivateRead (s : State) : Host.Outcome State Fault Refusal :=
  let t := s.hst.i3c
  .next (addressed s fun s =>
    modI3c (s.emit (.i3c (if t.pendingRead.isEmpty then [t.status] else t.pendingRead ++ [t.pendingStatus]))) fun t =>
      { t with pendingRead := [] })

/-- CSRR: `len` counts the bytes after the address, of which there are none. -/
def csrr (s : State) (a len : Nat) : State :=
  if len ≠ 0 then i3cAsk s 4 []
  else if a % 4 ≠ 0 || 0x200000 ≤ a then i3cAsk s 3 []
  else
    let r := readReg s .i3c a
    i3cAsk r.1 0 (leBytes 4 r.2.toNat)

def execCsrr (addr len : Nat) (s : State) : Host.Outcome State Fault Refusal := .next (addressed s fun s => csrr s addr len)

/-- LBW: refused under R443, of a wrong length, or outside the buffer. -/
def lbw (s : State) (off : Nat) (bs : List Byte) : State :=
  if bs.isEmpty || 256 < bs.length then i3cWrote s 4
  else if 0x100000 < off + bs.length then i3cWrote s 3
  else if mayWrite s .i3c then i3cWrote (lbWrite s off bs) 0
  else i3cWrote (setOwnErr s .i3c 1) 1

def execLbw (off : Nat) (data : List Byte) (s : State) : Host.Outcome State Fault Refusal :=
  .next (addressed s fun s => lbw s off data)

/-- LBR: a length of 0 means 256. -/
def lbr (s : State) (off : Nat) (len : Byte) : State :=
  let n := if len = 0 then 256 else len.toNat
  if 0x100000 < off + n then i3cAsk s 3 [] else i3cAsk s 0 (lbRead s off n)

def execLbr (off : Nat) (len : Byte) (s : State) : Host.Outcome State Fault Refusal := .next (addressed s fun s => lbr s off len)

def execStat (s : State) : Host.Outcome State Fault Refusal :=
  .next (addressed s fun s => i3cAsk s s.hst.i3c.writeStatus [])

def execPrivateMessageOpcode (s : State) : Host.Outcome State Fault Refusal :=
  .next (addressed s fun s => i3cAsk s 5 [])

/-! ### Ethernet (R489, R508) -/

/-- The port is enabled with a record in use. -/
def ethOn (s : State) : Bool := s.hst.ethEnable && s.hst.net.isSome

/-- A frame dropped and counted. -/
def rxDrop (s : State) : State := if ethOn s then modHst s fun h => { h with rxDrop := satInc h.rxDrop } else s

def execEthFrameDrop (s : State) : Host.Outcome State Fault Refusal := .next (rxDrop s)

def execEthLinkChange (isUp : Bool) (s : State) : Host.Outcome State Fault Refusal :=
  .next (modHst s fun h => { h with link := isUp && h.ethEnable, fecLock := isUp && h.ethEnable })

/-- An answer of the network stack where the record in use gives this address. -/
def ethAnswer (s : State) (mine : NetRec → Bool) (kind : Nat) (bs : List Byte) : State :=
  if ethOn s && s.hst.net.any mine then s.emit (.eth kind bs) else s

/-- ARP: answered with the fused MAC address, the chip's IPv4 address and the asker's (R489). -/
def execArp (target : W32) (sender : List Byte) (s : State) : Host.Outcome State Fault Refusal :=
  .next (ethAnswer s (fun n => n.ipv4On && n.ipv4 == target) 0
    (beBytes 6 s.glb.fuses.mac.toNat ++ beBytes 4 target.toNat ++ sender))

def execIcmpEcho (dest : W32) (data : List Byte) (s : State) : Host.Outcome State Fault Refusal :=
  .next (if s.hst.net.any fun n => n.ipv4On && n.ipv4 == dest then ethAnswer s (fun _ => true) 1 data else rxDrop s)

def execNeighbourDiscovery (target : BitVec 128) (s : State) : Host.Outcome State Fault Refusal :=
  .next (ethAnswer s (fun n => n.ipv6On && n.ipv6 == target) 2 (beBytes 16 target.toNat ++ beBytes 6 s.glb.fuses.mac.toNat))

def execIcmpv6Echo (dest : BitVec 128) (data : List Byte) (s : State) : Host.Outcome State Fault Refusal :=
  .next (if s.hst.net.any fun n => n.ipv6On && n.ipv6 == dest then ethAnswer s (fun _ => true) 3 data else rxDrop s)

/-! ### IEEE 1588 (R490) -/

/-- The slave runs and a message is of its domain. -/
def ptpFor (s : State) (domain : Byte) : Bool := s.hst.ptpState != 0 && s.hst.net.any fun n => n.ptpDomain == domain

/-- An offset measured by a Sync: OFFSET saturates; LOCKED rises after 16 in a row of at most 100 ns and falls above 1 µs. -/
def ptpOffset (s : State) (o : Int) : State :=
  let run := if o.natAbs ≤ 100 then s.hst.ptpRun + 1 else 0
  modHst s fun h => { h with
    ptpOffset := BitVec.ofInt 16 (max (-32767) (min 32767 o)), ptpRun := run
    ptpLocked := if 16 ≤ run then true else if 1000 < o.natAbs then false else h.ptpLocked }

/-- A Sync; a two-step master's offset comes with its Follow_Up. Each Sync is followed by a Delay_Req. -/
def execPtpSync (domain : Byte) (twoStep : Bool) (offset : Int) (s : State) : Host.Outcome State Fault Refusal :=
  .next (if !ptpFor s domain then s
    else
      let s := s.emit (.eth 4 [])
      if twoStep then modHst s fun h => { h with ptpTwoStep := true }
      else ptpOffset (modHst s fun h => { h with ptpTwoStep := false }) offset)

def execPtpFollowUp (domain : Byte) (offset : Int) (s : State) : Host.Outcome State Fault Refusal :=
  .next (if ptpFor s domain && s.hst.ptpTwoStep then ptpOffset (modHst s fun h => { h with ptpTwoStep := false }) offset
    else s)

/-- A Delay_Resp completes the delay measurement: an uncalibrated slave is calibrated. -/
def execPtpDelayResp (domain : Byte) (s : State) : Host.Outcome State Fault Refusal :=
  .next (if ptpFor s domain && s.hst.ptpState == 2 then modHst s fun h => { h with ptpState := 3 } else s)

/-- An Announce qualifies the master of a listening slave. -/
def execPtpAnnounce (domain : Byte) (s : State) : Host.Outcome State Fault Refusal :=
  .next (if ptpFor s domain && s.hst.ptpState == 1 then modHst s fun h => { h with ptpState := 2 } else s)

def execPtpSyncTimeout (s : State) : Host.Outcome State Fault Refusal :=
  .next (modHst s fun h => { h with ptpLocked := false, ptpRun := 0 })

/-! ### KBT sessions (R491 to R493) -/

/-- Message types (Table 14-11). -/
def kbtIdentReq : Nat := 0x01
def kbtIdent : Nat := 0x02
def kbtCsrWrite : Nat := 0x10
def kbtCsrRead : Nat := 0x11
def kbtCsrData : Nat := 0x12
def kbtWrite : Nat := 0x20
def kbtRead : Nat := 0x21
def kbtData : Nat := 0x22
def kbtRequest : Nat := 0x30
def kbtReply : Nat := 0x31
def kbtBusy : Nat := 0x32
def kbtAck : Nat := 0x40
def kbtNak : Nat := 0x41

/-- KBT messages are accepted: the port is enabled with a record in use, and KBT_EN = 1. -/
def kbtOn (s : State) : Bool := ethOn s && s.hst.kbtEn

/-- A session. -/
def sessionOf (s : State) (id : W32) : Option Session := s.hst.sessions.find? fun x => x.id == id

def modSession (s : State) (id : W32) (f : Session → Session) : State :=
  modHst s fun h => { h with sessions := h.sessions.map fun x => if x.id == id then f x else x }

/-- A message of the chip to a session's peer. -/
def kbtMsg (x : Session) (typ : Nat) (ctx : Byte) (seq addr arg : W32) (payload : List Byte) : KbtMsg :=
  ⟨typ, ⟨0, ctx, x.id, seq, addr, BitVec.ofNat 32 payload.length, arg, x.peerAddr, x.peerPort⟩, payload⟩

/-- An answer outside the chip's SEQ space: its SEQ is free, since the manual numbers DATA and REPLY alone. -/
def kbtTell (s : State) (id : W32) (typ : Nat) (ctx : Byte) (addr arg : W32) (payload : List Byte) : State :=
  match sessionOf s id with
  | none => s
  | some x => (s.drawn 1).emit (.kbt (kbtMsg x typ ctx (BitVec.ofNat 32 (Config.freeNat s.draw)) addr arg payload))

/-- A DATA or REPLY message: numbered, sent and kept until acknowledged. -/
def kbtSend (s : State) (id : W32) (typ : Nat) (ctx : Byte) (addr arg : W32) (payload : List Byte) : State :=
  match sessionOf s id with
  | none => s
  | some x =>
    let m := kbtMsg x typ ctx x.nextTx addr arg payload
    (modSession s id fun x => { x with nextTx := x.nextTx + 1, unacked := x.unacked ++ [m] }).emit (.kbt m)

/-- A dropped message, counted (R491, R493). -/
def kbtDropped (s : State) : State := modHst s fun h => { h with kbtDrop := satInc h.kbtDrop }

def execKbtMessageDropped (s : State) : Host.Outcome State Fault Refusal := .next (if ethOn s then kbtDropped s else s)

/-- An ACK of what has been received in order. -/
def kbtSendAck (s : State) (id : W32) : State :=
  match sessionOf s id with
  | none => s
  | some x => modSession (kbtTell s id kbtAck 0xFF 0 (x.nextRx - 1) []) id fun x => { x with sinceAck := 0 }

def execKbtAckTimer (session : W32) (s : State) : Host.Outcome State Fault Refusal :=
  .next (match sessionOf s session with
    | some x => if x.sinceAck = 0 then s else kbtSendAck s session
    | none => s)

/-- A session is abandoned, with a HOST event; its read latches go with it. -/
def kbtAbandon (s : State) (id : W32) : State :=
  let s := modHst s fun h => { h with sessions := h.sessions.filter fun x => x.id != id }
  postNone { s with latches := s.latches.filter fun l => !sameLatch l.via (.kbt id 0) } 8 none 0

/-- The chip sends again what is not acknowledged, up to 8 times (R493). -/
def kbtRetransmit (s : State) (id : W32) : State :=
  match sessionOf s id with
  | none => s
  | some x =>
    if x.unacked.isEmpty || !s.hst.link then s
    else if 8 ≤ x.tries then kbtAbandon s id
    else x.unacked.foldl (fun s m => s.emit (.kbt m)) (modSession s id fun x => { x with tries := x.tries + 1 })

def execKbtRetransmitTimeout (session : W32) (s : State) : Host.Outcome State Fault Refusal := .next (kbtRetransmit s session)

/-- Messages before a SEQ are acknowledged. -/
def kbtRelease (s : State) (id n : W32) : State :=
  modSession s id fun x =>
    let rest := x.unacked.filter fun m => (m.hdr.seq - n).toNat < 2 ^ 31
    { x with unacked := rest, tries := if rest.length < x.unacked.length then 0 else x.tries }

/-- A session used: it becomes the most recent, and keeps its peer's latest address. -/
def kbtTouch (s : State) (x : Session) (h : KbtHdr) : State :=
  let y := { x with usedAt := s.clock, peerAddr := h.srcAddr, peerPort := h.srcPort }
  modHst s fun k => { k with sessions := y :: k.sessions.filter fun z => z.id != x.id }

/-- The session of a message, made where there is room or the one idle longest has been idle for 1 s; `none` where the message
is dropped and counted (R493). -/
def kbtOpen (s : State) (h : KbtHdr) : Option State :=
  let fresh : Session := ⟨h.session, h.seq, [], 0, [], 0, 0, h.srcAddr, h.srcPort, s.clock⟩
  match sessionOf s h.session with
  | some x => some (kbtTouch s x h)
  | none =>
    if s.hst.sessions.length < 64 then some (kbtTouch s fresh h)
    else match s.hst.sessions.getLast? with
      | some old =>
        if (s.clock - old.usedAt).toNat < 1800000000 then none
        else some (kbtTouch (modHst s fun k => { k with sessions := k.sessions.dropLast }) fresh h)
      | none => none

/-- A received ACK (R493). -/
def kbtAckIn (s : State) (m : KbtMsg) : State :=
  if !kbtOn s then s
  else match sessionOf s m.hdr.session with
    | some x => kbtRelease (kbtTouch s x m.hdr) x.id (m.hdr.arg + 1)
    | none => s

def execKbtAck (m : KbtMsg) (s : State) : Host.Outcome State Fault Refusal := .next (kbtAckIn s m)

/-- A received NAK: what precedes the missing SEQ has arrived, and the rest is sent again. -/
def kbtNakIn (s : State) (m : KbtMsg) : State :=
  if !kbtOn s then s
  else match sessionOf s m.hdr.session with
    | some x => kbtRetransmit (kbtRelease (kbtTouch s x m.hdr) x.id m.hdr.arg) x.id
    | none => s

def execKbtNak (m : KbtMsg) (s : State) : Host.Outcome State Fault Refusal := .next (kbtNakIn s m)

/-! ### Intake queues (R496 to R507) -/

/-- Bytes of a slot. -/
def slotBytes (i : Intake) : Nat := 1024 * 4 ^ i.slot.toNat

/-- Where slot `n` of a queue lies. -/
def slotAddrOf (i : Intake) (n : Nat) : Nat := intakeBase i + 4096 + n % (max 1 i.depth.toNat) * slotBytes i

/-- Bytes of a queue. -/
def intakeBytes (i : Intake) : Nat := 4096 + i.depth.toNat * slotBytes i

def intakeErr (s : State) (e : BitVec 4) : State := modHst s fun h => { h with intakeErr := e }

/-- Intake ENABLE rises: CORE and CTR are read, the counts start at 0 (R496). -/
def intakeStart (s : State) (t : Nat) (i : Intake) : State :=
  if !(ctxExists s t && inFrames s (intakeBase i) (intakeBytes i) (writableKind t)) then intakeErr s 3
  else
    let r := hostRead s (intakeBase i + 8) 2
    let core := r.2.getD 0 0
    let ctr := r.2.getD 1 0
    if 15 < core.toNat || (254 ≤ ctr.toNat && s.wrg.enable) then intakeErr r.1 4
    else
      modIntake (hostWrite r.1 (intakeBase i) (List.replicate 8 0)) t fun _ =>
        { i with enable := true, refused := 0, w := 0, produced := 0, consumed := 0, core := core, ctr := ctr, broken := false }

/-- A write of HST_INTAKE_CTL for a context (R496, R502, R503). -/
def intakeCtlWrite (s : State) (t : Nat) (v : W32) : State :=
  let i := intakeAt s t
  let n := { i with
    baseMb := v.extractLsb' 23 9, depth := v.extractLsb' 15 8, hwm := v.extractLsb' 7 8, slot := v.extractLsb' 5 2
    hold := bit v 4 }
  if i.enable && (n.baseMb != i.baseMb || n.depth != i.depth || n.slot != i.slot) then intakeErr s 1
  else if n.depth == 0 || n.hwm == 0 || n.depth.toNat < n.hwm.toNat || 383 < n.baseMb.toNat then intakeErr s 2
  else if bit v 0 && !i.enable then intakeStart s t n
  else modIntake s t fun _ => { n with enable := bit v 0 }

def execIntakeEnable (ctx : Ctx) (via : Via) (v : W32) (s : State) : Host.Outcome State Fault Refusal :=
  .next (if s.hst.vsel.toNat == ctx.val then guarded s via 0xB000C fun s => intakeCtlWrite s ctx.val (v ||| 1) else s)

/-- A request handed in for its decision. -/
def submitRequest (s : State) (r : IntakeReq) : State := modHst s fun h => { h with requests := h.requests ++ [r] }

/-- INTAKE_DOOR: the request in the intake window is submitted; a doorbell while one is pending is counted (Table 14-16). -/
def intakeDoor (s : State) (t : Ctx) (v : W32) : State :=
  let f := s.hst.vfs.toList.getD t.val Vf.reset
  if !ctxExists s t.val then hostRefused s (some t.val)
  else if f.result == 7 then modVf s t.val fun f => { f with dropped := satInc f.dropped }
  else
    submitRequest (modVf s t.val fun f => { f with result := 7 })
      ⟨t, true, f.intakeId, readBytes f.window 0 (bits v 0 17), leBytes 8 f.intakeRet.toNat ++ List.replicate 16 0⟩

def execIntakeDoor (vf : Ctx) (v : W32) (s : State) : Host.Outcome State Fault Refusal := .next (intakeDoor s vf v)

/-- A write of a register of a VF page (Table 14-16). -/
def vfPageWrite (s : State) (t : Ctx) (o : Nat) (v : W32) : State :=
  match o with
  | 0x020 => intakeDoor s t v
  | 0x028 => modVf s t.val fun f => { f with intakeId := f.intakeId.extractLsb' 32 32 ++ v }
  | 0x02C => modVf s t.val fun f => { f with intakeId := v ++ f.intakeId.setWidth 32 }
  | 0x030 => modVf s t.val fun f => { f with intakeRet := f.intakeRet.extractLsb' 32 32 ++ (v &&& ~~~7#32) }
  | 0x034 => modVf s t.val fun f => { f with intakeRet := v ++ f.intakeRet.setWidth 32 }
  | _ => if o < 16 then queueWrite s (t.val + 1) o v else s

/-- A write of VF BAR0: the VF page below 0x1_0000 by words, the intake window from there on (Table 14-2). -/
def vfBar0Write (s : State) (t : Ctx) (off : Nat) (bs : List Byte) : State :=
  if !ctxExists s t.val then hostRefused s (some t.val)
  else if 0x10000 ≤ off then modVf s t.val fun f => { f with window := writeBytes f.window (off - 0x10000) (bs.take (0x20000 - off)) }
  else if off % 4 = 0 && bs.length = 4 then vfPageWrite s t off (BitVec.ofNat 32 (ofLe bs))
  else s

def execIntakeWindowWrite (vf : Ctx) (off : Nat) (data : List Byte) (s : State) : Host.Outcome State Fault Refusal :=
  .next (vfBar0Write s vf off data)

/-- CONSUMED as it lies in the control block (R500). -/
def consumedNow (s : State) (i : Intake) : W32 := BitVec.ofNat 32 (readLe s.mem (intakeBase i + 4) 4)

/-- A CONSUMED that would make LEVEL exceed DEPTH disables the intake, with a HOST event (R500). -/
def judgeConsumed (s : State) (t : Nat) : State :=
  let i := intakeAt s t
  if i.enable && i.depth.toNat < (i.w - consumedNow s i).toNat then
    postNone (modIntake s t fun i => { i with enable := false, broken := true }) 8 ((if h : t < 16 then some ⟨t, h⟩ else none)) 0
  else s

/-- The reason for which a request is refused; 0 where it is admitted (R498). -/
def intakeReason (s : State) (r : IntakeReq) : Nat :=
  let i := intakeAt s r.ctx.val
  if !ctxExists s r.ctx.val || !i.enable then 1
  else if i.hold then 2
  else if slotBytes i - 64 < r.payload.length then 3
  else if i.hwm.toNat ≤ (i.w - consumedNow s i).toNat then 4
  else 0

/-- The slot header of an admitted request (Table 14-13). -/
def slotHeader (s : State) (r : IntakeReq) : List Byte :=
  leBytes 4 r.payload.length ++ leBytes 1 (boolNat r.pcie) ++ leBytes 3 0 ++ leBytes 8 r.reqId.toNat ++ leBytes 4 0 ++
  leBytes 4 (s.beat.count.toNat % 2 ^ 32) ++ r.ret ++ List.replicate 16 0

/-- The session that a KBT request's RETURN names. -/
def retSession (ret : List Byte) : W32 := BitVec.ofNat 32 (ofLe ((ret.drop 18).take 4))

/-- A request refused: counted, and told to its sender. -/
def refuseRequest (s : State) (r : IntakeReq) (reason : Nat) : State :=
  let s := modIntake s r.ctx.val fun i => { i with refused := satInc i.refused }
  if r.pcie then modVf s r.ctx.val fun f => { f with result := BitVec.ofNat 3 reason }
  else kbtTell s (retSession r.ret) kbtBusy (BitVec.ofNat 8 r.ctx.val) 0 (BitVec.ofNat 32 reason) (leBytes 8 r.reqId.toNat)

/-- A request admitted: header and payload into slot W mod DEPTH; W rises, PRODUCED and the counter with it outside the swap
barrier (R498, R499). -/
def admitRequest (s : State) (r : IntakeReq) : State :=
  let t := r.ctx.val
  let i := intakeAt s t
  let s := hostWrite s (slotAddrOf i i.w.toNat) (slotHeader s r ++ r.payload)
  let s := modIntake s t fun i => { i with w := i.w + 1 }
  let s := if s.wrg.swap then s else advanceIntake s t
  if r.pcie then modVf s t fun f => { f with result := 0 } else s

/-- The request that arrived first is decided (R498). -/
def intakeDecision (s : State) : State :=
  match s.hst.requests with
  | [] => s
  | r :: rest =>
    let s := judgeConsumed (modHst s fun h => { h with requests := rest }) r.ctx.val
    let k := intakeReason s r
    if k = 0 then admitRequest s r else refuseRequest s r k

def execIntakeDecision (s : State) : Host.Outcome State Fault Refusal := .next (intakeDecision s)

/-- A reply over KBT: REQ_ID and up to 8,184 bytes of the reply to a message; ADDR the place within the reply. -/
def kbtReplySend (s : State) (t : Nat) (ret : List Byte) (reqId : W64) (bs : List Byte) : State :=
  (List.range ((bs.length + 8183) / 8184)).foldl (fun s i =>
    kbtSend s (retSession ret) kbtReply (BitVec.ofNat 8 t) (BitVec.ofNat 32 (8184 * i)) 0
      (leBytes 8 reqId.toNat ++ (bs.drop (8184 * i)).take 8184)) s

/-- The reply of a slot that CONSUMED has passed, where RLEN asks for one (R500). -/
def replySlot (s : State) (t : Ctx) (n : Nat) : State :=
  let i := intakeAt s t.val
  let a := slotAddrOf i n
  let rlen := min (readLe s.mem (a + 0x10) 4) (slotBytes i - 64)
  if rlen = 0 then s
  else
    let id := BitVec.ofNat 64 (readLe s.mem (a + 8) 8)
    let ret := readBytes s.mem (a + 0x18) 24
    let r := hostRead s (a + 64) rlen
    if readByte s.mem (a + 4) = 1 then (r.1.emit (.reply t id ret r.2)).emit (.msix (t.val + 1) 1)
    else kbtReplySend r.1 t.val ret id r.2

/-- At a beat start CONSUMED is read, and the slots that it has passed are answered (R500). -/
def intakeReply (s : State) (t : Ctx) : State :=
  let s := judgeConsumed s t.val
  let i := intakeAt s t.val
  if !i.enable then s
  else
    let c := consumedNow s i
    let n := (c - i.consumed).toNat
    if (i.w - i.consumed).toNat < n then s
    else
      modIntake ((List.range n).foldl (fun s k => replySlot s t ((i.consumed.toNat + k) % 2 ^ 32)) s) t.val fun i =>
        { i with consumed := c }

def execIntakeReply (ctx : Ctx) (s : State) : Host.Outcome State Fault Refusal := .next (intakeReply s ctx)

end Sys2Proof.Machine
end

