-- ==== Sys2Proof/Machine/Power.lean ====
section
/-! DEFINITION. Machine/Power.lean: power domains and their sequencer, the droop loop and the power cap, the fast and slow
converters, the result queue and energy accounting (R511 to R547). -/

namespace Sys2Proof.Machine

/-- The PWR block changed. -/
def modPwr (s : State) (f : Pwr → Pwr) : State := { s with pwr := f s.pwr }

/-- The TEL block changed. -/
def modTel (s : State) (f : Tel → Tel) : State := { s with tel := f s.tel }

/-! ### Domains (R511 to R516) -/

/-- The power-up order of the gateable domains (R512). -/
def upOrder : List Nat :=
  [32, 16, 17, 18, 19] ++ List.range 16 ++ [30] ++ (List.range 10).map (· + 20) ++ [31]

/-- A domain's request bit. -/
def requested (p : Pwr) (d : Nat) : Bool := if d = 32 then p.telReq else bit p.req d

/-- The state that the sequencer works toward (R516). -/
def wanted (p : Pwr) (d : Nat) : Bool := requested p d && !bit p.heldOff d

/-- The next switch: every domain to go off first, in the reverse order, then every domain to come on (R512). -/
def nextSwitch (p : Pwr) : Option (Nat × Bool) :=
  match upOrder.reverse.find? fun d => !wanted p d && bit p.on d with
  | some d => some (d, false)
  | none => (upOrder.find? fun d => wanted p d && !bit p.on d).map fun d => (d, true)

/-- A core whose domain goes off: what R514 keeps is its slice's register and FDIS. -/
def coreOff (c : Core) : Core := { Core.reset with cpb := c.cpb, fdis := c.fdis, fdisReq := c.fdisReq }

/-- A port whose domain goes off (R405, R514). -/
def portOff (q : Port) : Port := { Port.reset with inService := q.inService }

/-- A domain goes off and loses its state (R514, R546). -/
def domainDown (s : State) (d : Nat) : State :=
  let s := modPwr s fun p => { p with on := setBit p.on d false }
  if d < 16 then modCore s d coreOff
  else if d < 20 then
    (List.range 4).foldl (fun s i => modCore s (4 * (d - 16) + i) fun c => { c with cpb := Cpb.reset })
      (cupZero s (4 * sliceBytes * (d - 16)) (4 * sliceBytes))
  else if d < 30 then modPort s (d - 20) portOff
  else if d = 30 then { s with hut := Hut.reset }
  else if d = 31 then { s with upk := Upk.reset, arm := Arm.reset }
  else if d = 32 then
    { s with
      tel := { Tel.reset with energy := s.tel.energy, skipAt := s.tel.skipAt }
      latches := s.latches.map fun l => { l with telHi := none } }
  else s

/-- A domain comes on with reset state (R515, R542). -/
def domainUp (s : State) (d : Nat) : State :=
  let s := modPwr s fun p => { p with on := setBit p.on d true }
  if d < 16 then modPwr s fun p => { p with droop := vmod p.droop d fun _ => Droop.reset } else s

/-- The sequencer starts its next switch unless one is running; a domain shows off from the start of its power-down. -/
def sequence (s : State) : State :=
  if s.pwr.busy.isSome then s
  else match nextSwitch s.pwr with
    | none => s
    | some (d, up) =>
      let s := modPwr s fun p => { p with busy := some (d, up) }
      if up then s else domainDown s d

/-- The switch in progress completes and the next one starts (R512, R541). -/
def switchDone (s : State) : State :=
  match s.pwr.busy with
  | none => s
  | some (d, up) =>
    let s := modPwr s fun p => { p with busy := none }
    advanceBoot (sequence (if up then domainUp s d else s))

def execDomainSwitchDone (s : State) : Host.Outcome State Fault Refusal := .next (switchDone s)

/-- Why a domain may not go off; 0 where it may (R513). -/
def offRefusal (s : State) (new : Pwr) (d : Nat) : Nat :=
  if d < 16 then
    (if (coreAt s d).state != 0 || movOut (coreAt s d) != 0 then 1 else if s.wrg.enable then 3 else 0)
  else if d < 20 then
    (if s.wrg.enable || !((List.range 96).all fun i => entryKind (s.frames.toList.getD (96 * (d - 16) + i) 0) == .free) then 2
     else 0)
  else if d < 30 then (if admittedPort s (d - 20) then 3 else 0)
  else if d = 30 then (if formed s then 3 else 0)
  else if d = 31 then (if s.wrg.enable then 3 else 0)
  else if (List.range 16).any fun n => domainOn s n || requested new n then 4 else 0

/-- A domain requested on whose needs are not (Table 15-1). -/
def needsBroken (new : Pwr) (d : Nat) : Bool :=
  if !wanted new d then false
  else if d < 16 then !(requested new (16 + d / 4) && requested new 32)
  else if 20 ≤ d && d < 30 then !requested new 30
  else false

/-- The refusal of a change of requests: its code and the lowest domain that causes it. -/
def reqRefusal (s : State) (new : Pwr) : Option (Nat × Nat) :=
  ((List.range 33).map fun d =>
    let e := if bit new.heldOff d then 0
      else if requested s.pwr d && !requested new d then offRefusal s new d else 0
    (if e = 0 && needsBroken new d then 4 else e, d)).find? fun r => r.1 != 0

/-- A write of PWR_DOM_CTL_LO or _HI (R513). -/
def domCtlWrite (s : State) (hi : Bool) (v : W32) : State :=
  let new := if hi then { s.pwr with telReq := bit v 0 } else { s.pwr with req := v }
  match reqRefusal s new with
  | some (e, d) => modPwr s fun p => { p with err := BitVec.ofNat 4 e, errDom := BitVec.ofNat 6 d }
  | none => sequence { s with pwr := new }

def execDomainRequestWrite (hi : Bool) (via : Via) (v : W32) (s : State) : Host.Outcome State Fault Refusal :=
  .next (guarded s via (if hi then 0x90004 else 0x90000) fun s => domCtlWrite s hi v)

/-- A domain's supply leaves its window: off at once, marked, its request bit cleared (R517, R541). -/
def supplyOff (s : State) (d : Nat) : State :=
  let s := domainDown s d
  let s := modPwr s fun p => { p with
    fault := true, faultDom := BitVec.ofNat 6 d
    req := if d < 32 then setBit p.req d false else p.req
    telReq := p.telReq && d != 32
    busy := match p.busy with
      | some (b, up) => if b = d then none else some (b, up)
      | none => none }
  sequence (postReg s 7 none 0x9000C 25 (BitVec.ofNat 64 d))

/-! ### Ramp, cap and their registers (R518 to R523, R537 to R539) -/

/-- A write of PWR_RAMP. -/
def rampWrite (s : State) (v : W32) : State :=
  let rho : BitVec 4 := v.extractLsb' 24 4
  let loop := bit v 23
  let lMin : BitVec 3 := v.extractLsb' 20 3
  let hi : Byte := v.extractLsb' 8 8
  let lo : Byte := v.setWidth 8
  let err (e : BitVec 4) : State := modPwr s fun p => { p with rampErr := e }
  if loop && s.tel.mode != 1 then err 3
  else if rho == 15 || lMin == 0 || lo == 0 || hi.toNat ≤ lo.toNat then err 5
  else modPwr s fun p => { p with
    rho := rho, loopEn := loop, lMin := lMin, release := v.extractLsb' 16 4, tripHi := hi, tripLo := lo
    droop := if loop then p.droop else p.droop.map fun d => { d with level := 8, release := 0 } }

/-- A write of PWR_CAP: CAP = 0 lifts the ceiling at once; another cap acts at the next window end (R537). -/
def capWrite (s : State) (v : W32) : State :=
  let cap : BitVec 10 := v.extractLsb' 18 10
  if cap != 0 && (cap.toNat < 100 || 400 < cap.toNat) then modPwr s fun p => { p with capErr := 5 }
  else modPwr s fun p => { p with
    cap := cap, evtCap := bit v 17, ceil := if cap == 0 then 8 else p.ceil, below := if cap == 0 then 0 else p.below }

def execPwrCapWrite (via : Via) (v : W32) (s : State) : Host.Outcome State Fault Refusal :=
  .next (guarded s via 0x90014 fun s => capWrite s v)

/-- A write of PWR_DOM_STAT_HI: FAULT is W1C. -/
def domStatWrite (s : State) (v : W32) : State := modPwr s fun p => { p with fault := p.fault && !bit v 25 }

/-! ### The result queue (R531, R532) -/

/-- The stamp of an entry: BEAT, USLOT and GRID (Table 15-4). -/
def stamp (s : State) : Nat × Nat × Bool :=
  if !s.beat.gridSet then (0, 0, false)
  else if formed s then (s.beat.count.toNat % 2 ^ 17, (s.beat.ms - s.beat.startMs).toNat % 256, false)
  else (s.beat.ms.toNat / 256 % 2 ^ 17, s.beat.ms.toNat % 256, true)

/-- An entry made: queued, or dropped and counted where the queue is full. -/
def makeEntry (s : State) (channel range : Nat) (settling clip bad uncal : Bool) (value : Nat) : State :=
  if 512 ≤ s.tel.queue.length then modTel s fun t => { t with dropped := satInc t.dropped, ovf := true, lostNext := true }
  else
    let st := stamp s
    let w0 := word [(31, 1), (30, 1), (25, channel), (23, range), (22, boolNat settling), (21, boolNat clip),
      (20, boolNat bad), (19, boolNat uncal), (18, boolNat s.tel.lostNext), (17, boolNat st.2.2), (0, st.1)]
    modTel s fun t => { t with queue := t.queue ++ [⟨w0, word [(24, st.2.1), (0, value)]⟩], lostNext := false }

/-- A write of TEL_Q_STAT: FLUSH, and OVF W1C (R544). -/
def qStatWrite (s : State) (v : W32) : State :=
  let s := modTel s fun t => { t with ovf := t.ovf && !bit v 20, queue := if bit v 0 then [] else t.queue }
  if bit v 0 then { s with latches := s.latches.map fun l => { l with telHi := none } } else s

def execFlush (via : Via) (v : W32) (s : State) : Host.Outcome State Fault Refusal :=
  .next (guarded s via 0xA000C fun s => qStatWrite s (v ||| 1))

def execTelQHeadRead (via : Via) (s : State) : Host.Outcome State Fault Refusal := .next (readOut s via 0xA0008)

/-! ### Droop loop and current gate (R520 to R522) -/

/-- 512 times the droop in mV of a sample V, in half mV, against the samples 257 to 512 before it; 0 until there are 512. -/
def droopOf (prior : List Nat) (v : Nat) : Int :=
  if prior.length < 512 then 0 else ((((prior.drop 256).take 256).foldl (· + ·) 0 : Nat) : Int) - 256 * v

/-- The droop loop at a good sample (R521); steps up are taken by `stepUp`. -/
def droopStep (p : Pwr) (d : Droop) (v : Nat) : Droop :=
  let x := droopOf d.samples v
  let d := { d with samples := (v :: d.samples).take 512 }
  if !p.loopEn then d
  else if (512 * p.tripHi.toNat : Int) ≤ x then
    { d with release := 0, level := BitVec.ofNat 4 (min d.level.toNat (max p.lMin.toNat (d.level.toNat - 2))) }
  else if (512 * p.tripLo.toNat : Int) ≤ x then { d with release := 0 }
  else { d with release := min (8 * (p.release.toNat + 1)) (d.release + 1) }

/-- A good droop sample of a core whose domain is on: the loop, and the mean of the window (R535). -/
def droopSample (s : State) (n code : Nat) : State :=
  if !domainOn s n then s
  else
    let v := 1000 + code
    modTel (modPwr s fun p => { p with droop := vmod p.droop n fun d => droopStep p d v }) fun t =>
      { t with droopSum := t.droopSum + v, droopCount := t.droopCount + 1 }

/-- The release count has reached its threshold and the gate is open: one step up (R521, R522). -/
def stepUp (s : State) (n : Nat) : State :=
  modPwr s fun p => { p with droop := vmod p.droop n fun d =>
    if p.loopEn && p.gateOpen && 8 * (p.release.toNat + 1) ≤ d.release then
      { d with level := BitVec.ofNat 4 (min 8 (d.level.toNat + 1)), release := 0 }
    else d }

def execDroopStepUp (core : CoreId) (s : State) : Host.Outcome State Fault Refusal :=
  .next (if domainOn s core.val && domainOn s 32 then stepUp s core.val else s)

/-- Full scale in A of a current channel (16 to 19) in a range (Table 15-3). -/
def fullScale (channel range : Nat) : Nat := 2 ^ (5 - (if channel = 16 then 0 else channel - 15)) * 4 ^ range

/-- The current gate at a good core-rail sample: the rise since the good sample 32 before it (R522). -/
def gateSample (s : State) (x : Nat) : State :=
  modPwr s fun p => { p with
    currents := (x :: p.currents).take 32
    gateOpen := match p.currents[31]? with
      | some y => decide (x ≤ y + 64 * 1024)
      | none => true }

/-! ### The fast converter (R524 to R530) -/

/-- A current channel's range changed. -/
def modRange (s : State) (i : Nat) (f : Range → Range) : State := modTel s fun t => { t with ranges := vmod t.ranges i f }

/-- A range that a channel enters afresh. -/
def Range.enter (r : Range) (cur : BitVec 2) : Range := { r with cur := cur, held := 0, high := 0, low := 0, due := none }

/-- The range of a channel, and whether its next sample carries SETTLING. -/
def rangeOf (s : State) (channel : Nat) : Range := s.tel.ranges.toList.getD (channel - 16) Range.reset
def settling (s : State) (channel : Nat) : Bool := 16 ≤ channel && (rangeOf s channel).held < 4

/-- A sample of a current channel counted, and autoranging's decision (R527, R528). -/
def rangeSample (r : Range) (code : Nat) (clip : Bool) : Range :=
  let r := { r with
    held := min 256 (r.held + 1), high := if 960 ≤ code || clip then min 8 (r.high + 1) else 0
    low := if code ≤ 192 then min 8 (r.low + 1) else 0 }
  if !r.auto || r.held < 256 then r
  else if r.high = 8 && r.cur != 2 then { r with due := some true }
  else if r.low = 8 && r.cur != 0 then { r with due := some false }
  else r

/-- A slice whose correction exceeds its limit becomes bad, with an event (R526). -/
def markBad (s : State) (slice : Nat) : State :=
  if bit s.tel.bad slice then s
  else postReg (modTel s fun t => { t with bad := setBit t.bad slice true }) 7 none 0xA0014 (16 + slice) (BitVec.ofNat 64 slice)

/-- One conversion in continuous mode (R524). -/
def fastConversion (s : State) (channel slice code : Nat) (clip exceeds : Bool) : State :=
  if !domainOn s 32 || s.tel.mode != 1 then s
  else
    let s := if exceeds then markBad s slice else s
    let s := if channel = 0 then modTel s fun t => { t with lpActing := t.lp } else s
    let bad := bit s.tel.bad slice
    let settle := settling s channel
    let range := if channel < 16 then 0 else (rangeOf s channel).cur.toNat
    let s := modTel s fun t => { t with counts := vmod t.counts channel (· + 1) }
    let n := s.tel.counts.toList.getD channel 0
    let s := if bit s.tel.sel channel && n % 2 ^ s.tel.qdiv.toNat = 0 then
        makeEntry s channel range settle clip bad (!s.tel.convSeen) code else s
    if channel < 16 then (if bad then s else droopSample s channel code)
    else
      let s := if channel = 16 && !settle && !bad then gateSample s (code * fullScale 16 range) else s
      modRange s (channel - 16) fun r => rangeSample r code clip

def execFastConversion (channel : Fin 20) (slice : Fin 8) (code : BitVec 10) (clip badSlice : Bool) (s : State) :
    Host.Outcome State Fault Refusal := .next (fastConversion s channel.val slice.val code.toNat clip badSlice)

/-- A range step that has been decided takes effect (R527). -/
def rangeStep (r : Range) : Range :=
  match r.due with
  | some up => if r.auto then r.enter (if up then r.cur + 1 else r.cur - 1) else { r with due := none }
  | none => r

def execRangeStep (channel : Fin 4) (s : State) : Host.Outcome State Fault Refusal :=
  .next (if s.tel.mode == 1 && domainOn s 32 then modRange s channel.val rangeStep else s)

def execCalibrationConverged (s : State) : Host.Outcome State Fault Refusal :=
  .next (if domainOn s 32 && s.tel.mode == 1 then modTel s fun t => { t with conv := true, convSeen := true } else s)

/-- TEL_FAST_CTL.ERR set by a refused write of the block (R540). -/
def telErr (s : State) (e : BitVec 4) : State := modTel s fun t => { t with err := e }

/-- A write of TEL_FAST_CTL (R529). -/
def fastCtlWrite (s : State) (v : W32) : State :=
  let mode : BitVec 2 := v.extractLsb' 26 2
  if (mode != 1 && s.pwr.loopEn) || (bit v 24 && (mode != 2 || s.tel.soft)) then telErr s 3
  else if mode == 3 then telErr s 5
  else modTel s fun t => { t with
    mode := mode, lp := bit v 25, qdiv := v.extractLsb' 20 4, sel := v.setWidth 20, counts := Vector.replicate 20 0
    frozen := mode != 1, soft := (t.soft && mode == 2) || bit v 24 }

def execStart (via : Via) (v : W32) (s : State) : Host.Outcome State Fault Refusal :=
  .next (guarded s via 0xA0000 fun s => fastCtlWrite s (v ||| 0x1000000))

/-- The entries of a software conversion: each selected channel once, in order, on slices in rotation (R529). -/
def softEntries : Nat → State → List Nat → List (BitVec 10 × Bool) → State
  | i, s, ch :: chs, (code, clip) :: cs =>
    let slice := i % (if s.tel.lpActing then 2 else 8)
    let range := if ch < 16 then 0 else (rangeOf s ch).cur.toNat
    let s := makeEntry s ch range (settling s ch) clip (bit s.tel.bad slice) (!s.tel.convSeen) code.toNat
    let s := if ch < 16 then s else modRange s (ch - 16) fun r => { r with held := min 256 (r.held + 1) }
    softEntries (i + 1) s chs cs
  | _, s, _, _ => s

/-- A software conversion ends and the converter powers down. -/
def softConversion (s : State) (codes : List (BitVec 10 × Bool)) : State :=
  if !domainOn s 32 || !s.tel.soft then s
  else
    let s := modTel s fun t => { t with lpActing := t.lp, soft := false }
    softEntries 0 s ((List.range 20).filter fun j => bit s.tel.sel j) codes

def execSoftConversion (codes : List (BitVec 10 × Bool)) (s : State) : Host.Outcome State Fault Refusal :=
  .next (softConversion s codes)

/-- A write of TEL_CAL_STAT: RECAL (R525, R526). -/
def calStatWrite (s : State) (v : W32) : State :=
  if !bit v 29 then s
  else if s.tel.mode != 1 then telErr s 3
  else modTel s fun t => { t with conv := false, bad := 0 }

def execRecal (via : Via) (v : W32) (s : State) : Host.Outcome State Fault Refusal :=
  .next (guarded s via 0xA0014 fun s => calStatWrite s (v ||| 0x20000000))

/-- A write of TEL_RANGE; a change of AUTO or FIXED counts as a change of range (R527). -/
def rangeWrite (s : State) (v : W32) : State :=
  if (List.range 4).any fun i => bits v (8 * i + 5) 2 = 3 then telErr s 5
  else (List.range 4).foldl (fun s i => modRange s i fun r =>
    let auto := bit v (8 * i + 7)
    let fixed : BitVec 2 := BitVec.ofNat 2 (bits v (8 * i + 5) 2)
    if auto == r.auto && fixed == r.fixed then r
    else { r with auto := auto, fixed := fixed }.enter (if auto then r.cur else fixed)) s

/-- A write of TEL_SLOW_CTL. -/
def slowCtlWrite (s : State) (v : W32) : State :=
  let mb : BitVec 9 := v.extractLsb' 19 9
  if 384 ≤ mb.toNat && mb.toNat ≤ 510 then telErr s 5
  else modTel s fun t => { t with accMb := mb, ncyc := v.extractLsb' 15 4, en := bit v 14 }

/-! ### MAINS_REF (R534) -/

/-- Lock is lost, with an event. -/
def mainsLost (s : State) : State :=
  if s.tel.locked then
    postReg (modTel s fun t => { t with locked := false, lost := true, periods := [] }) 7 none 0xA0018 30 0
  else modTel s fun t => { t with periods := [] }

/-- A rising edge that ends a period of `p` tenths of a microsecond. -/
def mainsEdge (s : State) (p : Nat) : State :=
  let s := modTel s fun t => { t with period := BitVec.ofNat 24 p }
  if p < 151500 || 222200 < p then mainsLost s
  else
    let ps := (p :: s.tel.periods).take 4
    let hi := ps.foldl max 0
    let lo := ps.foldl min p
    modTel s fun t => { t with
      periods := ps, locked := t.locked || (ps.length == 4 && decide (100 * (hi - lo) ≤ lo)) }

def execMainsRefEdge (period : Nat) (s : State) : Host.Outcome State Fault Refusal :=
  .next (if domainOn s 32 then mainsEdge s period else s)

def execMainsLostTimeout (s : State) : Host.Outcome State Fault Refusal :=
  .next (if domainOn s 32 && s.tel.locked then mainsLost s else s)

/-- A write of TEL_MAINS: LOST is W1C. -/
def mainsWrite (s : State) (v : W32) : State := modTel s fun t => { t with lost := t.lost && !bit v 30 }

/-! ### Windows, energy and the cap (R533 to R537) -/

/-- A quotient in whole units: the manual gives no rounding, and either neighbour is taken (assumption log 1). -/
def roundFree (draw num den : Nat) : Nat :=
  if num % den = 0 then num / den else if Config.freeBool draw then num / den + 1 else num / den

/-- The core rail's voltage as a sum of samples in half mV and their count; a window without one has a free voltage. -/
def coreVolts (s : State) : Nat × Nat :=
  if s.tel.droopCount = 0 then (Config.freeNat s.draw, 1) else (s.tel.droopSum, s.tel.droopCount)

/-- Voltage of a rail as a fraction of half mV (R535). -/
def railVolts (s : State) (r : Nat) : Nat × Nat := match r with
  | 0 => coreVolts s
  | 1 => (1500, 1)
  | 2 => (2400, 1)
  | _ => (6600, 1)

/-- Mean power of a rail in mW, as a fraction. -/
def railPower (s : State) (w : SlowWindow) (r : Nat) : Nat × Nat :=
  let v := railVolts s r
  ((w.codes.toList.getD r 0).toNat * fullScale (16 + r) 2 * v.1, 2 ^ 25 * v.2)

/-- Energy of a rail over the window in µJ. -/
def railEnergy (s : State) (w : SlowWindow) (r : Nat) : Nat :=
  let p := railPower s w r
  roundFree (s.draw + 1 + r) (p.1 * w.len) (10000 * p.2)

/-- Energy of a context in µJ (R536). -/
def ctxEnergy (s : State) (w : SlowWindow) (t : Nat) : Nat :=
  let all := w.activity.toList.foldl (· + ·) w.idle
  let den := all + 64 * 180 * w.len
  if den = 0 then 0 else roundFree (s.draw + 5 + t) (railEnergy s w 0 * (w.activity.toList.getD t 0)) den

/-- The energy counts after a window (Table 15-5). -/
def energyAfter (s : State) (w : SlowWindow) : Energy :=
  let e := s.tel.energy
  let given := (List.range 16).foldl (fun a t => a + ctxEnergy s w t) 0
  { e with
    windows := e.windows + 1, mains := w.locked, winLen := BitVec.ofNat 32 w.len
    rail := Vector.ofFn fun r : Fin 4 => e.rail[r] + BitVec.ofNat 64 (railEnergy s w r.val)
    ctx := Vector.ofFn fun t : Fin 16 => e.ctx[t] + BitVec.ofNat 64 (ctxEnergy s w t.val)
    shared := e.shared + BitVec.ofNat 64 (railEnergy s w 0) - BitVec.ofNat 64 given
    throttled := Vector.ofFn fun n : Fin 16 => e.throttled[n] + BitVec.ofNat 64 w.slowed[n]
    gated := e.gated + BitVec.ofNat 64 w.gated
    power := Vector.ofFn fun r : Fin 4 =>
      let p := railPower s w r.val
      BitVec.ofNat 32 (roundFree (s.draw + 21 + r.val) p.1 p.2) }

/-- The energy table's bytes (Table 15-5). -/
def energyTable (e : Energy) (capActive : Bool) : List Byte :=
  leBytes 8 e.seq.toNat ++ leBytes 8 e.windows.toNat ++ leBytes 4 (boolNat e.mains + 2 * boolNat capActive) ++
  leBytes 4 e.winLen.toNat ++ leBytes 8 0 ++ e.rail.toList.flatMap (fun x => leBytes 8 x.toNat) ++
  e.ctx.toList.flatMap (fun x => leBytes 8 x.toNat) ++ leBytes 8 e.shared.toNat ++ leBytes 56 0 ++
  e.throttled.toList.flatMap (fun x => leBytes 8 x.toNat) ++ leBytes 8 e.gated.toNat ++ leBytes 8 0 ++
  e.power.toList.flatMap (fun x => leBytes 4 x.toNat)

/-- The energy table is updated where ACC_MB names SYS frames; else the update is skipped, with one event a second (R535). -/
def energyWrite (s : State) : State :=
  let mb := s.tel.accMb.toNat
  if mb = 0x1FF then s
  else if !inSys s (0x100000 * mb) 4096 then
    let due : Bool := match s.tel.skipAt with
      | none => true
      | some c => c.toNat + 1800000000 ≤ s.clock.toNat
    if due then postReg (modTel s fun t => { t with skipAt := some s.clock }) 7 none 0xA0004 19 0 else s
  else
    let s := modTel s fun t => { t with energy := { t.energy with seq := t.energy.seq + 2 } }
    cupWrite s (0x100000 * mb) (energyTable s.tel.energy (s.pwr.ceil.toNat < 8)) none

/-- The cap compared with the window's total power (R537). -/
def capStep (s : State) (num den : Nat) : State :=
  let cap := s.pwr.cap.toNat
  let s := modPwr s fun p => { p with power := BitVec.ofNat 9 (min 511 (roundFree (s.draw + 25) num (1000 * den))) }
  if cap = 0 then s
  else if 1000 * cap * den < num then
    let was := s.pwr.ceil
    let s := modPwr s fun p => { p with ceil := BitVec.ofNat 4 (max 1 (p.ceil.toNat - 1)), below := 0 }
    if was == 8 && s.pwr.evtCap then postReg s 7 none 0x90014 13 0 else s
  else if num < 950 * cap * den then
    if 1 ≤ s.pwr.below then modPwr s fun p => { p with ceil := BitVec.ofNat 4 (min 8 (p.ceil.toNat + 1)), below := 0 }
    else modPwr s fun p => { p with below := 1 }
  else modPwr s fun p => { p with below := 0 }

/-- A slow window ends: four entries, energy, cap and table (R531, R533 to R537). -/
def slowWindowEnd (s : State) (w : SlowWindow) : State :=
  if !domainOn s 32 || !s.tel.en then s
  else
    let e := energyAfter s w
    let total := (List.range 4).foldl (fun a r =>
      let p := railPower s w r
      (a.1 * p.2 + p.1 * a.2, a.2 * p.2)) (0, 1)
    let s := (List.range 4).foldl (fun s r =>
      makeEntry s (20 + r) 2 false (!w.locked) false false (w.codes.toList.getD r 0).toNat) s
    let s := modTel s fun t => { t with energy := e, droopSum := 0, droopCount := 0 }
    (energyWrite (capStep s total.1 total.2)).drawn 26

def execSlowWindowEnd (w : SlowWindow) (s : State) : Host.Outcome State Fault Refusal := .next (slowWindowEnd s w)

end Sys2Proof.Machine
end

