-- ==== Sys2Proof/Machine/Send.lean ====
section
/-! DEFINITION. Machine/Send.lean: frames sent on a link, and the priority window (R56, R380 to R388, R394). -/

namespace Sys2Proof.Machine

/-! ### Sending frames (R380 to R388) -/

/-- A frame travels as an 80-byte short frame (Table 11-7). -/
def isShort : Body → Bool
  | .bulkCtl _ => true
  | b => isPrio b

/-- Units of 0.08 ns that a frame takes on the wire (R365). -/
def wireTime (b : Body) : Nat := if isShort b then 5 else 16

/-- The retry buffer has a place for a frame of a size (R382). -/
def retryRoom (q : Port) (short : Bool) : Bool :=
  let n := ((q.bulk.retry ++ q.prio.retry).filter fun r => isShort r.frame.body == short).length
  decide (n < if short then 512 else 1536)

/-- A credit is held for a VC code (R388). -/
def creditFor (q : Port) (code : Nat) : Bool :=
  let used := (q.sent.toList.getD code 0 + 65536 - q.freed.toList.getD code 0 % 65536) % 65536
  decide ((if 32768 ≤ used then 0 else used) < if code < 2 then 1536 else 256)

/-- What goes out on the wire. -/
def wireOut (p : Nat) (f : Frame) (bad : Bool) : Out := if bad then .badFlit p else .frame p f

/-- An output has sent a frame: its BLOCKED bit clears (R394). -/
def hasSent (s : State) (p : Nat) : State :=
  { modPort s p fun q => { q with sentAny := true } with hut := { s.hut with blocked := setBit s.hut.blocked p false } }

/-- A new frame goes out: numbered, kept for retransmission, its credit taken. -/
def sendFrame (s : State) (p : Nat) (prio : Bool) (f : Frame) (bad : Bool) : State :=
  let f := { f with seq := (classOf (portAt s p) prio).next }
  let s := modPort (hasSent s p) p fun q =>
    { modClass q prio fun c => { c with
        next := (c.next + 1) % 4096, retry := c.retry ++ [⟨f, 0, false, s.beat.count, bad⟩] } with
      sent := vmod q.sent (vcCode prio f.vc) fun n => (n + 1) % 65536 }
  s.emit (wireOut p f bad)

/-- A frame named in a NAK goes out again: counted, with the event of every 4,096th (R384, Table 11-10). -/
def sendAgain (s : State) (p : Nat) (prio : Bool) (r : TxRec) : State :=
  let old := (portAt s p).retx
  let s := modLink (hasSent s p) p prio fun c => { c with
    retry := c.retry.map fun x => if x.frame.seq = r.frame.seq then { x with tries := x.tries + 1, again := false } else x }
  let s := modPort s p fun q => { q with retx := satInc q.retx }
  let q := portAt s p
  let s := if q.evtRetx && q.retx != old && q.retx.toNat % 4096 = 0 then postReg s 3 none (afvReg p 0x10) 16 0 else s
  s.emit (wireOut p r.frame r.bad)

/-- The frame of a class to be sent again first. -/
def nextAgain (q : Port) (prio : Bool) : Option TxRec := (classOf q prio).retry.find? (·.again)

/-! ### The priority window (R56, R387) -/

/-- Priority frames of one window: retransmissions first, then the queue; `sent` so far. -/
def prioWindow : Nat → State → Nat → Nat → State × Nat
  | 0, s, _, sent => (s, sent)
  | k + 1, s, p, sent =>
    let q := portAt s p
    match nextAgain q true with
    | some r => prioWindow k (sendAgain s p true r) p (sent + 1)
    | none => match q.prioOut with
      | [] => (s, sent)
      | o :: rest =>
        if retryRoom q true && creditFor q (vcCode true o.frame.vc) then
          prioWindow k (freeInput (sendFrame (modPort s p fun q => { q with prioOut := rest }) p true o.frame false) o) p (sent + 1)
        else (s, sent)

/-- The priority window of a port, shut while its class is stopped; the most frames of one window are kept (R56, R58, R69). -/
def openPrio (s : State) (p : Nat) : State :=
  if classStopped s p true then s
  else
    let r := prioWindow 128 s p 0
    modPort r.1 p fun q => { q with prioPeak := if q.prioPeak.toNat < r.2 then BitVec.ofNat 16 r.2 else q.prioPeak }

/-- A port of the partition that is UP and its priority window. -/
def lastPrio (s : State) (p : Nat) : State :=
  if admittedPort s p && (portAt s p).state == 3 then openPrio s p else s

end Sys2Proof.Machine
end

