-- ==== Sys2Proof/Machine/Life.lean ====
section
/-! DEFINITION. Machine/Life.lean: the life of the chip (chapter 16): start-up, formation and its confirmation, chip faults, dark
links and fences, firmware, and resets. -/

namespace Sys2Proof.Machine

/-- The GLB block changed. -/
def modGlb (s : State) (f : Glb → Glb) : State := { s with glb := f s.glb }

/-- The tray index of a chip of the table. -/
def trayNo (s : State) (c : Coord) : Nat := match table? s with
  | some t => trayIndex t c
  | none => 0

/-! ### Pins (Table 19-2, R26, R622) -/

/-- WADMIT: driven high while the chip is a member of a formed partition. -/
def wadmit (s : State) : Bool := s.glb.state == 7

/-- The bypass of the chip's W line is open: the tray's power is good, FENCE_N is high, driven low neither by this chip nor by
another driver of the pin, and the chip drives WADMIT (R26, R622). -/
def bypassOpen (s : State) (powerGood fenceOther : Bool) : Bool := powerGood && !s.fenceN && !fenceOther && wadmit s

/-! ### Chip faults and fenced chips (R551, R566) -/

/-- The service root and the service standby (R567). -/
def roles (s : State) : List Coord := s.own.serviceRoot.toList ++ s.own.serviceStandby.toList

/-- A chip enters FENCED or FAULTED with its cause: as a MEMBER it requests its fence, in the priority window that its ports have
before they go off, and asserts FENCE_N (R56, R566, R622; assumption log 66); every core, every port and, when FAULTED, the beat
unit stop. -/
def chipFault (s : State) (st cause : BitVec 4) : State :=
  if stopped s then s
  else
    let me := selfOf s
    let member := s.glb.state == 7
    let s := if member then
        (List.range 10).foldl lastPrio (sendAll s ((roles s).filter (· != me)) (.fenceReq ⟨trayNo s me, cause.toNat, me⟩))
      else s
    let s := (List.range 16).foldl creset s
    let s := if st == 8 then { s with beat := { s.beat with state := 5 } } else stopBeat s
    { modGlb s fun g => { g with state := st, cause := cause, wait := 0, fwLoad := none } with
      ports := s.ports.map fun q => toOff { q with enable := false, attempts := 0 }
      fenceN := s.fenceN || member }

/-- A supply leaves its window (R517): a core's domain fails alone; any other is a chip fault. -/
def supplyFault (s : State) (d : Nat) : State :=
  if !bit s.pwr.on d && !(s.pwr.busy.any fun b => b.1 == d) then s
  else if d < 16 then supplyOff (creset s d) d
  else chipFault (supplyOff s d) 9 3

def execSupplyFault (domain : Fin 36) (s : State) : Host.Outcome State Fault Refusal := .next (supplyFault s domain.val)

/-- RELOCK has not ended within 64 beats or grid frames (R71). -/
def execRelockLimit (s : State) : Host.Outcome State Fault Refusal :=
  .next (if s.beat.state == 4 && 64 ≤ s.beat.relockAge then chipFault s 8 5 else s)

def execThermtrip (s : State) : Host.Outcome State Fault Refusal := .next { s with thermtrip := true }

/-! ### Start-up (R550 to R555) -/

/-- The fuse map is loaded: the sequencer starts; a map that fails its check faults the chip (R550, R551). -/
def fuseLoadEnd (s : State) (m : Option FuseMap) : State :=
  if s.glb.state != 0 || s.glb.resetHeld then s
  else match m with
    | none => chipFault (modGlb s fun g => { g with fuseFail := true }) 9 1
    | some m => advanceBoot (sequence (modGlb s fun g => { g with fuses := m, fuseDone := true, state := 1 }))

def execFuseLoadEnd (map : Option FuseMap) (s : State) : Host.Outcome State Fault Refusal := .next (fuseLoadEnd s map)

/-- An image may be booted (R557). -/
def imageValid (w : FwStore) (i : Option FwImage) : Bool :=
  i.any fun x => x.wellFormed && decide (w.floor.toNat ≤ x.version.toNat)

/-- The image of a slot of the firmware store. -/
def FwStore.slot (w : FwStore) (one : Bool) : Option FwImage := if one then w.slot1 else w.slot0

/-- FW_ALT: the slot other than the booted one holds a valid image. -/
def setFwAlt (s : State) : State := modGlb s fun g => { g with fwAlt := imageValid s.fw (s.fw.slot !g.fwSlot) }

/-- The management core has verified and started an image, the current slot's first, and enables the ports (R550, R552). -/
def bootEnd (s : State) : State :=
  if s.glb.state != 3 then s
  else
    let cur := s.fw.current1
    let pick := if imageValid s.fw (s.fw.slot cur) then some cur
      else if imageValid s.fw (s.fw.slot !cur) then some !cur else none
    match pick with
    | none => chipFault s 9 2
    | some one =>
      let s := setFwAlt (modGlb s fun g => { g with
        state := 4, fwSlot := one, fwVersion := ((s.fw.slot one).map (·.version)).getD 0 })
      (List.range 10).foldl (fun s p =>
        if domainOn s (20 + p) && !(portAt s p).enable then modPort s p enablePort else s) s

def execBootEnd (s : State) : Host.Outcome State Fault Refusal := .next (bootEnd s)

def execWatchdogExpiry (s : State) : Host.Outcome State Fault Refusal :=
  .next (if 3 ≤ s.glb.state.toNat then chipFault s 9 4 else s)

/-- Every condition of R555 holds. -/
def chipReady (s : State) : State :=
  if s.glb.state == 4 && waitCode s == 0 then joinChanged (modGlb s fun g => { g with state := 5, wait := 0 }) else s

def execChipReady (s : State) : Host.Outcome State Fault Refusal := .next (chipReady s)

def execJoin (via : Via) (v : W32) (s : State) : Host.Outcome State Fault Refusal :=
  .next (guarded s via 0x8 fun s => glbStateWrite s v)

/-! ### Forming a partition (R559 to R563) -/

/-- FORM_DOWN received, or decided here: passed on, and with RESULT 0 in time the chip is a MEMBER (R561, R562). -/
def formDownIn (s : State) (f : FormDownFrame) : State :=
  match s.glb.instant with
  | none => s
  | some m =>
    if s.glb.state != 6 || f.m != m || s.glb.confirmed then s
    else
      let s := sendAll s s.own.children (.formDown f)
      if f.result = 0 && s.beat.ms.toNat ≤ m.toNat + 8000 then
        let s := { modGlb s fun g => { g with state := 7, wait := 0, confirmed := true } with
          own := { s.own with svcLat := f.svcLat } }
        if isRoot s then releaseWaiting s else s
      else s

/-- All of its children's FORM_UP held, the chip passes the sum to its parent, or decides as the root (R561). -/
def formTry (s : State) : State :=
  match s.glb.instant, s.glb.formUp with
  | some m, some u =>
    if s.glb.formUps != s.own.children.length then s
    else
      let s := modGlb s fun g => { g with formUp := none }
      match s.own.parent with
      | some p => sendPrio s p (.formUp u)
      | none =>
        let members := match table? s, s.glb.part with
          | some t, some v => (membersOf t v).length
          | _, _ => 0
        if u.count = members && u.pmin = u.pmax && u.hmin == u.hmax && s.beat.ms.toNat ≤ m.toNat + 4000 then
          let s := newSvcLat s
          formDownIn s ⟨0, s.own.svcLat, m⟩
        else formDownIn s ⟨1, 0, m⟩
  | _, _ => s

/-- The chip forms its partition at the instant `m` (R560, R563). -/
def formAt (s : State) (t : Table) (b : PartRec) (planes : List Nat) (m : W64) : State :=
  let s := clearSettings (changeEpoch s (BitVec.ofNat 32 (m.toNat / 2 ^ 20)))
  let h : W64 := t.hash.setWidth 64
  let p := s.beat.nextM1
  let id : BitVec 11 := BitVec.ofNat 11 (((t.trays[t.tray]?).map (·.partition)).getD 0)
  let s := { s with
    own := { s.own with
      valid := true, partId := id, state := 1, owner := 0, leaseX := none, force := none, orders := [], nextSeq := 0
      awaiting := [], stage := { discardChange s.own.stage with change := 0 } }
    beat := { s.beat with
      count := 0, curM1 := p, startMs := m, gridMs := m, startClock := s.clock,
      ports := s.beat.ports.map fun b => { b with fresh := false, sentHeader := false } }
    glb := { s.glb with
      part := some ⟨b, planes, []⟩, instant := some m, confirmed := false, formUps := 0, wait := 0
      formUp := some ⟨1, p.toNat, p.toNat, h, h, m⟩, darkSent := 0, reports := [], fences := [] } }
  let s := buildTree (setLoopback s (b.wext == 1 || t.lw == 1))
  let s := { s with beat := { s.beat with admitted := partPorts s } }
  formTry (if isRoot s then takeRoot s else s)

/-- A formation instant (R559): a FORMING chip forms, unless it has left READY's conditions. -/
def formationInstant (s : State) : State :=
  let m := s.beat.ms
  if m.toNat = 0 || m.toNat % 2 ^ 20 != 0 || s.glb.state != 6 || s.glb.instant.isSome then s
  else if waitCode s != 0 then modGlb s fun g => { g with state := 4, wait := 0 }
  else match table? s with
    | none => s
    | some t => match partOf t t.self with
      | none => s
      | some b =>
        let planes := planesNow s t b
        if planes.contains t.self.w then formAt s t b planes m else s

def execFormationInstant (s : State) : Host.Outcome State Fault Refusal := .next (formationInstant s)

/-- FORM_UP of a child, combined (R561). -/
def formUpIn (s : State) (src : Coord) (f : FormUpFrame) : State :=
  match s.glb.formUp with
  | none => s
  | some u =>
    if s.glb.state != 6 || s.glb.instant != some f.m || !s.own.children.contains src then s
    else formTry (modGlb s fun g => { g with
      formUps := g.formUps + 1
      formUp := some ⟨u.count + f.count, min u.pmin f.pmin, max u.pmax f.pmax,
        if f.hmin.toNat < u.hmin.toNat then f.hmin else u.hmin, if u.hmax.toNat < f.hmax.toNat then f.hmax else u.hmax, u.m⟩ })

def execFormUp (src : Coord) (f : FormUpFrame) (s : State) : Host.Outcome State Fault Refusal := .next (formUpIn s src f)

/-- At m + 4 ms a root without all of its children's FORM_UP refuses the formation (R561). -/
def formConfirmTimeout (s : State) : State :=
  match s.glb.instant, s.glb.formUp with
  | some m, some _ =>
    if isRoot s && m.toNat + 4000 ≤ s.beat.ms.toNat then
      formDownIn (modGlb s fun g => { g with formUp := none }) ⟨1, 0, m⟩
    else s
  | _, _ => s

def execFormConfirmTimeout (s : State) : Host.Outcome State Fault Refusal := .next (formConfirmTimeout s)

def execFormDown (f : FormDownFrame) (s : State) : Host.Outcome State Fault Refusal := .next (formDownIn s f)

/-- The first beat start after m + 8 ms without confirmation: the chip leaves and is FORMING again (R562). -/
def formUnconfirmed (s : State) : State :=
  match s.glb.instant with
  | none => s
  | some m =>
    if s.glb.state != 6 || s.beat.startMs.toNat ≤ m.toNat + 8000 then s
    else
      let s := leavePartition (postReg s 6 none 0x8 20 m) 6
      joinChanged (modGlb s fun g => { g with wait := 9 })

def execFormUnconfirmedTimeout (s : State) : Host.Outcome State Fault Refusal := .next (formUnconfirmed s)

/-! ### Dark links and fences (R567 to R570, R585 to R588) -/

/-- This chip decides the fence of a tray: the root, and for the root's own tray the standby, where there is one (R567). -/
def decides (s : State) (tray : Nat) : Bool :=
  match s.own.serviceRoot, s.own.serviceStandby with
  | some r, some b => if tray = trayNo s r then b == selfOf s else r == selfOf s
  | some r, none => r == selfOf s
  | _, _ => false

/-- A tray of the partition's box (R568). -/
def trayOfPart (s : State) (tray : Nat) : Option (Table × PartView × TrayRec) :=
  match table? s, s.glb.part with
  | some t, some v => match t.trays[tray]? with
    | some r => if trayInBox v.box r then some (t, v, r) else none
    | none => none
  | _, _ => none

/-- A tray is fenced, or its fence is scheduled. -/
def fenceKnown (s : State) (tray : Nat) : Bool := s.glb.fenced.contains tray || s.glb.fences.any fun x => x.tray == tray

/-- The members that a fence of a tray and those scheduled before it leave (R570). -/
def membersAfter (s : State) (t : Table) (v : PartView) (w : Nat) : List Coord :=
  if v.box.wext = 1 then []
  else
    let gone := s.glb.fences.filterMap fun x => (t.trays[x.tray]?).map (·.w)
    membersOf t { v with left := v.left ++ gone ++ [w] }

/-- A coordinate drawn freely, where the fence leaves no chip to name. -/
def freeCoord (s : State) : Coord := unpackCoord (Config.freeNat s.draw % 32768)

/-- The decider fences a tray: FENCE to every member, with the effective beat and the roles that hold after it (R445, R570). -/
def decideFence (s : State) (tray cause : Nat) : State :=
  match trayOfPart s tray with
  | none => s
  | some (t, v, r) =>
    if fenceKnown s tray then s
    else
      let ms := membersAfter s t v r.w
      let root := ms.head?
      let standby := ms.find? fun c => some (trayIndex t c) != root.map (trayIndex t)
      let nr := root.getD (freeCoord s)
      let s := if root.isSome then s else s.drawn 1
      let ns := standby.getD (freeCoord s)
      let s := if standby.isSome then s else s.drawn 1
      let e := effectiveBeat s
      let s := modGlb s fun g => { g with fences := g.fences ++ [⟨tray, cause, e, nr, ns⟩] }
      sendAll s ((membersOf t v).filter (· != selfOf s)) (.fence ⟨tray, cause, nr, e, ns⟩)

/-- A FENCE_REQ at the decider of a confirmed partition (R570, R585). -/
def fenceReqIn (s : State) (f : FenceReqFrame) : State :=
  if s.glb.state == 7 && decides s f.tray then decideFence s f.tray f.cause else s

def execFenceReq (f : FenceReqFrame) (s : State) : Host.Outcome State Fault Refusal := .next (fenceReqIn s f)

/-- A DARK frame at the decider: two distinct reporters declare the named chip lost (R569, R588). -/
def darkIn (s : State) (f : DarkFrame) : State :=
  let tray := trayNo s f.named
  if s.glb.state != 7 || !decides s tray || fenceKnown s tray || s.glb.reports.contains (f.named, f.reporter) then s
  else
    let s := modGlb s fun g => { g with reports := g.reports ++ [(f.named, f.reporter)] }
    if 2 ≤ (s.glb.reports.filter fun r => r.1 == f.named).length then decideFence s tray 6 else s

def execDark (f : DarkFrame) (s : State) : Host.Outcome State Fault Refusal := .next (darkIn s f)

/-- A frame for the service root and the service standby; this chip's own copy is acted on here. -/
def toRoles (s : State) (b : Body) (here : State → State) : State :=
  (roles s).foldl (fun s d => if d == selfOf s then here s else sendPrio s d b) s

/-- A partition link has been dark for the time of GLB_STATE.DARK: reported once until it delivers again (R569). -/
def darkTimeout (s : State) (p : Nat) : State :=
  match table? s, s.glb.part with
  | some t, some v =>
    match linkFar t v t.self p with
    | some (far, _) =>
      if s.glb.state != 7 || !bit s.beat.admitted p || bit s.glb.darkSent p || far == t.self then s
      else
        let f : DarkFrame := ⟨t.self, far, p, s.beat.ms⟩
        toRoles (modGlb s fun g => { g with darkSent := setBit g.darkSent p true }) (.dark f) fun s => darkIn s f
    | none => s
  | _, _ => s

def execDarkTimeout (port : PortId) (s : State) : Host.Outcome State Fault Refusal := .next (darkTimeout s port.val)

/-- A FENCE frame: passed down the tree and scheduled for its effective beat, once (R570). -/
def fenceIn (s : State) (f : FenceFrame) : State :=
  if !formed s || stopped s || fenceKnown s f.tray then s
  else
    let s := modGlb s fun g => { g with fences := g.fences ++ [⟨f.tray, f.cause, f.effective, f.newRoot, f.newStandby⟩] }
    sendAll s s.own.children (.fence f)

def execFenceFrame (f : FenceFrame) (s : State) : Host.Outcome State Fault Refusal := .next (fenceIn s f)

/-- The acting root reports the loss of the standby where the fenced tray holds it (R85, assumption log 21). -/
def standbyFenced (s : State) (tray : Nat) : State :=
  if s.beat.acting && !s.beat.standbyLost && (table? s).any (fun t => trayIndex t t.standby == tray && t.standby != t.self) then
    postNone { s with beat := { s.beat with standbyLost := true } } 1 none 0
  else s

/-- A remaining member at the effective beat: the plane leaves the tree, the ring's neighbours of the gap are no longer
admitted, and a staged change is aborted (R570, R575, R586). -/
def outlive (s : State) (v : PartView) (tray w : Nat) : State :=
  let wasRoot := isRoot s
  let s := modGlb s fun g => { g with
    fenced := g.fenced ++ [tray], reports := []
    part := some { v with left := if v.left.contains w then v.left else v.left ++ [w] } }
  let s := abortChange (newSvcLat (buildTree s))
  let s := if isRoot s && !wasRoot then takeRoot s else s
  let a := s.beat.admitted &&& partPorts s
  { modGlb s fun g => { g with darkSent := g.darkSent &&& a } with beat := { s.beat with admitted := a } }

/-- A fence takes effect (R570). -/
def fenceNow (s : State) (x : FenceSched) : State :=
  match trayOfPart s x.tray with
  | none => s
  | some (t, v, r) =>
    let s := postNone s 6 none (detail2 (x.tray + 65536 * x.cause) x.effective.toNat)
    if x.tray = t.tray then chipFault s 8 8
    else if v.box.wext = 1 || r.w == t.self.w then leavePartition s 4
    else standbyFenced (outlive s v x.tray r.w) x.tray

/-- Every fence due by the present beat takes effect, in the order received. -/
def fenceApply (s : State) : State :=
  if !formed s || stopped s then s
  else
    let due (x : FenceSched) : Bool := decide (x.effective.toNat ≤ s.beat.count.toNat)
    (s.glb.fences.filter due).foldl (fun s x => if formed s && !stopped s then fenceNow s x else s)
      (modGlb s fun g => { g with fences := g.fences.filter fun x => !due x })

def execFenceApply (s : State) : Host.Outcome State Fault Refusal := .next (fenceApply s)

/-! ### Firmware (R556 to R558) -/

/-- Bytes of the firmware image at a MiB: its header and BODY_LEN, at most the slot's 4 MiB. -/
def fwLength (s : State) (mb : Nat) : Nat := 256 + min 4194048 (readLe s.mem (0x100000 * mb + 0x10) 4)

/-- The image at a MiB as its header and body say it (Table 16-3, R557). -/
def fwImageAt (s : State) (mb : Nat) : FwImage :=
  let a := 0x100000 * mb
  let n := readLe s.mem (a + 0x10) 4
  let key := readBytes s.mem (a + 0x20) 64
  let ok := readLe s.mem a 4 == 0x57464B53 && readLe s.mem (a + 4) 2 == 1 && decide (n ≤ 4194048) &&
    (ueIn s a (256 + n)).isNone &&
    ofBe (readBytes s.mem (a + 0x60) 32) == (sha256 (readBytes s.mem (a + 256) n)).toNat &&
    Config.ecdsaVerify key (sha256 (readBytes s.mem a 0x80)) (readBytes s.mem (a + 0x80) 64)
  ⟨BitVec.ofNat 32 (readLe s.mem (a + 8) 4), BitVec.ofNat 32 (readLe s.mem (a + 0xC) 4), key, ok⟩

/-- The chip is no MEMBER, or the image does not lie wholly in SYS frames. -/
def fwFrame (s : State) (mb : Nat) : Bool := s.glb.state != 7 || !inSys s (0x100000 * mb) (fwLength s mb)

/-- Verification ends: the first cause of R558 refuses the image; else it goes to the slot that is not current. -/
def fwLoadEnd (s : State) : State :=
  match s.glb.fwLoad with
  | none => s
  | some mb =>
    let s := modGlb s fun g => { g with fwLoad := none }
    let err (e : BitVec 4) : State := modGlb s fun g => { g with err := e }
    let i := fwImageAt s mb.toNat
    if fwFrame s mb.toNat then err 5
    else if !i.wellFormed then err 6
    else if i.version.toNat < s.fw.floor.toNat then err 8
    else if i.key != s.fw.acceptedKey && !s.own.sealing.windowOpen then err 7
    else
      let w := s.fw
      setFwAlt { s with fw := {
        slot0 := if w.current1 then some i else w.slot0
        slot1 := if w.current1 then w.slot1 else some i
        current1 := !w.current1, acceptedKey := i.key
        floor := if w.floor.toNat < i.floor.toNat then i.floor else w.floor } }

def execFwLoadEnd (s : State) : Host.Outcome State Fault Refusal := .next (fwLoadEnd s)

/-! ### Resets (R549, R611, R620, R627, R650) -/

/-- The seal after a chip reset: its pins read afresh; a button held through it is no press until released (R454, R650). -/
def Seal.afterReset (q : Seal) (plug button : Bool) : Seal :=
  { Seal.fresh with plug := plug, button := button, absent := !plug, counted := button, openings := q.openings }

/-- The state a chip reset leaves: what R549 keeps, the waiting commands, and the model's own records. -/
def chipReset (s : State) : State :=
  { State.reset with
    pending := s.pending, draw := s.draw, outs := s.outs, anchor := s.anchor, fw := s.fw, thermtrip := s.thermtrip
    inst := { Inst.reset with anchorWrite := s.inst.anchorWrite }
    own := { Own.reset with sealing := s.own.sealing.afterReset s.own.sealing.plug s.own.sealing.button } }

/-- A write of GLB_RESET (Tables 16-11, 16-12; R549, R558, R568, R584, R589). -/
def glbResetWrite (s : State) (v : W32) : State :=
  let err (e : BitVec 4) : State := modGlb s fun g => { g with err := e }
  let mb : BitVec 9 := v.extractLsb' 0 9
  let tray := bits v 13 11
  if bits v 24 8 != 0xA5 then err 1
  else if 1 < boolNat (bit v 12) + boolNat (bit v 11) + boolNat (bit v 10) then err 10
  else if bit v 12 then chipReset s
  else if bit v 11 then
    if s.glb.state != 7 || (trayOfPart s tray).isNone then err 4
    else
      let f : FenceReqFrame := ⟨tray, 7, selfOf s⟩
      toRoles s (.fenceReq f) fun s => fenceReqIn s f
  else if bit v 10 then
    if s.glb.fwLoad.isSome then err 9
    else if fwFrame s mb.toNat then err 5
    else modGlb s fun g => { g with fwLoad := some mb }
  else s

def execChipReset (via : Via) (v : W32) (s : State) : Host.Outcome State Fault Refusal :=
  .next (guarded s via 0xC fun s => glbResetWrite s (v ||| 0x1000))
def execGlbFence (via : Via) (v : W32) (s : State) : Host.Outcome State Fault Refusal :=
  .next (guarded s via 0xC fun s => glbResetWrite s (v ||| 0x800))
def execFwLoad (via : Via) (v : W32) (s : State) : Host.Outcome State Fault Refusal :=
  .next (guarded s via 0xC fun s => glbResetWrite s (v ||| 0x400))

/-- RESET_N has been low for 10 µs: a chip reset that lasts until it is released (R620). -/
def execResetN (s : State) : Host.Outcome State Fault Refusal :=
  .next (modGlb (chipReset s) fun g => { g with resetHeld := true })

def execResetNRelease (plug button : Bool) (s : State) : Host.Outcome State Fault Refusal :=
  .next (if s.glb.resetHeld then
      let s := modGlb s fun g => { g with resetHeld := false }
      { s with own := { s.own with sealing := s.own.sealing.afterReset plug button } }
    else s)

/-- A power-on reset (R627): only what is non-volatile remains. -/
def execPowerOnReset (plug : Bool) (s : State) : Host.Outcome State Fault Refusal :=
  let r := chipReset s
  .next { r with
    thermtrip := false, inst := .reset
    own := { r.own with sealing := s.own.sealing.afterReset plug s.own.sealing.button } }

/-- A PCIe fundamental reset resets the endpoint alone: nothing in the control space changes (R549, R611). -/
def execPcieFundamentalReset (s : State) : Host.Outcome State Fault Refusal := .next s

end Sys2Proof.Machine
end

