-- ==== Sys2Proof/Machine/Wregs.lean ====
section
/-! DEFINITION. Machine/Wregs.lean: a write of any register of the control space, and the I3C message that makes one (R488,
R600 to R607). -/

namespace Sys2Proof.Machine

/-- An offset holds a register (Tables 18-2 to 18-4). -/
def isRegister (off : Nat) : Bool :=
  let o := off % 0x10000
  if 0x100000 ≤ off then off < 0x200000 && (o ≤ 0x018 || (0x100 ≤ o && o < 0x150) || (0x400 ≤ o && o < 0x800))
  else match off / 0x10000 with
    | 0 => o ≤ 0x1C
    | 1 => o ≤ 0x1C
    | 2 => o ≤ 0x10 || (0x20 ≤ o && o ≤ 0x30)
    | 3 => o ≤ 0x0C || (0x20 ≤ o && o ≤ 0x3C)
    | 4 => o ≤ 0x10
    | 5 => o < 0xA000 && o % 0x1000 ≤ 0x1C
    | 6 => o ≤ 0x18
    | 7 => o ≤ 0x0C
    | 8 => o ≤ 0x08
    | 9 => o ≤ 0x14
    | 10 => o ≤ 0x18
    | 11 => o ≤ 0x14
    | 12 => o ≤ 0x0C
    | _ => false

/-- A write of HUT_RES_ERR: FLAG is W1C (Table 11-21). -/
def resErrWrite (s : State) (v : W32) : State := { s with hut := { s.hut with resFlag := s.hut.resFlag && !bit v 0 } }

/-- A write of a register of COR n (Table 18-4). -/
def corWrite (s : State) (n o : Nat) (v : W32) : State :=
  if 0x400 ≤ o && o < 0x800 then counterWrite s n ((o - 0x400) / 4) v
  else match o with
    | 0x000 => corCtlWrite s n v
    | 0x008 => corPcWrite s n v
    | 0x014 => fdisWrite s n v
    | 0x018 => cpbModeWrite s n v
    | _ => s

/-- A write of a register of AFV port p (Table 18-3). -/
def afvWrite (s : State) (p o : Nat) (v : W32) : State :=
  match o with
  | 0x000 => afvCtlWrite s p v
  | 0x014 => afvPwrWrite s p v
  | 0x018 => afvLoopWrite s p v
  | _ => s

/-- A write of a register of the blocks GLB to WRG outside AFV (Table 18-2); OWN_CLAIM stands apart. -/
def lowWrite (s : State) (v : Via) (off : Nat) (w : W32) : State :=
  match off with
  | 0x00008 => glbStateWrite s w
  | 0x0000C => glbResetWrite s w
  | 0x10000 => beatCtlWrite s w
  | 0x10004 => beatPeriodWrite s w
  | 0x10014 => beatGuardWrite s w
  | 0x20020 => stageCtlWrite s v w
  | 0x20024 => stageStatWrite s w
  | 0x20028 => stageCommitWrite s false w
  | 0x2002C => stageCommitWrite s true w
  | 0x30000 => instWrite s w
  | 0x40000 => hutCtlWrite s w
  | 0x40008 => grpBaseWrite s w
  | 0x4000C => resErrWrite s w
  | 0x40010 => exactWrite s w
  | 0x60000 => wrgCtlWrite s w
  | 0x60010 => wrgVersionWrite s w
  | 0x60018 => wrgStatWrite s w
  | _ => s

/-- A write of a register of the blocks UPK to EVT (Table 18-2). -/
def highWrite (s : State) (off : Nat) (w : W32) : State :=
  match off with
  | 0x70000 => upkCtlWrite s w
  | 0x7000C => upkStatWrite s w
  | 0x80000 => armCtlWrite s w
  | 0x80008 => armErrWrite s w
  | 0x90000 => domCtlWrite s false w
  | 0x90004 => domCtlWrite s true w
  | 0x9000C => domStatWrite s w
  | 0x90010 => rampWrite s w
  | 0x90014 => capWrite s w
  | 0xA0000 => fastCtlWrite s w
  | 0xA0004 => slowCtlWrite s w
  | 0xA000C => qStatWrite s w
  | 0xA0010 => rangeWrite s w
  | 0xA0014 => calStatWrite s w
  | 0xA0018 => mainsWrite s w
  | 0xB0004 => ethCtlWrite s w
  | 0xB000C => intakeCtlWrite s s.hst.vsel.toNat w
  | 0xB0010 => modHst s fun h => { h with vsel := w.extractLsb' 28 4 }
  | 0xC0000 => queueWrite s 0 0 w
  | 0xC0004 => queueWrite s 0 4 w
  | 0xC0008 => queueWrite s 0 8 w
  | 0xC000C => queueWrite s 0 12 w
  | _ => s

/-- A write of a register, its authority judged. -/
def blockWrite (s : State) (v : Via) (off : Nat) (w : W32) : State :=
  if 0x100000 ≤ off then corWrite s ((off - 0x100000) / 0x10000) (off % 0x10000) w
  else if 0x50000 ≤ off && off < 0x5A000 then afvWrite s ((off - 0x50000) / 0x1000) (off % 0x1000) w
  else if off < 0x70000 then lowWrite s v off w
  else highWrite s off w

/-- A write refused by R443: of a register, but OWN_CLAIM (Table 13-2). -/
def writeRefused (s : State) (v : Via) (off : Nat) : Bool := isRegister off && off != 0x20008 && !mayWrite s v

/-- A write of the control space on a path (R601, R603, R607, R610): a reserved offset ignores it. -/
def registerWrite (s : State) (v : Via) (off : Nat) (w : W32) : State :=
  if !isRegister off then s
  else if off = 0x20008 then ownClaimWrite s v w
  else guarded s v off fun s => blockWrite s v off w

def execRegisterWrite (off : Nat) (via : Via) (v : W32) (s : State) : Host.Outcome State Fault Refusal :=
  .next (registerWrite s via off v)

/-- CSRW (Table 14-7): LENGTH, then ADDRESS, then READONLY; a command of an unbound path leaves UNBOUND. -/
def csrw (s : State) (a : Nat) (v : W32) (len : Nat) : State :=
  if len ≠ 4 then i3cWrote s 4
  else if a % 4 ≠ 0 || 0x200000 ≤ a then i3cWrote s 3
  else
    let st : Byte := if writeRefused s .i3c a then 1
      else if a = 0x20008 && formed s && s.own.boundI3c.isNone && decide (2 ≤ bits v 28 4 ∧ bits v 28 4 ≤ 6) then 2
      else 0
    i3cWrote (registerWrite s .i3c a v) st

def execCsrw (addr : Nat) (v : W32) (len : Nat) (s : State) : Host.Outcome State Fault Refusal :=
  .next (addressed s fun s => csrw s addr v len)

end Sys2Proof.Machine
end

