-- ==== Sys2Proof/Machine/Kbt.lean ====
section
/-! DEFINITION. Machine/Kbt.lean: KBT requests: their order within a session, and what each asks for (R491 to R498). -/

namespace Sys2Proof.Machine

/-- The NAK of a refused or malformed request (R492): ADDR is 0xFFFFFFFF. -/
def kbtRefuse (s : State) (m : KbtMsg) : State :=
  let n := match sessionOf s m.hdr.session with
    | some x => x.nextRx
    | none => 0
  kbtTell s m.hdr.session kbtNak m.hdr.ctx 0xFFFFFFFF n []

/-- The path that a message writes and reads registers on. -/
def kbtVia (m : KbtMsg) : Via := .kbt m.hdr.session m.hdr.agent

/-- An aligned address of the control space (R604). -/
def csrAddr (a : W32) : Bool := a.toNat % 4 == 0 && decide (a.toNat < 0x200000)

/-- CSR_WRITE (R494). -/
def kbtCsrWriteAct (s : State) (m : KbtMsg) : State :=
  let off := m.hdr.addr.toNat
  if !csrAddr m.hdr.addr then kbtRefuse s m
  else
    let refused := writeRefused s (kbtVia m) off
    let s := registerWrite s (kbtVia m) off m.hdr.arg
    if refused then kbtRefuse s m else s

/-- CSR_READ (R492). -/
def kbtCsrReadAct (s : State) (m : KbtMsg) : State :=
  if !csrAddr m.hdr.addr then kbtRefuse s m
  else
    let r := readReg s (kbtVia m) m.hdr.addr.toNat
    kbtTell r.1 m.hdr.session kbtCsrData m.hdr.ctx m.hdr.addr r.2 []

/-- The rights a message's CTX acts with: the management core's for 0xFF, else those of a mover of the context (R494). -/
def kbtCtx (m : KbtMsg) : Option Nat := if m.hdr.ctx = 0xFF then none else some m.hdr.ctx.toNat

/-- WRITE (R494). -/
def kbtWriteAct (s : State) (m : KbtMsg) : State :=
  let a := m.hdr.addr.toNat
  let n := m.payload.length
  if a % 8 ≠ 0 || n % 8 ≠ 0 || m.hdr.len.toNat ≠ n then kbtRefuse s m
  else if !mayWrite s (kbtVia m) then kbtRefuse (setOwnErr s (kbtVia m) 1) m
  else if !hostWriteOk s (kbtCtx m) a n then kbtRefuse s m
  else hostWrite s a m.payload

/-- READ: answered in DATA messages of at most 8,192 bytes (R491, R492). -/
def kbtReadAct (s : State) (m : KbtMsg) : State :=
  let a := m.hdr.addr.toNat
  let n := m.hdr.len.toNat
  if a % 8 ≠ 0 || n % 8 ≠ 0 || n < 8 || 67108864 < n || !hostReadOk s (kbtCtx m) a n then kbtRefuse s m
  else
    let r := hostRead s a n
    (List.range ((n + 8191) / 8192)).foldl (fun s i =>
      kbtSend s m.hdr.session kbtData m.hdr.ctx (BitVec.ofNat 32 (a + 8192 * i)) 0 ((r.2.drop (8192 * i)).take 8192)) r.1

/-- REQUEST: REQ_ID in the payload's first 8 bytes; RETURN as Table 14-13 states (R497, R498). -/
def kbtRequestAct (s : State) (m : KbtMsg) : State :=
  let id : W64 := BitVec.ofNat 64 (ofLe (m.payload.take 8))
  if m.payload.length < 8 || m.hdr.len.toNat ≠ m.payload.length then kbtRefuse s m
  else if h : m.hdr.ctx.toNat < 16 then
    submitRequest s ⟨⟨m.hdr.ctx.toNat, h⟩, false, id, m.payload.drop 8,
      beBytes 16 m.hdr.srcAddr.toNat ++ leBytes 2 m.hdr.srcPort.toNat ++ leBytes 4 m.hdr.session.toNat ++ [0, 0]⟩
  else kbtTell s m.hdr.session kbtBusy m.hdr.ctx 0 1 (m.payload.take 8)

/-- A message acted on, by its TYPE (Table 14-11). -/
def kbtAct (s : State) (m : KbtMsg) : State :=
  if m.typ = kbtIdentReq then kbtTell s m.hdr.session kbtIdent m.hdr.ctx 0 0 (identity s)
  else if m.typ = kbtCsrWrite then kbtCsrWriteAct s m
  else if m.typ = kbtCsrRead then kbtCsrReadAct s m
  else if m.typ = kbtWrite then kbtWriteAct s m
  else if m.typ = kbtRead then kbtReadAct s m
  else if m.typ = kbtRequest then kbtRequestAct s m
  else s

/-- The next message in SEQ order: counted, acted on, and acknowledged with every sixteenth. -/
def kbtNext (s : State) (m : KbtMsg) : State :=
  let s := kbtAct (modSession s m.hdr.session fun x => { x with nextRx := x.nextRx + 1, sinceAck := x.sinceAck + 1 }) m
  match sessionOf s m.hdr.session with
  | some x => if 16 ≤ x.sinceAck then kbtSendAck s m.hdr.session else s
  | none => s

/-- Held messages that the gap no longer stops, in SEQ order. -/
def kbtDrain (id : W32) : Nat → State → State
  | 0, s => s
  | n + 1, s =>
    match sessionOf s id with
    | none => s
    | some x => match x.held.find? fun m => m.hdr.seq == x.nextRx with
      | none => s
      | some m => kbtDrain id n (kbtNext (modSession s id fun x => { x with held := x.held.filter (· != m) }) m)

/-- A message of a session (R493): in order it acts, a duplicate is acknowledged again, one beyond a gap is held and the first
missing SEQ named; a sixty-fifth is dropped. -/
def kbtAccept (s : State) (m : KbtMsg) : State :=
  match sessionOf s m.hdr.session with
  | none => s
  | some x =>
    let d := (m.hdr.seq - x.nextRx).toNat
    if d = 0 then kbtDrain x.id 64 (kbtNext s m)
    else if 2 ^ 31 ≤ d then kbtSendAck s x.id
    else if x.held.any fun y => y.hdr.seq == m.hdr.seq then s
    else if 64 ≤ x.held.length then kbtDropped s
    else
      let s := modSession s x.id fun x => { x with held := x.held ++ [m] }
      if x.held.isEmpty then kbtTell s x.id kbtNak 0xFF 0 x.nextRx [] else s

/-- A KBT request arrives. -/
def kbtIn (s : State) (m : KbtMsg) : State :=
  if !kbtOn s then s
  else match kbtOpen s m.hdr with
    | none => kbtDropped s
    | some s => kbtAccept s m

def execIdentReq (m : KbtMsg) (s : State) : Host.Outcome State Fault Refusal := .next (kbtIn s { m with typ := kbtIdentReq })
def execCsrWrite (m : KbtMsg) (s : State) : Host.Outcome State Fault Refusal := .next (kbtIn s { m with typ := kbtCsrWrite })
def execCsrRead (m : KbtMsg) (s : State) : Host.Outcome State Fault Refusal := .next (kbtIn s { m with typ := kbtCsrRead })
def execWrite (m : KbtMsg) (s : State) : Host.Outcome State Fault Refusal := .next (kbtIn s { m with typ := kbtWrite })
def execRead (m : KbtMsg) (s : State) : Host.Outcome State Fault Refusal := .next (kbtIn s { m with typ := kbtRead })
def execRequest (m : KbtMsg) (s : State) : Host.Outcome State Fault Refusal := .next (kbtIn s { m with typ := kbtRequest })

end Sys2Proof.Machine
end

