-- ==== Sys2Proof/Machine/Waits.lean ====
section
/-! DEFINITION. Machine/Waits.lean: the waits that WAIT_LIMIT watches, C-class instructions that are held among them (R149, R226, R234,
R430). -/

namespace Sys2Proof.Machine

/-! ### C-class instructions that are held (R226, R234) -/

/-- A bulk frame that this chip's own collective waits to send. -/
def ofColl (g : Nat) (q : W16) (o : OutFrame) : Bool := o.input == 10 && match o.frame.body with
  | .coll f => f.grp == g && f.seq == q
  | _ => false

/-- Ports at whose outputs bulk frames of a collective of this chip wait. -/
def collPorts (s : State) (g : Nat) (q : W16) : List Nat := (List.range 10).filter fun p => (portAt s p).bulkOut.any (ofColl g q)

/-- An output carries bulk frames: nothing but its windows, and the frames before, holds one back. -/
def bulkOpen (s : State) (p : Nat) : Bool :=
  let q := portAt s p
  q.state == 3 && admittedPort s p && !classStopped s p false && retryRoom q false && (creditFor q 0 || creditFor q 1)

/-- The engines work on a collective's chunks, or are about to. -/
def engineOn (s : State) (g : Nat) (q : W16) : Bool :=
  (s.hut.engines.toList.any fun e => e.any fun w => w.2.grp == g && w.2.seq == q) ||
    s.hut.waiting.any fun w => w.2.grp == g && w.2.seq == q

/-- A bulk C-class instruction sends, and only the windows of the link hold what it sends (Table 4-4, PRIORITY_PREEMPT). -/
def sendsOpen (s : State) (x : QEntry) : Bool :=
  !isCpri x && x.coll.any fun k => (collPorts s k.1 k.2).any (bulkOpen s)

/-- A C-class instruction is held: at the head while the group table is copied, or for its group's collective before it; a bulk one
for a piece, a chunk buffer or a credit; a CPRI until a priority window carries its frame (R226, R234, R413; assumption log 82). -/
def collHeld (s : State) (x : QEntry) : Bool :=
  match x.work with
  | .op i _ _ _ _ _ _ =>
    isClassC i &&
      if !x.started then s.hut.copying.isSome
      else match x.coll with
        | none => (grpOf i).any fun g => classBusy s g (isCpri x)
        | some (g, q) =>
          if isCpri x then (s.hut.combines.any fun b => b.grp == g && b.seq == q) && !mayRelease s x i
          else (collAt s g q).any fun c => !c.finished && !engineOn s g q && !sendsOpen s x
  | _ => false

/-- A C-class instruction's wait: held, or a CPRI whose value has not come back. -/
def collWaits (s : State) (x : QEntry) : Bool :=
  collHeld s x || (isCpri x && x.coll.any fun k => s.hut.combines.any fun b => b.grp == k.1 && b.seq == k.2)

/-! ### WAIT_LIMIT (R149) -/

/-- Time that a wait has lasted reaches 2^WAIT_LIMIT beats; outside a partition a beat is 28,800 clocks. -/
def waitReached (c : Core) (beats clks : Nat) : Bool := c.waitLimit != 0 && decide (2 ^ c.waitLimit.toNat ≤ beats + clks / 28800)

/-- Kind and counter of an event WAIT_TIMEOUT: 0 WAITC, 1 WAITB, 2 a C-class instruction. -/
def waitKind : QWork → Option (Nat × Nat)
  | .waitc k _ _ => some (0, k.toNat)
  | .waitb _ _ _ => some (1, 0)
  | .op i _ _ _ _ _ _ => if isClassC i then some (2, 0) else none
  | _ => none

/-- The body of an event WAIT_TIMEOUT of an agent: 0 the CP, u + 1 unit u. -/
def timeoutBody (n agent : Nat) (k : Nat × Nat) (beats clks : Nat) : EvtBody :=
  .waitTimeout (BitVec.ofNat 8 n) (BitVec.ofNat 8 agent) (BitVec.ofNat 8 k.2) (BitVec.ofNat 8 k.1)
    (BitVec.ofNat 64 (beats + clks / 28800))

/-- WAIT_TIMEOUT of an agent, once for a wait that has reached the limit: the CP's, that at the head of a queue, or that of a C-class
instruction that has left the head. -/
def waitTimeout (s : State) (n agent : Nat) : State :=
  let c := coreAt s n
  if agent = 0 then
    let kind : Option (Nat × Nat) := match c.wait with
      | .waitc k _ _ => some (0, k.toNat)
      | .waitb _ _ _ => some (1, 0)
      | _ => none
    match kind with
    | some k =>
      if !c.waitPosted && waitReached c c.waitBeats c.waitClks then
        postCore (modCore s n fun c => { c with waitPosted := true }) n 4 (timeoutBody n 0 k c.waitBeats c.waitClks)
      else s
    | none => s
  else
    let y := unitAt s n (agent - 1)
    match (y.queue.take 1 ++ y.flight).find? fun e => (waitKind e.work).isSome && !e.posted && waitReached c e.beats e.clks with
    | some e => match waitKind e.work with
      | some k => postCore (replaceEntry s n (agent - 1) e { e with posted := true }) n 4 (timeoutBody n agent k e.beats e.clks)
      | none => s
    | none => s

def execWaitTimeout (core : CoreId) (agent : Fin 7) (s : State) : Host.Outcome State Fault Refusal :=
  .next (waitTimeout s core.val agent.val)

/-- An entry's wait grows; a C-class instruction that is not held has no wait. -/
def growEntry (s : State) (b k : Nat) (x : QEntry) : QEntry :=
  match waitKind x.work with
  | none => x
  | some (2, _) =>
    if collWaits s x then { x with beats := x.beats + b, clks := x.clks + k } else { x with beats := 0, clks := 0, posted := false }
  | some _ => { x with beats := x.beats + b, clks := x.clks + k }

/-- Waits of a core grow by beats and clocks. -/
def growWaits (s : State) (c : Core) (b k : Nat) : Core :=
  { c with
    waitBeats := if c.wait == .none then 0 else c.waitBeats + b
    waitClks := if c.wait == .none then 0 else c.waitClks + k
    units := c.units.map fun u => { u with
      queue := (u.queue.take 1).map (growEntry s b k) ++ u.queue.drop 1, flight := u.flight.map (growEntry s b k) } }

end Sys2Proof.Machine
end

