-- ==== Sys2Proof/Machine/Schedule.lean ====
section
/-! DEFINITION. Machine/Schedule.lean: microslots, the windows of each link direction with what the Hutch sends in them, beats and
grid frames (R47 to R58, R74, R94, R387, R388, R391, R394). -/

namespace Sys2Proof.Machine

/-! ### The bulk window (R94, R391) -/

/-- The stream that a W port serves. -/
def portWest (p : Nat) : Bool := decide (2 ≤ p)

/-- The shelf that leaves on a W port's stream, the index of its next flit on the port, if one is left. -/
def nextFlit (s : State) (p : Nat) : Option (Sending × Nat) :=
  if 4 ≤ p then none
  else
    match (if portWest p then s.wrg.sendW else s.wrg.sendE) with
    | none => none
    | some x =>
      let i := 2 * (if p % 2 = 0 then x.sentA else x.sentB) + p % 2
      if 240 * i < 256 + x.len then some (x, i) else none

/-- The 240 bytes of flit `i`: the header's, then the payload's, from a home image or an inbound buffer (R94, R97). -/
def flitBytes (s : State) (west : Bool) (x : Sending) (i : Nat) : List Byte :=
  let r := flitRange i x.len
  ((x.hdr.drop (240 * i)).take 240) ++ match x.home with
    | some a => readBytes s.mem (a + r.1) r.2
    | none => encBytes s west x.buffer r.1 r.2

/-- A shelf flit goes out on its port; one read from the buffer with an uncorrectable word is spoilt (R353). -/
def sendShelfFlit (s : State) (p : Nat) (x : Sending) (i : Nat) : State :=
  let west := portWest p
  let r := flitRange i x.len
  let bad := if x.home.isSome then none else encUe s west x.buffer r.1 r.2
  let f := shelfFrame 0 (flitBytes s west x i)
  let s := match bad with
    | some w => noteUe s w none readerForward
    | none => s
  let s := setSend s west (some (if p % 2 = 0 then { x with sentA := x.sentA + 1 } else { x with sentB := x.sentB + 1 }))
  sendFrame s p false { f with west := west } bad.isSome

/-- The first frame that an input holds for an output on one of its VCs, where a credit is held for it. -/
def headOf (q : Port) (input : Nat) (vc : Bool) : Option OutFrame :=
  (q.bulkOut.find? fun o => o.input == input && o.inVc == vc).filter fun o =>
    creditFor q (vcCode false o.frame.vc) && retryRoom q (isShort o.frame.body)

/-- The frame an input offers: of the VC that did not go last, else of the other. -/
def offered (q : Port) (input : Nat) : Option OutFrame :=
  let vc := !bit q.lastVc input
  match headOf q input vc with
  | some o => some o
  | none => headOf q input (!vc)

/-- The round robin of R391: the first input from the present turn on that offers a frame, and the turns it then has had. -/
def roundRobin : Nat → Port → Nat → Nat → Nat → Option (OutFrame × Nat × Nat)
  | 0, _, _, _, _ => none
  | k + 1, q, weight, input, turns =>
    if turns < (if input = 10 then 1 + weight else 1) then
      match offered q input with
      | some o => some (o, input, turns + 1)
      | none => roundRobin k q weight ((input + 1) % 11) 0
    else roundRobin k q weight ((input + 1) % 11) 0

/-- The other bulk frame that an output sends next goes out; `none` where no frame can. -/
def sendBulk (s : State) (p : Nat) : Option (State × Nat) :=
  let q := portAt s p
  (roundRobin 12 q s.hut.weight.toNat q.turn q.turns).map fun r =>
    let o := r.1
    let s := modPort s p fun q => { q with
      bulkOut := q.bulkOut.erase o, turn := r.2.1, turns := r.2.2, lastVc := setBit q.lastVc r.2.1 o.inVc }
    (pieceSent (freeInput (sendFrame s p false o.frame false) o) o.frame, wireTime o.frame.body)

/-- Frames of one bulk window, while time is left: retransmissions, then shelf flits, then the others. -/
def bulkWindow : Nat → State → Nat → Nat → State
  | 0, s, _, _ => s
  | k + 1, s, p, left =>
    if left < 16 then s
    else
      let q := portAt s p
      match nextAgain q false with
      | some r => bulkWindow k (sendAgain s p false r) p (left - wireTime r.frame.body)
      | none => match nextFlit s p with
        | some (x, i) =>
          if retryRoom q false && creditFor q 0 then bulkWindow k (sendShelfFlit s p x i) p (left - 16)
          else match sendBulk s p with
            | some r => bulkWindow k r.1 p (left - r.2)
            | none => s
        | none => match sendBulk s p with
          | some r => bulkWindow k r.1 p (left - r.2)
          | none => s

/-! ### Microslots (R54) -/

/-- The windows of one microslot on one link direction: `k` its place in the beat. -/
def portWindows (s : State) (k p : Nat) : State :=
  if !admittedPort s p || (portAt s p).state != 3 then s
  else
    let s := openPrio s p
    if k < headerWindow s || classStopped s p false then s else bulkWindow 2340 s p 11700

/-- The windows of a microslot on every port. -/
def openWindows (s : State) (k : Nat) : State := (List.range 10).foldl (fun s p => portWindows s k p) s

/-- A microslot starts: MS rises, and the schedule of Table 2-2 runs; the first microslot of a beat belongs to BEAT_START. -/
def microslotStart (s : State) : State :=
  if !gridRuns s then s
  else
    let s := { s with beat := { s.beat with ms := s.beat.ms + 1 } }
    let k := (s.beat.ms - s.beat.startMs).toNat
    if formed s && k < period s then openWindows s k else s

def execMicroslotStart (s : State) : Host.Outcome State Fault Refusal := .next (microslotStart s)

/-! ### Beats and grid frames (R48, R57) -/

/-- At a beat start or grid-frame start the grid moves by the correction worked out for it (R61). -/
def turnGrid (s : State) (beat : Bool) : State :=
  { s with beat := { s.beat with
      phase := s.beat.phase + if beat then s.beat.corr else s.beat.corrGrid
      corr := if beat then 0 else s.beat.corr, corrGrid := if beat then s.beat.corrGrid else 0 } }

/-- A chip in RELOCK is one beat or, outside a formed partition, one grid frame older (R71). -/
def ageRelock (s : State) : State :=
  { s with beat := { s.beat with
      relockAge := if s.beat.state == 4 then s.beat.relockAge + 1 else s.beat.relockAge } }

/-- What may be posted or changed once in a beat may be again: INVALID, uncorrectable words, host refusals, residues; the weight
of local injection, the decode split and the armoire follow their registers (R215, R326, R360, R397, R478). -/
def newBeat (s : State) : State :=
  let s := unpackBeat { s with
    cores := s.cores.map fun c => { c with
      units := c.units.map fun u => { u with evtPosted := false }
      cpb := { c.cpb with evtPosted := false } }
    hst := { s.hst with pfEvtPosted := false, vfs := s.hst.vfs.map fun v => { v with evtPosted := false } }
    hut := { s.hut with resPosted := false, weight := s.hut.localWt } }
  releaseHeld s

/-- Shelf flits of the shelf that has just become the held one that a W port did not receive (R94, R384). -/
def flitsOwed (s : State) (p : Nat) : Nat :=
  match (heldOf s (portWest p)).filter fun x => p < 4 && x.beat + 1 == s.beat.count with
  | some x => (ceilDiv (256 + hdrEncLen x.hdr) 240 + 1 - p % 2) / 2 - (portAt s p).shelfFlits
  | none => 0

/-- A link direction at a beat start: an output that had frames and sent none is BLOCKED; shelf flits of the beat before that are
not acknowledged are given up, and those not received are owed; bulk resumes (R70, R74, R384, R394). -/
def portBeat (s : State) (p : Nat) : State :=
  let q := portAt s p
  let idle := !q.sentAny && !(q.bulkOut.isEmpty && q.prioOut.isEmpty)
  let s := if idle then { s with hut := { s.hut with blocked := setBit s.hut.blocked p true } } else s
  let late := q.bulk.retry.filter fun r => isShelf r.frame.body && r.beat != s.beat.count
  let s := late.foldl (fun s r => giveUp s p r.frame.seq) s
  let s := modPort s p fun q => { q with sentAny := false, shelfFlits := 0, shelfOwed := flitsOwed s p, prioPeakLast := q.prioPeak, prioPeak := 0 }
  modBeatPort s p fun b => { b with resuming := false, holdEnded := false }

/-- Headers are awaited and due afresh on the ports that follow the beat, or on those that follow the grid frame. -/
def awaitHeaders (s : State) (beat : Bool) : State :=
  (List.range 10).foldl (fun s p =>
    if admittedPort s p == beat then modBeatPort s p fun b => { b with fresh := false, sentHeader := false } else s) s

/-- A beat starts on a chip of a formed partition (R48). -/
def beatStart (s : State) : State :=
  if !gridRuns s || !formed s || (s.beat.ms - s.beat.startMs).toNat < period s then s
  else
    let s := turnGrid (ageRelock { s with
      beat := { s.beat with count := s.beat.count + 1, startMs := s.beat.ms, startClock := s.clock }
      cores := s.cores.map fun c => growWaits s c 1 0 }) true
    let s := ringBeat s
    let s := (List.range 10).foldl portBeat s
    openWindows (awaitHeaders (newBeat s) true) 0

def execBeatStart (s : State) : Host.Outcome State Fault Refusal := .next (beatStart s)

/-- A grid frame starts, once, where MS is a multiple of 8 (R57); outside a partition it takes the beat's place for what happens
once in a beat. -/
def gridFrameStart (s : State) : State :=
  if !gridRuns s || s.beat.ms.toNat % 8 != 0 || s.beat.ms == s.beat.gridMs then s
  else
    let s := turnGrid { s with beat := { s.beat with gridMs := s.beat.ms } } false
    let s := if formed s then s else newBeat (ageRelock s)
    joinChanged (awaitHeaders s false)

def execGridFrameStart (s : State) : Host.Outcome State Fault Refusal := .next (gridFrameStart s)

end Sys2Proof.Machine
end

