-- ==== Sys2Proof/Machine/Dispatch.lean ====
section
/-! DEFINITION. Machine/Dispatch.lean: one arm for each command, a direct call of its meaning. -/

namespace Sys2Proof.Machine

def exec (i : Instr) (s : State) : Host.Outcome State Fault Refusal :=
  match i with
  | .load via v => Sys2Proof.Machine.execLoad via v s
  | .parseEnd => Sys2Proof.Machine.execParseEnd s
  | .anchor via v => Sys2Proof.Machine.execAnchor via v s
  | .anchorWriteEnd => Sys2Proof.Machine.execAnchorWriteEnd s
  | .verify via v => Sys2Proof.Machine.execVerify via v s
  | .idFrameSend => Sys2Proof.Machine.execIdFrameSend s
  | .identificationFrame port f => Sys2Proof.Machine.execIdentificationFrame port f s
  | .neighbourTimeout port => Sys2Proof.Machine.execNeighbourTimeout port s
  | .neighbourCheckEnd => Sys2Proof.Machine.execNeighbourCheckEnd s
  | .microslotStart => Sys2Proof.Machine.execMicroslotStart s
  | .beatStart => Sys2Proof.Machine.execBeatStart s
  | .gridFrameStart => Sys2Proof.Machine.execGridFrameStart s
  | .beatHeaderSend port => Sys2Proof.Machine.execBeatHeaderSend port s
  | .beatHeader port bytes e => Sys2Proof.Machine.execBeatHeader port bytes e s
  | .headerMissing port => Sys2Proof.Machine.execHeaderMissing port s
  | .relockStep => Sys2Proof.Machine.execRelockStep s
  | .relockLimit => Sys2Proof.Machine.execRelockLimit s
  | .acquireEnd => Sys2Proof.Machine.execAcquireEnd s
  | .liveTimeout => Sys2Proof.Machine.execLiveTimeout s
  | .beatEnable via v => Sys2Proof.Machine.execBeatEnable via v s
  | .beatPeakClr via v => Sys2Proof.Machine.execBeatPeakClr via v s
  | .beatCntClr via v => Sys2Proof.Machine.execBeatCntClr via v s
  | .beatGuardWrite via v => Sys2Proof.Machine.execBeatGuardWrite via v s
  | .beatCountLoRead via => Sys2Proof.Machine.execBeatCountLoRead via s
  | .beatCountHiRead via => Sys2Proof.Machine.execBeatCountHiRead via s
  | .form via v => Sys2Proof.Machine.execForm via v s
  | .formationRecord f => Sys2Proof.Machine.execFormationRecord f s
  | .formationRecordTimeout => Sys2Proof.Machine.execFormationRecordTimeout s
  | .formationRefusal cause => Sys2Proof.Machine.execFormationRefusal cause s
  | .shelfHeader west bytes => Sys2Proof.Machine.execShelfHeader west bytes s
  | .haltFrame f => Sys2Proof.Machine.execHaltFrame f s
  | .wrgHalt via v => Sys2Proof.Machine.execWrgHalt via v s
  | .restart => Sys2Proof.Machine.execRestart s
  | .wrgEnable via v => Sys2Proof.Machine.execWrgEnable via v s
  | .ringRegionFillEnd => Sys2Proof.Machine.execRingRegionFillEnd s
  | .homeUeClear via v => Sys2Proof.Machine.execHomeUeClear via v s
  | .coreRingStep k => Sys2Proof.Machine.execCoreRingStep k s
  | .segmentLand west core k => Sys2Proof.Machine.execSegmentLand west core k s
  | .groupCopyStart => Sys2Proof.Machine.execGroupCopyStart s
  | .groupCopyEnd => Sys2Proof.Machine.execGroupCopyEnd s
  | .swapSwitch => Sys2Proof.Machine.execSwapSwitch s
  | .run core via v => Sys2Proof.Machine.execRun core via v s
  | .stepOne core via v => Sys2Proof.Machine.execStepOne core via v s
  | .halt core via v => Sys2Proof.Machine.execHalt core via v s
  | .creset core via v => Sys2Proof.Machine.execCreset core via v s
  | .stallClr core via v => Sys2Proof.Machine.execStallClr core via v s
  | .coreDrained core => Sys2Proof.Machine.execCoreDrained core s
  | .stallLoRead core via k => Sys2Proof.Machine.execStallLoRead core via k s
  | .stallHiRead core via k => Sys2Proof.Machine.execStallHiRead core via k s
  | .instructionIssue core => Sys2Proof.Machine.execInstructionIssue core s
  | .unitInstructionStart core unit => Sys2Proof.Machine.execUnitInstructionStart core unit s
  | .unitHeadRelease core unit => Sys2Proof.Machine.execUnitHeadRelease core unit s
  | .unitInstructionComplete core unit => Sys2Proof.Machine.execUnitInstructionComplete core unit s
  | .transferStart core mover => Sys2Proof.Machine.execTransferStart core mover s
  | .transferSourceRead core mover => Sys2Proof.Machine.execTransferSourceRead core mover s
  | .transferRowLanded core mover => Sys2Proof.Machine.execTransferRowLanded core mover s
  | .transferSlotFree core mover => Sys2Proof.Machine.execTransferSlotFree core mover s
  | .waitTimeout core agent => Sys2Proof.Machine.execWaitTimeout core agent s
  | .ill core g => Sys2Proof.Machine.execIll core g s
  | .alu core g f => Sys2Proof.Machine.execAlu core g f s
  | .alui core g f => Sys2Proof.Machine.execAlui core g f s
  | .cmp core g f => Sys2Proof.Machine.execCmp core g f s
  | .cmpi core g f => Sys2Proof.Machine.execCmpi core g f s
  | .plog core g f => Sys2Proof.Machine.execPlog core g f s
  | .aop core g f => Sys2Proof.Machine.execAop core g f s
  | .ld core g f => Sys2Proof.Machine.execLd core g f s
  | .ldDataReturn core => Sys2Proof.Machine.execLdDataReturn core s
  | .st core g f => Sys2Proof.Machine.execSt core g f s
  | .rdc core g f => Sys2Proof.Machine.execRdc core g f s
  | .tdld core g f => Sys2Proof.Machine.execTdld core g f s
  | .tdst core g f => Sys2Proof.Machine.execTdst core g f s
  | .tdbase core g f => Sys2Proof.Machine.execTdbase core g f s
  | .j core g f => Sys2Proof.Machine.execJ core g f s
  | .jal core g f => Sys2Proof.Machine.execJal core g f s
  | .jalr core g f => Sys2Proof.Machine.execJalr core g f s
  | .djnz core g f => Sys2Proof.Machine.execDjnz core g f s
  | .waitc core g f => Sys2Proof.Machine.execWaitc core g f s
  | .waitcComplete core agent => Sys2Proof.Machine.execWaitcComplete core agent s
  | .waitb core g f => Sys2Proof.Machine.execWaitb core g f s
  | .waitbComplete core agent => Sys2Proof.Machine.execWaitbComplete core agent s
  | .fence core g mask => Sys2Proof.Machine.execFence core g mask s
  | .fenceComplete core => Sys2Proof.Machine.execFenceComplete core s
  | .cset core g f => Sys2Proof.Machine.execCset core g f s
  | .cadd core g f => Sys2Proof.Machine.execCadd core g f s
  | .cread core g f parityError => Sys2Proof.Machine.execCread core g f parityError s
  | .signal core g f => Sys2Proof.Machine.execSignal core g f s
  | .tdchk core g f => Sys2Proof.Machine.execTdchk core g f s
  | .endp core g => Sys2Proof.Machine.execEndp core g s
  | .nop core g => Sys2Proof.Machine.execNop core g s
  | .move core g f => Sys2Proof.Machine.execMove core g f s
  | .put core g f => Sys2Proof.Machine.execPut core g f s
  | .tmul core g f => Sys2Proof.Machine.execTmul core g f s
  | .tl1 core g f => Sys2Proof.Machine.execTl1 core g f s
  | .tl2 core g f => Sys2Proof.Machine.execTl2 core g f s
  | .tminp core g f => Sys2Proof.Machine.execTminp core g f s
  | .tmaxp core g f => Sys2Proof.Machine.execTmaxp core g f s
  | .tham core g f => Sys2Proof.Machine.execTham core g f s
  | .tccnt core g f => Sys2Proof.Machine.execTccnt core g f s
  | .smv core g f => Sys2Proof.Machine.execSmv core g f s
  | .vec core g f => Sys2Proof.Machine.execVec core g f s
  | .tflg core g f => Sys2Proof.Machine.execTflg core g f s
  | .tmulGather core g f => Sys2Proof.Machine.execTmulGather core g f s
  | .tmulScatter core g f => Sys2Proof.Machine.execTmulScatter core g f s
  | .call core g f => Sys2Proof.Machine.execCall core g f s
  | .cpri core g f => Sys2Proof.Machine.execCpri core g f s
  | .selftestEnd core fails soft cover => Sys2Proof.Machine.execSelftestEnd core fails soft cover s
  | .fdis core via v => Sys2Proof.Machine.execFdis core via v s
  | .cpbModeWrite core via v => Sys2Proof.Machine.execCpbModeWrite core via v s
  | .sliceFillEnd core => Sys2Proof.Machine.execSliceFillEnd core s
  | .ceClr core via v => Sys2Proof.Machine.execCeClr core via v s
  | .scrubRead core single double => Sys2Proof.Machine.execScrubRead core single double s
  | .frameFillEnd frame => Sys2Proof.Machine.execFrameFillEnd frame s
  | .arrivalCounterWrite core ctr via v => Sys2Proof.Machine.execArrivalCounterWrite core ctr via v s
  | .shelfFlit port seq data => Sys2Proof.Machine.execShelfFlit port seq data s
  | .spillReadback port => Sys2Proof.Machine.execSpillReadback port s
  | .laneDispatch west => Sys2Proof.Machine.execLaneDispatch west s
  | .laneFinish lane => Sys2Proof.Machine.execLaneFinish lane s
  | .upkCntClr via v => Sys2Proof.Machine.execUpkCntClr via v s
  | .armZero via v => Sys2Proof.Machine.execArmZero via v s
  | .armErrClear via v => Sys2Proof.Machine.execArmErrClear via v s
  | .idle port => Sys2Proof.Machine.execIdle port s
  | .ack port prio first last => Sys2Proof.Machine.execAck port prio first last s
  | .nak port prio first last => Sys2Proof.Machine.execNak port prio first last s
  | .tail port prio next => Sys2Proof.Machine.execTail port prio next s
  | .tailSend port prio => Sys2Proof.Machine.execTailSend port prio s
  | .credit port vc freed => Sys2Proof.Machine.execCredit port vc freed s
  | .lost port seq => Sys2Proof.Machine.execLost port seq s
  | .train port step => Sys2Proof.Machine.execTrain port step s
  | .trainStepDone port power => Sys2Proof.Machine.execTrainStepDone port power s
  | .trainStepTimeout port cause => Sys2Proof.Machine.execTrainStepTimeout port cause s
  | .timingWord port time hold => Sys2Proof.Machine.execTimingWord port time hold s
  | .echo port arrival time hold => Sys2Proof.Machine.execEcho port arrival time hold s
  | .resync port bulk prio valid => Sys2Proof.Machine.execResync port bulk prio valid s
  | .park port => Sys2Proof.Machine.execPark port s
  | .bulkData src ctx f => Sys2Proof.Machine.execBulkData src ctx f s
  | .landed src f => Sys2Proof.Machine.execLanded src f s
  | .refused src f => Sys2Proof.Machine.execRefused src f s
  | .refusalRecordTimeout src tag => Sys2Proof.Machine.execRefusalRecordTimeout src tag s
  | .hutchForward port f => Sys2Proof.Machine.execHutchForward port f s
  | .ackTimeout port => Sys2Proof.Machine.execAckTimeout port s
  | .recoveryEnd port => Sys2Proof.Machine.execRecoveryEnd port s
  | .recoveryTimeout port => Sys2Proof.Machine.execRecoveryTimeout port s
  | .downRetry port => Sys2Proof.Machine.execDownRetry port s
  | .rxPowerSample port rx tx => Sys2Proof.Machine.execRxPowerSample port rx tx s
  | .afvEnable port via v => Sys2Proof.Machine.execAfvEnable port via v s
  | .retrain port via v => Sys2Proof.Machine.execRetrain port via v s
  | .afvCntClr port via v => Sys2Proof.Machine.execAfvCntClr port via v s
  | .loopModeWrite port via v => Sys2Proof.Machine.execLoopModeWrite port via v s
  | .hutCntClr via v => Sys2Proof.Machine.execHutCntClr via v s
  | .collectiveStart core unit => Sys2Proof.Machine.execCollectiveStart core unit s
  | .grant src f => Sys2Proof.Machine.execGrant src f s
  | .collChunk src f => Sys2Proof.Machine.execCollChunk src f s
  | .engineDone engine mismatch again => Sys2Proof.Machine.execEngineDone engine mismatch again s
  | .abortFrame src f => Sys2Proof.Machine.execAbortFrame src f s
  | .up src f => Sys2Proof.Machine.execUp src f s
  | .down src f => Sys2Proof.Machine.execDown src f s
  | .groupTableCopyEnd => Sys2Proof.Machine.execGroupTableCopyEnd s
  | .abortClr via v => Sys2Proof.Machine.execAbortClr via v s
  | .ovfClr via v => Sys2Proof.Machine.execOvfClr via v s
  | .bind via v => Sys2Proof.Machine.execBind via v s
  | .claim via v => Sys2Proof.Machine.execClaim via v s
  | .renew via v => Sys2Proof.Machine.execRenew via v s
  | .release via v => Sys2Proof.Machine.execRelease via v s
  | .handover via v => Sys2Proof.Machine.execHandover via v s
  | .force via v => Sys2Proof.Machine.execForce via v s
  | .req f => Sys2Proof.Machine.execReq f s
  | .order f => Sys2Proof.Machine.execOrder f s
  | .orderApply => Sys2Proof.Machine.execOrderApply s
  | .vote f => Sys2Proof.Machine.execVote f s
  | .norootTimeout path => Sys2Proof.Machine.execNorootTimeout path s
  | .electionClose => Sys2Proof.Machine.execElectionClose s
  | .leaseExpiry => Sys2Proof.Machine.execLeaseExpiry s
  | .forceLapse => Sys2Proof.Machine.execForceLapse s
  | .press => Sys2Proof.Machine.execPress s
  | .sealWindowOpen => Sys2Proof.Machine.execSealWindowOpen s
  | .sealWindowClose => Sys2Proof.Machine.execSealWindowClose s
  | .sealPlugInsert => Sys2Proof.Machine.execSealPlugInsert s
  | .openChange via v => Sys2Proof.Machine.execOpenChange via v s
  | .check via v => Sys2Proof.Machine.execCheck via v s
  | .localCheckEnd => Sys2Proof.Machine.execLocalCheckEnd s
  | .commit via v => Sys2Proof.Machine.execCommit via v s
  | .abort via v => Sys2Proof.Machine.execAbort via v s
  | .stagedCommitApply => Sys2Proof.Machine.execStagedCommitApply s
  | .stageCommitLoRead via => Sys2Proof.Machine.execStageCommitLoRead via s
  | .stagedWrite off via v => Sys2Proof.Machine.execStagedWrite off via v s
  | .pfBar2Access addr len wr => Sys2Proof.Machine.execPfBar2Access addr len wr s
  | .vfBar2Access vf addr len wr => Sys2Proof.Machine.execVfBar2Access vf addr len wr s
  | .loadBufferWrite off data => Sys2Proof.Machine.execLoadBufferWrite off data s
  | .vfFlr vf => Sys2Proof.Machine.execVfFlr vf s
  | .pfFlr => Sys2Proof.Machine.execPfFlr s
  | .evtQHeadWrite vf v => Sys2Proof.Machine.execEvtQHeadWrite vf v s
  | .evtQueueEnable vf v => Sys2Proof.Machine.execEvtQueueEnable vf v s
  | .eventWriteFail vf => Sys2Proof.Machine.execEventWriteFail vf s
  | .entdaa addr => Sys2Proof.Machine.execEntdaa addr s
  | .rstdaa => Sys2Proof.Machine.execRstdaa s
  | .setnewda addr => Sys2Proof.Machine.execSetnewda addr s
  | .enec => Sys2Proof.Machine.execEnec s
  | .disec => Sys2Proof.Machine.execDisec s
  | .getpid => Sys2Proof.Machine.execGetpid s
  | .getbcr => Sys2Proof.Machine.execGetbcr s
  | .getdcr => Sys2Proof.Machine.execGetdcr s
  | .getstatus => Sys2Proof.Machine.execGetstatus s
  | .setmwl len => Sys2Proof.Machine.execSetmwl len s
  | .setmrl len => Sys2Proof.Machine.execSetmrl len s
  | .getmwl => Sys2Proof.Machine.execGetmwl s
  | .getmrl => Sys2Proof.Machine.execGetmrl s
  | .hotJoin => Sys2Proof.Machine.execHotJoin s
  | .csrw addr v len => Sys2Proof.Machine.execCsrw addr v len s
  | .csrr addr len => Sys2Proof.Machine.execCsrr addr len s
  | .lbw off data => Sys2Proof.Machine.execLbw off data s
  | .lbr off len => Sys2Proof.Machine.execLbr off len s
  | .stat => Sys2Proof.Machine.execStat s
  | .privateRead => Sys2Proof.Machine.execPrivateRead s
  | .ethLinkChange isUp => Sys2Proof.Machine.execEthLinkChange isUp s
  | .arp target sender => Sys2Proof.Machine.execArp target sender s
  | .icmpEcho dest data => Sys2Proof.Machine.execIcmpEcho dest data s
  | .neighbourDiscovery target => Sys2Proof.Machine.execNeighbourDiscovery target s
  | .icmpv6Echo dest data => Sys2Proof.Machine.execIcmpv6Echo dest data s
  | .ethFrameDrop => Sys2Proof.Machine.execEthFrameDrop s
  | .ptpSync domain twoStep offset => Sys2Proof.Machine.execPtpSync domain twoStep offset s
  | .ptpDelayResp domain => Sys2Proof.Machine.execPtpDelayResp domain s
  | .ptpSyncTimeout => Sys2Proof.Machine.execPtpSyncTimeout s
  | .identReq m => Sys2Proof.Machine.execIdentReq m s
  | .csrWrite m => Sys2Proof.Machine.execCsrWrite m s
  | .csrRead m => Sys2Proof.Machine.execCsrRead m s
  | .write m => Sys2Proof.Machine.execWrite m s
  | .read m => Sys2Proof.Machine.execRead m s
  | .request m => Sys2Proof.Machine.execRequest m s
  | .kbtAck m => Sys2Proof.Machine.execKbtAck m s
  | .kbtNak m => Sys2Proof.Machine.execKbtNak m s
  | .kbtRetransmitTimeout session => Sys2Proof.Machine.execKbtRetransmitTimeout session s
  | .kbtAckTimer session => Sys2Proof.Machine.execKbtAckTimer session s
  | .ethEnable via v => Sys2Proof.Machine.execEthEnable via v s
  | .ethReload via v => Sys2Proof.Machine.execEthReload via v s
  | .ethCntClr via v => Sys2Proof.Machine.execEthCntClr via v s
  | .intakeEnable ctx via v => Sys2Proof.Machine.execIntakeEnable ctx via v s
  | .intakeDoor vf v => Sys2Proof.Machine.execIntakeDoor vf v s
  | .intakeDecision => Sys2Proof.Machine.execIntakeDecision s
  | .intakeReply ctx => Sys2Proof.Machine.execIntakeReply ctx s
  | .domainRequestWrite hi via v => Sys2Proof.Machine.execDomainRequestWrite hi via v s
  | .domainSwitchDone => Sys2Proof.Machine.execDomainSwitchDone s
  | .supplyFault domain => Sys2Proof.Machine.execSupplyFault domain s
  | .pwrCapWrite via v => Sys2Proof.Machine.execPwrCapWrite via v s
  | .fastConversion channel slice code clip badSlice => Sys2Proof.Machine.execFastConversion channel slice code clip badSlice s
  | .droopStepUp core => Sys2Proof.Machine.execDroopStepUp core s
  | .rangeStep channel => Sys2Proof.Machine.execRangeStep channel s
  | .calibrationConverged => Sys2Proof.Machine.execCalibrationConverged s
  | .start via v => Sys2Proof.Machine.execStart via v s
  | .softConversion codes => Sys2Proof.Machine.execSoftConversion codes s
  | .recal via v => Sys2Proof.Machine.execRecal via v s
  | .flush via v => Sys2Proof.Machine.execFlush via v s
  | .telQHeadRead via => Sys2Proof.Machine.execTelQHeadRead via s
  | .slowWindowEnd w => Sys2Proof.Machine.execSlowWindowEnd w s
  | .mainsRefEdge period => Sys2Proof.Machine.execMainsRefEdge period s
  | .mainsLostTimeout => Sys2Proof.Machine.execMainsLostTimeout s
  | .thermtrip => Sys2Proof.Machine.execThermtrip s
  | .fuseLoadEnd map => Sys2Proof.Machine.execFuseLoadEnd map s
  | .bootEnd => Sys2Proof.Machine.execBootEnd s
  | .watchdogExpiry => Sys2Proof.Machine.execWatchdogExpiry s
  | .chipReady => Sys2Proof.Machine.execChipReady s
  | .join via v => Sys2Proof.Machine.execJoin via v s
  | .formationInstant => Sys2Proof.Machine.execFormationInstant s
  | .formUp src f => Sys2Proof.Machine.execFormUp src f s
  | .formConfirmTimeout => Sys2Proof.Machine.execFormConfirmTimeout s
  | .formDown f => Sys2Proof.Machine.execFormDown f s
  | .formUnconfirmedTimeout => Sys2Proof.Machine.execFormUnconfirmedTimeout s
  | .darkTimeout port => Sys2Proof.Machine.execDarkTimeout port s
  | .dark f => Sys2Proof.Machine.execDark f s
  | .fenceReq f => Sys2Proof.Machine.execFenceReq f s
  | .fenceFrame f => Sys2Proof.Machine.execFenceFrame f s
  | .fenceApply => Sys2Proof.Machine.execFenceApply s
  | .chipReset via v => Sys2Proof.Machine.execChipReset via v s
  | .glbFence via v => Sys2Proof.Machine.execGlbFence via v s
  | .fwLoad via v => Sys2Proof.Machine.execFwLoad via v s
  | .fwLoadEnd => Sys2Proof.Machine.execFwLoadEnd s
  | .resetN => Sys2Proof.Machine.execResetN s
  | .powerOnReset plug => Sys2Proof.Machine.execPowerOnReset plug s
  | .registerWrite off via v => Sys2Proof.Machine.execRegisterWrite off via v s
  | .sealPlugRemove => Sys2Proof.Machine.execSealPlugRemove s
  | .claimNAssert => Sys2Proof.Machine.execClaimNAssert s
  | .claimNRelease => Sys2Proof.Machine.execClaimNRelease s
  | .resetNRelease plug button => Sys2Proof.Machine.execResetNRelease plug button s
  | .pcieFundamentalReset => Sys2Proof.Machine.execPcieFundamentalReset s
  | .lossOfLight port => Sys2Proof.Machine.execLossOfLight port s
  | .frameCrcFailure port => Sys2Proof.Machine.execFrameCrcFailure port s
  | .controlWordDiscard port => Sys2Proof.Machine.execControlWordDiscard port s
  | .kbtMessageDropped => Sys2Proof.Machine.execKbtMessageDropped s
  | .privateMessageOpcode => Sys2Proof.Machine.execPrivateMessageOpcode s
  | .aluResultReturn core => Sys2Proof.Machine.execAluResultReturn core s
  | .cpStoreWritten core => Sys2Proof.Machine.execCpStoreWritten core s
  | .ptpFollowUp domain offset => Sys2Proof.Machine.execPtpFollowUp domain offset s
  | .ptpAnnounce domain => Sys2Proof.Machine.execPtpAnnounce domain s
  | .intakeWindowWrite vf off data => Sys2Proof.Machine.execIntakeWindowWrite vf off data s

end Sys2Proof.Machine
end

