-- ==== Sys2Proof/Machine/Tick.lean ====
section
/-! DEFINITION. Machine/Tick.lean: what one core clock does of itself, on an empty queue: the clock of R177, the progress of the units,
the activity ramps of R257, upsets of trestles, cupboard and counters, the waits of R149 outside a partition, and the stall counters of Table 4-4
(assumption logs 5, 29, 72). -/

namespace Sys2Proof.Machine

/-! ### The units in one clock (R245, R250, R257, R266) -/

/-- The head of a unit's queue waits under the same-unit interlock (R138, R255). -/
def headInterlocked (s : State) (y : CUnit) (x : QEntry) : Bool :=
  match x.work with
  | .op i d a b c e scalar =>
    let o : Ops := ⟨d, a, b, c, e⟩
    !x.started && interlocked y i o (shapeOf s i o scalar)
  | _ => false

/-- The next tile goes into the staging buffer while its broadcast load waits (R266). -/
def stageNext (s : State) (n u : Nat) (x : QEntry) : State :=
  match x.work with
  | .op i d a b c e scalar =>
    let o : Ops := ⟨d, a, b, c, e⟩
    match viewOf i, (tilesIn ((viewOf i).getD ⟨.tmul, 0, 0, false, false, false, false, 0, false⟩) (shapeOf s i o scalar))[x.loads]? with
    | some v, some t =>
      let p := stageTile s n u x v o t
      if p.refused then refuseRead p.state n u p.entry else setHead p.state n u p.entry
    | _, _ => s
  | _ => s

/-- The head of a unit's queue in one clock: an interlock that holds is noted; a broadcast load that has to wait does so for a free
time, during which its tile is staged; else the instruction gets a free number of steps further, of a tensor instruction at most
one. -/
def headClock (s : State) (n u : Nat) : State :=
  match (unitAt s n u).queue with
  | [] => s
  | x :: _ =>
    let d := s.draw
    let s := s.drawn 2
    if headInterlocked s (unitAt s n u) x then setHead s n u { x with waited := true }
    else if !x.started || entryFilling s x then s
    else if broadcastWait s n u x && Config.freeBool d then
      if (arrayAt s n u).staging.isNone && Config.freeBool (d + 1) then stageNext s n u x else s
    else unitAdvance s n u (if u < 4 then Config.freeNat (d + 1) % 2 else Config.freeNat (d + 1))

/-- A unit in one clock: its head, at a free choice one piece from its drain, and its array's ramp. -/
def unitClock (s : State) (n u : Nat) : State :=
  let s :=
    if !unitBusy (coreAt s n) u then s
    else
      let s := headClock s n u
      let d := s.draw
      let s := s.drawn 1
      if Config.freeBool d then drainNext s n u else s
  if u < 4 then modArray s n u (arrayClock (rhoNow s) (arrayWorks (unitAt s n u))) else s

/-- Every unit of every core in one clock. -/
def unitsClock (s : State) : State :=
  (List.range 16).foldl (fun s n => (List.range 6).foldl (fun s u => unitClock s n u) s) s

/-! ### Upsets (R264, R317, R325) -/

/-- A free finite number, as an upset leaves one. -/
def freeNum (d : Nat) : Num :=
  let m : Int := Config.freeNat (d + 1)
  .fin (Config.freeBool d) ⟨if Config.freeBool d then -m else m, -(Config.freeNat (d + 2) : Int)⟩

/-- Entries of a list replaced by free ones, each at a free choice. -/
def upsetList {α : Type} (d : Nat) (f : Nat → α → α) (xs : List α) : List α :=
  (xs.zip (List.range xs.length)).map fun p => if Config.freeBool (d + 4 * p.2) then f (d + 4 * p.2 + 1) p.1 else p.1

/-- An upset inside a trestle's array: accumulators, and stationary elements of B, take free values (R264). -/
def upsetArray (s : State) (n u : Nat) : State :=
  let d := s.draw
  let x := arrayAt s n u
  let k := x.file.length + x.cells.length + x.tile.length + x.regs0.length + x.regs1.length
  let sums (i : Nat) (l : List Num) : List Num := upsetList (d + 4 * i) (fun j _ => freeNum j) l
  let held (i : Nat) (l : List Nat) : List Nat :=
    if x.df == 0 then upsetList (d + 4 * i) (fun j _ => Config.freeNat j % 2 ^ widthOf x.bDesc) l else l
  let i := x.file.length + x.cells.length
  modArray (s.drawn (4 * k)) n u fun x => { x with
    file := sums 0 x.file, cells := sums x.file.length x.cells
    tile := held i x.tile, regs0 := held (i + x.tile.length) x.regs0
    regs1 := held (i + x.tile.length + x.regs0.length) x.regs1 }

/-- An upset in a trestle's drain: elements of a row piece that waits there take free values (R264). -/
def upsetDrain (s : State) (n u : Nat) : State :=
  let y := unitAt s n u
  match (y.flight ++ y.queue.take 1).find? fun x => x.array && !x.out.isEmpty with
  | none => s
  | some x =>
    let d := s.draw
    let i := Config.freeNat d % max 1 x.out.length
    let bytes (j : Nat) (w : Nat × List Byte) : Nat × List Byte := (w.1, leBytes w.2.length (Config.freeNat j))
    replaceEntry (s.drawn (1 + 4 * (x.out.getD i []).length)) n u x
      { x with out := x.out.set i (upsetList (d + 1) bytes (x.out.getD i [])) }

/-- At a free choice a transient upset meets the array and the drain of a trestle, and nothing detects it (R264). -/
def upsetTrestle (s : State) : State :=
  let d := s.draw
  let n := Config.freeNat (d + 1) % 16
  let u := Config.freeNat (d + 2) % 4
  let s := s.drawn 3
  if Config.freeBool d then upsetDrain (upsetArray s n u) n u else s

/-- At a free choice one bit of a cupboard word, and one of an arrival counter, turns over. -/
def upsetClock (s : State) : State :=
  let d := s.draw
  let s := s.drawn 5
  let s := if Config.freeBool d then upsetWord s (Config.freeNat (d + 1) % 50331648) else s
  if Config.freeBool (d + 2) then
    modCore s (Config.freeNat (d + 3) % 16) fun c => { c with
      counters := vmod c.counters (Config.freeNat (d + 4) % 256) fun k => { k with upset := true } }
  else s

/-! ### Stalls (Table 4-4, R150 to R154) -/

/-- A core waits for a step-0 segment of a stream whose shelf has fully arrived and awaits decoding alone (R108). -/
def awaitsDecode (s : State) (n : Nat) (west : Bool) : Bool :=
  let pending (x : Shelf) (k : Nat) : Bool := decide (0 < segBytes x) && !x.landed.contains (n, k)
  let full (x : Shelf) : Bool := !x.stopped && receivedOf s west x == hdrEncLen x.hdr
  match (heldOf s west).filter fun x => (List.range 16).any (pending x) with
  | some x => pending x 0 && full x
  | none => (arrOf s west).any fun x => pending x 0 && full x

/-- The counter of a WAITC on an arrival counter whose condition does not hold yet (R162). -/
def waitcStall (s : State) (n : Nat) (ctr : Byte) (eq : Bool) (v : W32) : Option Nat :=
  if waitcHolds (counterAt s n ctr.toNat).value eq v then none
  else some (if ctr.toNat < 254 then 3 else if awaitsDecode s n (ctr == 255) then 1 else 0)

/-- The counter of a WAITB. -/
def waitbStall (s : State) (m : Nat) (v issued : W64) : Option Nat := if waitbHolds s m v issued then none else some 7

/-- Of two causes that hold in one clock, the one of the lower precedence number counts (R151). -/
def firstCause (a b : Option Nat) : Option Nat :=
  let precedence (k : Nat) : Nat := ([1, 1, 6, 1, 3, 7, 4, 1, 2, 5] : List Nat).getD k 8
  match a, b with
  | some x, some y => if precedence y < precedence x then some y else some x
  | none, y => y
  | x, none => x

/-- A scalar load, a descriptor load or a fetch of the CP waits for a zero fill (R310, R324). -/
def cpFilling (s : State) (n : Nat) (c : Core) (i : Isa) : Bool :=
  match i with
  | .ld f => cpWaits s n (effAddr c f.a f.imm).toNat (if f.fn == 0 then 8 else 4)
  | .tdld f => cpWaits s n (effAddr c f.a f.imm).toNat 64
  | .move f => cpWaits s n (effAddr c f.a f.imm).toNat 32
  | _ => false

/-- The counter of the CP in a clock in which it is stalled. -/
def cpStall (s : State) (n : Nat) (c : Core) : Option Nat :=
  match c.wait with
  | .waitc k eq v => waitcStall s n k eq v
  | .waitb m v b => waitbStall s m v b
  | .fence m => if fenceHolds c m then none else some 5
  | .none =>
    if !mayIssue c then none
    else if filling s c.pc.toNat 8 then some 2
    else match isaDecode (fetchWord s n).2 with
      | none => none
      | some i =>
        let g := wordGuard (fetchWord s n).2
        if bit c.pPend g.p.toNat then some 5
        else if !guardOf c g || !legal i then none
        else firstCause (if (moverOf c i).any fun m => !slotFree c m then some 8 else if !regsFree c i || !hasRoom c i then some 5 else none)
          (if regsFree c i && cpFilling s n c i then some 2 else none)

/-- The counter of an instruction in a unit: at the head, or a C-class one in flight. -/
def entryStall (s : State) (n u : Nat) (x : QEntry) : Option Nat :=
  match x.work with
  | .waitc k eq v => waitcStall s n k eq v
  | .waitb m v b => waitbStall s m v b
  | .tflg _ => none
  | .op _ _ _ _ _ _ _ =>
    firstCause (if collHeld s x then some 6 else if broadcastWait s n u x then some 4 else none)
      (firstCause (if headInterlocked s (unitAt s n u) x then some 5 else none) (if x.started && entryFilling s x then some 2 else none))

/-- A clock that an agent at work loses to a bank conflict, or the bulk output of a C-class instruction to the windows of its link:
the manual's timing of both is not modelled, so it is a free choice (assumption log 72). -/
def lost (s : State) (at' : Nat) (y : CUnit) : Option Nat :=
  firstCause (if Config.freeBool at' then some 2 else none)
    (if Config.freeBool (at' + 1) && (y.queue ++ y.flight).any (sendsOpen s) then some 9 else none)

/-- The counter of a unit in a clock in which it is stalled: its head's, and, unless the head is at work, that of a C-class instruction
in flight. -/
def unitStall (s : State) (n u at' : Nat) : Option Nat :=
  let y := unitAt s n u
  let flight := y.flight.foldl (fun k x => firstCause k (if collHeld s x then some 6 else none)) none
  match y.queue with
  | [] => if y.flight.isEmpty then none else firstCause flight (lost s at' y)
  | x :: _ =>
    let head := entryStall s n u x
    firstCause (if x.started && head.isNone then none else firstCause head flight) (if x.started then lost s at' y else none)

/-- The counter of agent `k` of a core in a clock: 0 the CP, 1 to 6 its units. -/
def agentStall (s : State) (n : Nat) (c : Core) (k : Nat) : Option Nat :=
  let d := s.draw + 14 * n + 2 * k
  if k = 0 then firstCause (cpStall s n c) (if mayIssue c && Config.freeBool d then some 2 else none) else unitStall s n (k - 1) d

/-- One clock of a core's stall counters. -/
def stallClock (s : State) (n : Nat) (c : Core) : Core :=
  if c.freeze || c.state == 0 then c
  else
    let agents := if c.stallSel = 0 then List.range 7 else [c.stallSel.toNat - 1]
    { c with stall := (agents.filterMap (agentStall s n c)).foldl (fun v i => vmod v i satInc) c.stall }

/-! ### The clock -/

/-- Ports in step DELAY send their timing words 1 µs apart, 64 in all (R374). -/
def timingClock (s : State) : State :=
  (List.range 10).foldl (fun s p =>
    let q := portAt s p
    if q.state == 2 && q.step == 6 && decide (q.timings < 64) && decide (1800 ≤ (s.clock - q.timingAt).toNat) then sendTiming s p
    else s) s

/-- The stall counters and the waits of every core in one clock. -/
def coresClock (s : State) : State :=
  let outside := !formed s
  { s with
    draw := s.draw + 224
    cores := Vector.ofFn fun n : Fin 16 =>
      let c := stallClock s n.val s.cores[n]
      if outside then growWaits s c 0 1 else c }

/-- One core clock with nothing commanded. -/
def State.tick (s : State) : State :=
  timingClock (coresClock (upsetTrestle (upsetClock (unitsClock { s with clock := s.clock + 1 }))))

end Sys2Proof.Machine
end

