-- ==== Sys2Proof/WellFormed.lean ====
section
/-! DEFINITION. WellFormed.lean: which commands are well formed: the lengths and ranges that the manual gives what arrives with
a command. -/

namespace Sys2Proof

/-- A BULK_DATA payload in range (Table 11-8): 8 to 224 data bytes in words of 8, at an aligned address of 29 bits. -/
def bulkOk (f : BulkData) : Bool :=
  decide (f.addr.toNat < 2 ^ 29 ∧ f.addr.toNat % 8 = 0 ∧ 8 ≤ f.data.length ∧ f.data.length ≤ 224 ∧ f.data.length % 8 = 0) &&
    (!f.put || (f.data.length == 8 && f.rowEnd && f.xferEnd))

/-- A link header in range (Table 11-6). -/
def frameOk (f : Frame) : Bool := decide (f.seq < 4096 ∧ f.whops < 64 ∧ f.ctx < 16)

/-- A KBT message in range (R491): at most 8,192 bytes of payload. -/
def kbtOk (m : KbtMsg) : Bool := decide (m.payload.length ≤ 8192)

/-- A command is well formed. -/
def Instr.wellFormed : Instr → Bool
  | .load _ _ => true
  | .parseEnd => true
  | .anchor _ _ => true
  | .anchorWriteEnd => true
  | .verify _ _ => true
  | .idFrameSend => true
  | .identificationFrame _ _ => true
  | .neighbourTimeout _ => true
  | .neighbourCheckEnd => true
  | .microslotStart => true
  | .beatStart => true
  | .gridFrameStart => true
  | .beatHeaderSend _ => true
  | .beatHeader _ _ _ => true
  | .headerMissing _ => true
  | .relockStep => true
  | .relockLimit => true
  | .acquireEnd => true
  | .liveTimeout => true
  | .beatEnable _ _ => true
  | .beatPeakClr _ _ => true
  | .beatCntClr _ _ => true
  | .beatGuardWrite _ _ => true
  | .beatCountLoRead _ => true
  | .beatCountHiRead _ => true
  | .form _ _ => true
  | .formationRecord _ => true
  | .formationRecordTimeout => true
  | .formationRefusal _ => true
  | .shelfHeader _ bytes => bytes.length == 256
  | .haltFrame _ => true
  | .wrgHalt _ _ => true
  | .restart => true
  | .wrgEnable _ _ => true
  | .ringRegionFillEnd => true
  | .homeUeClear _ _ => true
  | .coreRingStep k => decide (k < 16)
  | .segmentLand _ _ k => decide (k < 16)
  | .groupCopyStart => true
  | .groupCopyEnd => true
  | .swapSwitch => true
  | .run _ _ _ => true
  | .stepOne _ _ _ => true
  | .halt _ _ _ => true
  | .creset _ _ _ => true
  | .stallClr _ _ _ => true
  | .coreDrained _ => true
  | .stallLoRead _ _ _ => true
  | .stallHiRead _ _ _ => true
  | .instructionIssue _ => true
  | .unitInstructionStart _ _ => true
  | .unitHeadRelease _ _ => true
  | .unitInstructionComplete _ _ => true
  | .transferStart _ _ => true
  | .transferSourceRead _ _ => true
  | .transferRowLanded _ _ => true
  | .transferSlotFree _ _ => true
  | .waitTimeout _ _ => true
  | .ill _ _ => true
  | .alu _ _ _ => true
  | .alui _ _ _ => true
  | .cmp _ _ _ => true
  | .cmpi _ _ _ => true
  | .plog _ _ _ => true
  | .aop _ _ _ => true
  | .ld _ _ _ => true
  | .ldDataReturn _ => true
  | .st _ _ _ => true
  | .rdc _ _ _ => true
  | .tdld _ _ _ => true
  | .tdst _ _ _ => true
  | .tdbase _ _ _ => true
  | .j _ _ _ => true
  | .jal _ _ _ => true
  | .jalr _ _ _ => true
  | .djnz _ _ _ => true
  | .waitc _ _ _ => true
  | .waitcComplete _ _ => true
  | .waitb _ _ _ => true
  | .waitbComplete _ _ => true
  | .fence _ _ _ => true
  | .fenceComplete _ => true
  | .cset _ _ _ => true
  | .cadd _ _ _ => true
  | .cread _ _ _ _ => true
  | .signal _ _ _ => true
  | .tdchk _ _ _ => true
  | .endp _ _ => true
  | .nop _ _ => true
  | .move _ _ _ => true
  | .put _ _ _ => true
  | .tmul _ _ _ => true
  | .tl1 _ _ _ => true
  | .tl2 _ _ _ => true
  | .tminp _ _ _ => true
  | .tmaxp _ _ _ => true
  | .tham _ _ _ => true
  | .tccnt _ _ _ => true
  | .smv _ _ _ => true
  | .vec _ _ _ => true
  | .tflg _ _ _ => true
  | .tmulGather _ _ _ => true
  | .tmulScatter _ _ _ => true
  | .call _ _ _ => true
  | .cpri _ _ _ => true
  | .selftestEnd _ _ _ _ => true
  | .fdis _ _ _ => true
  | .cpbModeWrite _ _ _ => true
  | .sliceFillEnd _ => true
  | .ceClr _ _ _ => true
  | .scrubRead _ a b => (a ++ b).all fun w => decide (w < 0x18000000 ∧ w % 8 = 0)
  | .frameFillEnd _ => true
  | .arrivalCounterWrite _ _ _ _ => true
  | .shelfFlit _ seq data => decide (seq < 4096) && data.length == 240
  | .spillReadback _ => true
  | .laneDispatch _ => true
  | .laneFinish _ => true
  | .upkCntClr _ _ => true
  | .armZero _ _ => true
  | .armErrClear _ _ => true
  | .idle _ => true
  | .ack _ _ a b => decide (a < 4096 ∧ b < 4096)
  | .nak _ _ a b => decide (a < 4096 ∧ b < 4096)
  | .tail _ _ n => decide (n < 4096)
  | .tailSend _ _ => true
  | .credit _ _ n => decide (n < 65536)
  | .lost _ n => decide (n < 4096)
  | .train _ k => decide (k < 16)
  | .trainStepDone _ _ => true
  | .trainStepTimeout _ c => decide (c ≤ 10)
  | .timingWord _ _ _ => true
  | .echo _ _ _ _ => true
  | .resync _ a b _ => decide (a < 4096 ∧ b < 4096)
  | .park _ => true
  | .bulkData _ _ f => bulkOk f
  | .landed _ _ => true
  | .refused _ _ => true
  | .refusalRecordTimeout _ _ => true
  | .hutchForward _ f => frameOk f
  | .ackTimeout _ => true
  | .recoveryEnd _ => true
  | .recoveryTimeout _ => true
  | .downRetry _ => true
  | .rxPowerSample _ _ _ => true
  | .afvEnable _ _ _ => true
  | .retrain _ _ _ => true
  | .afvCntClr _ _ _ => true
  | .loopModeWrite _ _ _ => true
  | .hutCntClr _ _ => true
  | .collectiveStart _ _ => true
  | .grant _ f => decide (f.data.length = 8 ∧ f.phase < 8 ∧ f.typ = 2)
  | .collChunk _ f => decide (f.data.length ≤ 65536 ∧ f.phase < 8 ∧ f.typ < 2)
  | .engineDone _ _ _ => true
  | .abortFrame _ _ => true
  | .up _ _ => true
  | .down _ _ => true
  | .groupTableCopyEnd => true
  | .abortClr _ _ => true
  | .ovfClr _ _ => true
  | .bind _ _ => true
  | .claim _ _ => true
  | .renew _ _ => true
  | .release _ _ => true
  | .handover _ _ => true
  | .force _ _ => true
  | .req _ => true
  | .order _ => true
  | .orderApply => true
  | .vote _ => true
  | .norootTimeout _ => true
  | .electionClose => true
  | .leaseExpiry => true
  | .forceLapse => true
  | .press => true
  | .sealWindowOpen => true
  | .sealWindowClose => true
  | .sealPlugInsert => true
  | .openChange _ _ => true
  | .check _ _ => true
  | .localCheckEnd => true
  | .commit _ _ => true
  | .abort _ _ => true
  | .stagedCommitApply => true
  | .stageCommitLoRead _ => true
  | .stagedWrite off _ _ => decide (off < 0x200000 ∧ off % 4 = 0)
  | .pfBar2Access _ _ _ => true
  | .vfBar2Access _ _ _ _ => true
  | .loadBufferWrite off data => decide (off + data.length ≤ 0x100000)
  | .vfFlr _ => true
  | .pfFlr => true
  | .evtQHeadWrite _ _ => true
  | .evtQueueEnable _ _ => true
  | .eventWriteFail _ => true
  | .entdaa _ => true
  | .rstdaa => true
  | .setnewda _ => true
  | .enec => true
  | .disec => true
  | .getpid => true
  | .getbcr => true
  | .getdcr => true
  | .getstatus => true
  | .setmwl _ => true
  | .setmrl _ => true
  | .getmwl => true
  | .getmrl => true
  | .hotJoin => true
  | .csrw a _ _ => decide (a < 0x1000000)
  | .csrr a _ => decide (a < 0x1000000)
  | .lbw off data => decide (off < 0x1000000 ∧ 1 ≤ data.length ∧ data.length ≤ 256)
  | .lbr off _ => decide (off < 0x1000000)
  | .stat => true
  | .privateRead => true
  | .ethLinkChange _ => true
  | .arp _ _ => true
  | .icmpEcho _ _ => true
  | .neighbourDiscovery _ => true
  | .icmpv6Echo _ _ => true
  | .ethFrameDrop => true
  | .ptpSync _ _ _ => true
  | .ptpDelayResp _ => true
  | .ptpSyncTimeout => true
  | .identReq m => kbtOk m
  | .csrWrite m => kbtOk m
  | .csrRead m => kbtOk m
  | .write m => kbtOk m
  | .read m => kbtOk m
  | .request m => kbtOk m
  | .kbtAck m => kbtOk m
  | .kbtNak m => kbtOk m
  | .kbtRetransmitTimeout _ => true
  | .kbtAckTimer _ => true
  | .ethEnable _ _ => true
  | .ethReload _ _ => true
  | .ethCntClr _ _ => true
  | .intakeEnable _ _ _ => true
  | .intakeDoor _ _ => true
  | .intakeDecision => true
  | .intakeReply _ => true
  | .domainRequestWrite _ _ _ => true
  | .domainSwitchDone => true
  | .supplyFault _ => true
  | .pwrCapWrite _ _ => true
  | .fastConversion _ _ _ _ _ => true
  | .droopStepUp _ => true
  | .rangeStep _ => true
  | .calibrationConverged => true
  | .start _ _ => true
  | .softConversion _ => true
  | .recal _ _ => true
  | .flush _ _ => true
  | .telQHeadRead _ => true
  | .slowWindowEnd _ => true
  | .mainsRefEdge _ => true
  | .mainsLostTimeout => true
  | .thermtrip => true
  | .fuseLoadEnd _ => true
  | .bootEnd => true
  | .watchdogExpiry => true
  | .chipReady => true
  | .join _ _ => true
  | .formationInstant => true
  | .formUp _ _ => true
  | .formConfirmTimeout => true
  | .formDown _ => true
  | .formUnconfirmedTimeout => true
  | .darkTimeout _ => true
  | .dark _ => true
  | .fenceReq _ => true
  | .fenceFrame _ => true
  | .fenceApply => true
  | .chipReset _ _ => true
  | .glbFence _ _ => true
  | .fwLoad _ _ => true
  | .fwLoadEnd => true
  | .resetN => true
  | .powerOnReset _ => true
  | .registerWrite off _ _ => decide (off < 0x200000 ∧ off % 4 = 0)
  | .sealPlugRemove => true
  | .claimNAssert => true
  | .claimNRelease => true
  | .resetNRelease _ _ => true
  | .pcieFundamentalReset => true
  | .lossOfLight _ => true
  | .frameCrcFailure _ => true
  | .controlWordDiscard _ => true
  | .kbtMessageDropped => true
  | .privateMessageOpcode => true
  | .aluResultReturn _ => true
  | .cpStoreWritten _ => true
  | .ptpFollowUp _ _ => true
  | .ptpAnnounce _ => true
  | .intakeWindowWrite _ off data => decide (off + data.length ≤ 0x20000)

end Sys2Proof
end

