-- ==== Sys2Proof/Safety.lean ====
section
/-! DEFINITION. Safety.lean: what a safe state and a safe run are. -/

namespace Sys2Proof

open Sys2Proof.Machine

/-- Every command that waits is well formed. -/
def QueueOk (s : State) : Prop := ∀ c ∈ s.pending, c.wellFormed = true

/-- An instruction issues at once and has its effect: the core may issue, the fields are legal, the predicate is not pending and
true, no register that the instruction names is pending and its queue or mover has room (R137, R142, R171, R192). -/
def issues (s : State) (n : Nat) (g : Guard) (i : Isa) : Bool :=
  let c := coreAt s n
  mayIssue c && legal i && !bit c.pPend g.p.toNat && guardOf c g && regsFree c i && hasRoom c i

/-- Two states agree but for one core. -/
def sameButCore (s t : State) (n : Nat) : Prop := t = { s with cores := t.cores } ∧ ∀ m, m ≠ n → coreAt t m = coreAt s m

/-- A run of `k` steps that meets no fault and no refusal. -/
def SafeRun : Nat → State → Prop
  | 0, _ => True
  | k + 1, s => ∃ t, step s = .next t ∧ SafeRun k t

end Sys2Proof
end

