-- ==== Sys2Proof/Certificates/Slice0/Obligations.lean ====
section
/-! DEFINITION. Certificates/Slice0/Obligations.lean: the statements for the provers, each a proposition about the model, in
the manual's words before it. A clause that holds by a choice of the model names the entry of the assumption log. -/

open Sys2Proof Sys2Proof.Machine

/-- A step takes the command at the front of the queue: it is the command's meaning on the state with the queue's rest, and it
always answers a next state; no command stops the chip. On an empty queue one core clock passes (the model's choice,
assumption log 5). -/
def Obligations.StepTakesTheFrontCommand : Prop :=
  ∀ s : State,
    (∀ c cs, s.pending = c :: cs → step s = exec c { s with pending := cs }) ∧
    (s.pending = [] → step s = .next s.tick) ∧
    (∀ c, ∃ t, exec c s = .next t)

/-- R65, R132, R163, R314, R371, R447, R516, R549: what reset leaves. The chip is in RESET, in no partition; every core is HALTED
with its registers 0, p0 reading 1 and every arrival counter valid and 0; every port and the beat unit are OFF; the weight
ring is off; ownership is NONE with no agent bound; every gateable domain is requested on; no command waits and the memory
keeps its canonical form. Where it rests on readings and choices of the model, they are those of the assumption log, entries
3, 8. -/
def Obligations.ResetStateIsAsStated : Prop :=
  State.reset.glb.state = 0 ∧ formed State.reset = false ∧ State.reset.own.state = 0 ∧ State.reset.own.boundPf = none ∧
  State.reset.own.boundI3c = none ∧ State.reset.beat.state = 0 ∧ State.reset.beat.gridSet = false ∧
  State.reset.wrg.state = 0 ∧ State.reset.wrg.enable = false ∧ State.reset.inst.state = 0 ∧ State.reset.pwr.req = 0xFFFFFFFF ∧
  State.reset.pwr.telReq = true ∧ State.reset.pending = [] ∧ Memory.wf State.reset.mem = true ∧
  (∀ p : Fin 10, (portAt State.reset p.val).state = 0 ∧ (portAt State.reset p.val).enable = false) ∧
  ∀ n : Fin 16, (coreAt State.reset n.val).state = 0 ∧ (∀ r : BitVec 5, getS (coreAt State.reset n.val) r = 0) ∧
    getP (coreAt State.reset n.val) 0 = true ∧ ∀ k : Byte, counterAt State.reset n.val k.toNat = ⟨0, true, false⟩

/-- Commands are taken one at a time, first in first out: a step removes the front command and nothing else from the queue, no
command adds one, and an idle step leaves the queue empty. Where it rests on readings and choices of the model, they are those
of the assumption log, entry 75. -/
def Obligations.CommandsAreTakenFirstInFirstOut : Prop :=
  (∀ (c : Instr) (s t : State), exec c s = .next t → t.pending = s.pending) ∧
  (∀ (s t : State) c cs, s.pending = c :: cs → step s = .next t → t.pending = cs) ∧
  (∀ s t : State, s.pending = [] → step s = .next t → t.pending = [])

/-- Every step keeps the memory's canonical form, whatever the command and the state: addresses strictly rising, no entry equal to
what an unlisted address reads as. So equal memories are equal data. Where it rests on readings and choices of the model, they
are those of the assumption log, entry 3. -/
def Obligations.MemoryStaysCanonical : Prop :=
  ∀ s t : State, Memory.wf s.mem = true → step s = .next t → Memory.wf t.mem = true

/-- R170, R172, R202, Tables 5-5, 5-6, 5-8, 6-1 and 6-2: the decoder of instruction words inverts the encoder written from the
same tables: for every instruction and predicate field, with every operand at every value its field admits, the word decodes
to that instruction and gives that predicate field back, so no bit of an encoding is dropped and no two instructions share a
word. -/
def Obligations.InstructionWordsDecodeToWhatTheyEncode : Prop :=
  ∀ (g : Guard) (i : Isa), isaDecode (isaEncode g i) = some i ∧ wordGuard (isaEncode g i) = g

/-- R443, Table 13-2: write access. A write is accepted outside a formed partition, and inside one only in OWNED or FORCING from
the owner; a refused write of any register but OWN_CLAIM, on any path, changes nothing but that path's own OWN_STATE.ERR,
which becomes READONLY. OWN_CLAIM is judged by its own rules instead. Reads are answered at all times and never touch
ownership. -/
def Obligations.WritesNeedOwnership : Prop :=
  ∀ (s : State) (via : Via) (v : W32) (core : CoreId) (port : PortId) (off : Nat) (hi : Bool) (ctr : Byte) (k : Fin 10),
    (mayWrite s via = true ↔ s.own.valid = false ∨
      (s.own.state = 3 ∨ s.own.state = 4) ∧ agentOf s via = some s.own.owner) ∧
    (mayWrite s via = false →
      (∀ c ∈ [Instr.load via v, .anchor via v, .verify via v, .beatEnable via v, .beatPeakClr via v, .beatCntClr via v,
          .beatGuardWrite via v, .form via v, .wrgHalt via v, .wrgEnable via v, .homeUeClear via v, .run core via v,
          .stepOne core via v, .halt core via v, .creset core via v, .stallClr core via v, .fdis core via v,
          .cpbModeWrite core via v, .ceClr core via v, .arrivalCounterWrite core ctr via v, .upkCntClr via v,
          .armZero via v, .armErrClear via v, .afvEnable port via v, .retrain port via v, .afvCntClr port via v,
          .loopModeWrite port via v, .hutCntClr via v, .abortClr via v, .ovfClr via v, .openChange via v, .check via v,
          .commit via v, .abort via v, .stagedWrite off via v, .ethEnable via v, .ethReload via v, .ethCntClr via v,
          .domainRequestWrite hi via v, .pwrCapWrite via v, .start via v, .recal via v, .flush via v, .join via v,
          .chipReset via v, .glbFence via v, .fwLoad via v],
        exec c s = .next (setOwnErr s via 1)) ∧
      (isRegister off = true → off ≠ 0x20008 → exec (.registerWrite off via v) s = .next (setOwnErr s via 1))) ∧
    exec (.registerWrite 0x20008 via v) s = .next (ownClaimWrite s via v) ∧
    (∀ e a id, setOwnErr s .pf e = { s with own := { s.own with errPf := e } } ∧
      setOwnErr s .i3c e = { s with own := { s.own with errI3c := e } } ∧
      setOwnErr s (.kbt id a) e = { s with own := { s.own with errKbt := e } }) ∧
    (∀ c ∈ [(Instr.beatCountLoRead via, 0x10008), (.beatCountHiRead via, 0x1000C), (.stageCommitLoRead via, 0x20028),
        (.telQHeadRead via, 0xA0008), (.stallLoRead core via k, corReg core.val (0x100 + 8 * k.val)),
        (.stallHiRead core via k, corReg core.val (0x104 + 8 * k.val))],
      ∃ t w, exec c.1 s = .next t ∧ t.outs = .readData via c.2 w :: s.outs ∧ t.own = s.own ∧ t.mem = s.mem)

/-- R164: p0 always reads 1. A write of p0 is discarded, and every other scalar register, address register, predicate and
descriptor holds what its last writer wrote, a write of one leaving the others as they were. An instruction whose destination
is p0 executes: a CMP, CMPI, PLOG or TDCHK that issues with d = 0 only advances the PC. -/
def Obligations.PredicateZeroAlwaysReadsOne : Prop :=
  ∀ (c : Core) (r q : BitVec 5),
    getP c 0 = true ∧
    (∀ b, setP c 0 b = c) ∧
    (∀ v, getS (setS c r v) r = v ∧ (q ≠ r → getS (setS c r v) q = getS c q)) ∧
    (∀ v, r.toNat < 16 → getA (setA c r v) r = v ∧ (q ≠ r → getA (setA c r v) q = getA c q)) ∧
    (∀ b, 0 < r.toNat → r.toNat < 8 → getP (setP c r b) r = b ∧ (q ≠ r → getP (setP c r b) q = getP c q)) ∧
    (∀ t, getTd (setTd c r t) r = t ∧ (q ≠ r → getTd (setTd c r t) q = getTd c q)) ∧
    (∀ (s : State) (core : CoreId) (g : Guard) (f : FieldsR) (h : FieldsI), f.d = 0 → h.d = 0 →
      (issues s core.val g (.cmp f) = true → exec (.cmp core g f) s = .next (modCore s core.val retire)) ∧
      (issues s core.val g (.cmpi h) = true → exec (.cmpi core g h) s = .next (modCore s core.val retire)) ∧
      (issues s core.val g (.plog f) = true → exec (.plog core g f) s = .next (modCore s core.val retire)) ∧
      (issues s core.val g (.tdchk f) = true → exec (.tdchk core g f) s = .next (modCore s core.val retire)))

/-- R185: END stops issue: the core enters DRAINING, in which nothing issues, with COR_PC_LO at the address after the END; once
its units and movers are idle it is HALTED with STOP = END and the same COR_PC_LO. -/
def Obligations.EndDrainsAndHalts : Prop :=
  ∀ (s : State) (core : CoreId) (g : Guard),
    (issues s core.val g .endp = true → ∃ t, exec (.endp core g) s = .next t ∧ t = { s with cores := t.cores } ∧
      (coreAt t core.val).state = 3 ∧ (coreAt t core.val).stopNext = 3 ∧
      (coreAt t core.val).pc = (coreAt s core.val).pc + 8 ∧ (coreAt t core.val).s = (coreAt s core.val).s ∧
      ∀ h i, issue t core.val h i = t) ∧
    ((coreAt s core.val).state = 3 → (coreAt s core.val).stopNext = 3 → idleCore (coreAt s core.val) = true →
      ∃ t, exec (.coreDrained core) s = .next t ∧ (coreAt t core.val).state = 0 ∧ (coreAt t core.val).stop = 3 ∧
        (coreAt t core.val).pc = (coreAt s core.val).pc ∧ ∀ h i, issue t core.val h i = t)

/-- R53, R133, R517, R538, R601, R603, R609, R610: a write of a register that has no command of its own. One of a reserved offset,
or of a register whose domain is off, changes nothing. On an accepted path COR_PC_LO of a HALTED core, in a domain that is on,
takes the address, and of any other core is refused with code STATE; BEAT_PERIOD outside a partition takes its period, refused
with code RANGE below its minimum; PWR_RAMP takes its settings, or is refused with code RANGE; HST_INTAKE_STAT takes VSEL; the
FAULT mark of PWR_DOM_STAT_HI falls where its bit is 1. Where it rests on readings and choices of the model, they are those of
the assumption log, entries 11, 12, 13, 15, 74. -/
def Obligations.RegisterWritesReachTheirRegister : Prop :=
  ∀ (s : State) (off : Nat) (via : Via) (v : W32),
    (isRegister off = false → exec (.registerWrite off via v) s = .next s) ∧
    (mayWrite s via = true → off ≠ 0x20008 → regReachable s off = false → exec (.registerWrite off via v) s = .next s) ∧
    (mayWrite s via = true →
      (∀ n : CoreId, domainOn s n.val = true →
        ((coreAt s n.val).state = 0 → exec (.registerWrite (corReg n.val 8) via v) s =
          .next (modCore s n.val fun c => { c with pc := v &&& 0xFFFFFFF8 })) ∧
        ((coreAt s n.val).state ≠ 0 → exec (.registerWrite (corReg n.val 8) via v) s =
          .next (modCore s n.val fun c => { c with err := 1 }))) ∧
      (formed s = false → (v.extractLsb' 8 8 : Byte) ≠ nextM1 s →
        (minM1 s ≤ (v.extractLsb' 8 8).toNat → exec (.registerWrite 0x10004 via v) s =
          .next { s with beat := { s.beat with nextM1 := v.extractLsb' 8 8 } }) ∧
        ((v.extractLsb' 8 8).toNat < minM1 s → exec (.registerWrite 0x10004 via v) s =
          .next { s with beat := { s.beat with err := 1 } })) ∧
      (bit v 23 = false → bits v 24 4 ≠ 15 → bits v 20 3 ≠ 0 → bits v 0 8 ≠ 0 → bits v 0 8 < bits v 8 8 →
        ∃ t, exec (.registerWrite 0x90010 via v) s = .next t ∧ t = { s with pwr := t.pwr } ∧
          t.pwr.rho.toNat = bits v 24 4 ∧ t.pwr.loopEn = false ∧ t.pwr.lMin.toNat = bits v 20 3 ∧
          t.pwr.tripHi.toNat = bits v 8 8 ∧ t.pwr.tripLo.toNat = bits v 0 8 ∧ t.pwr.req = s.pwr.req) ∧
      (bit v 23 = false → bits v 24 4 = 15 ∨ bits v 20 3 = 0 ∨ bits v 0 8 = 0 ∨ bits v 8 8 ≤ bits v 0 8 →
        exec (.registerWrite 0x90010 via v) s = .next { s with pwr := { s.pwr with rampErr := 5 } }) ∧
      exec (.registerWrite 0xB0010 via v) s =
        .next { s with hst := { s.hst with vsel := v.extractLsb' 28 4 } } ∧
      exec (.registerWrite 0x9000C via v) s =
        .next { s with pwr := { s.pwr with fault := s.pwr.fault && !bit v 25 } })

/-- R36, R38, R42, R43, R45: on an accepted path a write of INST_CTL with LOAD starts the parsing of the load buffer's image, and a
port in training goes back to IDENT; ANCHOR (in UNANCHORED while the seal window is open) starts writing the parsed table's
digest and SEQUENCE into the anchor store; VERIFY (in CHECKED or MISCABLED) starts the neighbour check again. None touches
memory or cores. LOAD and ANCHOR of a member of a formed partition are refused with code BUSY, ANCHOR and VERIFY in another
state with STATE, ANCHOR with the seal window closed with SEAL; a refused command changes nothing else. Where a write sets
LOAD with another, LOAD acts; where it sets VERIFY and ANCHOR without LOAD, neither does. The order in which ANCHOR looks for BUSY, STATE and
SEAL is the model's choice, assumption log 12; log 18 says what else rests on readings. -/
def Obligations.InstallCommandsStart : Prop :=
  ∀ (s : State) (via : Via) (v : W32), mayWrite s via = true →
    (s.own.valid = false → ∃ t, exec (.load via v) s = .next t ∧ t.inst.state = 1 ∧ t.inst.err = 0 ∧ t.inst.table = none ∧
      (s.inst.state = 5 → t.inst.nbrOk = 0 ∧ t.inst.nbrFail = 0) ∧ t.anchor = s.anchor ∧ t.mem = s.mem ∧ t.cores = s.cores ∧
      t.ports = s.ports.map (fun q => if q.state = 2 then toIdent q else q)) ∧
    (s.own.valid = true → exec (.load via v) s = .next { s with inst := { s.inst with err := 9 } }) ∧
    (bit v 0 = false → bit v 1 = false →
      (s.own.valid = true → exec (.anchor via v) s = .next { s with inst := { s.inst with err := 9 } }) ∧
      (s.own.valid = false →
        (s.inst.state ≠ 3 → exec (.anchor via v) s = .next { s with inst := { s.inst with err := 10 } }) ∧
        (s.inst.state = 3 → s.own.sealing.windowOpen = false →
          exec (.anchor via v) s = .next { s with inst := { s.inst with err := 8 } }) ∧
        (∀ tab, s.inst.state = 3 → s.own.sealing.windowOpen = true → s.inst.table = some tab → exec (.anchor via v) s =
          .next { s with inst := { s.inst with anchorWrite := some ⟨tab.anchored, tab.sequence⟩ } }))) ∧
    (bit v 0 = false → bit v 2 = false →
      (s.inst.state = 6 ∨ s.inst.state = 7 → ∃ t, exec (.verify via v) s = .next t ∧ t.inst.state = 5 ∧ t.inst.nbrOk = 0 ∧
        t.inst.nbrFail = 0 ∧ t.inst.table = s.inst.table ∧ t.anchor = s.anchor ∧ t.mem = s.mem ∧ t.cores = s.cores ∧
        t.ports = s.ports) ∧
      (s.inst.state ≠ 6 → s.inst.state ≠ 7 →
        exec (.verify via v) s = .next { s with inst := { s.inst with err := 10 } })) ∧
    (bit v 0 = true → exec (.anchor via v) s = exec (.load via v) s ∧ exec (.verify via v) s = exec (.load via v) s) ∧
    (bit v 0 = false → (bit v 1 = true → exec (.anchor via v) s = .next s) ∧ (bit v 2 = true → exec (.verify via v) s = .next s))

/-- R33, R35, R38: parsing ends in INVALID, without a table, with the first code of the checks in their order, where one fails;
else the table is held, in UNANCHORED where the anchor store holds no digest of it, and otherwise in the neighbour check that
LOADED starts. Memory is untouched. R35, R36, R38: the anchor write's end stores the digest and SEQUENCE it was given, makes
them the anchor in force, lets the accepted SEQUENCE only rise, and takes an UNANCHORED chip whose table they are into the
neighbour check. Where it rests on readings and choices of the model, they are those of the assumption log, entry 4. -/
def Obligations.ParsingAndAnchoring : Prop :=
  (∀ s : State, s.inst.state = 1 → ∀ r e, r = imageTable s → e = tableErr s r →
    ∃ t, exec .parseEnd s = .next t ∧ t.mem = s.mem ∧ t.own = s.own ∧
      t.inst.table = (if e = 0 then some r else none) ∧ (e ≠ 0 → t.inst.err = e) ∧
      t.inst.state = (if e ≠ 0 then 2 else if s.anchor.now.map (·.digest) = some r.anchored then 5 else 3)) ∧
  (∀ (s : State) (a : Anchor), s.inst.anchorWrite = some a →
    (∃ t, exec .anchorWriteEnd s = .next t ∧ t.anchor.now = some a ∧ t.inst.anchorWrite = none ∧
      t.anchor.accepted.toNat = max s.anchor.accepted.toNat a.sequence.toNat ∧ t.mem = s.mem ∧ t.own = s.own) ∧
    (∀ tab, s.inst.state = 3 → s.inst.table = some tab → tab.anchored = a.digest →
      ∃ t, exec .anchorWriteEnd s = .next t ∧ t.inst.state = 5 ∧ t.inst.nbrOk = 0 ∧ t.inst.nbrFail = 0))

/-- R39, R370: every port that exchanges identification frames sends one, naming this chip, with its ID words; nothing else
changes. R39, R40: the third agreeing frame in a row passes a port and clears its failure, one before it counts, and so with frames
from the chip one tray further along W, which pass the port as one that sees a bypass. R41, R44: a frame that fits neither,
among them one with MACHINE_ID and HASH 0, fails a port that had not failed, also where it had passed, and breaks the run of
one that had. R371: an identification frame takes a PARKED port back to IDENT. A port that does not exchange frames takes no
notice of one. R41: a port still undecided at its timeout fails, a decided one stays; the check ends in CHECKED where no port
has failed and in MISCABLED where one has, a port undecided at the end counting as failed; outside the check its end does
nothing. Where it rests on readings of the model, they are those of the assumption log, entries 17, 18. -/
def Obligations.NeighbourCheckJudgesPorts : Prop :=
  (∀ (s : State) (port : PortId) (f : IdFrame) (tab : Table),
    (∃ t, exec .idFrameSend s = .next t ∧ t = { s with outs := t.outs } ∧
      (exchanging (portAt s port.val) = true → Out.idFrame port.val (idFrameOf s port.val) ∈ t.outs ∧
        ∀ w ∈ idWords (idFrameOf s port.val), Out.word port.val w ∈ t.outs)) ∧
    ((portAt s port.val).state = 6 →
      ∃ t, exec (.identificationFrame port f) s = .next t ∧ (portAt t port.val).state = 1 ∧ t.mem = s.mem ∧ t.cores = s.cores) ∧
    (exchanging (portAt s port.val) = false → (portAt s port.val).state ≠ 6 →
      exec (.identificationFrame port f) s = .next s) ∧
    (∀ direct byp, table? s = some tab → exchanging (portAt s port.val) = true → portExists tab port.val = true →
      5 ≤ s.inst.state.toNat →
      direct = frameAgrees tab f (expected tab (portAt s port.val).inService port.val).1
        (expected tab (portAt s port.val).inService port.val).2 → byp = frameBypass tab f port.val →
      (direct = true → 2 ≤ s.inst.agree.toList.getD port.val 0 →
        ∃ t, exec (.identificationFrame port f) s = .next t ∧ bit t.inst.nbrOk port.val = true ∧
          bit t.inst.nbrFail port.val = false ∧ bit t.inst.held port.val = false ∧ t.mem = s.mem ∧ t.cores = s.cores) ∧
      (direct = true → s.inst.agree.toList.getD port.val 0 < 2 →
        ∃ t, exec (.identificationFrame port f) s = .next t ∧ t = { s with inst := t.inst } ∧
          t.inst.agree.toList.getD port.val 0 = s.inst.agree.toList.getD port.val 0 + 1 ∧ t.inst.nbrOk = s.inst.nbrOk ∧
          t.inst.nbrFail = s.inst.nbrFail) ∧
      (direct = false → byp = true → 2 ≤ s.inst.agreeByp.toList.getD port.val 0 →
        ∃ t, exec (.identificationFrame port f) s = .next t ∧ bit t.inst.nbrOk port.val = true ∧
          bit t.inst.nbrFail port.val = false ∧ t.inst.bypSeen = true ∧ t.mem = s.mem ∧ t.cores = s.cores) ∧
      (direct = false → byp = true → s.inst.agreeByp.toList.getD port.val 0 < 2 →
        ∃ t, exec (.identificationFrame port f) s = .next t ∧ t = { s with inst := t.inst } ∧
          t.inst.agree.toList.getD port.val 0 = 0 ∧ t.inst.nbrOk = s.inst.nbrOk ∧ t.inst.nbrFail = s.inst.nbrFail) ∧
      (direct = false → byp = false → bit s.inst.nbrFail port.val = false →
        ∃ t, exec (.identificationFrame port f) s = .next t ∧ bit t.inst.nbrFail port.val = true ∧
          bit t.inst.nbrOk port.val = false ∧ t.mem = s.mem ∧ t.cores = s.cores) ∧
      (direct = false → byp = false → bit s.inst.nbrFail port.val = true →
        ∃ t, exec (.identificationFrame port f) s = .next t ∧ t = { s with inst := t.inst } ∧
          t.inst.agree.toList.getD port.val 0 = 0 ∧ t.inst.nbrFail = s.inst.nbrFail)) ∧
    (f.machineId = 0 → tab.machineId ≠ 0 → ∀ c p, frameAgrees tab f c p = false)) ∧
  (∀ (s : State) (port : PortId),
    (undecided s port.val = true → ∃ t, exec (.neighbourTimeout port) s = .next t ∧ bit t.inst.nbrFail port.val = true ∧
      bit t.inst.nbrOk port.val = false ∧ t.mem = s.mem ∧ t.cores = s.cores) ∧
    (undecided s port.val = false → exec (.neighbourTimeout port) s = .next s) ∧
    (s.inst.state = 5 → s.inst.nbrFail = 0 → (∀ p, p < 10 → undecided s p = false) →
      ∃ t, exec .neighbourCheckEnd s = .next t ∧ t.inst.state = 6 ∧ t.mem = s.mem ∧ t.cores = s.cores) ∧
    (s.inst.state = 5 → undecided s port.val = true ∨ s.inst.nbrFail ≠ 0 →
      ∃ t, exec .neighbourCheckEnd s = .next t ∧ t.inst.state = 7 ∧ t.mem = s.mem ∧ t.cores = s.cores) ∧
    (s.inst.state ≠ 5 → exec .neighbourCheckEnd s = .next s))

/-- R65, R75 to R78, R82, R88: BEAT_CTL and BEAT_GUARD written on an accepted path, and the two words of the beat count. ENABLE
starts a CHECKED chip's beat unit in ACQUIRE and, of a unit that is OFF or FENCED, is refused with code TABLE on any other chip; clearing it turns the unit OFF
outside a formed partition and is refused with code LIVE inside one; PEAK_CLR and CNT_CLR clear their counts; GUARD is clamped
to 50 to 150 ns; a read of the low count word latches the high word for its path. Where it rests on readings and choices of
the model, they are those of the assumption log, entries 12, 21. -/
def Obligations.BeatRegistersAct : Prop :=
  ∀ (s : State) (via : Via) (v : W32), mayWrite s via = true →
    (bit v 0 = true → s.beat.state = 0 → s.inst.state = 6 → stopped s = false →
      ∃ t, exec (.beatEnable via v) s = .next t ∧ t.beat.state = 1 ∧ t.beat.enable = true ∧ t.mem = s.mem ∧ t.own = s.own) ∧
    (bit v 0 = true → s.beat.state = 0 ∨ s.beat.state = 5 → s.inst.state ≠ 6 →
      exec (.beatEnable via v) s = .next { s with beat := { s.beat with err := 2 } }) ∧
    (bit v 0 = false → formed s = false → s.beat.state ≠ 5 →
      ∃ t, exec (.beatEnable via v) s = .next t ∧ t.beat.state = 0 ∧ t.beat.enable = false ∧ t.mem = s.mem) ∧
    (bit v 0 = false → formed s = true →
      exec (.beatEnable via v) s = .next { s with beat := { s.beat with err := 3 } }) ∧
    (bit v 0 = true → s.beat.state ≠ 0 → s.beat.state ≠ 5 ∨ s.inst.state = 6 →
      (∃ t, exec (.beatPeakClr via v) s = .next t ∧ t = { s with beat := t.beat } ∧ t.beat.phasePeak = 0 ∧
        t.beat.count = s.beat.count ∧ t.beat.state = s.beat.state) ∧
      (∃ t, exec (.beatCntClr via v) s = .next t ∧ t = { s with beat := t.beat } ∧ t.beat.edgeCnt = 0 ∧
        t.beat.count = s.beat.count ∧ t.beat.state = s.beat.state)) ∧
    exec (.beatGuardWrite via v) s =
      .next { s with beat := { s.beat with guard := BitVec.ofNat 9 (max 50 (min 150 (bits v 0 9))) } } ∧
    (∃ t, exec (.beatCountLoRead via) s = .next t ∧
      t.outs = .readData via 0x10008 (s.beat.count.setWidth 32) :: s.outs ∧ t.beat = s.beat ∧ t.mem = s.mem ∧
      (latchOf t via).beatHi = some (s.beat.count.extractLsb' 32 32)) ∧
    (∀ hi, (latchOf s via).beatHi = some hi → ∃ t, exec (.beatCountHiRead via) s = .next t ∧
      t.outs = .readData via 0x1000C hi :: s.outs ∧ t.beat = s.beat ∧ t.mem = s.mem)

/-- R66 to R68, R79: a header on an in-step link of a chip whose grid is set. Beyond 400 ns, or with values that differ from the
chip's own, it puts the link out of step; one that agrees within 400 ns leaves it in step; within 400 ns it is counted only
outside the guard, whatever its values. A header that fails its CRC or does not come is counted as missing, and the fourth in
a row puts the link out of step; one that has come is not missed. R71: in RELOCK the grid and MS step once, to the mean of the
latest headers of the parents whose links are up (`m` picoseconds away, in either neighbouring whole number where it is none,
assumption log 1; MS takes the nearest microslot and the grid's phase the rest, assumption log 20), all three places by the same whole number of
microslots, and no link need be listened to again for it; a chip that has not locked within 64 beats or grid frames enters
FENCED with cause BEAT. Where it rests on other readings and choices of the model, they are those of the assumption log,
entries 19, 20, 79. -/
def Obligations.HeadersAndRelock : Prop :=
  (∀ (s : State) (port : PortId) (bytes : List Byte) (e : Int),
    s.beat.state ≠ 0 → s.beat.state ≠ 5 → s.beat.gridSet = true →
    (∀ h, hdrOf bytes = some h → beatLink s port.val = true → (beatPort s port.val).oos = false →
      (400 < e.natAbs → ∃ t, exec (.beatHeader port bytes e) s = .next t ∧ (beatPort t port.val).oos = true ∧
        t.beat.edgeCnt = s.beat.edgeCnt ∧ t.mem = s.mem ∧ t.beat.ms = s.beat.ms ∧ t.beat.corr = s.beat.corr) ∧
      (e.natAbs ≤ 400 → valuesAgree s port.val h = false → ∃ t, exec (.beatHeader port bytes e) s = .next t ∧
        (beatPort t port.val).oos = true ∧ t.mem = s.mem ∧ t.beat.ms = s.beat.ms ∧
        t.beat.edgeCnt = (if s.beat.guard.toNat < e.natAbs then satInc s.beat.edgeCnt else s.beat.edgeCnt)) ∧
      (e.natAbs ≤ 400 → valuesAgree s port.val h = true → ∃ t, exec (.beatHeader port bytes e) s = .next t ∧
        (beatPort t port.val).oos = false ∧ t.mem = s.mem ∧ t.beat.ms = s.beat.ms ∧
        t.beat.edgeCnt = (if s.beat.guard.toNat < e.natAbs then satInc s.beat.edgeCnt else s.beat.edgeCnt))) ∧
    (bit s.inst.nbrOk port.val = true → (beatPort s port.val).fresh = false →
      ∀ c ∈ [Instr.headerMissing port, .beatHeader port bytes e], (c = .headerMissing port ∨ hdrOf bytes = none) →
      ((beatPort s port.val).missing < 3 → ∃ t, exec c s = .next t ∧
        (beatPort t port.val).missing = (beatPort s port.val).missing + 1 ∧
        (beatPort t port.val).oos = (beatPort s port.val).oos ∧ t.mem = s.mem) ∧
      (3 ≤ (beatPort s port.val).missing → ∃ t, exec c s = .next t ∧ (beatPort t port.val).oos = true ∧ t.mem = s.mem)) ∧
    ((beatPort s port.val).fresh = true → exec (.headerMissing port) s = .next s)) ∧
  (∀ s : State, s.beat.state = 4 →
    (∀ ps sum, ps = (List.range 10).filter (fun p => parentLink s p && beatLink s p) →
      sum = ps.foldl (fun a p => a + 1000000 * (beatPort s p).msDelta + 1000 * (beatPort s p).e) 0 →
      s.beat.relockStep = true → ps ≠ [] →
      ∃ t m d, exec .relockStep s = .next t ∧ t = { s with beat := t.beat, draw := t.draw } ∧
        sum - ps.length < m * ps.length ∧ m * ps.length < sum + ps.length ∧ d = (m + 500000) / 1000000 ∧
        t.beat.phase = s.beat.phase + m - 1000000 * d ∧ t.beat.relockStep = false ∧ t.beat.state = 4 ∧ t.beat.corr = 0 ∧
        t.beat.ms = BitVec.ofInt 64 (s.beat.ms.toNat + d) ∧ t.beat.gridMs = BitVec.ofInt 64 (s.beat.gridMs.toNat + d) ∧
        t.beat.startMs = BitVec.ofInt 64 (s.beat.startMs.toNat + d) ∧
        exec .relockStep t = .next t) ∧
    (64 ≤ s.beat.relockAge → stopped s = false →
      ∃ t, exec .relockLimit s = .next t ∧ t.glb.state = 8 ∧ t.glb.cause = 5 ∧ t.fenceN = (s.fenceN || s.glb.state == 7)))

/-- R54, R55, R57, R58: a chip with a grid sends, on an UP port that passed the neighbour check and while the link's header window
is open, a header of its own values, once in each beat on a partition link and once in each grid frame on any other; at no
other time does it send one, and it changes nothing else by it. R63: a root or standby that heard no advancing ROOT_LIVE acts
as root with ROOT_GEN and MS 0. R62: a locked standby whose ROOT_LIVE stood still for 1,024 microslots, holding no parent link
out of step, takes the root role with the next ROOT_GEN and its own grid and MS unmoved. R64: any other chip enters HOLDOVER
with root distance 63. Where it rests on readings and choices of the model, they are those of the assumption log, entry 19. -/
def Obligations.RootRoleTaken : Prop :=
  ∀ (s : State) (port : PortId),
    (∀ p part h, p = port.val → part = admittedPort s p → h = headerFor s p →
      (gridRuns s = true → beatLink s p = true → (beatPort s p).sentHeader = false →
        (s.beat.ms - if part then s.beat.startMs else s.beat.gridMs).toNat < linkWindow s part p →
        exec (.beatHeaderSend port) s =
          .next (modBeatPort (s.emit (.beatHeader p h)) p fun b => { b with sentHeader := true })) ∧
      (gridRuns s = false ∨ beatLink s p = false ∨ (beatPort s p).sentHeader = true ∨
          linkWindow s part p ≤ (s.beat.ms - if part then s.beat.startMs else s.beat.gridMs).toNat →
        exec (.beatHeaderSend port) s = .next s) ∧
      (part = true → h.beat = s.beat.count ∧ h.ms = s.beat.startMs ∧ h.epoch = s.own.epoch ∧ h.periodM1 = s.beat.curM1 ∧
        h.manifest = manifest s) ∧
      (part = false → h.ms = s.beat.gridMs ∧ h.epoch = 0 ∧ h.manifest = 0) ∧
      h.root = s.beat.acting ∧ h.gen = s.beat.gen ∧ h.oos = (beatPort s p).oos ∧ h.hold = (beatPort s p).hold ∧
      h.src = selfOf s ∧ h.srcPort = p) ∧
    (s.beat.state = 1 → s.beat.advanced = false → hasRole s false = true →
      ∃ t, exec .acquireEnd s = .next t ∧ t = { s with beat := t.beat } ∧ t.beat.acting = true ∧ t.beat.gen = 0 ∧
        t.beat.ms = 0 ∧ t.beat.rootDist = 0 ∧ t.beat.state = 2) ∧
    (s.beat.state = 2 → s.beat.acting = false → s.beat.liveAt.toNat + 1024 ≤ s.beat.ms.toNat →
      (hasRole s true = true → (∀ p, p < 10 → parentLink s p = true → (beatPort s p).oos = false) →
        ∃ t, exec .liveTimeout s = .next t ∧ t = { s with beat := t.beat } ∧ t.beat.acting = true ∧
          t.beat.gen = s.beat.gen + 1 ∧ t.beat.ms = s.beat.ms ∧ t.beat.gridMs = s.beat.gridMs ∧
          t.beat.startMs = s.beat.startMs ∧ t.beat.rootDist = 0) ∧
      (hasRole s true = false ∨ (∃ p, p < 10 ∧ parentLink s p = true ∧ (beatPort s p).oos = true) →
        ∃ t, exec .liveTimeout s = .next t ∧ t.beat.state = 3 ∧ t.beat.rootDist = 63 ∧
          t.beat.acting = false ∧ t.beat.ms = s.beat.ms ∧ t.mem = s.mem))

/-- R48, R54, R57: a microslot raises MS by 1 and, in a formed partition, opens its windows; a beat of a formed partition, once
its period has run out, raises the beat count by 1 and starts at the present MS, and only then; a grid frame starts, once, where MS
is a multiple of 8. At each the grid takes the correction of that cadence. A chip whose grid does not run takes no notice of any
of them. Where it rests on readings and choices of the model, they are those of the assumption log, entries 5, 11, 20, 71. -/
def Obligations.TimeAdvancesByMicroslotBeatAndGridFrame : Prop :=
  ∀ s : State,
    (gridRuns s = true → ∀ u, u = { s with beat := { s.beat with ms := s.beat.ms + 1 } } →
      (formed s = false ∨ period u ≤ (u.beat.ms - u.beat.startMs).toNat → exec .microslotStart s = .next u) ∧
      (formed s = true → (u.beat.ms - u.beat.startMs).toNat < period u →
        exec .microslotStart s = .next (openWindows u (u.beat.ms - u.beat.startMs).toNat))) ∧
    (gridRuns s = true → formed s = true →
      (period s ≤ (s.beat.ms - s.beat.startMs).toNat → ∀ u, u = turnGrid (ageRelock { s with
          beat := { s.beat with count := s.beat.count + 1, startMs := s.beat.ms, startClock := s.clock }
          cores := s.cores.map fun c => growWaits s c 1 0 }) true →
        u.beat.count = s.beat.count + 1 ∧ u.beat.startMs = s.beat.ms ∧ u.beat.phase = s.beat.phase + s.beat.corr ∧
        exec .beatStart s =
          .next (openWindows (awaitHeaders (newBeat ((List.range 10).foldl portBeat (ringBeat u))) true) 0)) ∧
      ((s.beat.ms - s.beat.startMs).toNat < period s → exec .beatStart s = .next s)) ∧
    (gridRuns s = true → s.beat.ms.toNat % 8 = 0 → s.beat.ms ≠ s.beat.gridMs →
      (formed s = true → exec .gridFrameStart s = .next (joinChanged (awaitHeaders
        (turnGrid { s with beat := { s.beat with gridMs := s.beat.ms } } false) false))) ∧
      (formed s = false → ∃ t, exec .gridFrameStart s = .next t ∧ t.beat.gridMs = s.beat.ms ∧ t.beat.ms = s.beat.ms ∧
        t.beat.phase = s.beat.phase + s.beat.corrGrid)) ∧
    (s.beat.ms.toNat % 8 ≠ 0 ∨ s.beat.ms = s.beat.gridMs → exec .gridFrameStart s = .next s) ∧
    (gridRuns s = false → exec .microslotStart s = .next s ∧ exec .beatStart s = .next s ∧
      exec .gridFrameStart s = .next s)

/-- R111, R128: FORM on an enabled WRG that is IDLE or REFUSED, with the settings as they stand, starts formation; a directory
whose N differs from the partition's ring is refused with cause LENGTH; outside a formed partition FORM is refused with code
NOPART. A chip that is FORMING refuses with cause PLAN where records are still missing at the time limit, and with the cause
of a refusal that it receives. R111: a record of a chip that has not started formation is kept for it, one record for each
ring position; a FORMING chip that receives a record of another epoch refuses with cause PLAN, and one of another firmware version
with cause FWVER. Where it rests on
readings and choices of the model, they are those of the assumption log, entries 25, 77. -/
def Obligations.RingFormation : Prop :=
  (∀ (s : State) (via : Via) (v : W32), mayWrite s via = true →
    (formed s = false → exec (.form via v) s = .next { s with wrg := { s.wrg with err := 6 } }) ∧
    (formed s = true → s.wrg.state = 0 ∨ s.wrg.state = 6 → s.wrg.enable = true → bit v 0 = true → bit v 7 = false →
      v.extractLsb' 19 9 = s.wrg.dirMb → bit v 2 = s.wrg.east → bit v 3 = s.wrg.west → s.wrg.dirMb.toNat ≤ 383 →
      ringFrame s.wrg.dirMb.toNat = false →
      exec (.form via v) s = .next (startForm s) ∧
      ((readDir s).nPacked ≠ ringN s → ∃ t, exec (.form via v) s = .next t ∧ t.wrg.state = 6 ∧ t.wrg.cause = 2)) ∧
    (s.wrg.state = 1 → s.wrg.checkDue = false →
      ∃ t, exec .formationRecordTimeout s = .next t ∧ t.wrg.state = 6 ∧ t.wrg.cause = 3 ∧ t.mem = s.mem) ∧
    (s.wrg.state ≠ 1 ∨ s.wrg.checkDue = true → exec .formationRecordTimeout s = .next s) ∧
    (∀ cause, s.wrg.state = 1 ∨ s.wrg.state = 2 →
      ∃ t, exec (.formationRefusal cause) s = .next t ∧ t.wrg.state = 6 ∧ t.wrg.cause = BitVec.ofNat 4 cause ∧
        t.outs = s.outs ∧ t.mem = s.mem)) ∧
  (∀ (s : State) (f : FormRec),
    (s.wrg.state = 0 ∨ s.wrg.state = 6 →
      exec (.formationRecord f) s =
        .next { s with wrg := { s.wrg with records := f :: s.wrg.records.filter (·.pos != f.pos) } }) ∧
    (∀ d, s.wrg.state = 1 → s.wrg.checkDue = false → s.wrg.dir = some d →
      (f.epoch ≠ s.own.epoch → ∃ t, exec (.formationRecord f) s = .next t ∧ t.wrg.state = 6 ∧ t.wrg.cause = 3 ∧ t.mem = s.mem) ∧
      (f.epoch = s.own.epoch → (∀ r ∈ s.wrg.records, r.epoch = s.own.epoch) → f.fw ≠ s.glb.fwVersion →
        ∃ t, exec (.formationRecord f) s = .next t ∧ t.wrg.state = 6 ∧ t.wrg.cause = 1 ∧ t.mem = s.mem)) ∧
    (s.wrg.state ≠ 0 → s.wrg.state ≠ 1 → s.wrg.state ≠ 6 → exec (.formationRecord f) s = .next s))

/-- R118, R120: on a running ring with no halt yet, HALT written by the owner is met in the current beat with cause OWNER, a halt
frame is met in the beat that it names, and a header that fails a receive check is met in the current beat with the check's
cause; none of them writes memory. A halt already met stands. R124: on a halted ring a cause met is noted with the beat in which it
is met, and the ring stays halted. Which cause the receiver of a halt frame records the manual leaves open: it is a free value
of the model (assumption log 1). Where it rests on other readings and choices of the model, they are those of the assumption
log, entries 11, 24, 26. -/
def Obligations.HaltCausesAreMetOnce : Prop :=
  (∀ (s : State) (via : Via) (v : W32) (f : HaltFrame), s.wrg.state = 3 ∨ s.wrg.state = 4 ∨ s.wrg.state = 5 →
    ∀ b, b = (if s.wrg.state = 5 then s.beat.count else f.beat) →
    (mayWrite s via = true → s.wrg.halt = none → bit v 0 = s.wrg.enable → bit v 4 = false → bit v 7 = false →
      v.extractLsb' 19 9 = s.wrg.dirMb → bit v 2 = s.wrg.east → bit v 3 = s.wrg.west → s.wrg.dirMb.toNat ≤ 383 →
      ringFrame s.wrg.dirMb.toNat = false →
      ∃ t, exec (.wrgHalt via v) s = .next t ∧ t.wrg.halt = some (10, s.beat.count) ∧ t.wrg.state = s.wrg.state ∧
        t.mem = s.mem) ∧
    (s.wrg.halt = none → ∃ t c, exec (.haltFrame f) s = .next t ∧ t.wrg.halt = some (c, b) ∧
      t.wrg.state = s.wrg.state ∧ t.outs = s.outs ∧ t.mem = s.mem) ∧
    (s.wrg.halt.isSome = true → exec (.haltFrame f) s = .next s)) ∧
  (∀ (s : State) (f : HaltFrame), s.wrg.state ≠ 3 → s.wrg.state ≠ 4 → s.wrg.state ≠ 5 → exec (.haltFrame f) s = .next s) ∧
  (∀ (s : State) west h p d c, s.wrg.state = 3 ∨ s.wrg.state = 4 → streamOn s west = true → arrOf s west = none →
    expectedPlace s = some p → s.wrg.dir = some d → hcrcOk h = true → receiveCause s west h p d = some c → s.wrg.halt = none →
    ∃ t, exec (.shelfHeader west h) s = .next t ∧ t.wrg.halt = some (c, s.beat.count) ∧ arrOf t west = none ∧
      t.mem = s.mem)

/-- R102, R104, R105: on a running ring a step of the core ring becomes the current one, and a segment of step k, 1 or above,
whose step has started, whose source core has landed step k − 1 and which has not landed yet, lands: every byte outside the
destination core's slot of the step is unchanged, that slot, where no word is uncorrectable, holds the bytes that the source
core's slot held, and the segment is counted at the destination core. Off a running ring neither does anything. Where it rests
on readings and choices of the model, they are those of the assumption log, entry 26. -/
def Obligations.SegmentsMoveRoundTheCoreRing : Prop :=
  (∀ s : State, s.wrg.state = 3 ∨ s.wrg.state = 4 →
    (∀ k, exec (.coreRingStep k) s = .next { s with wrg := { s.wrg with step := BitVec.ofNat 4 k } }) ∧
    (∀ (west : Bool) (core : CoreId) (k src dst ctr : Nat) (x : Shelf), heldOf s west = some x → 1 ≤ k →
      k ≤ s.wrg.step.toNat + 1 → x.landed.contains (core.val, k) = false →
      src = (if west then (core.val + 1) % 16 else subMod core.val 1 16) → x.landed.contains (src, k - 1) = true →
      dst = slotAddr core.val west (slotOfStep x k) → ctr = (if west then 255 else 254) → Memory.wf s.mem = true →
      ∃ t, exec (.segmentLand west core k) s = .next t ∧
        (∀ a, a < dst ∨ dst + segBytes x ≤ a → readByte t.mem a = readByte s.mem a) ∧
        (s.ue = [] → ∀ j < segBytes x, readByte t.mem (dst + j) = readByte s.mem (slotAddr src west (slotOfStep x (k - 1)) + j)) ∧
        (domainOn s core.val = true → (counterAt s core.val ctr).valid = true → (counterAt s core.val ctr).upset = false →
          counterAt t core.val ctr = { counterAt s core.val ctr with value := (counterAt s core.val ctr).value + 1 }) ∧
        (∃ y, heldOf t west = some y ∧ y.landed = (core.val, k) :: x.landed ∧ y.hdr = x.hdr))) ∧
  (∀ (s : State) (west : Bool) (core : CoreId) (k : Nat), s.wrg.state ≠ 3 → s.wrg.state ≠ 4 →
    exec (.coreRingStep k) s = .next s ∧ exec (.segmentLand west core k) s = .next s)

/-- R115, R121, R124: replacement and restart. In SWAP the copy of the next group starts once the lap that circulates it is over
and no copy runs; its end leaves no copy running; with every copy done and the pass ended the switch makes the new VERSION
current and runs on from the next pass. A committed RESTART of a halted ring, whose directory, read again, still agrees, runs again
from the frozen lap, or with ZERO from the next pass; one in a replacement returns to SWAP; one that meets a halt cause met since is void. R109, R122, R322: a change of WRG_CTL.ENABLE on a WRG that is OFF fills the
ring regions of every slice with zeros and leaves every byte outside them as it was; the fill's end clears its mark; a write
of 1 to HOME_UE clears it with every group's mark and leaves the rest of the state as the other bits of the write say. Where
it rests on readings and choices of the model, they are those of the assumption log, entries 26, 27. -/
def Obligations.RingReplacementRestartAndRegions : Prop :=
  (∀ (s : State) (d : RingDir), s.wrg.dir = some d →
    (s.wrg.state = 4 → s.wrg.copying = none → s.wrg.copyNext < d.groups → groupOver s d s.wrg.copyNext = true →
      exec .groupCopyStart s =
        .next { s with wrg := { s.wrg with copying := some s.wrg.copyNext, copyNext := s.wrg.copyNext + 1 } }) ∧
    (∀ g, s.wrg.copying = some g → ∃ t, exec .groupCopyEnd s = .next t ∧ t.wrg.copying = none) ∧
    (s.wrg.state = 4 → s.wrg.passEnded = true → s.wrg.copying = none → s.wrg.copyNext = d.groups →
      exec .swapSwitch s = .next (leadIn
        (releaseHeld { takeVersion s s.wrg.verNext with
          wrg := { (takeVersion s s.wrg.verNext).wrg with state := 3, swap := false, restartZero := false } })
        0 ((s.wrg.pass.toNat + 1) % 65536)) ∧
      (takeVersion s s.wrg.verNext).wrg.verCur = s.wrg.verNext) ∧
    (∀ zero r u, s.wrg.restartDue = some zero → s.wrg.state = 5 → s.wrg.trail.any (·.1 == s.beat.count) = false → r = readDir s →
      u = noteDir { s with wrg := { s.wrg with restartDue := none } } r →
      (∀ c b, s.wrg.halt = some (c, b) → exec .restart s =
        .next { s with wrg := { s.wrg with restartDue := none, cause := c, halt := none } }) ∧
      (s.wrg.halt = none → (zero = false → homeBad u = false) → dirOk u r = true → r.nPacked = d.nPacked → r.plan = d.plan →
        r.groups = d.groups →
        (zero = false → exec .restart s = .next (leadIn { u with wrg := { u.wrg with
          dir := some r, state := if u.wrg.swap then 4 else 3 } } u.wrg.lap.toNat u.wrg.pass.toNat)) ∧
        (zero = true → u.wrg.swap = true → exec .restart s = .next { u with wrg := { u.wrg with
          dir := some r, state := 4, passEnded := true, restartZero := true } }) ∧
        (zero = true → u.wrg.swap = false → u.wrg.homeUeMarks.contains (lapGroup r 0) = false → exec .restart s =
          .next (leadIn { u with wrg := { u.wrg with dir := some r, state := 3, verCur := r.version } } 0
            ((u.wrg.pass.toNat + 1) % 65536)))))) ∧
  (∀ (s : State) (via : Via) (v : W32), mayWrite s via = true →
    (s.wrg.state = 0 → bit v 0 ≠ s.wrg.enable → bit v 4 = false → bit v 5 = false → bit v 7 = false →
      bits v 19 9 ≤ 383 → ringFrame (bits v 19 9) = false → Memory.wf s.mem = true →
      ∃ t, exec (.wrgEnable via v) s = .next t ∧ t.wrg.enable = bit v 0 ∧ t.wrg.regionFill = true ∧
        t.wrg.dirMb = v.extractLsb' 19 9 ∧
        ∀ a, readByte t.mem a = if a < chipBytes ∧ 0x1400000 ≤ a % sliceBytes then 0 else readByte s.mem a) ∧
    exec .ringRegionFillEnd s = .next { s with wrg := { s.wrg with regionFill := false } } ∧
    (∃ t, exec (.homeUeClear via v) s = .next t ∧ t = { s with wrg := t.wrg } ∧ t.wrg.homeUe = false ∧
      t.wrg.homeUeMarks = [] ∧ t.wrg.state = s.wrg.state))

/-- R139, R173, Tables 5-6 and 5-9: an ALU that issues takes the function of its FN (multiplication low and high, the divisions
with their results for a zero divisor, shifts by the low six bits). The 1-clock functions write sd; the others make sd pending
and the value returns later. The PC advances by one instruction and the rest of the core stays. Where it rests on readings and
choices of the model, they are those of the assumption log, entries 31, 34. -/
def Obligations.AluTakesItsFunction : Prop :=
  ∀ (s : State) (core : CoreId) (g : Guard) (f : FieldsR), issues s core.val g (.alu f) = true →
    ∀ x y, x = getS (coreAt s core.val) f.a → y = getS (coreAt s core.val) f.b →
    ∃ v : W64,
      (f.fn.toNat = 0 → v = x + y) ∧ (f.fn.toNat = 1 → v = x - y) ∧ (f.fn.toNat = 2 → v = x * y) ∧
      (f.fn.toNat = 3 → v = BitVec.ofInt 64 (x.toInt * y.toInt / 2 ^ 64)) ∧
      (f.fn.toNat = 4 → v = BitVec.ofNat 64 (x.toNat * y.toNat / 2 ^ 64)) ∧
      (f.fn.toNat = 5 → v = x &&& y) ∧ (f.fn.toNat = 6 → v = x ||| y) ∧ (f.fn.toNat = 7 → v = x ^^^ y) ∧
      (f.fn.toNat = 8 → v = x <<< (y.toNat % 64)) ∧ (f.fn.toNat = 9 → v = x >>> (y.toNat % 64)) ∧
      (f.fn.toNat = 10 → v = x.sshiftRight (y.toNat % 64)) ∧
      (f.fn.toNat = 11 → v.toInt = min x.toInt y.toInt) ∧ (f.fn.toNat = 12 → v.toInt = max x.toInt y.toInt) ∧
      (f.fn.toNat = 13 → v.toNat = min x.toNat y.toNat) ∧ (f.fn.toNat = 14 → v.toNat = max x.toNat y.toNat) ∧
      (f.fn.toNat = 15 → if y = 0 then v = BitVec.allOnes 64 else v.toNat = x.toNat / y.toNat) ∧
      (f.fn.toNat = 16 → if y = 0 then v = x else v.toNat = x.toNat % y.toNat) ∧
      exec (.alu core g f) s = .next (modCore s core.val fun c =>
        if f.fn.toNat ∈ [2, 3, 4, 15, 16] then retire (later c false (decide (f.fn.toNat ∈ [15, 16])) f.d v)
        else retire (setS c f.d v))

/-- R173, R174, Tables 5-6 and 5-7: ALUI, AOP and RDC that issue. ALUI extends its immediate with the sign for ADDI, MOVI and MULI
and with zeros for the bit functions; MOVHI replaces the upper half; MULI returns later. AOP moves and adds 32-bit addresses.
RDC reads the clock count, the core's number and context, the chip's coordinate, the ring position, and the epoch, beat count
and beat offset (at most P − 1), which read 0 outside a formed partition. Every one of them advances the PC by one instruction and changes
nothing else. Where it rests on readings and choices of the model, they are those of the assumption log, entries 31, 34. -/
def Obligations.ImmediateAddressAndReadInstructions : Prop :=
  ∀ (s : State) (core : CoreId) (g : Guard) (f : FieldsI),
    (issues s core.val g (.alui f) = true → ∀ x, x = getS (coreAt s core.val) f.a →
      (∀ v : W64,
        (f.fn.toNat = 0 ∧ v = x + f.imm.signExtend 64) ∨ (f.fn.toNat = 1 ∧ v = x &&& f.imm.setWidth 64) ∨
        (f.fn.toNat = 2 ∧ v = x ||| f.imm.setWidth 64) ∨ (f.fn.toNat = 3 ∧ v = x ^^^ f.imm.setWidth 64) ∨
        (f.fn.toNat = 4 ∧ v = x <<< f.imm.toNat) ∨ (f.fn.toNat = 5 ∧ v = x >>> f.imm.toNat) ∨
        (f.fn.toNat = 6 ∧ v = x.sshiftRight f.imm.toNat) ∨ (f.fn.toNat = 7 ∧ v = f.imm.signExtend 64) ∨
        (f.fn.toNat = 8 ∧ v = f.imm ++ x.extractLsb' 0 32) →
        exec (.alui core g f) s = .next (modCore s core.val fun c => retire (setS c f.d v))) ∧
      (f.fn.toNat = 9 → exec (.alui core g f) s =
        .next (modCore s core.val fun c => retire (later c false false f.d (x * f.imm.signExtend 64))))) ∧
    (issues s core.val g (.aop f) = true →
      (f.fn.toNat = 0 → exec (.aop core g f) s =
        .next (modCore s core.val fun c => retire (setA c f.d (getA c f.a + f.imm)))) ∧
      (f.fn.toNat = 1 → exec (.aop core g f) s =
        .next (modCore s core.val fun c => retire (setA c f.d ((getS c f.a).setWidth 32)))) ∧
      (f.fn.toNat = 2 → exec (.aop core g f) s =
        .next (modCore s core.val fun c => retire (setS c f.d ((getA c f.a).setWidth 64)))) ∧
      (f.fn.toNat = 3 → exec (.aop core g f) s = .next (modCore s core.val fun c => retire (setA c f.d f.imm)))) ∧
    (issues s core.val g (.rdc f) = true → ∃ v : W64,
      exec (.rdc core g f) s = .next (modCore s core.val fun c => retire (setS c f.d v)) ∧
      (f.imm.toNat = 0 → v = if formed s then s.beat.count else 0) ∧ (f.imm.toNat = 1 → v = s.clock) ∧
      (f.imm.toNat = 2 → v.toNat = core.val) ∧ (f.imm.toNat = 3 → v = (instCoord s &&& 0x7FFF).setWidth 64) ∧
      (f.imm.toNat = 6 → v = (wrgRead s 0x08).setWidth 64) ∧ (f.imm.toNat = 7 → v = (wrgRead s 0x0C).setWidth 64) ∧
      (f.imm.toNat = 4 → v = (coreAt s core.val).ctx.setWidth 64) ∧
      (f.imm.toNat = 5 → v = if formed s then s.own.epoch.setWidth 64 else 0) ∧
      (f.imm.toNat = 8 → v.toNat = if formed s then min (s.beat.ms - s.beat.startMs).toNat (period s - 1) else 0))

/-- R164, R173, R184, Tables 5-6 and 5-8: CMP, CMPI, PLOG and TDCHK that issue write one predicate and advance the PC; a write of
p0 is discarded. TDCHK writes whether the descriptor passes the checks of R169, with FN = 1 also whether its whole extent may
be written. Where it rests on readings and choices of the model, they are those of the assumption log, entry 31. -/
def Obligations.ComparisonsWriteOnePredicate : Prop :=
  ∀ (s : State) (core : CoreId) (g : Guard) (f : FieldsR) (h : FieldsI),
    (issues s core.val g (.cmp f) = true → ∃ v : Bool,
      exec (.cmp core g f) s = .next (modCore s core.val fun c => retire (setP c f.d v)) ∧
      ∀ x y, x = getS (coreAt s core.val) f.a → y = getS (coreAt s core.val) f.b →
        (v = true ↔ (f.fn.toNat = 0 ∧ x = y) ∨ (f.fn.toNat = 1 ∧ x ≠ y) ∨ (f.fn.toNat = 2 ∧ x.toInt < y.toInt) ∨
          (f.fn.toNat = 3 ∧ x.toNat < y.toNat) ∨ (f.fn.toNat = 4 ∧ y.toInt ≤ x.toInt) ∨
          (f.fn.toNat = 5 ∧ y.toNat ≤ x.toNat))) ∧
    (issues s core.val g (.cmpi h) = true → ∃ v : Bool,
      exec (.cmpi core g h) s = .next (modCore s core.val fun c => retire (setP c h.d v)) ∧
      ∀ x y, x = getS (coreAt s core.val) h.a → y = h.imm.signExtend 64 →
        (v = true ↔ (h.fn.toNat = 0 ∧ x = y) ∨ (h.fn.toNat = 1 ∧ x ≠ y) ∨ (h.fn.toNat = 2 ∧ x.toInt < y.toInt) ∨
          (h.fn.toNat = 3 ∧ x.toNat < y.toNat) ∨ (h.fn.toNat = 4 ∧ y.toInt ≤ x.toInt) ∨
          (h.fn.toNat = 5 ∧ y.toNat ≤ x.toNat))) ∧
    (issues s core.val g (.plog f) = true → ∃ v : Bool,
      exec (.plog core g f) s = .next (modCore s core.val fun c => retire (setP c f.d v)) ∧
      ∀ x y, x = getP (coreAt s core.val) f.a → y = getP (coreAt s core.val) f.b →
        (f.fn.toNat = 0 → v = (x && y)) ∧ (f.fn.toNat = 1 → v = (x || y)) ∧ (f.fn.toNat = 2 → v = xor x y) ∧
        (f.fn.toNat = 3 → v = (x && !y))) ∧
    (issues s core.val g (.tdchk f) = true → ∃ v : Bool,
      exec (.tdchk core g f) s = .next (modCore s core.val fun c => retire (setP c f.d v)) ∧
      (v = true ↔ tdFault s core.val (getTd (coreAt s core.val) f.a) = none ∧
        (f.fn.toNat = 1 → ∃ t, getTd (coreAt s core.val) f.a = some t ∧
          firstBad s t.base.toNat (extent t) (writableKind (coreAt s core.val).ctx.toNat) = none))) ∧
    (∀ (c : Core) (v : Bool), setP c 0 v = c)

/-- R175, R176, R192, R310, R312, Table 5-9: LD and ST that issue. An LD of bytes that the context may read, outside every ring slot
and free of uncorrectable words and of fills in progress, makes sd pending and captures the bytes under the core's own posted
stores; the value is written when it returns. One that meets a zero fill in progress waits, and one that may not be read raises the fault
of the read. ST posts a store, which reaches the cupboard when it is written, once no fill runs there. A misaligned address
raises ALIGN before any other check and has no other effect. Where it rests on readings and choices of the model, they are those
of the assumption log, entries 30, 31, 34. -/
def Obligations.LoadsReturnLaterAndStoresArePosted : Prop :=
  ∀ (s : State) (core : CoreId) (g : Guard) (f : FieldsI) (a k : Nat) (t : Nat), t = (coreAt s core.val).ctx.toNat →
    a = (getA (coreAt s core.val) f.a + f.imm).toNat → k = (if f.fn = 0 then 8 else 4) →
    (issues s core.val g (.ld f) = true →
      (a % k ≠ 0 → exec (.ld core g f) s = .next (cpFault s core.val 2 0 (BitVec.ofNat 32 a))) ∧
      (a % k = 0 → firstBad s a k (readableKind t) = none →
        (filling s a k = true → exec (.ld core g f) s = .next s) ∧
        (filling s a k = false → ringView s a k = ⟨false, false, []⟩ → cpUe s core.val a k = none →
          exec (.ld core g f) s = .next (modCore (correctRead s a k) core.val fun c =>
            retire (later c true false f.d (loadValue f.fn.toNat (cpBytes s core.val a k)))))) ∧
      (∀ u e, a % k = 0 → cpWaits s core.val a k = false → cpRead s core.val a k = (u, .error e) →
        exec (.ld core g f) s = .next (cpFault u core.val e.1 e.2.1 e.2.2)) ∧
      (a % k = 0 → (firstBad s a k (readableKind t)).isSome = true →
        exec (.ld core g f) s = .next (cpFault s core.val 3 1 (BitVec.ofNat 32 a)))) ∧
    (issues s core.val g (.st f) = true →
      (a % k ≠ 0 → exec (.st core g f) s = .next (cpFault s core.val 2 0 (BitVec.ofNat 32 a))) ∧
      (a % k = 0 → cpStoreBad s core.val a k = true →
        exec (.st core g f) s = .next (cpFault s core.val 3 1 (BitVec.ofNat 32 a))) ∧
      (a % k = 0 → cpStoreBad s core.val a k = false → ∃ u, exec (.st core g f) s = .next u ∧ sameButCore s u core.val ∧
        (coreAt u core.val).stores = (coreAt s core.val).stores ++ [(a, k, getS (coreAt s core.val) f.d)] ∧
        (coreAt u core.val).pc = (coreAt s core.val).pc + 8 ∧ (coreAt u core.val).s = (coreAt s core.val).s ∧
        (coreAt u core.val).a = (coreAt s core.val).a ∧ (coreAt u core.val).p = (coreAt s core.val).p)) ∧
    (∀ r rest, (coreAt s core.val).rets = r :: rest →
      (r.isLoad = true → exec (.ldDataReturn core) s =
        .next (modCore s core.val fun c => { putS c r.d r.value with rets := rest })) ∧
      (r.isLoad = false → exec (.aluResultReturn core) s =
        .next (modCore s core.val fun c => { putS c r.d r.value with rets := rest }))) ∧
    ((coreAt s core.val).rets = [] → exec (.ldDataReturn core) s = .next s ∧ exec (.aluResultReturn core) s = .next s) ∧
    ((coreAt s core.val).stores = [] → exec (.cpStoreWritten core) s = .next s) ∧
    (∀ v rest, (coreAt s core.val).stores = (a, k, v) :: rest → a % k = 0 →
      (filling s a k = true → exec (.cpStoreWritten core) s = .next s) ∧
      (filling s a k = false → (k = 4 → s.ue.contains (a / 8) = false) →
        ∃ u, exec (.cpStoreWritten core) s = .next u ∧ u.mem = writeBytes s.mem a (leBytes k v.toNat) ∧
          (coreAt u core.val).stores = rest))

/-- R133, R135, R178, R181, R185, R189: J, JAL, JALR, DJNZ, END, NOP and SIGNAL that issue. The offsets count instructions; JALR and JAL
with a link write the address of the next instruction; DJNZ branches while the decremented register is not 0; a taken branch has
the instructions at its target fetched afresh and keeps every other register; END puts the
core into DRAINING with STOP = END to come; SIGNAL posts its event and changes nothing of its core but the PC. Where it rests
on readings and choices of the model, they are those of the assumption log, entry 31. -/
def Obligations.ControlFlowInstructions : Prop :=
  ∀ (s : State) (core : CoreId) (g : Guard) (f : FieldsJ) (h : FieldsI) (x : FieldsSG),
    (issues s core.val g (.j f) = true →
      exec (.j core g f) s = .next (modCore s core.val fun c => retireBranch c (c.pc + f.off * 8))) ∧
    (issues s core.val g (.jal f) = true →
      exec (.jal core g f) s = .next (modCore s core.val fun c => retireBranch (setA c f.d (c.pc + 8)) (c.pc + f.off * 8))) ∧
    (issues s core.val g (.jalr h) = true →
      ((getA (coreAt s core.val) h.a + h.imm).toNat % 8 ≠ 0 → exec (.jalr core g h) s =
        .next (cpFault s core.val 2 0 (getA (coreAt s core.val) h.a + h.imm))) ∧
      ((getA (coreAt s core.val) h.a + h.imm).toNat % 8 = 0 → exec (.jalr core g h) s =
        .next (modCore s core.val fun c =>
          retireBranch (if h.fn = 1 then setA c h.d (c.pc + 8) else c) (getA (coreAt s core.val) h.a + h.imm)))) ∧
    (issues s core.val g (.djnz f) = true → exec (.djnz core g f) s = .next (modCore s core.val fun c =>
      if getS c f.d = 1 then retire (setS c f.d (getS c f.d - 1))
      else retireBranch (setS c f.d (getS c f.d - 1)) (c.pc + f.off * 8))) ∧
    (∀ (c : Core) (a : W32), (retireBranch c a).pc = a ∧ (retireBranch c a).refetch = true ∧ (retireBranch c a).s = c.s ∧
      (retireBranch c a).a = c.a ∧ (retireBranch c a).stores = c.stores ∧ (retireBranch c a).state = c.state) ∧
    (issues s core.val g .endp = true →
      exec (.endp core g) s = .next (modCore s core.val fun c => { retire c with state := 3, stopNext := 3 })) ∧
    (issues s core.val g .nop = true → exec (.nop core g) s = .next (modCore s core.val retire)) ∧
    (issues s core.val g (.signal x) = true → ∃ t, exec (.signal core g x) s = .next t ∧ t.mem = s.mem ∧
      t.cores = (modCore s core.val retire).cores ∧ t.beat = s.beat ∧ t.own = s.own ∧ t.ports = s.ports)

/-- R141, R149, R179, R182, R183, R317: WAITC, WAITB and FENCE of the CP. One whose condition holds at issue retires at once;
another leaves the PC where it is and waits, so that no instruction issues, until its completion finds the condition true. An
invalid counter, or one that fails its parity check, raises COUNTER and a WAITB outside a formed partition raises NOBEAT, as does
one for LAP on a ring without a position. One that names a unit enters that unit's queue, and leaves it from the head when its
condition is found true. Where it rests on readings and choices of the model, they are those of the assumption log, entries 31,
32. -/
def Obligations.WaitsHoldIssueUntilTheirCondition : Prop :=
  ∀ (s : State) (core : CoreId) (g : Guard) (f : FieldsWC) (b : FieldsWB) (m : Byte) (w : W32),
    w = (if f.vsrc then (getS (coreAt s core.val) f.b).setWidth 32 else f.imm) →
    (issues s core.val g (.waitc f) = true → ∀ k, k = counterAt s core.val f.ctr.toNat →
      (f.place ≠ 0 → exec (.waitc core g f) s = .next (modCore s core.val fun c =>
        retire (enqUnit c (f.place.toNat - 1) (.waitc f.ctr f.eq w)))) ∧
      (f.place = 0 → k.upset = true →
        exec (.waitc core g f) s = .next (cpFault (counterParity s core.val f.ctr.toNat) core.val 7 0 (f.ctr.setWidth 32))) ∧
      (f.place = 0 → k.upset = false → k.valid = false →
        exec (.waitc core g f) s = .next (cpFault s core.val 7 0 (f.ctr.setWidth 32))) ∧
      (f.place = 0 → k.upset = false → k.valid = true →
        exec (.waitc core g f) s = .next (modCore s core.val fun c =>
          if (if f.eq then k.value = w else (k.value - w).toNat < 2 ^ 31)
          then retire c else { c with wait := .waitc f.ctr f.eq w }))) ∧
    (issues s core.val g (.waitb b) = true →
      (formed s = false ∨ (b.mode = 2 ∧ s.wrg.posValid = false) →
        exec (.waitb core g b) s = .next (cpFault s core.val 8 0 0)) ∧
      (formed s = true → b.place = 0 → b.mode = 0 → exec (.waitb core g b) s = .next (modCore s core.val fun c =>
        { c with wait := .waitb 0 0 s.beat.count })) ∧
      (formed s = true → b.place = 0 → b.mode = 1 → exec (.waitb core g b) s = .next (modCore s core.val fun c =>
        if (getS c b.b).toNat ≤ s.beat.count.toNat then retire c
        else { c with wait := .waitb 1 (getS c b.b) s.beat.count })) ∧
      (formed s = true → b.place = 0 → b.mode = 2 → s.wrg.posValid = true → exec (.waitb core g b) s =
        .next (modCore s core.val fun c => { c with wait := .waitb 2 0 s.beat.count })) ∧
      (formed s = true → b.place ≠ 0 → (b.mode = 2 → s.wrg.posValid = true) → exec (.waitb core g b) s =
        .next (modCore s core.val fun c => retire (enqUnit c (b.place.toNat - 1)
          (.waitb b.mode.toNat (if b.mode = 1 then getS c b.b else 0) s.beat.count))))) ∧
    (issues s core.val g (.fence m) = true → exec (.fence core g m) s = .next (modCore s core.val fun c =>
      if fenceHolds c m then retireFence c m else { c with wait := .fence m })) ∧
    (∀ ctr eq v, (coreAt s core.val).wait = .waitc ctr eq v → (counterAt s core.val ctr.toNat).upset = false →
      (counterAt s core.val ctr.toNat).valid = true →
      (waitcHolds (counterAt s core.val ctr.toNat).value eq v = true →
        exec (.waitcComplete core 0) s = .next (modCore s core.val retire)) ∧
      (waitcHolds (counterAt s core.val ctr.toNat).value eq v = false → exec (.waitcComplete core 0) s = .next s)) ∧
    (∀ mode v at', (coreAt s core.val).wait = .waitb mode v at' →
      (waitbHolds s mode v at' = true → exec (.waitbComplete core 0) s = .next (modCore s core.val retire)) ∧
      (waitbHolds s mode v at' = false → exec (.waitbComplete core 0) s = .next s)) ∧
    (∀ (u : Fin 6) e rest, ((coreAt s core.val).units.toList.getD u.val CUnit.empty).queue = e :: rest →
      offline (coreAt s core.val) u.val = false →
      (∀ ctr eq v, e.work = .waitc ctr eq v → (counterAt s core.val ctr.toNat).upset = false →
        (counterAt s core.val ctr.toNat).valid = true → waitcHolds (counterAt s core.val ctr.toNat).value eq v = true →
        exec (.waitcComplete core u.succ) s = .next (modCore s core.val fun c => modUnit c u.val fun y => { y with queue := rest })) ∧
      (∀ mode v at', e.work = .waitb mode v at' → waitbHolds s mode v at' = true →
        exec (.waitbComplete core u.succ) s =
          .next (modCore s core.val fun c => modUnit c u.val fun y => { y with queue := rest }))) ∧
    ((coreAt s core.val).wait = .fence m → fenceHolds (coreAt s core.val) m = true →
      exec (.fenceComplete core) s = .next (modCore s core.val fun c => retireFence c m)) ∧
    ((coreAt s core.val).wait ≠ .none → ∀ i, issue s core.val g i = s)

/-- R180, R317: CSET sets a counter and makes it valid, CADD adds to a valid counter, CREAD returns the value with bit 63 set for
an invalid one and leaves the counter as it is; a parity error met by an access makes the counter invalid, which CREAD then
shows and CADD faults on. CSET and CADD of counters 254 and 255 raise COUNTER while the weight ring is enabled, and so does
CADD of an invalid counter. Where it rests on readings and choices of the model, they are those of the assumption log, entries
29, 31. -/
def Obligations.CounterInstructions : Prop :=
  ∀ (s : State) (core : CoreId) (g : Guard) (f : FieldsCT), ∀ n k, n = core.val → k = counterAt s n f.ctr.toNat →
    (issues s n g (.cset f) = true →
      (s.wrg.enable = true ∧ 254 ≤ f.ctr.toNat → exec (.cset core g f) s =
        .next (cpFault s n 7 0 (f.ctr.setWidth 32))) ∧
      (¬ (s.wrg.enable = true ∧ 254 ≤ f.ctr.toNat) → exec (.cset core g f) s = .next (modCore s n fun c =>
        retire { c with counters := vmod c.counters f.ctr.toNat fun _ => ⟨(getS c f.b).setWidth 32, true, false⟩ }))) ∧
    (issues s n g (.cadd f) = true →
      (k.upset = false → (s.wrg.enable = true ∧ 254 ≤ f.ctr.toNat) ∨ k.valid = false →
        exec (.cadd core g f) s = .next (cpFault s n 7 0 (f.ctr.setWidth 32))) ∧
      (k.upset = true → exec (.cadd core g f) s = .next (cpFault (counterParity s n f.ctr.toNat) n 7 0 (f.ctr.setWidth 32))) ∧
      (k.upset = false → ¬ (s.wrg.enable = true ∧ 254 ≤ f.ctr.toNat) → k.valid = true →
        ∃ t, exec (.cadd core g f) s = .next t ∧ sameButCore s t n ∧
          counterAt t n f.ctr.toNat = ⟨k.value + (getS (coreAt s n) f.b).setWidth 32, true, false⟩ ∧
          (coreAt t n).pc = (coreAt s n).pc + 8 ∧ (coreAt t n).s = (coreAt s n).s ∧
          ∀ j, j ≠ f.ctr.toNat → counterAt t n j = counterAt s n j)) ∧
    (issues s n g (.cread f) = true →
      (k.upset = false → k.valid = true → exec (.cread core g f false) s =
        .next (modCore s n fun c => retire (setS c f.d (k.value.setWidth 64)))) ∧
      (k.upset = false → k.valid = false → exec (.cread core g f false) s =
        .next (modCore s n fun c => retire (setS c f.d (k.value.setWidth 64 ||| 0x8000000000000000)))) ∧
      (∀ parity, k.upset = true ∨ parity = true →
        ∃ t, exec (.cread core g f parity) s = .next t ∧ counterAt t n f.ctr.toNat = ⟨0, false, false⟩ ∧
          getS (coreAt t n) f.d = 0x8000000000000000 ∧ (coreAt t n).pc = (coreAt s n).pc + 8 ∧ t.mem = s.mem))

/-- R174, R177, R192: TDLD, once no zero fill runs under its image, loads a descriptor from a 64-byte image that keeps to Table 5-2 and raises DESC for one that does not;
TDST posts the image of a descriptor as eight stores; TDBASE replaces BASE. An address that is not a multiple of 64 (TDBASE:
of 8) raises ALIGN, and an empty descriptor given to TDBASE raises DESC. R142, R186, R187: a MOVE that issues launches a
transfer by the descriptor that it reads, on its mover or on the one with most free slots; a PUT launches one row of the 8
bytes of sd for a chip of the partition. A misaligned address raises ALIGN, a PUT beyond the chip's cupboard BOUNDS and a PUT
to a chip that is no member COORD. Where it rests on readings and choices of the model, they are those of the assumption log,
entries 31, 42. -/
def Obligations.DescriptorAndTransferInstructions : Prop :=
  (∀ (s : State) (core : CoreId) (g : Guard) (f : FieldsI) (a : W32), a = getA (coreAt s core.val) f.a + f.imm →
    (issues s core.val g (.tdld f) = true →
      (a.toNat % 64 ≠ 0 → exec (.tdld core g f) s = .next (cpFault s core.val 2 0 a)) ∧
      (a.toNat % 64 = 0 → cpWaits s core.val a.toNat 64 = true → exec (.tdld core g f) s = .next s) ∧
      (∀ t bs, a.toNat % 64 = 0 → cpWaits s core.val a.toNat 64 = false → cpRead s core.val a.toNat 64 = (t, .ok bs) →
        (parseTd bs = none → exec (.tdld core g f) s = .next (cpFault t core.val 5 0 a)) ∧
        (∀ td, parseTd bs = some td →
          exec (.tdld core g f) s = .next (modCore t core.val fun c => retire (setTd c f.d (some td))))) ∧
      (∀ t e, a.toNat % 64 = 0 → cpWaits s core.val a.toNat 64 = false → cpRead s core.val a.toNat 64 = (t, .error e) →
        exec (.tdld core g f) s = .next (cpFault t core.val e.1 e.2.1 e.2.2))) ∧
    (issues s core.val g (.tdst f) = true → a.toNat % 64 ≠ 0 →
      exec (.tdst core g f) s = .next (cpFault s core.val 2 0 a)) ∧
    (issues s core.val g (.tdst f) = true → a.toNat % 64 = 0 → cpStoreBad s core.val a.toNat 64 = true →
      exec (.tdst core g f) s = .next (cpFault s core.val 3 1 a)) ∧
    (issues s core.val g (.tdst f) = true → a.toNat % 64 = 0 → cpStoreBad s core.val a.toNat 64 = false →
      ∃ t, exec (.tdst core g f) s = .next t ∧ sameButCore s t core.val ∧
        (coreAt t core.val).td = (coreAt s core.val).td ∧ (coreAt t core.val).pc = (coreAt s core.val).pc + 8 ∧
        (coreAt t core.val).stores.length = (coreAt s core.val).stores.length + 8) ∧
    (issues s core.val g (.tdbase f) = true →
      (a.toNat % 8 ≠ 0 → exec (.tdbase core g f) s = .next (cpFault s core.val 2 0 a)) ∧
      (a.toNat % 8 = 0 → getTd (coreAt s core.val) f.d = none →
        exec (.tdbase core g f) s = .next (cpFault s core.val 5 0 0)) ∧
      (∀ td, a.toNat % 8 = 0 → getTd (coreAt s core.val) f.d = some td → td.view = true →
        a.toNat % tileBytes td.width ≠ 0 → exec (.tdbase core g f) s = .next (cpFault s core.val 5 0 0)) ∧
      (∀ td, a.toNat % 8 = 0 → getTd (coreAt s core.val) f.d = some td →
        (td.view = true → a.toNat % tileBytes td.width = 0) →
        exec (.tdbase core g f) s =
          .next (modCore s core.val fun c => retire (setTd c f.d (some { td with base := a })))))) ∧
  (∀ (s : State) (core : CoreId) (g : Guard) (f : FieldsMV) (p : FieldsPT),
    (issues s core.val g (.move f) = true → ∀ a : W32, a = getA (coreAt s core.val) f.a + f.imm →
      (a.toNat % 32 ≠ 0 → exec (.move core g f) s = .next (cpFault s core.val 2 0 a)) ∧
      (a.toNat % 32 = 0 → cpWaits s core.val a.toNat 32 = true → exec (.move core g f) s = .next s) ∧
      (∀ t bs m, a.toNat % 32 = 0 → cpWaits s core.val a.toNat 32 = false → cpRead s core.val a.toNat 32 = (t, .ok bs) →
        m = (if f.mov.toNat = 4 then anyMover (coreAt s core.val) else f.mov.toNat) →
        exec (.move core g f) s = .next (modCore t core.val fun c =>
          retire (launch c core.val m (parseXfer bs) a none f.cen f.ccnt))) ∧
      (∀ t e, a.toNat % 32 = 0 → cpWaits s core.val a.toNat 32 = false → cpRead s core.val a.toNat 32 = (t, .error e) →
        exec (.move core g f) s = .next (cpFault t core.val e.1 e.2.1 e.2.2))) ∧
    (issues s core.val g (.put p) = true → ∀ (a : W32) (b : W64),
      a = getA (coreAt s core.val) p.a → b = getS (coreAt s core.val) p.b →
      (a.toNat % 8 ≠ 0 → exec (.put core g p) s = .next (cpFault s core.val 2 0 a)) ∧
      (a.toNat % 8 = 0 → chipBytes ≤ a.toNat → exec (.put core g p) s = .next (cpFault s core.val 3 5 a)) ∧
      (a.toNat % 8 = 0 → a.toNat < chipBytes → b.toNat = ownCoord s → cpStoreBad s core.val a.toNat 8 = false →
        exec (.put core g p) s = .next (modCore s core.val fun c =>
          retire (launch c core.val (anyMover c) (putDesc a false b.toNat p.den p.dcnt) 0 (some (getS c p.d)) false 0))) ∧
      (a.toNat % 8 = 0 → a.toNat < chipBytes → 32768 ≤ b.toNat →
        exec (.put core g p) s = .next (cpFault s core.val 6 0 (b.setWidth 32))) ∧
      (a.toNat % 8 = 0 → a.toNat < chipBytes → b.toNat < 32768 → b.toNat ≠ ownCoord s →
        (memberCoord s b.toNat = false →
          exec (.put core g p) s = .next (cpFault s core.val 6 0 (b.setWidth 32))) ∧
        (memberCoord s b.toNat = true → exec (.put core g p) s = .next (modCore s core.val fun c =>
          retire (launch c core.val (anyMover c) (putDesc a true b.toNat p.den p.dcnt) 0 (some (getS c p.d)) false 0))))))

/-- R137, R169, R202, R217, R218: a T-class instruction that issues with every descriptor that it uses passing the checks enters
the queue of its unit with the descriptors and the scalar captured; the PC advances and the instruction's unit has not started
it. A descriptor that fails faults the CP, the first in operand order, and nothing enters the queue. R216, R222 to R225: TFLG and
the C-class instructions that issue enter the queue of their unit. TFLG and CPRI make sd pending until the word comes back; a TFLG
of the CP waits for the CPRIs issued before it and, where none is, returns and clears the CP's flags at once. TMUL.GATHER,
TMUL.SCATTER and CALL capture their descriptors, e among them. Where it rests on readings and choices of the model, they are
those of the assumption log, entries 31, 36. -/
def Obligations.QueuedInstructionsEnterTheirUnit : Prop :=
  (∀ (s : State) (core : CoreId) (g : Guard) (f : FieldsTM) (v : FieldsV), ∀ n td, n = core.val → td = getTd (coreAt s n) →
    (∀ p ∈ [(Instr.tmul, TmOp.tmul), (Instr.tl1, TmOp.tl1), (Instr.tl2, TmOp.tl2), (Instr.tminp, TmOp.tminp),
        (Instr.tmaxp, TmOp.tmaxp), (Instr.tham, TmOp.tham), (Instr.tccnt, TmOp.tccnt), (Instr.smv, TmOp.smv)],
      issues s n g (.tm p.2 f) = true → ∀ l, l = [td f.d, td f.a, td f.b] ++ (if f.aen then [td f.c] else []) →
      (∀ e, l.findSome? (tdFault s n) = some e → exec (p.1 core g f) s = .next (cpFault s n e.1 e.2.1 e.2.2)) ∧
      ((∀ t ∈ l, tdFault s n t = none) →
        exec (p.1 core g f) s = .next (modCore s n fun c => retire
          (enqUnit c (if p.2 = .smv then 4 else f.unit.toNat) (.op (.tm p.2 f) (td f.d) (td f.a) (td f.b)
            (if f.aen then td f.c else none) none (if f.shx then getS c f.sh else 0)))))) ∧
    (issues s n g (.vec v) = true → ∀ ua ub uc us l, vecUses v.fn.toNat = (ua, ub, uc, us) →
      l = [td v.d] ++ (if ua then [td v.a] else []) ++ (if ub then [td v.b] else []) ++ (if uc then [td v.c] else []) →
      (∀ e, l.findSome? (tdFault s n) = some e → exec (.vec core g v) s = .next (cpFault s n e.1 e.2.1 e.2.2)) ∧
      ((∀ t ∈ l, tdFault s n t = none) →
        exec (.vec core g v) s = .next (modCore s n fun c => retire
          (enqUnit c 5 (.op (.vec v) (td v.d) (if ua then td v.a else none) (if ub then td v.b else none)
            (if uc then td v.c else none) none (if us then getS c v.s else 0))))))) ∧
  (∀ (s : State) (core : CoreId) (g : Guard) (f : FieldsCX) (l : FieldsCL) (p : FieldsCP) (w : FieldsFL),
    ∀ n td, n = core.val → td = getTd (coreAt s n) →
    (∀ i ∈ [(Instr.tmulGather, Isa.gather), (Instr.tmulScatter, Isa.scatter)],
      issues s n g (i.2 f) = true → ∀ l, l = [td f.d, td f.a, td f.b] ++ (if f.aen then [td f.c] else []) ++ [td f.e] →
      (∀ e, l.findSome? (tdFault s n) = some e → exec (i.1 core g f) s = .next (cpFault s n e.1 e.2.1 e.2.2)) ∧
      ((∀ t ∈ l, tdFault s n t = none) → exec (i.1 core g f) s = .next (modCore s n fun c => retire
        (enqUnit c f.unit.toNat (.op (i.2 f) (td f.d) (td f.a) (td f.b) (if f.aen then td f.c else none) (td f.e) 0))))) ∧
    (issues s n g (.call l) = true →
      (∀ e, [td l.d, td l.a].findSome? (tdFault s n) = some e →
        exec (.call core g l) s = .next (cpFault s n e.1 e.2.1 e.2.2)) ∧
      (tdFault s n (td l.d) = none → tdFault s n (td l.a) = none →
        exec (.call core g l) s = .next (modCore s n fun c => retire
          (enqUnit c l.unit.toNat (.op (.call l) (td l.d) (td l.a) none none none 0))))) ∧
    (issues s n g (.cpri p) = true →
      exec (.cpri core g p) s = .next (modCore s n fun c => retire
        { enqUnit c p.unit.toNat (.op (.cpri p) none none none none none (if p.op = 0 then 0 else getS c p.b)) with
          sPend := setBit c.sPend p.d.toNat true, cpriOut := c.cpriOut + 1 })) ∧
    (issues s n g (.tflg w) = true →
      (w.place ≠ 0 → exec (.tflg core g w) s = .next (modCore s n fun c => retire
        { enqUnit c (w.place.toNat - 1) (.tflg w.d) with sPend := setBit c.sPend w.d.toNat true })) ∧
      (w.place = 0 → (coreAt s n).cpriOut ≠ 0 → (coreAt s n).tflgCp = [] →
        exec (.tflg core g w) s = .next (modCore s n fun c => retire
          { c with tflgCp := [(w.d, c.cpriOut)], sPend := setBit c.sPend w.d.toNat true })) ∧
      (w.place = 0 → (coreAt s n).cpriOut = 0 → (coreAt s n).tflgCp = [] →
        ∃ t, exec (.tflg core g w) s = .next t ∧ sameButCore s t n ∧
          getS (coreAt t n) w.d = flagBits (coreAt s n).cpFlags ∧ (coreAt t n).cpFlags = .clear ∧
          (coreAt t n).tflgCp = [] ∧ (coreAt t n).pc = (coreAt s n).pc + 8)))

/-- R133, R170, R171, R175, R178, R189, R191 to R193: the CP issues the instruction whose word it fetches at COR_PC_LO. Where no own
store waits in what it fetched ahead, that is, where it fetches afresh, the word that stands there under its own posted stores,
and else the one it fetched before; a fetch waits for a zero fill in progress. A false predicate retires a legal
instruction with no other effect; an instruction with an illegal field, an undefined word and ILL raise ILLEGAL, which leaves
the PC at the instruction, puts the core into FAULTED and writes no memory; a fetch outside the context's frames raises BOUNDS; a core
that may not issue does nothing. No instruction writes memory when it issues, nor, where the cupboard holds no error and no
ring, touches another core. Where it rests on readings and choices of the model, they are those of the assumption log, entry 30. -/
def Obligations.IssueFetchesAndJudges : Prop :=
  ∀ (s : State) (core : CoreId) (g : Guard), ∀ c, c = coreAt s core.val →
    (mayIssue c = true → firstBad s c.pc.toNat 8 (writableKind c.ctx.toNat) = none → filling s c.pc.toNat 8 = true →
      exec (.instructionIssue core) s = .next s) ∧
    (∀ u w, mayIssue c = true → firstBad s c.pc.toNat 8 (writableKind c.ctx.toNat) = none → filling s c.pc.toNat 8 = false →
      cpUe s core.val c.pc.toNat 8 = none → fetchWord (correctRead s c.pc.toNat 8) core.val = (u, w) →
      (∀ i, isaDecode w = some i → exec (.instructionIssue core) s = .next (issue u core.val (wordGuard w) i)) ∧
      (isaDecode w = none → exec (.instructionIssue core) s = .next (cpFault u core.val 1 0 0)) ∧
      u.mem = s.mem ∧ (coreAt u core.val).pc = c.pc ∧ (coreAt u core.val).s = c.s ∧
      (c.ahead = [] → c.refetch = true → w = BitVec.ofNat 64 (readLe (overStores s.mem c.stores) c.pc.toNat 8)) ∧
      (c.ahead = [] → c.refetch = false → w = BitVec.ofNat 64 (readLe c.imem c.pc.toNat 8))) ∧
    (mayIssue c = true → (firstBad s c.pc.toNat 8 (writableKind c.ctx.toNat)).isSome = true →
      exec (.instructionIssue core) s = .next (cpFault s core.val 3 0 c.pc)) ∧
    (mayIssue c = false → exec (.instructionIssue core) s = .next s) ∧
    (∀ i, mayIssue c = true → legal i = true → bit c.pPend g.p.toNat = false → guardOf c g = false →
      issue s core.val g i = modCore s core.val retire) ∧
    (∀ i, mayIssue c = true → legal i = false → issue s core.val g i = cpFault s core.val 1 0 0) ∧
    (∀ i, mayIssue c = false → issue s core.val g i = s) ∧
    (mayIssue c = true → ∃ t, exec (.ill core g) s = .next t ∧ (coreAt t core.val).state = 4 ∧
      (coreAt t core.val).stopNext = 4 ∧ (coreAt t core.val).pc = c.pc ∧ (coreAt t core.val).s = c.s ∧ t.mem = s.mem) ∧
    (∀ i, (issue s core.val g i).mem = s.mem ∧
      (s.ue = [] → s.ce = [] → s.wrg.enable = false → ∀ m, m ≠ core.val → coreAt (issue s core.val g i) m = coreAt s m))

/-- R133 to R136, R153, R157, Table 4-10: COR_CTL. RUN and STEP start a HALTED, tested core whose context exists and whose PC lies
in its cupboard space; HALT takes a running core into DRAINING and abandons its wait; CRESET empties the core's queues,
movers, arrays and pending marks and lets it drain with STOP = CRESET; STALL_CLR zeroes the ten stall counters. The fields of
the write are stored; a RUN of a core that is not HALTED is refused with code STATE, and nothing else changes. Where it rests
on readings and choices of the model, they are those of the assumption log, entries 12, 32, 35. -/
def Obligations.CoreControlCommands : Prop :=
  ∀ (s : State) (core : CoreId) (via : Via) (v : W32), mayWrite s via = true → domainOn s core.val = true →
    ∀ n c, n = core.val → c = coreAt s n →
    (bit v 1 = false → bit v 2 = false → bit v 3 = false → c.state = 0 → c.selfTested = true → stopped s = false →
      ctxExists s (bits v 24 4) = true → inSpace s (bits v 24 4) c.pc.toNat 8 = true →
      ∃ t, exec (.run core via v) s = .next t ∧ sameButCore s t n ∧ (coreAt t n).state = 1 ∧ (coreAt t n).pc = c.pc ∧
        (coreAt t n).ctx = v.extractLsb' 24 4 ∧ (coreAt t n).s = c.s) ∧
    (bit v 3 = false → c.state = 0 → c.selfTested = true → stopped s = false →
      ctxExists s (bits v 24 4) = true → inSpace s (bits v 24 4) c.pc.toNat 8 = true →
      ∃ t, exec (.stepOne core via v) s = .next t ∧ sameButCore s t n ∧ (coreAt t n).state = 2 ∧ (coreAt t n).pc = c.pc ∧
        (coreAt t n).ctx = v.extractLsb' 24 4 ∧ (coreAt t n).s = c.s) ∧
    (bit v 1 = false → bit v 2 = false → bit v 3 = false → c.state ≠ 0 →
      exec (.run core via v) s = .next (modCore s n fun c => { c with err := 1 })) ∧
    (bits v 24 4 = c.ctx.toNat → bit v 2 = false → bit v 3 = false → c.state = 1 ∨ c.state = 2 →
      ∃ t, exec (.halt core via v) s = .next t ∧ sameButCore s t n ∧ (coreAt t n).state = 3 ∧ (coreAt t n).stopNext = 1 ∧
        (coreAt t n).wait = .none ∧ (coreAt t n).pc = c.pc ∧ (coreAt t n).units = c.units ∧ (coreAt t n).movers = c.movers) ∧
    (bits v 24 4 = c.ctx.toNat →
      ∃ t, exec (.creset core via v) s = .next t ∧
        (∀ u < 6, ((coreAt t n).units.toList.getD u CUnit.empty).queue = [] ∧
          ((coreAt t n).units.toList.getD u CUnit.empty).flight = []) ∧
        (∀ m < 4, xfers t n m = []) ∧
        (∀ u : Fin 4, ((coreAt t n).arrays[u]).loaded = false ∧ ((coreAt t n).arrays[u]).tile = []) ∧ (coreAt t n).sPend = 0 ∧ (coreAt t n).wait = .none ∧
        ((coreAt t n).state = 0 ∧ (coreAt t n).stop = 5 ∨ (coreAt t n).state = 3 ∧ (coreAt t n).stopNext = 5)) ∧
    (bits v 24 4 = c.ctx.toNat → bits v 0 4 = 0 →
      ∃ t, exec (.stallClr core via v) s = .next t ∧ sameButCore s t n ∧ (coreAt t n).stall = Vector.replicate 10 0 ∧
        (coreAt t n).state = c.state ∧ (coreAt t n).pc = c.pc ∧ (coreAt t n).s = c.s)

/-- R132, R135, R153, R175: a core that drains with its units and movers idle enters HALTED with the STOP code of its drain, every
posted store written first; while work remains it stays. R606: a stall counter's low word is returned and latches its high
word for the path. R149: a wait of the CP that has lasted its limit is reported once and goes on, and so is that of an instruction
at a unit's head or of a collective in flight. R261, R262: the self-test of a core whose domain is on ends once after a chip
reset, disabling the trestles without a cover together with those requested before; a cover of more than 8 rows or 2 columns is none,
SOFT marks a cover that is not the fuse map's, and a trestle without a cover shows none (log 80). R270: a request made on a HALTED,
tested core disables at once, on another it waits; one for a trestle that is disabled already changes nothing. A field that is disabled
stays so. Where it rests on readings and choices of the model, they are those of the assumption log, entries 11, 35, 80, 82. -/
def Obligations.CoresDrainCountAndAreTested : Prop :=
  (∀ (s : State) (core : CoreId), ∀ n c, n = core.val → c = coreAt s n →
    (c.state = 3 ∨ c.state = 4 → idleCore c = true →
      ∃ t, exec (.coreDrained core) s = .next t ∧ (coreAt t n).state = 0 ∧ (coreAt t n).stop = c.stopNext ∧
        (coreAt t n).stores = [] ∧ (coreAt t n).rets = [] ∧ (coreAt t n).faults = 0 ∧ (c.stores = [] → t.mem = s.mem)) ∧
    (idleCore c = false → exec (.coreDrained core) s = .next s) ∧
    (∀ (via : Via) (k : Fin 10), domainOn s n = true →
      (∃ t, exec (.stallLoRead core via k) s = .next t ∧ t.cores = s.cores ∧ t.mem = s.mem ∧
        t.outs = .readData via (corReg n (0x100 + 8 * k.val)) ((c.stall.toList.getD k.val 0).extractLsb' 0 32) :: s.outs ∧
        (n, k.val, (c.stall.toList.getD k.val 0).extractLsb' 32 32) ∈ (latchOf t via).stallHi) ∧
      (∃ t w, exec (.stallHiRead core via k) s = .next t ∧ t.cores = s.cores ∧ t.mem = s.mem ∧
        t.outs = .readData via (corReg n (0x104 + 8 * k.val)) w :: s.outs ∧
        ((∀ e ∈ (latchOf s via).stallHi, ¬(e.1 = n ∧ e.2.1 = k.val)) →
          w = (c.stall.toList.getD k.val 0).extractLsb' 32 32))) ∧
    (∀ ctr eq v, c.wait = .waitc ctr eq v → c.waitPosted = false → waitReached c c.waitBeats c.waitClks = true →
      ∃ t, exec (.waitTimeout core 0) s = .next t ∧ (coreAt t n).waitPosted = true ∧ (coreAt t n).wait = c.wait ∧
        (coreAt t n).state = c.state ∧ (coreAt t n).pc = c.pc ∧ t.mem = s.mem) ∧
    (c.wait = .none → exec (.waitTimeout core 0) s = .next s) ∧
    (∀ (u : Fin 6) y, y = c.units.toList.getD u.val CUnit.empty →
      (∀ l, l = (y.queue.take 1 ++ y.flight).filter (fun e => (waitKind e.work).isSome && !e.posted && waitReached c e.beats e.clks) →
        (l = [] → exec (.waitTimeout core u.succ) s = .next s) ∧
        (∀ e r, l = e :: r → ∃ t z, exec (.waitTimeout core u.succ) s = .next t ∧ z = { e with posted := true } ∧
          (z ∈ ((coreAt t n).units.toList.getD u.val CUnit.empty).queue ∨
            z ∈ ((coreAt t n).units.toList.getD u.val CUnit.empty).flight) ∧ (coreAt t n).pc = c.pc ∧
          (coreAt t n).state = c.state ∧ t.mem = s.mem)))) ∧
  (∀ (s : State) (core : CoreId) (fails soft : BitVec 4) (cover : BitVec 24) (via : Via) (v : W32),
    ∀ n c, n = core.val → c = coreAt s n →
    (s.glb.fuseDone = true → domainOn s n = true → c.selfTested = false →
      ∃ t, exec (.selftestEnd core fails soft cover) s = .next t ∧ (coreAt t n).selfTested = true ∧
        (coreAt t n).trsDis = ((coreAt t n).trsFail ||| c.fdisReq) ∧
        (∀ k : Nat, k < 4 → ∀ lost, lost = (bit fails k || !coverFits cover k) →
          bit (coreAt t n).trsFail k = lost ∧
          (lost = false → bits (coreAt t n).repair (6 * k) 6 = bits cover (6 * k) 6 ∧
            bit (coreAt t n).soft k = (bit soft k || !sameCover cover (s.glb.fuses.repair.toList.getD n 0) k)) ∧
          (lost = true → bits (coreAt t n).repair (6 * k) 6 = 0)) ∧
        (coreAt t n).state = c.state ∧ t.mem = s.mem ∧ t.own = s.own ∧ ∀ m, m ≠ n → coreAt t m = coreAt s m) ∧
    (c.selfTested = true → exec (.selftestEnd core fails soft cover) s = .next s) ∧
    (mayWrite s via = true → domainOn s (16 + n / 4) = true →
      ∀ q, q = (c.fdisReq ||| (v.extractLsb' 28 4 &&& ~~~c.trsDis)) →
      (c.state = 0 → c.selfTested = true → exec (.fdis core via v) s = .next (modCore s n fun c => { c with
        fdisReq := q, trsDis := c.trsDis ||| q })) ∧
      (c.state ≠ 0 ∨ c.selfTested = false → exec (.fdis core via v) s = .next (modCore s n fun c => { c with fdisReq := q }))))

/-- R309, R310, R324, R328: a change of a slice's mode, outside a formed partition and with every core halted, fills the slice
with zeros and leaves every other byte; otherwise it is refused with code STATE and neither the mode nor any byte changes.
CE_CLR clears the corrected-error count. R318: a write of an arrival counter of a HALTED core sets it and makes it valid. The
ends of the fills clear their marks. R327: the scrubber of a slice whose scrubbing is on, in a powered quadrant, corrects the
words with a single-bit error and counts them, marks each word with an uncorrectable one, moves on by one place and changes no
byte; with scrubbing off it does nothing. Where it rests on readings and choices of the model, they are those of the
assumption log, entries 11, 29. -/
def Obligations.CupboardModesCountersAndScrubbing : Prop :=
  (∀ (s : State) (core : CoreId) (via : Via) (v : W32) (ctr : Byte) (frame : Fin 384), mayWrite s via = true →
    ∀ n c, n = core.val → c = coreAt s n →
    (domainOn s (16 + n / 4) = true →
      (bit v 0 ≠ c.cpb.mode → formed s = false → allHalted s = true → Memory.wf s.mem = true →
        ∃ t, exec (.cpbModeWrite core via v) s = .next t ∧ (coreAt t n).cpb.mode = bit v 0 ∧ (coreAt t n).cpb.fill = true ∧
          ∀ a, readByte t.mem a = if sliceBytes * n ≤ a ∧ a < sliceBytes * n + sliceBytes then 0 else readByte s.mem a) ∧
      (bit v 0 ≠ c.cpb.mode → formed s = true ∨ allHalted s = false →
        ∃ t, exec (.cpbModeWrite core via v) s = .next t ∧ sameButCore s t n ∧ (coreAt t n).cpb.mode = c.cpb.mode ∧
          (coreAt t n).cpb.err = 1) ∧
      (bit v 0 = c.cpb.mode → ∃ t, exec (.ceClr core via v) s = .next t ∧ sameButCore s t n ∧
        (coreAt t n).cpb.ceCnt = 0 ∧ (coreAt t n).cpb.mode = c.cpb.mode ∧ (coreAt t n).cpb.err = c.cpb.err)) ∧
    (∃ t, exec (.sliceFillEnd core) s = .next t ∧ sameButCore s t n ∧ coreAt t n = { c with cpb := { c.cpb with fill := false } }) ∧
    (∃ t, exec (.frameFillEnd frame) s = .next t ∧ t = { s with fills := t.fills } ∧
      ∀ g, g ∈ t.fills ↔ g ∈ s.fills ∧ g ≠ frame.val) ∧
    (domainOn s n = true → domainOn s (16 + n / 4) = true →
      (c.state = 0 → ¬(s.wrg.enable = true ∧ 254 ≤ ctr.toNat) →
        ∃ t, exec (.arrivalCounterWrite core ctr via v) s = .next t ∧ sameButCore s t n ∧
          counterAt t n ctr.toNat = ⟨v, true, false⟩ ∧ ∀ k, k ≠ ctr.toNat → counterAt t n k = counterAt s n k) ∧
      (c.state ≠ 0 → exec (.arrivalCounterWrite core ctr via v) s = .next s))) ∧
  (∀ (s : State) (core : CoreId) (single double : List Nat), ∀ n c word, n = core.val → c = coreAt s n →
    word = (fun j => sliceAddr n (64 * lineAt c.cpb.mode (j / 8) c.cpb.scrubAt) / 8 + j % 8) →
    (c.cpb.scrub = true → domainOn s (16 + n / 4) = true →
      ∃ t, exec (.scrubRead core single double) s = .next t ∧ t.mem = s.mem ∧
        (coreAt t n).cpb.scrubAt = (c.cpb.scrubAt + 1) % 12288 ∧
        (∀ i ∈ double, i < 256 → word i ∈ t.ue) ∧ (∀ w ∈ s.ue, w ∈ t.ue) ∧
        (∀ w, w ∈ t.ce → w ∈ s.ce) ∧ (∀ i < 256, word i ∉ t.ce) ∧
        ((∀ i < 256, i ∉ double ∧ word i ∉ s.ue) → t.ue = s.ue ∧
          (coreAt t n).cpb.ue = c.cpb.ue ∧
          (coreAt t n).cpb.ceCnt.toNat = min (c.cpb.ceCnt.toNat +
            ((List.range 256).filter fun i => single.contains i || s.ce.contains (word i)).length) (2 ^ 8 - 1))) ∧
    (c.cpb.scrub = false ∨ domainOn s (16 + n / 4) = false → exec (.scrubRead core single double) s = .next s))

/-- R138, R209, R214, R216, R229, R245, R252, R263, R310: the head of a unit's queue, a T-class instruction that passes its checks and
meets no interlock, starts and writes nothing; one that fails a check faults with the sub-code of the check, one that meets the
interlock waits, and one that names a disabled trestle faults and leaves its array empty. Started, with no zero fill under its
operands, it forms the rest of its row pieces and leaves the queue, or, where a read is refused, faults with the pieces of
whole combinations written; the oldest in flight completes by writing what is left of its result, with its flags and its counter.
A TFLG alone in its unit returns the flag word and clears it. How far an instruction has come when it leaves is a free choice of
the model. Where it rests on readings and choices of the model, they are those of the assumption log, entries 36, 37, 38, 72,
76, 78. -/
def Obligations.UnitsStartReleaseAndComplete : Prop :=
  ∀ (s : State) (core : CoreId) (unit : Fin 6) (x : QEntry) (r : List QEntry) (i : Isa) (d a b c e : Option TD) (v : W64),
    ∀ n u y o, n = core.val → u = unit.val → y = (coreAt s n).units.toList.getD u CUnit.empty → o = (⟨d, a, b, c, e⟩ : Ops) →
    x.work = .op i d a b c e v → isClassC i = false →
    (y.queue = x :: r → x.started = false →
      (offline (coreAt s n) u = true → exec (.unitInstructionStart core unit) s = .next (unitOffline s n u x.pc) ∧
        ∀ t : Fin 4, t.val = u → ((coreAt (unitOffline s n u x.pc) n).arrays[t]).loaded = false) ∧
      (offline (coreAt s n) u = false →
        (∀ sub, unitCheck s n u i o v = some sub →
          exec (.unitInstructionStart core unit) s = .next (unitFault s n u 9 sub x.pc 0)) ∧
        (unitCheck s n u i o v = none → interlocked y i o (shapeOf s i o v) = true →
          exec (.unitInstructionStart core unit) s = .next s) ∧
        (unitCheck s n u i o v = none → interlocked y i o (shapeOf s i o v) = false →
          ∃ t z, exec (.unitInstructionStart core unit) s = .next t ∧ t.mem = s.mem ∧
            ((coreAt t n).units.toList.getD u CUnit.empty).queue = z :: r ∧
            ((coreAt t n).units.toList.getD u CUnit.empty).flight = y.flight ∧ z.started = true ∧ z.work = x.work ∧
            z.pc = x.pc ∧ z.sigma = s.hut.scale ∧ (coreAt t n).arrays = (coreAt s n).arrays))) ∧
    (y.queue = x :: r → x.started = true →
      (entryFilling s x = true → exec (.unitHeadRelease core unit) s = .next s) ∧
      (∀ p, entryFilling s x = false → p = finishEntry s n u x →
        (p.refused = false → exec (.unitHeadRelease core unit) s = .next (modCore p.state n fun k => modUnit k u fun z =>
          { z with queue := r, flight := z.flight ++ [p.entry] }) ∧ p.state.mem = s.mem) ∧
        (p.refused = true → exec (.unitHeadRelease core unit) s = .next (refuseRead p.state n u p.entry)))) ∧
    (∀ w p, y.flight = x :: r → x.started = true → x.coll = none → entryFilling s x = false →
      (∀ z ∈ r ++ y.queue.take 1, canComplete s false z = true → inOrder z = true) →
      w = modCore (s.drawn 1) n (fun k => modUnit k u fun z => { z with flight := r }) → p = finishEntry w n u x →
      (p.refused = false → exec (.unitInstructionComplete core unit) s =
        .next (endOp (writeAll p.state n p.entry.out.flatten) n u p.entry i)) ∧
      (p.refused = true → exec (.unitInstructionComplete core unit) s = .next (refuseRead p.state n u p.entry))) ∧
    (y.queue = [] → y.flight = [] → exec (.unitInstructionStart core unit) s = .next s ∧
      exec (.unitHeadRelease core unit) s = .next s ∧ exec (.unitInstructionComplete core unit) s = .next s) ∧
    (∀ w g, w.work = .tflg g → y.flight = [] → y.queue = w :: r → offline (coreAt s n) u = false →
      exec (.unitInstructionComplete core unit) s = .next (modCore s n fun k =>
        modUnit (putS k g (flagBits y.flags)) u fun z => { z with queue := r, flags := .clear }))

/-- R142 to R147, R186, R310: the mover's next transfer, unstarted, starts where its descriptor and rows pass the checks and otherwise
faults. A row of a local transfer, not its last, lands as the copy of its source row word by word, leaving every byte outside the
destination row; one that a zero fill still covers waits, and one that meets a sealed slot that its context is not bound to
faults. The last source byte of a local transfer read, nothing of the last row has landed yet; it lands from what was read. A
remote transfer sends all its rows. A finished local transfer frees its slot and counts its completion. A mover without such a
transfer does nothing. Where it rests on readings and choices of the model, they are those of the assumption log,
entries 33, 40, 42. -/
def Obligations.MoversCopyRowByRow : Prop :=
  ∀ (s : State) (core : CoreId) (mover : Fin 4) (x : Xfer), ∀ n m, n = core.val → m = mover.val →
    ((xfers s n m).find? (fun x => !x.srcRead) = some x → x.started = false →
      (x.put.isSome = true ∨ (xdescOk x.desc = true ∧ rowsBad s x.srcAt x.rowLen x.rows (readableKind x.ctx.toNat) = none ∧
        (if x.desc.remote then memberCoord s x.desc.dest = true
         else rowsBad s x.dstAt x.rowLen x.rows (writableKind x.ctx.toNat) = none)) →
        exec (.transferStart core mover) s = .next (setXfers s n m ((xfers s n m).map fun z =>
          if z.tag = x.tag then { z with started := true } else z))) ∧
      (x.put = none → xdescOk x.desc = false →
        exec (.transferStart core mover) s = .next (moverFault s n m 5 0 x x.descAddr)) ∧
      (x.put = none → xdescOk x.desc = true →
        (∀ a, rowsBad s x.srcAt x.rowLen x.rows (readableKind x.ctx.toNat) = some a →
          exec (.transferStart core mover) s = .next (moverFault s n m 3 3 x a)) ∧
        (rowsBad s x.srcAt x.rowLen x.rows (readableKind x.ctx.toNat) = none →
          (x.desc.remote = true → memberCoord s x.desc.dest = false →
            exec (.transferStart core mover) s = .next (moverFault s n m 6 0 x (BitVec.ofNat 32 x.desc.dest))) ∧
          (∀ a, x.desc.remote = false → rowsBad s x.dstAt x.rowLen x.rows (writableKind x.ctx.toNat) = some a →
            exec (.transferStart core mover) s = .next (moverFault s n m 3 4 x a))))) ∧
    ((xfers s n m).find? (fun x => x.started && !x.desc.remote && decide (x.rowsLanded < x.rows)) = some x →
      ∀ a d one, a = (x.srcAt x.rowsLanded).toNat → d = (x.dstAt x.rowsLanded).toNat →
      one = (fun t => rowCount (modXfer t n m x.tag fun z => { z with rowsLanded := x.rowsLanded + 1 }) x.desc.ctl d) →
      (rowWaits s x x.rowsLanded = true → exec (.transferRowLanded core mover) s = .next s) ∧
      (rowWaits s x x.rowsLanded = false → x.rowsLanded + 1 = x.rows →
        (x.srcRead = true → exec (.transferRowLanded core mover) s = .next (one (cupWriteRow s d x.lastRow x.lastBad))) ∧
        (x.srcRead = false → exec (.transferRowLanded core mover) s = .next s)) ∧
      (rowWaits s x x.rowsLanded = false → x.rowsLanded + 1 ≠ x.rows →
        (∀ k, firstSealed s x.ctx.toNat a x.rowLen = some k →
          exec (.transferRowLanded core mover) s = .next (sealedRow s n m x a d k)) ∧
        (firstSealed s x.ctx.toNat a x.rowLen = none →
          exec (.transferRowLanded core mover) s = .next (one (copyWords (x.rowLen / 8) (rowNotes s n a x.rowLen) n a d)) ∧
          (x.rowLen % 8 = 0 → s.wrg.enable = false → s.ue = [] → Memory.wf s.mem = true →
            ∃ t, exec (.transferRowLanded core mover) s = .next t ∧
              (∀ z, z < d ∨ d + x.rowLen ≤ z → readByte t.mem z = readByte s.mem z) ∧
              (a + x.rowLen ≤ d ∨ d + x.rowLen ≤ a → ∀ j < x.rowLen, readByte t.mem (d + j) = readByte s.mem (a + j)) ∧
              xfers t n m = (xfers s n m).map fun z =>
                if z.tag = x.tag then { z with rowsLanded := x.rowsLanded + 1 } else z)))) ∧
    ((xfers s n m).find? (fun x => x.started && !x.srcRead) = some x →
      ((List.range x.rows).any (rowWaits s x) = true → exec (.transferSourceRead core mover) s = .next s) ∧
      ((List.range x.rows).any (rowWaits s x) = false → x.desc.remote = false →
        (x.rowsLanded + 1 ≠ x.rows → exec (.transferSourceRead core mover) s = .next s) ∧
        (x.rowsLanded + 1 = x.rows →
          (∀ v, x.put = some v → exec (.transferSourceRead core mover) s = .next (setXfers s n m ((xfers s n m).map fun z =>
            if z.tag = x.tag then { z with srcRead := true, lastRow := leBytes 8 v.toNat } else z))) ∧
          (x.put = none → ∀ a d, a = (x.srcAt x.rowsLanded).toNat → d = (x.dstAt x.rowsLanded).toNat →
            (∀ k, firstSealed s x.ctx.toNat a x.rowLen = some k →
              exec (.transferSourceRead core mover) s = .next (sealedRow s n m x a d k)) ∧
            (firstSealed s x.ctx.toNat a x.rowLen = none → ∃ t bad, exec (.transferSourceRead core mover) s = .next t ∧
              t.mem = s.mem ∧ xfers t n m = (xfers s n m).map fun z => if z.tag = x.tag then
                { z with srcRead := true, lastRow := readBytes (copyWords (x.rowLen / 8) s n a d).mem d x.rowLen, lastBad := bad }
                else z)))) ∧
      ((List.range x.rows).any (rowWaits s x) = false → x.desc.remote = true →
        (∀ t, sendRows x.rows 0 s n m x = (t, false) → exec (.transferSourceRead core mover) s = .next t) ∧
        (∀ t w, sendRows x.rows 0 s n m x = (t, true) →
          w = srcCount (modXfer t n m x.tag fun z => { z with srcRead := true }) n x →
          exec (.transferSourceRead core mover) s =
            .next (if x.refused = true ∧ unsent w x.tag = false then freeXfer w n m x else w)))) ∧
    ((xfers s n m).find? (fun x => x.started && !x.desc.remote && x.rowsLanded == x.rows) = some x →
      (x.cen = false ∨ x.refused = true →
        exec (.transferSlotFree core mover) s = .next (setXfers s n m ((xfers s n m).filter fun z => z.tag != x.tag))) ∧
      (x.cen = true → x.refused = false → exec (.transferSlotFree core mover) s =
        .next (bumpCounter (setXfers s n m ((xfers s n m).filter fun z => z.tag != x.tag)) n x.ccnt.toNat))) ∧
    (xfers s n m = [] → exec (.transferStart core mover) s = .next s ∧ exec (.transferRowLanded core mover) s = .next s ∧
      exec (.transferSourceRead core mover) s = .next s ∧ exec (.transferSlotFree core mover) s = .next s)

/-- R145, R146, R158, R319, R320, R331, R377, R378: the pieces of a row of a remote transfer, of the current epoch and within frames
of its context open to remote writes, are held until the last of the row and land with it, writing nothing outside their bytes;
the row is counted where it asks for that, and LANDED answers the last of the transfer. A piece of another epoch or outside such
frames is refused, writes nothing and is remembered, and what follows it is dropped. LANDED frees the sender's slot; REFUSED
marks the transfer, whose slot frees once nothing of it is unsent; after 1 ms without a piece the record of a refusal is released
and pieces held land. A reply that names no transfer does nothing. Where it rests on readings and choices of the model, they are
those of the assumption log, entries 11, 41. -/
def Obligations.RemoteRowsLandOrAreRefused : Prop :=
  ∀ (s : State) (src : Coord) (ctx : Ctx) (epoch : W16) (f : BulkData) (b : BulkCtl) (tag : W16) (x : Xfer),
    (formed s = false → exec (.bulkData src ⟨ctx, epoch⟩ f) s = .next s) ∧
    (formed s = true → s.hut.records.any (sameRecord src f.tag) = true →
      exec (.bulkData src ⟨ctx, epoch⟩ f) s = .next (if f.xferEnd then dropRecord s src f.tag else s)) ∧
    (formed s = true → s.hut.records.any (sameRecord src f.tag) = false →
      (epoch = s.own.epoch.setWidth 16 → inFrames s f.addr.toNat f.data.length (landKind ctx.val) = true →
        ∀ ps u w, ps = ((s.hut.landing.find? (sameXfer src f.tag)).map (·.pieces)).getD [] ++ [f] →
        u = landPieces (dropRow s src f.tag) ps →
        w = (if f.cntEn then bumpCounter u (sliceOf ((ps.head?.map fun p => p.addr.toNat).getD 0)) f.cnt.toNat else u) →
        (f.rowEnd = false → ∃ t, exec (.bulkData src ⟨ctx, epoch⟩ f) s = .next t ∧ t.mem = s.mem ∧ t = { s with hut := t.hut } ∧
          t.hut.landing.find? (sameXfer src f.tag) = some ⟨src, f.tag, ps⟩) ∧
        (f.rowEnd = true →
          (f.xferEnd = false → exec (.bulkData src ⟨ctx, epoch⟩ f) s = .next w) ∧
          (f.xferEnd = true → exec (.bulkData src ⟨ctx, epoch⟩ f) s = .next (inject w src 0 (.bulkCtl ⟨f.tag, false, 0⟩))) ∧
          (s.hut.landing.find? (sameXfer src f.tag) = none → Memory.wf s.mem = true →
            ∃ t, exec (.bulkData src ⟨ctx, epoch⟩ f) s = .next t ∧
              (∀ a, a < f.addr.toNat ∨ f.addr.toNat + f.data.length ≤ a → readByte t.mem a = readByte s.mem a) ∧
              (s.ue = [] → s.wrg.enable = false → f.bad = [] → f.addr.toNat % 8 = 0 → f.data.length % 8 = 0 →
                ∀ j < f.data.length, readByte t.mem (f.addr.toNat + j) = f.data.getD j 0)))) ∧
      (epoch ≠ s.own.epoch.setWidth 16 ∨ inFrames s f.addr.toNat f.data.length (landKind ctx.val) = false →
        ∃ t, exec (.bulkData src ⟨ctx, epoch⟩ f) s = .next t ∧ t.mem = s.mem ∧ t.cores = s.cores ∧
          t.hut.records = (if f.xferEnd = true ∨ 256 ≤ s.hut.records.length then s.hut.records
            else s.hut.records ++ [⟨src, f.tag⟩]) ∧
          t.hut.landing = s.hut.landing.filter fun l => !sameXfer src f.tag l)) ∧
    (xferOf s src b.tag = none → exec (.landed src b) s = .next s ∧ exec (.refused src b) s = .next s) ∧
    (xferOf s src b.tag = some x → ∀ n m, n = bits b.tag 12 4 → m = bits b.tag 10 2 →
      (x.refused = false → x.srcRead = true → exec (.landed src b) s = .next (freeXfer s n m x)) ∧
      (x.refused = true ∨ x.srcRead = false → exec (.landed src b) s = .next s) ∧
      (x.refused = true → exec (.refused src b) s = .next s) ∧
      (x.refused = false → ∀ u, u = post (modXfer s n m x.tag fun z => { z with refused := true }) 0 5
          (some ⟨x.ctx.toNat, x.ctx.isLt⟩) (.refused b) →
        (x.srcRead = false ∨ unsent u x.tag = true → exec (.refused src b) s = .next u) ∧
        (x.srcRead = true → unsent u x.tag = false →
          exec (.refused src b) s = .next (freeXfer u n m { x with refused := true })) ∧ u.mem = s.mem ∧
        xfers u n m = (xfers s n m).map fun z => if z.tag = x.tag then { z with refused := true } else z)) ∧
    (exec (.refusalRecordTimeout src tag) s = .next (landPieces (dropRow (dropRecord s src tag) src tag)
      (((s.hut.landing.find? (sameXfer src tag)).map (·.pieces)).getD []))) ∧
    (s.hut.landing.find? (sameXfer src tag) = none → ∃ t, exec (.refusalRecordTimeout src tag) s = .next t ∧
      t.mem = s.mem ∧ t.cores = s.cores ∧ t.hut.records = s.hut.records.filter fun r => !sameRecord src tag r)

/-- R348, R349, R350, R352, R357 to R360: the oldest spilled bytes of a shelf come back into their queue when it has room, or land
where the shelf is RAW; those of a shelf that is gone are dropped, and an uncorrectable one is damage with cause MEMORY. A unit
whose bytes are all queued goes to the lowest free lane of its stream; one that would run past INDEX_OFF goes to none and is
damage that waits for the units before it. A lane frees when its unit is finished, whose bytes leave the queues of its stream; the
decoded bytes land, or the cause met is that of the unit. The clear bits clear their counts, and ZERO marks its slot for erasure;
EAST_LANES outside its values is refused. Where it rests on readings and choices of the model, they are those of the assumption
log, entries 11, 27, 28. -/
def Obligations.UnpackerQueuesLanesAndClears : Prop :=
  ∀ (s : State) (port : Fin 4) (west : Bool) (lane : Fin 128) (via : Via) (v : W32),
    (∀ q, q = s.upk.queues.toList.getD port.val ⟨[], [], 0⟩ →
      (q.spilled = [] → exec (.spillReadback port) s = .next s) ∧
      (∀ r rest b, q.spilled = r :: rest → b = decide (2 ≤ port.val) →
        (shelfAt s b r.beat = none → exec (.spillReadback port) s = .next { s with upk := { s.upk with
          queues := vmod s.upk.queues port fun q => { q with spilled := rest } } }) ∧
        (∀ x, shelfAt s b r.beat = some x →
          (∀ a, encUe s b (r.beat.toNat % 2) r.off r.len = some a →
            exec (.spillReadback port) s = .next (damage (noteUe s a none readerUnpacker) b x 7)) ∧
          (encUe s b (r.beat.toNat % 2) r.off r.len = none →
            (65536 < queueFill q + r.len → exec (.spillReadback port) s = .next s) ∧
            (queueFill q + r.len ≤ 65536 →
              (isRaw x.hdr = false → ∃ t, exec (.spillReadback port) s = .next t ∧ t = { s with upk := t.upk } ∧
                (t.upk.queues.toList.getD port.val ⟨[], [], 0⟩).spilled = rest ∧
                (t.upk.queues.toList.getD port.val ⟨[], [], 0⟩).queued = q.queued ++ [r]) ∧
              (isRaw x.hdr = true → ∃ u, u = { s with upk := u.upk } ∧
                (u.upk.queues.toList.getD port.val ⟨[], [], 0⟩).spilled = rest ∧
                (u.upk.queues.toList.getD port.val ⟨[], [], 0⟩).queued = q.queued ∧
                exec (.spillReadback port) s =
                  .next (landBytes (r.len + 1) u b x r.off (payBytes u b x r.off r.len)))))))) ∧
    (∀ x l n, decoding s west = some x → freeLane s west = some l → nextUnit s west x = some n →
      (hdrFormat x.hdr / 16 = 1 → hdrIndexOff x.hdr < x.unitOff + n →
        exec (.laneDispatch west) s = .next (meetBad s west x x.unit (walkCause s west x))) ∧
      ((hdrFormat x.hdr / 16 = 1 → x.unitOff + n ≤ hdrIndexOff x.hdr) →
        (inQueue s west x x.unitOff n = false → exec (.laneDispatch west) s = .next s) ∧
        (inQueue s west x x.unitOff n = true →
          ∃ t, exec (.laneDispatch west) s = .next t ∧ t.mem = s.mem ∧
            t.upk.lanes.toList.getD l none = some ⟨streamOf west, x.beat, x.unit, x.unitOff, n⟩))) ∧
    (freeLane s west = none ∨ decoding s west = none → exec (.laneDispatch west) s = .next s) ∧
    (∀ y b w, s.upk.lanes.toList.getD lane.val none = some y → b = isWest y.stream →
      w = { s with upk := { s.upk with
        lanes := vmod s.upk.lanes lane.val fun _ => none
        queues := Vector.ofFn fun i : Fin 4 =>
          if (2 ≤ i.val) == b then cutRange y.beat y.off y.len s.upk.queues[i] else s.upk.queues[i] } } →
      w.upk.lanes.toList.getD lane.val none = none ∧
      (shelfAt s b y.beat = none → exec (.laneFinish lane) s = .next w) ∧
      (∀ x r, shelfAt s b y.beat = some x →
        r = (if hdrFormat x.hdr / 16 = 1 then decodeBlock x.hdr y.unit (payBytes w b x y.off y.len)
          else decodeGroup x.hdr (payBytes w b x y.off y.len)) →
        (∀ c, r = .error c → exec (.laneFinish lane) s = .next (meetBad w b x y.unit c)) ∧
        (∀ out, r = .ok out → exec (.laneFinish lane) s = .next (finishChecks (landBytes (out.length + 1) w b x
          (y.unit * (if hdrFormat x.hdr / 16 = 1 then 4096 else out.length)) out) b y.beat)))) ∧
    (s.upk.lanes.toList.getD lane.val none = none → exec (.laneFinish lane) s = .next s) ∧
    (mayWrite s via = true → domainOn s 31 = true →
      (16 ≤ bits v 8 7 → bits v 8 7 ≤ 112 → bits v 8 7 % 8 = 0 → ∃ t, exec (.upkCntClr via v) s = .next t ∧
        t = { s with upk := t.upk } ∧ t.upk.spillCnt = 0 ∧ t.upk.dmgCnt = 0 ∧ t.upk.decPeak = 0 ∧
        t.upk.eastLanes = v.extractLsb' 8 7 ∧ t.upk.lanes = s.upk.lanes) ∧
      (bits v 8 7 < 16 → exec (.upkCntClr via v) s = .next { s with upk := { s.upk with err := 1 } }) ∧
      (∃ t, exec (.armZero via v) s = .next t ∧ t = { s with arm := t.arm } ∧ bits v 18 5 ∈ t.arm.zeroDue ∧
        t.arm.slots = s.arm.slots) ∧
      (∃ t, exec (.armErrClear via v) s = .next t ∧ t = { s with arm := t.arm } ∧ t.arm.slots = s.arm.slots ∧
        (bit v 15 = true → t.arm.tag = false ∧ t.arm.tagCnt = 0) ∧
        (bit v 14 = true → t.arm.noKey = false ∧ t.arm.noKeyCnt = 0)))

/-- R45, R366, R371 to R375, R386: training, in a chip whose table is ANCHORED or READY. Step 2 completed sets every lock; power below
−45 dBm or above +15 dBm at step 3 takes the port DOWN with cause 2 or 3; the mean delay of 64 echoes is judged and stored at
step 6. An end that completes a step sends TRAIN with it and waits for the far end: the next step begins once both have
completed it. A port whose sequence state both ends hold returns to UP from step 7 with it, another with both spaces at 0. A
step over its limit takes the port DOWN with the cause, and a DOWN port tries again in IDENT, where its check starts afresh.
Elsewhere these do nothing. Where it rests on readings and choices of the model, they are those of the assumption log,
entry 44. -/
def Obligations.PortsTrainStepByStep : Prop :=
  ∀ (s : State) (port : PortId) (power : Vector (BitVec 8) 8) (cause : Nat), ∀ p q, p = port.val → q = portAt s p →
    (q.state ≠ 2 ∨ q.stepHere = true ∨ tableAnchored s = false → exec (.trainStepDone port power) s = .next s) ∧
    (q.state = 2 → q.stepHere = false → tableAnchored s = true →
      (q.step = 3 → power.toList.any (fun x => decide (x.toInt < -90)) = true →
        ∃ t, exec (.trainStepDone port power) s = .next t ∧ (portAt t p).state = 5 ∧ (portAt t p).cause = 2 ∧
          (portAt t p).step = 3 ∧ (portAt t p).wlLock = 0 ∧ t.mem = s.mem) ∧
      (q.step = 3 → power.toList.any (fun x => decide (x.toInt < -90)) = false →
        power.toList.any (fun x => decide (30 < x.toInt)) = true →
        ∃ t, exec (.trainStepDone port power) s = .next t ∧ (portAt t p).state = 5 ∧ (portAt t p).cause = 3 ∧
          (portAt t p).step = 3 ∧ t.mem = s.mem) ∧
      (q.step = 2 ∨ q.step = 3 ∧ power.toList.all (fun x => decide (-90 ≤ x.toInt ∧ x.toInt ≤ 30)) = true ∨ q.step = 4 ∨
          q.step = 5 ∨ q.step = 6 ∧ q.echoes = 64 ∧ (q.echoSum + 128) / 256 ≤ delayLimit s p →
        ∃ t, exec (.trainStepDone port power) s = .next t ∧ t = { s with ports := t.ports, outs := t.outs } ∧
          Out.word p (.train q.step.toNat) ∈ t.outs ∧ (portAt t p).state = 2 ∧
          (q.step = 2 → (portAt t p).wlLock = 0xFF) ∧ (q.step = 3 → (portAt t p).rxPower = power) ∧
          (q.step = 6 → (portAt t p).delay = BitVec.ofNat 12 ((q.echoSum + 128) / 256)) ∧
          (q.step.toNat ≤ q.peerStep.toNat → (portAt t p).step = q.step + 1 ∧ (portAt t p).stepHere = false) ∧
          (q.peerStep.toNat < q.step.toNat → (portAt t p).step = q.step ∧ (portAt t p).stepHere = true)) ∧
      (q.step = 6 → q.echoes < 64 → exec (.trainStepDone port power) s = .next s) ∧
      (q.step = 6 → 64 ≤ q.echoes → delayLimit s p < (q.echoSum + 128) / 256 →
        ∃ t, exec (.trainStepDone port power) s = .next t ∧ (portAt t p).state = 5 ∧ (portAt t p).cause = 7) ∧
      (q.step = 7 → q.peer = none → exec (.trainStepDone port power) s = .next s) ∧
      (∀ b r v, q.step = 7 → q.peer = some (b, r, v) →
        (q.peerStep.toNat < 7 → ∃ t, exec (.trainStepDone port power) s = .next t ∧
          t = { s with ports := t.ports, outs := t.outs } ∧ (portAt t p).stepHere = true ∧ (portAt t p).state = 2) ∧
        (7 ≤ q.peerStep.toNat → ∃ t, exec (.trainStepDone port power) s = .next t ∧ (portAt t p).state = 3 ∧
          (portAt t p).step = 0 ∧ t.mem = s.mem ∧
          (q.stateValid = true → v = true → (portAt t p).bulk.next = q.bulk.next ∧
            (portAt t p).bulk.expected = q.bulk.expected) ∧
          (q.stateValid = false ∨ v = false → (portAt t p).bulk = .empty ∧ (portAt t p).prio = .empty)))) ∧
    (q.state = 2 → ∃ t, exec (.trainStepTimeout port cause) s = .next t ∧ (portAt t p).state = 5 ∧
      (portAt t p).cause = BitVec.ofNat 4 cause ∧ (portAt t p).step = q.step ∧ t.mem = s.mem) ∧
    (q.state = 1 → q.step = 1 → q.enable = true → ∃ t, exec (.trainStepTimeout port cause) s = .next t ∧
      (portAt t p).state = 5 ∧ (portAt t p).cause = 1 ∧ (portAt t p).step = 1 ∧ t.mem = s.mem) ∧
    (q.state ≠ 1 → q.state ≠ 2 → exec (.trainStepTimeout port cause) s = .next s) ∧
    (q.state = 5 → ∃ t, exec (.downRetry port) s = .next t ∧ t = { s with ports := t.ports, inst := t.inst } ∧
      (portAt t p).state = 1 ∧ (portAt t p).step = 1 ∧ (portAt t p).bulk = q.bulk ∧ (portAt t p).prio = q.prio ∧
      t.inst.agree.toList.getD p 0 = 0) ∧
    (q.state ≠ 5 → exec (.downRetry port) s = .next s)

/-- R368, R372, R374, R386, R388, Table 11-3: control words. PARK parks every lit port that is not looped; any other word takes a
PARKED port to IDENT, where its check starts afresh, and does nothing more. TRAIN tells a port in IDENT or TRAIN the step that the
far end has completed; a port that waits for it goes on. On a port in step 6 of its training a TIMING word is answered with an
ECHO that returns its time and hold, and an ECHO adds one round trip less the hold. IDLE changes nothing of a port that is not
PARKED. CREDIT stores the cumulative count of its virtual channel. RESYNC stores the far end's in-order points, and takes a port
that is UP to RECOVER. Where it rests on readings and choices of the model, they are those of the assumption log, entries 11,
44, 45. -/
def Obligations.ControlWordsAct : Prop :=
  ∀ (s : State) (port : PortId) (time arrival : BitVec 24) (hold : W16) (step freed bulk prio : Nat) (vc : Fin 4) (valid : Bool),
    ∀ p q, p = port.val → q = portAt s p →
    (q.inService = false → q.state = 1 ∨ q.state = 2 ∨ q.state = 3 ∨ q.state = 4 ∨ q.state = 5 →
      ∃ t, exec (.park port) s = .next t ∧ t = { s with ports := t.ports } ∧ (portAt t p).state = 6 ∧
        ∀ r, r ≠ p → portAt t r = portAt s r) ∧
    (q.inService = true ∨ q.state = 0 ∨ q.state = 6 ∨ q.state = 7 →
      ∃ t, exec (.park port) s = .next t ∧ ∀ r, portAt t r = portAt s r) ∧
    (q.state = 6 → ∀ c ∈ [Instr.idle port, .train port step, .timingWord port time hold, .echo port arrival time hold,
        .credit port vc freed, .resync port bulk prio valid, .ack port valid bulk prio, .nak port valid bulk prio,
        .tail port valid freed, .lost port freed],
      exec c s = .next (enterIdent s p id)) ∧
    (portAt (enterIdent s p id) p).state = 1 ∧ (enterIdent s p id).inst.agree.toList.getD p 0 = 0 ∧
    (q.state ≠ 6 → exec (.idle port) s = .next s) ∧
    (q.state ≠ 1 → q.state ≠ 2 → q.state ≠ 6 → exec (.train port step) s = .next s) ∧
    (q.state = 1 ∨ q.state = 2 ∧ q.stepHere = false → exec (.train port step) s =
      .next (modPort s p fun q => { q with peerStep := BitVec.ofNat 4 step })) ∧
    (q.state = 2 → q.stepHere = true → tableAnchored s = true → 2 ≤ q.step.toNat → q.step.toNat ≤ 6 →
      q.step.toNat ≤ step % 16 → ∃ t, exec (.train port step) s = .next t ∧ t = { s with ports := t.ports, outs := t.outs } ∧
        (portAt t p).step = q.step + 1 ∧ (portAt t p).stepHere = false ∧ (portAt t p).state = 2) ∧
    (q.state ≠ 6 → q.state ≠ 2 ∨ q.step ≠ 6 → exec (.timingWord port time hold) s = .next s) ∧
    (q.state ≠ 6 → q.state ≠ 2 → exec (.echo port arrival time hold) s = .next s) ∧
    (q.state = 2 → q.step = 6 →
      exec (.timingWord port time hold) s = .next (s.emit (.word p (.echo time hold))) ∧
      (q.echoes < 64 → exec (.echo port arrival time hold) s = .next (modPort s p fun q => { q with
        echoSum := q.echoSum + ((arrival - time).toNat - hold.toNat), echoes := q.echoes + 1 }))) ∧
    (q.state = 3 ∨ q.state = 4 → ∃ t, exec (.credit port vc freed) s = .next t ∧ t = { s with ports := t.ports } ∧
      (portAt t p).freed.toList.getD vc.val 0 = freed % 65536 ∧ (portAt t p).bulk = q.bulk ∧ (portAt t p).state = q.state) ∧
    (q.state ≠ 3 → q.state ≠ 4 → q.state ≠ 6 → exec (.credit port vc freed) s = .next s) ∧
    (q.state = 2 ∨ q.state = 4 → exec (.resync port bulk prio valid) s =
      .next (modPort s p fun q => { q with peer := some (bulk % 4096, prio % 4096, valid) })) ∧
    (q.state = 3 → (q.recoveries.filter fun m => s.beat.ms.toNat < m.toNat + 100000).length < 3 →
      ∃ t, exec (.resync port bulk prio valid) s = .next t ∧ (portAt t p).state = 4 ∧
        (portAt t p).peer = some (bulk % 4096, prio % 4096, valid) ∧ (portAt t p).bulk = q.bulk ∧ t.mem = s.mem) ∧
    (q.state = 0 ∨ q.state = 1 ∨ q.state = 5 ∨ q.state = 7 → exec (.resync port bulk prio valid) s = .next s)

/-- R381 to R385: an ACK removes exactly the frames that it names from the class's retry buffer; a NAK of frames sent again fewer
than eight times marks them for retransmission and removes none, one of a frame other than a shelf flit sent again eight times
starts a recovery, and a shelf flit sent so often is given up with LOST. Loss of light takes a port from UP to RECOVER; recovery
ends in UP with the frames that the far end lacks to be sent again, and at its limit the port goes DOWN with cause 10, at the
fourth within 100 ms with cause 9. An unacknowledged frame's timer starts a recovery. A TAIL names the next number of its class.
On a port in another state these do nothing more. Where it rests on readings and choices of the model, they are those of the
assumption log, entries 11, 45. -/
def Obligations.RetransmissionAndRecovery : Prop :=
  ∀ (s : State) (port : PortId) (prio : Bool) (first last : Nat), ∀ p q, p = port.val → q = portAt s p →
    (q.state = 3 ∨ q.state = 4 → ∃ t, exec (.ack port prio first last) s = .next t ∧ t = { s with ports := t.ports } ∧
      (∀ r, r ∈ (classOf (portAt t p) prio).retry ↔
        r ∈ (classOf q prio).retry ∧ seqIn r.frame.seq first last = false) ∧
      classOf (portAt t p) (!prio) = classOf q (!prio) ∧ (portAt t p).state = q.state) ∧
    (q.state ≠ 3 → q.state ≠ 4 → q.state ≠ 6 → exec (.ack port prio first last) s = .next s) ∧
    (q.state = 3 → (∀ r ∈ (classOf q prio).retry, r.tries < 8) →
      ∃ t, exec (.nak port prio first last) s = .next t ∧ t = { s with ports := t.ports } ∧
        (classOf (portAt t p) prio).retry = (classOf q prio).retry.map (fun r =>
          if seqIn r.frame.seq first last then { r with again := true } else r) ∧
        classOf (portAt t p) (!prio) = classOf q (!prio)) ∧
    (∀ r ∈ (classOf q prio).retry, q.state = 3 → seqIn r.frame.seq first last = true → r.again = false → 8 ≤ r.tries →
      (isShelf r.frame.body = false → exec (.nak port prio first last) s = .next (enterRecover s p)) ∧
      ((∀ z ∈ (classOf q prio).retry, isShelf z.frame.body = true) → ∃ t, exec (.nak port prio first last) s = .next t ∧
        Out.word p (.lost r.frame.seq) ∈ t.outs ∧ (portAt t p).state = 3 ∧ t.mem = s.mem)) ∧
    (q.state ≠ 3 → q.state ≠ 6 → exec (.nak port prio first last) s = .next s) ∧
    (q.state = 3 → exec (.tailSend port prio) s = .next (s.emit (.word p (.tail prio (classOf q prio).next)))) ∧
    (q.state ≠ 3 → exec (.tailSend port prio) s = .next s) ∧
    (q.state = 3 → (q.recoveries.filter fun m => s.beat.ms.toNat < m.toNat + 100000).length < 3 →
      (∃ t, exec (.lossOfLight port) s = .next t ∧ (portAt t p).state = 4 ∧ (portAt t p).peer = none ∧
        (portAt t p).rxPower = Vector.replicate 8 0x80 ∧ (portAt t p).bulk = q.bulk ∧ t.mem = s.mem) ∧
      (q.bulk.retry.any (timerRuns s p false) = true ∨ q.prio.retry.any (timerRuns s p true) = true →
        ∃ t, exec (.ackTimeout port) s = .next t ∧ (portAt t p).state = 4 ∧ t.mem = s.mem)) ∧
    (q.state = 3 → 3 ≤ (q.recoveries.filter fun m => s.beat.ms.toNat < m.toNat + 100000).length →
      ∃ t, exec (.lossOfLight port) s = .next t ∧ (portAt t p).state = 5 ∧ (portAt t p).cause = 9 ∧ t.mem = s.mem) ∧
    (q.state ≠ 3 → exec (.lossOfLight port) s =
      .next (modPort s p fun q => { q with rxPower := Vector.replicate 8 0x80 })) ∧
    (q.bulk.retry = [] → q.prio.retry = [] → exec (.ackTimeout port) s = .next s) ∧
    (∀ b r v, q.state = 4 → q.peer = some (b, r, v) → ∃ t, exec (.recoveryEnd port) s = .next t ∧
      (portAt t p).state = 3 ∧ (portAt t p).bulk.expected = q.bulk.expected ∧ (portAt t p).bulk.next = q.bulk.next ∧
      (∀ x ∈ (portAt t p).bulk.retry, x.again = true ∧ x.tries = 0 ∧ seqAfter x.frame.seq b < 2048) ∧ t.mem = s.mem) ∧
    (q.state ≠ 4 ∨ q.peer = none → exec (.recoveryEnd port) s = .next s) ∧
    (q.state = 4 → ∃ t, exec (.recoveryTimeout port) s = .next t ∧ (portAt t p).state = 5 ∧ (portAt t p).cause = 10 ∧
      t.mem = s.mem) ∧
    (q.state ≠ 4 → exec (.recoveryTimeout port) s = .next s)

/-- R379, R381, R382, R384, R404: a frame or shelf flit that arrives in order is acknowledged and raises the in-order point by one
where nothing later is held; one already received is acknowledged and changes nothing else. A LOST takes its flit's place. A TAIL
asks with one NAK for the numbers before NEXT that are missing, and for nothing where none is. A frame whose CRC fails, and a control
word whose CRC-8 fails or whose TYPE is reserved, is counted and nothing else; a good control word is no such word. Where it rests
on readings and choices of the model, they are those of the assumption log, entries 11, 43, 45. -/
def Obligations.FramesAreTakenInOrder : Prop :=
  ∀ (s : State) (port : PortId) (f : Frame) (data : List Byte) (wport : Fin 4) (seq next : Nat) (word : W64),
    (∀ p q c prio, p = port.val → q = portAt s p → prio = isPrio f.body → c = classOf q prio → q.state = 3 →
      c.expected < 4096 →
      (c.held = [] → f.seq = c.expected → ∃ t, exec (.hutchForward port f) s = .next t ∧
        (classOf (portAt t p) prio).expected = (c.expected + 1) % 4096 ∧ (classOf (portAt t p) prio).held = [] ∧
        Out.word p (.ack prio f.seq f.seq) ∈ t.outs) ∧
      (c.held = [] → f.seq < 4096 → 2048 ≤ seqAfter f.seq c.expected →
        exec (.hutchForward port f) s = .next (s.emit (.word p (.ack prio f.seq f.seq))))) ∧
    (∀ p q, p = wport.val → q = portAt s p → q.state = 3 → q.bulk.held = [] → q.bulk.expected < 4096 →
      (seq = q.bulk.expected → ∃ t, exec (.shelfFlit wport seq data) s = .next t ∧
        (portAt t p).bulk.expected = (q.bulk.expected + 1) % 4096 ∧ Out.word p (.ack false seq seq) ∈ t.outs) ∧
      (seq = q.bulk.expected → ∃ t, exec (.lost (wport.castLE (by omega)) seq) s = .next t ∧
        (portAt t p).bulk.expected = (q.bulk.expected + 1) % 4096) ∧
      (next = q.bulk.expected → exec (.tail (wport.castLE (by omega)) false next) s = .next s) ∧
      (∀ k, 0 < k → k < 2048 → next = (q.bulk.expected + k) % 4096 → exec (.tail (wport.castLE (by omega)) false next) s =
        .next (s.emit (.word p (.nak false q.bulk.expected ((q.bulk.expected + k - 1) % 4096)))))) ∧
    (∃ t, exec (.frameCrcFailure port) s = .next t ∧ t = { s with ports := t.ports } ∧
      portAt t port.val = { portAt s port.val with framesErr := satInc (portAt s port.val).framesErr } ∧
      ∀ r, r ≠ port.val → portAt t r = portAt s r) ∧
    (ctlOk word = false → ∃ t, exec (.controlWordDiscard ⟨port, word⟩) s = .next t ∧ t = { s with ports := t.ports } ∧
      portAt t port.val = { portAt s port.val with ctrlErr := satInc (portAt s port.val).ctrlErr } ∧
      ∀ r, r ≠ port.val → portAt t r = portAt s r) ∧
    (ctlOk word = true → exec (.controlWordDiscard ⟨port, word⟩) s = .next s)

/-- R368, R371, R373, R375, R396 to R401, Table 11-18: the AFV and HUT registers. ENABLE starts an OFF port in IDENT (in TEST where
MODE asks for it) and is refused with code AXIS on an axis of length 1; clearing it sends PARK and takes the port OFF, but is
refused with code LIVE on a port of the formed partition, as RETRAIN is; a WARN level outside −60 to 0 dBm is refused with code
WARN; RETRAIN of a port in UP, RECOVER or DOWN returns it to IDENT, where its check starts afresh; each write that is taken
clears ATTEMPTS; CNT_CLR clears the port's counters, that of HUT_CTL the Hutch's. TEST mode of an enabled port puts it into TEST,
and leaving it returns the port to IDENT; it is refused with LIVE on a port of the formed partition. A power sample of a port in
UP or RECOVER is stored, and marks the wavelengths below the warning level. Where it rests on readings and choices of the model,
they are those of the assumption log, entries 12, 44, 45. -/
def Obligations.LinkRegistersAct : Prop :=
  ∀ (s : State) (port : PortId) (via : Via) (v : W32) (rx tx : Vector (BitVec 8) 8), ∀ p q, p = port.val → q = portAt s p →
    (mayWrite s via = true → domainOn s (20 + p) = true → -120 ≤ (v.extractLsb' 8 8).toInt → (v.extractLsb' 8 8).toInt ≤ 0 →
      (bit v 0 = true → q.enable = false → axisDead s p = false → admittedPort s p = false → stopped s = false →
        ∃ t, exec (.afvEnable port via v) s = .next t ∧ t = { s with ports := t.ports } ∧ (portAt t p).enable = true ∧
          (portAt t p).state = (if q.mode = 2 then 7 else 1) ∧ (portAt t p).attempts = 0) ∧
      (bit v 0 = true → q.enable = false → axisDead s p = true →
        exec (.afvEnable port via v) s = .next (modPort s p fun q => { q with err := 1 })) ∧
      (bit v 0 = true → q.enable = true → bit v 19 = false → ∃ t, exec (.afvEnable port via v) s = .next t ∧
        t = { s with ports := t.ports } ∧ (portAt t p).attempts = 0 ∧ (portAt t p).state = q.state ∧
        (portAt t p).warnPwr = v.extractLsb' 8 8) ∧
      (bit v 0 = false → q.enable = true → admittedPort s p = false →
        ∃ t, exec (.afvEnable port via v) s = .next t ∧ (portAt t p).state = 0 ∧ (portAt t p).enable = false ∧
          (q.state ≠ 0 → Out.word p .park ∈ t.outs) ∧ t.mem = s.mem) ∧
      (bit v 0 = false → q.enable = true → admittedPort s p = true →
        exec (.afvEnable port via v) s = .next (modPort s p fun q => { q with err := 2 })) ∧
      (bit v 0 = true → q.enable = true → admittedPort s p = true →
        exec (.retrain port via v) s = .next (modPort s p fun q => { q with err := 2 })) ∧
      (bit v 0 = true → q.enable = true → admittedPort s p = false → q.state = 3 ∨ q.state = 4 ∨ q.state = 5 →
        ∃ t, exec (.retrain port via v) s = .next t ∧ t = { s with ports := t.ports, inst := t.inst } ∧
          (portAt t p).state = 1 ∧ (portAt t p).step = 1 ∧ (portAt t p).attempts = 0 ∧ t.inst.agree.toList.getD p 0 = 0) ∧
      (bit v 0 = true → q.enable = true → admittedPort s p = false → q.state ≠ 3 → q.state ≠ 4 → q.state ≠ 5 →
        ∃ t, exec (.retrain port via v) s = .next t ∧ t = { s with ports := t.ports } ∧ (portAt t p).state = q.state ∧
          (portAt t p).attempts = 0) ∧
      (bit v 0 = true → q.enable = true → bit v 19 = false → ∃ t, exec (.afvCntClr port via v) s = .next t ∧
        t = { s with ports := t.ports } ∧ (portAt t p).framesErr = 0 ∧ (portAt t p).ctrlErr = 0 ∧ (portAt t p).retx = 0 ∧
        (portAt t p).lost = 0 ∧ (portAt t p).recov = 0 ∧ (portAt t p).downs = 0 ∧ (portAt t p).state = q.state)) ∧
    (mayWrite s via = true → domainOn s (20 + p) = true → bit v 0 = true → bit v 19 = false → q.enable = true →
      (v.extractLsb' 8 8).toInt < -120 ∨ 0 < (v.extractLsb' 8 8).toInt →
      exec (.afvEnable port via v) s = .next (modPort s p fun q => { q with err := 3 })) ∧
    (mayWrite s via = true → domainOn s (20 + p) = true →
      (admittedPort s p = true → exec (.loopModeWrite port via v) s = .next (modPort s p fun q => { q with err := 2 })) ∧
      (admittedPort s p = false → q.inService = false → q.enable = true → q.state ≠ 7 → bits v 0 2 = 2 →
        ∃ t, exec (.loopModeWrite port via v) s = .next t ∧
          t = { s with ports := t.ports } ∧ (portAt t p).mode = 2 ∧ (portAt t p).state = 7) ∧
      (admittedPort s p = false → q.state = 7 → bits v 0 2 = 0 → ∃ t, exec (.loopModeWrite port via v) s = .next t ∧
        t = { s with ports := t.ports, inst := t.inst } ∧ (portAt t p).mode = 0 ∧ (portAt t p).state = 1)) ∧
    (mayWrite s via = true → domainOn s 30 = true → ∃ t, exec (.hutCntClr via v) s = .next t ∧
      t = { s with hut := t.hut } ∧ t.hut.misroute = 0 ∧ t.hut.discEvt = 0 ∧ t.hut.resCount = 0 ∧ t.hut.seqs = s.hut.seqs) ∧
    (q.state = 3 ∨ q.state = 4 → ∃ t, exec (.rxPowerSample port rx tx) s = .next t ∧ t.mem = s.mem ∧
      (portAt t p).rxPower = rx ∧ (portAt t p).txPower = tx ∧ (portAt t p).state = q.state ∧
      ∀ i : Nat, i < 8 → (bit (portAt t p).wlWarn i = true ↔ (rx.toList.getD i 0x80).toInt < q.warnPwr.toInt)) ∧
    (q.state ≠ 3 → q.state ≠ 4 → exec (.rxPowerSample port rx tx) s = .next s)

/-- R229, R294, R295, R410, R413 to R420: bulk collectives. A started CALL that may join takes the group's next number once its
operand is read; where the group's rings have one member each its collective is finished at once. One whose operand lies in a
sealed slot its context is not bound to faults; one whose group has a collective of its class under way waits. A GRANT for the
next collective is held until it starts. A chunk of the phase in progress from the right neighbour goes to a free engine, or
waits for one; another does nothing. An engine frees when its chunk is done, whose sum or copy goes on, and grants the buffer
again; a residue mismatch of its additions is counted with its engine and group. An ABORT of an unknown group does nothing, one
of a known group aborts the collective it names. The end of a group table's copy makes it current. The clear bits of the Hutch
clear their counts. Where it rests on readings and choices of the model, they are those of the assumption log, entries 11, 48,
49, 50. -/
def Obligations.BulkCollectivesMove : Prop :=
  ∀ (s : State) (core : CoreId) (unit : Fin 4) (src : Coord) (f : CollFrame) (engine : Fin 4) (mismatch again : Bool)
      (b : AbortFrame) (via : Via) (v : W32),
    (∀ x r i td ta tb tc te z, ((coreAt s core.val).units.toList.getD unit.val CUnit.empty).queue = x :: r →
      x.work = .op i td ta tb tc te z →
      (x.started = false ∨ x.coll.isSome = true → exec (.collectiveStart core ⟨unit, mismatch, again⟩) s = .next s) ∧
      (∀ k, x.started = true → x.coll = none → (grpOf i).bind (groupOf s) = some k →
        (classBusy s k.id (isCpri x) = true → exec (.collectiveStart core ⟨unit, mismatch, again⟩) s = .next s) ∧
        (classBusy s k.id (isCpri x) = false →
          (readStep s core.val unit.val x (ownReads i ⟨td, ta, tb, tc, te⟩)).refused = true →
          exec (.collectiveStart core ⟨unit, mismatch, again⟩) s =
            .next (unitFault s core.val unit.val 4 1 x.pc 0)))) ∧
    (∀ x r l d a c e w g da ta, ((coreAt s core.val).units.toList.getD unit.val CUnit.empty).queue = x :: r →
      x.work = .op (.call l) d a c e w g → d = some da → a = some ta → x.started = true → x.coll = none →
      (readStep s core.val unit.val x (ownReads (.call l) ⟨d, a, c, e, w⟩)).refused = false →
      ∀ k, groupOf s l.grp.toNat = some k → k.id = l.grp.toNat → classBusy s k.id false = false →
      groupRings k.single k.members k.order (selfOf s) = [] →
      s.hut.abortsSeen.contains (k.id, (nextSeqs s k.id).1, false) = false →
      ∃ t, exec (.collectiveStart core ⟨unit, mismatch, again⟩) s = .next t ∧ (nextSeqs t k.id).1 = (nextSeqs s k.id).1 + 1 ∧
        ∃ y ∈ t.hut.colls, y.grp = k.id ∧ y.seq = (nextSeqs s k.id).1 ∧ y.finished = true) ∧
    (((coreAt s core.val).units.toList.getD unit.val CUnit.empty).queue = [] →
      exec (.collectiveStart core ⟨unit, mismatch, again⟩) s = .next s) ∧
    (groupOf s f.grp = none → exec (.grant src f) s = .next s) ∧
    (∀ k, groupOf s f.grp = some k → collAt s f.grp f.seq = none → (nextSeqs s f.grp).1 = f.seq →
      s.hut.abortsSeen.contains (f.grp, f.seq, false) = false →
      exec (.grant src f) s = .next { s with hut := { s.hut with grants := s.hut.grants ++ [(src, f)] } }) ∧
    (∀ k c p r, groupOf s f.grp = some k → collAt s f.grp f.seq = some c → c.phases = p :: r →
      (f.phase = p.code → exec (.grant src f) s = .next (runColl (takeGrant s c f) f.grp f.seq)) ∧
      (f.phase ≠ p.code → (∃ z ∈ r, z.code = f.phase) →
        exec (.grant src f) s = .next { s with hut := { s.hut with grants := s.hut.grants ++ [(src, f)] } })) ∧
    (collAt s f.grp f.seq = none → exec (.collChunk src f) s = .next s) ∧
    (∀ c p r, collAt s f.grp f.seq = some c → c.phases = p :: r →
      (f.phase ≠ p.code ∨ src ≠ (if f.minus then p.plus else p.minus) → exec (.collChunk src f) s = .next s) ∧
      (f.phase = p.code → dirOn p f.minus = true → f.typ = (if p.reduce then 0 else 1) →
        src = (if f.minus then p.plus else p.minus) →
        (s.hut.waiting = [] → s.hut.engines.toList.getD 0 none = none → exec (.collChunk src f) s =
          .next { s with hut := { s.hut with engines := vmod s.hut.engines 0 fun _ => some (src, f) } }) ∧
        ((∀ i < 4, (s.hut.engines.toList.getD i none).isSome = true) → exec (.collChunk src f) s =
          .next { s with hut := { s.hut with waiting := s.hut.waiting ++ [(src, f)] } }))) ∧
    (s.hut.engines.toList.getD engine.val none = none → exec (.engineDone engine mismatch again) s = .next s) ∧
    (∀ w, s.hut.engines.toList.getD engine.val none = some w → collAt s w.2.grp w.2.seq = none → s.hut.waiting = [] →
      exec (.engineDone engine mismatch again) s =
        .next { s with hut := { s.hut with engines := vmod s.hut.engines engine.val fun _ => none } }) ∧
    (∀ w c p r, s.hut.engines.toList.getD engine.val none = some w → collAt s w.2.grp w.2.seq = some c →
      c.phases = p :: r → w.2.phase = p.code →
      (∀ u, u = workChunk { s with hut := { s.hut with
          engines := vmod s.hut.engines engine.val fun _ => none } } c p w.2 false →
        exec (.engineDone engine false again) s = .next (feedEngines 4 (runColl
          (sendGrant (modColl u w.2.grp w.2.seq fun c => c.modWay w.2.minus fun z =>
            { z with got := z.got + 1, gave := z.gave + 1 }) c p w.2.minus ((c.way w.2.minus).gave + 1)) w.2.grp w.2.seq))) ∧
      (p.reduce = true → ∃ t, exec (.engineDone engine true again) s = .next t ∧ t.hut.resFlag = true ∧
        t.hut.resEngine = BitVec.ofNat 2 engine.val ∧ t.hut.resGroup = BitVec.ofNat 10 w.2.grp)) ∧
    (groupOf s b.grp = none → exec (.abortFrame src b) s = .next s) ∧
    (∀ k, groupOf s b.grp = some k → exec (.abortFrame src b) s = .next (abortColl s k b.seq b.prio b.cause)) ∧
    (∀ l, s.hut.copying = some l → ∃ t, exec .groupTableCopyEnd s = .next t ∧ t = { s with hut := t.hut } ∧
      t.hut.groups = l ∧ t.hut.copying = none ∧ t.hut.loaded = true) ∧
    (mayWrite s via = true → domainOn s 30 = true →
      (∃ t, exec (.abortClr via v) s = .next t ∧ t = { s with hut := t.hut } ∧ t.hut.aborts = 0 ∧ t.hut.seqs = s.hut.seqs) ∧
      (bits (regValue s .pf 0x40010) 0 8 = bits v 0 8 → ∃ t, exec (.ovfClr via v) s = .next t ∧ t = { s with hut := t.hut } ∧
        t.hut.ovfCnt = 0 ∧ t.hut.evtOvf = bit v 8))

/-- R294, R295, R413, R424, R425, R429, Table 12-7: CPRI. The first UP of a child for a number within reach opens the group's
combining entry, one further ahead does nothing; a further one of the same operation is combined with what the entry holds,
wrapping as 64-bit integers for SUM, and a residue mismatch of a SUM that stays counts and poisons the value; one of another
operation aborts it. A DOWN from the parent for an entry that this chip has joined goes to the children and ends the CPRI with
its value, one of another operation aborts it; frames of a group to which the chip does not belong, and of a chip that is not the
child or the parent, do nothing. Where it rests on readings and choices of the model, they are those of the assumption log,
entries 11, 50. -/
def Obligations.PriorityCollectivesCombine : Prop :=
  ∀ (s : State) (src : Coord) (f : CpriFrame) (mismatch again : Bool),
    (groupOf s f.grp = none → exec (.up src ⟨f, mismatch, again⟩) s = .next s ∧ exec (.down src f) s = .next s) ∧
    (∀ e, groupOf s f.grp = some e →
      ((treeChildren e.single e.members e.order (selfOf s)).contains src = false ∨
        s.hut.abortsSeen.contains (f.grp, f.seq, true) = true → exec (.up src ⟨f, mismatch, again⟩) s = .next s) ∧
      ((treeChildren e.single e.members e.order (selfOf s)).contains src = true →
        s.hut.abortsSeen.contains (f.grp, f.seq, true) = false →
        (combineSlot s f.grp f.seq = none →
          (2 ≤ (f.seq - (nextSeqs s f.grp).2).toNat → exec (.up src ⟨f, mismatch, again⟩) s = .next s) ∧
          ((f.seq - (nextSeqs s f.grp).2).toNat ≤ 1 →
            exec (.up src ⟨f, mismatch, again⟩) s = .next { s with hut := { s.hut with
              combines := ⟨f.grp, f.seq, f.op, f.value, 1, f.poison, f.ovf, none, false⟩ ::
                s.hut.combines.filter fun x => !(x.grp == f.grp && x.seq == f.seq) } })) ∧
        (∀ b, combineSlot s f.grp f.seq = some b →
          (b.seq ≠ f.seq ∨ b.op ≠ f.op → exec (.up src ⟨f, mismatch, again⟩) s = .next (abortColl s e b.seq true 1)) ∧
          (b.seq = f.seq → b.op = f.op →
            exec (.up src ⟨f, false, again⟩) s =
              .next (combineStep s e { b.add f.value f.poison f.ovf with heard := b.heard + 1 }) ∧
            (b.joined = none → b.heard ≠ 0 →
              (∃ t y, exec (.up src ⟨f, false, again⟩) s = .next t ∧ t = { s with hut := t.hut } ∧ y ∈ t.hut.combines ∧
                y.grp = b.grp ∧ y.seq = f.seq ∧ y.heard = b.heard + 1 ∧ y.poison = (b.poison || f.poison) ∧
                (f.op = 1 → y.value = b.value + f.value) ∧
                (f.op = 2 → y.value.toInt = min b.value.toInt f.value.toInt) ∧
                (f.op = 3 → y.value.toInt = max b.value.toInt f.value.toInt)) ∧
              (f.op = 1 → s.hut.resRetry = false ∨ again = true →
                ∃ t y, exec (.up src ⟨f, true, again⟩) s = .next t ∧ t.hut.resFlag = true ∧
                  t.hut.resGroup = BitVec.ofNat 10 b.grp ∧ y ∈ t.hut.combines ∧ y.seq = f.seq ∧ y.poison = true ∧
                  y.heard = b.heard + 1)))))) ∧
    (∀ e, groupOf s f.grp = some e →
      (treeParent e.single e.members e.order (selfOf s) ≠ some src → exec (.down src f) s = .next s) ∧
      (treeParent e.single e.members e.order (selfOf s) = some src →
        (s.hut.combines.find? (fun b => b.grp == f.grp && b.seq == f.seq) = none → exec (.down src f) s = .next s) ∧
        (∀ b, s.hut.combines.find? (fun b => b.grp == f.grp && b.seq == f.seq) = some b →
          (b.joined = none → exec (.down src f) s = .next s) ∧
          (∀ n u, b.joined = some (n, u) →
            (b.op ≠ f.op → exec (.down src f) s = .next (abortColl s e b.seq true 1)) ∧
            (b.op = f.op → exec (.down src f) s = .next (cpriFinish
              (sendAll s (treeChildren e.single e.members e.order (selfOf s)) (.down f)) n u f.grp f.seq f.value f.poison
                f.ovf))))))

/-- R442 to R444, R446, Table 13-2, Table 13-22: OWN_CLAIM. BIND binds the path of a PF or I3C write to its agent, or unbinds it
with agent 0, and needs no ownership; a KBT message names its own agent, and BIND in one does nothing. The other commands are refused with code NOPART outside a formed partition and UNBOUND
on an unbound path, changing nothing else; one of a bound path waits for its ORDER and sends a REQ that names the path's
agent: kind 1 CLAIM, 2 RENEW, 3 RELEASE, 4 HANDOVER with its target, 5 FORCE. After 10 ms without an ORDER the path reads
NOROOT. Where it rests on readings and choices of the model, they are those of the assumption log, entries 11, 14, 51, 52,
79, 83. -/
def Obligations.OwnershipCommandsBindOrAsk : Prop :=
  ∀ (s : State) (via : Via) (v : W32), ∀ a : Agent, a = v.setWidth 24 →
    (via = .pf → exec (.bind via v) s =
      .next { s with own := { s.own with boundPf := if a = 0 then none else some a } }) ∧
    (via = .i3c → exec (.bind via v) s =
      .next { s with own := { s.own with boundI3c := if a = 0 then none else some a } }) ∧
    (∀ id g, via = .kbt id g → exec (.bind via v) s = .next s) ∧
    (formed s = false → ∀ c ∈ [Instr.claim via v, .renew via v, .release via v, .handover via v, .force via v],
      exec c s = .next (setOwnErr s via 8)) ∧
    (formed s = true → agentOf s via = none →
      ∀ c ∈ [Instr.claim via v, .renew via v, .release via v, .handover via v, .force via v],
      exec c s = .next (setOwnErr s via 2)) ∧
    (formed s = true → ∀ g, agentOf s via = some g →
      ∀ c ∈ [(Instr.claim via v, 1, (0 : W64)), (.renew via v, 2, 0), (.release via v, 3, 0),
        (.handover via v, 4, a.setWidth 64), (.force via v, 5, 0)],
      exec c.1 s = .next (reqIn { s with own := { s.own with
          awaiting := s.own.awaiting ++ [⟨pathOf via, c.2.1, g⟩] } }
        ⟨c.2.1, bits v 24 4, 0, g, c.2.2, s.beat.ms, selfOf s⟩)) ∧
    (∀ path, (s.own.awaiting.any (fun x => x.path == path) = true →
        exec (.norootTimeout path) s = .next (setOwnErrOf s path 10)) ∧
      (s.own.awaiting.any (fun x => x.path == path) = false → exec (.norootTimeout path) s = .next s))

/-- R444, R445, R448 to R452, R459, R463, R561: the service root decides REQs once formation is confirmed, and keeps them until then;
another chip sends them to its parent, and a chip of no partition does nothing with them. A CLAIM of an OPEN partition opens an
election of 1 ms; a second one within it replaces the claimant's first; one of the owner renews, one while another agent owns or
after the window is refused with TAKEN. A RENEW by the owner restarts the lease from the start of the effective beat, unless the
lease ends before that; by another agent it is refused. RELEASE opens the partition; HANDOVER passes it with a fresh lease. A
FORCE on an owned partition stands with its time, a second one is refused; a PRESS within 30 s of it passes the partition to the
forcing agent. A command of a change is accepted from the owner in the states that Table 13-8 gives it, and a COMMIT with a beat
that lies far enough ahead, within 1 s. Every accepted decision is numbered in sequence with its effective beat. Where it rests
on readings and choices of the model, they are those of the assumption log, entries 22, 23, 51, 52. -/
def Obligations.ServiceRootDecides : Prop :=
  ∀ (s : State) (f : ReqFrame),
    (formed s = false → exec (.req f) s = .next s) ∧
    (formed s = true → isRoot s = false → ∀ p, s.own.parent = some p → exec (.req f) s = .next (sendPrio s p (.req f))) ∧
    (formed s = true → isRoot s = true → s.glb.confirmed = false → exec (.req f) s = .next { s with own := { s.own with
      root := { s.own.root with waiting := s.own.root.waiting ++ [f] } } }) ∧
    (formed s = true → isRoot s = true → s.glb.confirmed = true → ∀ r mine e decided, r = s.own.root →
      mine = (hasOwner r.state && r.owner == f.agent) → e = effectiveBeat s →
      decided = (fun (r : RootView) kind agent arg =>
        issueOrder { s with own := { s.own with root := r } } ⟨kind, 0, 0, agent, arg, e, f.entry⟩) →
      (f.kind = 1 →
        (r.state = 1 → exec (.req f) s = .next (decided
          { r with state := 2, claims := [(f.agent, f.pref)], electEnd := s.beat.ms + 1000 } 12 f.agent 0)) ∧
        (r.state = 2 →
          (s.beat.ms.toNat ≤ r.electEnd.toNat → exec (.req f) s = .next { s with own := { s.own with
            root := { r with claims := (r.claims.filter fun c => c.1 != f.agent) ++ [(f.agent, f.pref)] } } }) ∧
          (r.electEnd.toNat < s.beat.ms.toNat → exec (.req f) s = .next (refuseReq s f 3))) ∧
        (hasOwner r.state = true → r.owner ≠ f.agent → exec (.req f) s = .next (refuseReq s f 3))) ∧
      (f.kind = 2 ∨ f.kind = 1 → mine = true →
        (startOfBeat s e.toNat ≤ r.leaseX.toNat → exec (.req f) s =
          .next (decided { r with leaseX := leaseFrom s e } 2 f.agent 0)) ∧
        (r.leaseX.toNat < startOfBeat s e.toNat → exec (.req f) s = .next (refuseReq s f 4))) ∧
      (f.kind = 2 ∨ f.kind = 3 ∨ f.kind = 4 → mine = false → exec (.req f) s = .next (refuseReq s f 5)) ∧
      (f.kind = 3 → mine = true → exec (.req f) s = .next (decided
        { r with state := 1, owner := 0, stage := if r.stage = 4 then 4 else 0 } 3 f.agent 0)) ∧
      (f.kind = 4 → mine = true → ∀ a : Agent, a = f.arg.setWidth 24 →
        (a = 0 ∨ a = r.owner ∨ a = 0xFFFFFF → exec (.req f) s = .next (refuseReq s f 9)) ∧
        (a ≠ 0 → a ≠ r.owner → a ≠ 0xFFFFFF → exec (.req f) s = .next (decided
          { r with owner := a, leaseX := leaseFrom s e, claims := [], stage := if r.stage = 4 then 4 else 0 } 4 a 0))) ∧
      (f.kind = 5 →
        (hasOwner r.state = false → exec (.req f) s = .next (refuseReq s f 7)) ∧
        (hasOwner r.state = true → r.force.isSome = true → exec (.req f) s = .next (refuseReq s f 6)) ∧
        (hasOwner r.state = true → r.force = none → exec (.req f) s = .next (decided
          { r with state := 4, force := some (f.agent, s.beat.ms) } 5 f.agent s.beat.ms))) ∧
      (f.kind = 6 →
        (r.force = none → exec (.req f) s = .next s) ∧
        (∀ a m, r.force = some (a, m) →
          (m.toNat + 30000000 < f.ms.toNat → exec (.req f) s = .next s) ∧
          (f.ms.toNat ≤ m.toNat + 30000000 → exec (.req f) s = .next (decided
            { r with state := 3, owner := a, leaseX := leaseFrom s e, claims := [], force := none, stage := (if r.stage = 4 then 4 else 0) } 6 a 0)))) ∧
      (∀ c ∈ [(7, [0], 1), (8, [1], 2), (10, [1, 2, 3], (0 : BitVec 4))], f.kind = c.1 →
        (mine = true → r.stage.toNat ∈ c.2.1 →
          exec (.req f) s = .next (decided { r with stage := c.2.2 } f.kind f.agent f.arg)) ∧
        (mine = false ∨ r.stage.toNat ∉ c.2.1 → exec (.req f) s = .next (refuseReq s f 1))) ∧
      (f.kind = 9 → ∀ b, b = startOfBeat s f.arg.toNat →
        (r.stage ≠ 3 → exec (.req f) s = .next (refuseReq s f 1)) ∧
        (r.stage = 3 → b < s.beat.ms.toNat + s.own.svcLat.toNat → exec (.req f) s = .next (refuseReq s f 2)) ∧
        (r.stage = 3 → s.beat.ms.toNat + s.own.svcLat.toNat ≤ b → s.beat.ms.toNat + 1000000 < b →
          exec (.req f) s = .next (refuseReq s f 3)) ∧
        (r.stage = 3 → s.beat.ms.toNat + s.own.svcLat.toNat ≤ b → b ≤ s.beat.ms.toNat + 1000000 →
          exec (.req f) s = .next (if mine then decided { r with stage := 4 } 9 f.agent f.arg else refuseReq s f 1)))) ∧
    (∀ o : OrderFrame, (issueOrder s o).own.orders = s.own.orders ++ [{ o with seq := s.own.root.seq }] ∧
      (issueOrder s o).own.root.seq = s.own.root.seq + 1 ∧ (issueOrder s o).mem = s.mem)

/-- R444 to R450, R452, R459, R473: ORDERs, elections and leases. The next ORDER in sequence is kept and sent to the children; a
duplicate does nothing; a refusal ends at its entry chip. An ORDER due takes effect and leaves the queue, one not yet due waits:
ELECT and HANDOVER give the partition its owner with a lease, RENEW restarts the lease, RELEASE leaves it OPEN, ELECTING and
FORCE change its state, OPEN, COMMIT and ABORT move the change. The end of an election elects the claim of highest preference,
then of lowest identity. A lease that has run out leaves the partition OPEN, an unexpired one stands; a force without a press
lapses after 30 s. Where it rests on readings and choices of the model, they are those of the assumption log, entries 11, 22,
51, 52. -/
def Obligations.OrdersElectionsAndLeases : Prop :=
  ∀ (s : State) (f : OrderFrame),
    (formed s = false → exec (.order f) s = .next s) ∧
    (formed s = true →
    (isRefusal f = false → f.seq = s.own.nextSeq → s.own.orders = [] →
      ∃ t, exec (.order f) s = .next t ∧ t = { sendAll s s.own.children (.order f) with own := t.own } ∧
        t.own.orders = [f] ∧ t.own.nextSeq = f.seq + 1 ∧ t.own.state = s.own.state ∧ t.own.owner = s.own.owner ∧ t.mem = s.mem) ∧
    (isRefusal f = false → 2 ^ 15 ≤ (f.seq - s.own.nextSeq).toNat → exec (.order f) s = .next s) ∧
    (isRefusal f = true → (f.entry = selfOf s → exec (.order f) s = .next (refusalIn s f)) ∧
      (f.entry ≠ selfOf s → exec (.order f) s = .next s)) ∧
    (s.own.orders = [f] → s.own.nextSeq = f.seq + 1 → s.beat.count.toNat < f.effective.toNat →
      exec .orderApply s = .next s) ∧
    (s.own.orders = [f] → s.own.nextSeq = f.seq + 1 → s.beat.count = f.effective →
      (f.kind = 11 ∨ f.kind = 4 → s.own.stage.commitAt = none → ∃ t, exec .orderApply s = .next t ∧ t.own.orders = [] ∧
        (f.kind = 11 → t.own.state = 3) ∧ t.own.owner = f.agent ∧ t.own.leaseX = some (leaseFrom s f.effective)) ∧
      (f.kind = 2 → hasOwner s.own.state = true → ∃ t, exec .orderApply s = .next t ∧ t.own.orders = [] ∧
        t.own.state = s.own.state ∧ t.own.owner = s.own.owner ∧ t.own.leaseX = some (leaseFrom s f.effective)) ∧
      (f.kind = 3 → ∃ t, exec .orderApply s = .next t ∧ t.own.orders = [] ∧ t.own.state = 1 ∧ t.own.owner = 0 ∧
        t.own.leaseX = none) ∧
      (f.kind = 5 → ∃ t, exec .orderApply s = .next t ∧ t.own.orders = [] ∧ t.own.force = some (f.agent, f.arg) ∧
        t.own.state = (if s.own.state = 3 then 4 else s.own.state) ∧ t.own.owner = s.own.owner) ∧
      (f.kind = 7 → ∃ t, exec .orderApply s = .next t ∧ t.own.orders = [] ∧ t.own.stage.state = 1 ∧
        t.own.state = s.own.state) ∧
      (f.kind = 9 → s.own.stage.state = 3 → ∃ t, exec .orderApply s = .next t ∧ t.own.orders = [] ∧
        t.own.stage.state = 4 ∧ t.own.stage.commitAt = some f.arg) ∧
      (f.kind = 10 → s.own.stage.state ≠ 4 → ∃ t, exec .orderApply s = .next t ∧ t.own.orders = [] ∧
        t.own.stage.state = 0 ∧ t.own.stage.aborted = true) ∧
      (f.kind = 12 → ∃ t, exec .orderApply s = .next t ∧ t.own.orders = [] ∧ t.own.state = 2)) ∧
    (s.own.orders = [] → exec .orderApply s = .next s) ∧
    (isRoot s = false ∨ s.own.root.state ≠ 2 ∨ s.beat.ms.toNat < s.own.root.electEnd.toNat →
      exec .electionClose s = .next s) ∧
    (s.own.leaseX = none → exec .leaseExpiry s = .next s) ∧
    (s.own.force = none → s.own.root.force = none → exec .forceLapse s = .next s) ∧
    (∀ a p, isRoot s = true → s.own.root.state = 2 → s.own.root.electEnd.toNat ≤ s.beat.ms.toNat →
      (a, p) ∈ s.own.root.claims →
      (∀ c ∈ s.own.root.claims, c = (a, p) ∨ c.2 < p ∨ (c.2 = p ∧ a.toNat < c.1.toNat)) →
      ∃ t, exec .electionClose s = .next t ∧ t.own.root.state = 3 ∧ t.own.root.owner = a ∧ t.own.root.claims = [] ∧
        t.own.root.leaseX = leaseFrom s (effectiveBeat s) ∧
        ∃ o ∈ t.own.orders, o.kind = 11 ∧ o.agent = a ∧ o.effective = effectiveBeat s) ∧
    (∀ x, hasOwner s.own.state = true → s.own.leaseX = some x →
      (x.toNat ≤ s.beat.startMs.toNat → ∃ t, exec .leaseExpiry s = .next t ∧ t.own.state = 1 ∧ t.own.owner = 0 ∧
        t.own.leaseX = none ∧ t.mem = s.mem) ∧
      (s.beat.startMs.toNat < x.toNat → exec .leaseExpiry s = .next s)) ∧
    (∀ a mf, s.own.force = some (a, mf) → mf.toNat + 30000000 ≤ s.beat.ms.toNat → s.own.state = 4 →
      ∃ t, exec .forceLapse s = .next t ∧ t = { s with own := t.own } ∧ t.own.force = none ∧ t.own.state = 3 ∧
        t.own.owner = s.own.owner))

/-- R453, R454: the claim button and the seal plug. A hold of the button is counted once and, on slot 0 of a formed partition's
tray, sends PRESS to the root; releasing it readies the next. Removing the plug, once seen for 50 ms, opens the seal window
for 600 s and counts the opening; inserting it or the window's end closes the window. Nothing outside the seal changes. Where
it rests on readings and choices of the model, they are those of the assumption log, entries 11, 53. -/
def Obligations.ButtonAndSealPlug : Prop :=
  ∀ s : State,
    (s.own.sealing.button = false → exec .claimNAssert s = .next { s with own := { s.own with
      sealing := { s.own.sealing with button := true, counted := false } } }) ∧
    (s.own.sealing.button = true → exec .claimNAssert s = .next s) ∧
    (s.own.sealing.button = false → exec .press s = .next s) ∧
    (s.own.sealing.plug = false → exec .sealPlugRemove s = .next s) ∧
    exec .claimNRelease s = .next { s with own := { s.own with
      sealing := { s.own.sealing with button := false, counted := false } } } ∧
    (s.own.sealing.button = true → s.own.sealing.counted = false →
      (formed s = false ∨ slotZero s = false → exec .press s = .next { s with own := { s.own with
        sealing := { s.own.sealing with counted := true, presses := satInc s.own.sealing.presses } } }) ∧
      (formed s = true → slotZero s = true → exec .press s = .next (reqIn { s with own := { s.own with
        sealing := { s.own.sealing with counted := true, presses := satInc s.own.sealing.presses } } }
        ⟨6, 0, 0, 0, 0, s.beat.ms, selfOf s⟩))) ∧
    (s.own.sealing.counted = true → exec .press s = .next s) ∧
    (s.own.sealing.plug = true → exec .sealPlugRemove s = .next { s with own := { s.own with
      sealing := { s.own.sealing with plug := false, removing := true } } }) ∧
    (s.own.sealing.removing = true → ∃ t, exec .sealWindowOpen s = .next t ∧ t = { s with own := t.own } ∧
      t.own.sealing.windowOpen = true ∧ t.own.sealing.openings = satInc s.own.sealing.openings ∧
      t.own.sealing.closeAt = s.clock + 1080000000000 ∧ t.own.state = s.own.state) ∧
    (s.own.sealing.removing = false → exec .sealWindowOpen s = .next s) ∧
    exec .sealWindowClose s = .next { s with own := { s.own with
      sealing := { s.own.sealing with windowOpen := false } } } ∧
    exec .sealPlugInsert s = .next { s with own := { s.own with
      sealing := { s.own.sealing with plug := true, removing := false, windowOpen := false } } }

/-- R458, R459, R463, R464, Tables 13-8 and 13-21: STAGE_CTL. On an accepted path a write that moves its staged fields IMG_MB or BUMP
stages them in OPEN and is refused whole in another state, with code STATE in IDLE and LOCKED later. Then OPEN in IDLE, CHECK in
OPEN, COMMIT in CHECKED with the value of STAGE_COMMIT and ABORT in OPEN, CHECKING or CHECKED ask the root; in any other state
the command is refused with code STATE, and outside a formed partition with NOPART; a refused one changes nothing else. A read of
STAGE_COMMIT_LO latches the high word for its path. R53, R115, R460, R462, R463, R574: staged fields, votes and the commit. A
staged field written in OPEN is staged and nothing of it acts; in CHECKED it is refused and sets LOCKED. The end of the local
check counts this chip's vote; a VOTE of another change is not counted. Once this chip and all its children have voted, the vote
goes to the parent, and at the root becomes the decision. A COMMITTING change applies at its beat and not before: it returns the
unit to IDLE, counts the change, and the staged period and scale are then in force; a DISSOLVE leaves the partition. Where it
rests on readings and choices of the model, they are those of the assumption log, entries 11, 15, 54, 55, 79. -/
def Obligations.StagedChanges : Prop :=
  (∀ (s : State) (via : Via) (v : W32) (moves : Bool), mayWrite s via = true →
    moves = (bits (regValue s .pf 0x20020) 16 9 != bits v 16 9 || bit (regValue s .pf 0x20020) 4 != bit v 4) →
    (moves = true → s.own.stage.state ≠ 1 → ∀ c ∈ [Instr.openChange via v, .check via v, .commit via v, .abort via v],
      exec c s = .next { s with own := { s.own with stage := { s.own.stage with
        err := if s.own.stage.state = 0 then 1 else 4 } } }) ∧
    (moves = false ∨ s.own.stage.state = 1 → ∀ u, u = (if moves then { s with own := { s.own with stage := { s.own.stage with
        staged := { s.own.stage.staged with imgMb := some (v.extractLsb' 16 9), bump := some (bit v 4) } } } } else s) →
      (formed s = false → ∀ c ∈ [Instr.openChange via v, .check via v, .commit via v, .abort via v],
        exec c s = .next { u with own := { u.own with stage := { u.own.stage with err := 5 } } }) ∧
      (formed s = true → ∀ c ∈ [(Instr.openChange via v, 7, [0]), (.check via v, 8, [1]), (.commit via v, 9, [3]),
          (.abort via v, 10, [1, 2, 3])],
        (s.own.stage.state.toNat ∈ c.2.2 → exec c.1 s = .next (reqIn { u with own := { u.own with
            awaiting := u.own.awaiting ++ [⟨pathOf via, c.2.1, (agentOf s via).getD 0⟩] } }
          ⟨c.2.1, 0, 0, (agentOf s via).getD 0, if c.2.1 = 9 then s.own.stage.b else 0, s.beat.ms, selfOf s⟩)) ∧
        (s.own.stage.state.toNat ∉ c.2.2 →
          exec c.1 s = .next { u with own := { u.own with stage := { u.own.stage with err := 1 } } }))) ∧
    (∃ t, exec (.stageCommitLoRead via) s = .next t ∧ t.own = s.own ∧ t.mem = s.mem ∧
      t.outs = .readData via 0x20028 (regValue s via 0x20028) :: s.outs ∧
      (latchOf t via).commitHi = some (s.own.stage.b.extractLsb' 32 32))) ∧
  (∀ (s : State) (via : Via) (v : W32) (f : VoteFrame),
    (mayWrite s via = true → formed s = true → (v.extractLsb' 8 8 : Byte) ≠ nextM1 s →
      (s.own.stage.state = 1 → minM1 s ≤ (v.extractLsb' 8 8).toNat →
        ∃ t, exec (.stagedWrite 0x10004 via v) s = .next t ∧ t = { s with own := t.own } ∧
          t.own.stage.staged.nextM1 = some (v.extractLsb' 8 8) ∧ t.own.state = s.own.state) ∧
      (s.own.stage.state = 3 → ∃ t, exec (.stagedWrite 0x10004 via v) s = .next t ∧ t.own.stage.err = 4 ∧ t.beat.err = 4 ∧
        t.own.stage.staged = s.own.stage.staged ∧ t.beat.curM1 = s.beat.curM1 ∧ t.mem = s.mem)) ∧
    (formed s = false ∨ f.change ≠ s.own.stage.change.setWidth 16 → exec (.vote f) s = .next s) ∧
    (formed s = true → f.change = s.own.stage.change.setWidth 16 → exec (.vote f) s = .next (settleVote { s with own := { s.own with
      stage := { s.own.stage with vote := (addVote s.own.stage f).vote, votes := s.own.stage.votes + 1 } } })) ∧
    (s.own.stage.checking = true → s.own.stage.state = 2 → ∃ o, exec .localCheckEnd s = .next (settleVote { s with own := { s.own with
        stage := { s.own.stage with checking := false, vote := (addVote s.own.stage o).vote } } }) ∧
      o.change = s.own.stage.change.setWidth 16 ∧ o.cause = s.own.stage.localCause.toNat ∧
      o.fails = (if s.own.stage.localCause = 0 then 0 else 1) ∧ o.dmin = o.dmax) ∧
    (s.own.stage.checking = false ∨ s.own.stage.state ≠ 2 → exec .localCheckEnd s = .next s) ∧
    (s.own.stage.checking = true ∨ s.own.stage.state ≠ 2 ∨ s.own.stage.votes < s.own.children.length → settleVote s = s) ∧
    (∀ o u, s.own.stage.checking = false → s.own.stage.state = 2 → s.own.children.length ≤ s.own.stage.votes →
      s.own.stage.vote = some o → u = { s with own := { s.own with stage := { s.own.stage with vote := none, votes := 0 } } } →
      (∀ p, s.own.parent = some p → settleVote s = sendPrio u p (.vote o)) ∧
      (s.own.parent = none → isRoot s = true → s.own.root.stage = 2 → settleVote s = issueOrder
        { u with own := { u.own with root := { u.own.root with stage := if voteCause o = 0 then 3 else 1 } } }
        ⟨8, voteCause o, 0, s.own.root.owner, 0, effectiveBeat u, selfOf s⟩)) ∧
    (∀ b, s.own.stage.commitAt = some b → s.own.stage.state = 4 →
      (s.beat.count.toNat < b.toNat → exec .stagedCommitApply s = .next s) ∧
      (b.toNat ≤ s.beat.count.toNat → ∀ g m x, g = s.own.stage.staged → g.nextM1 = some m → g.scale = some x →
        g.image = none → g.groups = none → g.version = none → g.restart = none → g.reform = none → epochAfter s g = s.own.epoch →
        ∃ t, exec .stagedCommitApply s = .next t ∧ t.beat.curM1 = m ∧ t.beat.nextM1 = m ∧ t.hut.scale = x ∧
          t.own.stage.state = 0 ∧ t.own.stage.change = s.own.stage.change + 1 ∧ t.own.stage.commitAt = none ∧
          t.own.owner = s.own.owner ∧ t.mem = s.mem ∧ t.cores = s.cores ∧ t.frames = s.frames) ∧
      (b.toNat ≤ s.beat.count.toNat → s.own.stage.staged.reform = some 2 →
        ∃ t, exec .stagedCommitApply s = .next t ∧ t.own.valid = false ∧ t.own.state = 0 ∧ t.glb.state = 4)) ∧
    (s.own.stage.commitAt = none ∨ s.own.stage.state ≠ 4 → exec .stagedCommitApply s = .next s))

/-- R478, R479, R480, R505, R603: the PCIe windows. A PF BAR2 read within frames of the management core returns the stored bytes
and a VF's within its context's frames those; an access outside its rights writes nothing and a read of it returns ones; a
write within rights writes nothing outside its bytes. VF FLR clears the VF's page; PF FLR unbinds the PF's path and disables
its queue. A queue's ENABLE starts it afresh; HEAD within the records waiting is stored; a failed write of a record disables
its queue. Where it rests on readings and choices of the model, they are those of the assumption log, entries 56, 61. -/
def Obligations.HostWindowsResetsAndQueues : Prop :=
  ∀ (s : State) (vf : Ctx) (addr len : Nat) (bs : List Byte) (v : W32),
    (s.ue = [] → s.ce = [] → s.wrg.enable = false → (∀ q, 16 ≤ q → q < 20 → domainOn s q = true) →
      (hostReadOk s none addr len = true → exec (.pfBar2Access addr len none) s = .next { s with
        draw := s.draw + len, outs := .completion ((List.range len).map fun i => readByte s.mem (addr + i)) :: s.outs }) ∧
      (hostReadOk s (some vf.val) addr len = true → exec (.vfBar2Access vf addr len none) s = .next { s with
        draw := s.draw + len, outs := .completion ((List.range len).map fun i => readByte s.mem (addr + i)) :: s.outs }) ∧
      (hostWriteOk s (some vf.val) addr bs.length = true → Memory.wf s.mem = true →
        ∃ t, exec (.vfBar2Access vf addr len (some bs)) s = .next t ∧
          ∀ a, a < addr ∨ addr + bs.length ≤ a → readByte t.mem a = readByte s.mem a)) ∧
    (hostReadOk s none addr len = false → ∃ t, exec (.pfBar2Access addr len none) s = .next t ∧
      t.outs.head? = some (.completion (List.replicate len 0xFF)) ∧ t.mem = s.mem) ∧
    (mayWrite s .pf = true → hostWriteOk s none addr bs.length = false →
      ∃ t, exec (.pfBar2Access addr len (some bs)) s = .next t ∧ t.mem = s.mem) ∧
    (mayWrite s .pf = false → exec (.pfBar2Access addr len (some bs)) s = .next (setOwnErr s .pf 1)) ∧
    (∃ t, exec (.vfFlr vf) s = .next t ∧ t = { s with hst := t.hst } ∧
      t.hst.vfs.toList.getD vf.val Vf.reset =
        { Vf.reset with evtPosted := (s.hst.vfs.toList.getD vf.val Vf.reset).evtPosted } ∧
      ∀ r ∈ t.hst.requests, r.pcie = true → r.ctx ≠ vf) ∧
    (∃ t, exec .pfFlr s = .next t ∧ t.own.boundPf = none ∧ t.hst.pfQueue.enable = false ∧ t.mem = s.mem ∧
      t.own.owner = s.own.owner ∧ ∀ r ∈ t.hst.requests, r.pcie = false) ∧
    (mayWrite s .pf = true → s.hst.pfQueue.enable = false → s.hst.pfQueue.lost = 0 →
      ∃ t, exec (.evtQueueEnable none v) s = .next t ∧ t = { s with hst := t.hst } ∧ t.hst.pfQueue.enable = true ∧
        t.hst.pfQueue.head = 0 ∧ t.hst.pfQueue.tail = 0 ∧ t.hst.pfQueue.dropped = 0) ∧
    (mayWrite s .pf = true → s.hst.pfQueue.enable = true → s.hst.pfQueue.lost = 0 → bit v 31 = true →
      s.hst.pfQueue.head.toNat ≤ bits v 0 16 → bits v 0 16 ≤ s.hst.pfQueue.tail.toNat →
      s.hst.pfQueue.tail.toNat < queueLen s.hst.pfQueue →
      ∃ t, exec (.evtQHeadWrite none v) s = .next t ∧ t = { s with hst := t.hst } ∧
        t.hst.pfQueue.head.toNat = bits v 0 16 ∧ t.hst.pfQueue.tail = s.hst.pfQueue.tail) ∧
    (∃ t, exec (.eventWriteFail none) s = .next t ∧ t.hst.pfQueue.enable = false ∧ t.outs = .aer :: s.outs ∧ t.mem = s.mem)

/-- R486, R487: the CCCs of the I3C target. ENTDAA gives a target without an address the one assigned, answering with its
provisioned ID, BCR and DCR; SETNEWDA changes an address held; RSTDAA takes it away; ENEC and DISEC switch in-band interrupts;
SETMWL and SETMRL store their lengths; GETBCR, GETDCR, GETMWL, GETMRL and GETPID return 0E, 00 and the values stored, most
significant byte first; a target without an address answers none of them. Nothing but the I3C target changes. R443, R488,
Table 14-7: messages of the I3C target that has an address. LBW of 1 to 256 bytes inside the buffer writes the load buffer,
with STATUS OK, and is refused with READONLY where the path may not write; LBR makes its bytes ready; CSRR makes a register's
value ready, little-endian, and answers LENGTH for a count and ADDRESS for an unaligned address; STAT makes the status of the
last write ready, an undefined opcode OPCODE. A private read returns what is ready with its STATUS. CSRW writes a register,
and is refused with LENGTH or ADDRESS. Where it rests on readings and choices of the model, they are those of the assumption
log, entries 11, 58, 60. -/
def Obligations.I3cCommandsAndMessages : Prop :=
  (∀ (s : State) (addr : BitVec 7) (len : W16),
    ∀ i3c, i3c = (fun f => ({ s with hst := { s.hst with i3c := f s.hst.i3c } } : State)) →
    (s.hst.i3c.valid = false → ∃ t, exec (.entdaa addr) s = .next t ∧ t.hst.i3c.valid = true ∧ t.hst.i3c.da = addr ∧
      t.outs = .i3c (provisionedId s ++ [0x0E, 0x00]) :: s.outs ∧ t.mem = s.mem ∧ t.own = s.own) ∧
    (s.hst.i3c.valid = true → exec (.entdaa addr) s = .next s ∧
      exec (.setnewda addr) s = .next (i3c fun x => { x with da := addr })) ∧
    exec .rstdaa s = .next (i3c fun x => { x with valid := false, da := 0 }) ∧
    exec .enec s = .next (i3c fun x => { x with ibiEn := true }) ∧
    exec .disec s = .next (i3c fun x => { x with ibiEn := false }) ∧
    exec (.setmwl len) s = .next (i3c fun x => { x with mwl := len }) ∧
    exec (.setmrl len) s = .next (i3c fun x => { x with mrl := len }) ∧
    (s.hst.i3c.valid = true →
      exec .getbcr s = .next (s.emit (.i3c [0x0E])) ∧ exec .getdcr s = .next (s.emit (.i3c [0x00])) ∧
      exec .getpid s = .next (s.emit (.i3c (provisionedId s))) ∧
      exec .getmwl s = .next (s.emit (.i3c [s.hst.i3c.mwl.extractLsb' 8 8, s.hst.i3c.mwl.setWidth 8])) ∧
      exec .getmrl s = .next (s.emit (.i3c [s.hst.i3c.mrl.extractLsb' 8 8, s.hst.i3c.mrl.setWidth 8])) ∧
      ∃ x y, exec .getstatus s = .next ({ s with draw := s.draw + 2 }.emit (.i3c [x, y]))) ∧
    (s.hst.i3c.valid = false → exec .getbcr s = .next s ∧ exec .getdcr s = .next s ∧ exec .getpid s = .next s ∧
      ∃ t, exec .hotJoin s = .next t ∧ t.hst.i3c.hjPend = true ∧ t.outs = .hotJoin :: s.outs ∧ t.mem = s.mem)) ∧
  (∀ (s : State) (off addr len : Nat) (data : List Byte) (n : Byte) (v : W32), s.hst.i3c.valid = true →
    (data ≠ [] → data.length ≤ 256 → off + data.length ≤ 0x80040 →
      (mayWrite s .i3c = true → ∃ t, exec (.lbw off data) s = .next t ∧ t.mem = s.mem ∧
        t.hst.loadBuf = writeBytes s.hst.loadBuf off data ∧ t.hst.i3c.status = 0 ∧ t.own = s.own) ∧
      (mayWrite s .i3c = false → ∃ t, exec (.lbw off data) s = .next t ∧ t.hst.loadBuf = s.hst.loadBuf ∧
        t.hst.i3c.status = 1 ∧ t.own.errI3c = 1)) ∧
    (mayWrite s .pf = true → off + data.length ≤ 0x80040 → exec (.loadBufferWrite off data) s =
      .next { s with hst := { s.hst with loadBuf := writeBytes s.hst.loadBuf off data } }) ∧
    (n ≠ 0 → off + n.toNat ≤ 0x100000 → ∃ t, exec (.lbr off n) s = .next t ∧ t.hst.i3c.pendingRead = lbRead s off n.toNat ∧
      t.hst.i3c.pendingStatus = 0 ∧ t.mem = s.mem) ∧
    (addr % 4 = 0 → addr < 0x200000 → ∃ t, exec (.csrr addr 0) s = .next t ∧
      t.hst.i3c.pendingRead = leBytes 4 (readReg s .i3c addr).2.toNat ∧ t.hst.i3c.pendingStatus = 0 ∧ t.mem = s.mem) ∧
    (addr % 4 ≠ 0 → ∃ t, exec (.csrr addr 0) s = .next t ∧ t.hst.i3c.pendingRead = [] ∧ t.hst.i3c.pendingStatus = 3) ∧
    (len ≠ 0 → ∃ t, exec (.csrr addr len) s = .next t ∧ t.hst.i3c.pendingRead = [] ∧ t.hst.i3c.pendingStatus = 4) ∧
    (∃ t, exec .stat s = .next t ∧ t.hst.i3c.status = s.hst.i3c.writeStatus ∧ t.hst.i3c.pendingRead = [] ∧ t.mem = s.mem) ∧
    (∃ t, exec .privateMessageOpcode s = .next t ∧ t.hst.i3c.status = 5 ∧ t.hst.i3c.pendingRead = [] ∧ t.mem = s.mem) ∧
    (∃ t, exec .privateRead s = .next t ∧ t.hst.i3c.pendingRead = [] ∧ t.mem = s.mem ∧
      (s.hst.i3c.pendingRead ≠ [] → t.outs = .i3c (s.hst.i3c.pendingRead ++ [s.hst.i3c.pendingStatus]) :: s.outs) ∧
      (s.hst.i3c.pendingRead = [] → t.outs = .i3c [s.hst.i3c.status] :: s.outs)) ∧
    (addr % 4 = 0 → addr < 0x200000 → writeRefused s .i3c addr = false → addr ≠ 0x20008 →
      exec (.csrw addr v 4) s = .next (i3cWrote (registerWrite s .i3c addr v) 0)) ∧
    (len ≠ 4 → exec (.csrw addr v len) s = .next (i3cWrote s 4)) ∧
    (addr % 4 ≠ 0 → exec (.csrw addr v 4) s = .next (i3cWrote s 3)))

/-- R484, R485, R489, R490, R508: Ethernet and IEEE 1588. ENABLE and RELOAD take the network record of the load buffer into use,
or are refused with code RECORD where it is not acceptable; CNT_CLR clears the drop counts. ARP, neighbour discovery and
echoes to the chip's own addresses are answered; an undecodable frame is counted. A PTP slave goes from listening through an
Announce and a Delay_Resp; LOCKED rises with the sixteenth offset in a row of at most 100 ns and falls above 1 µs or without a
Sync. Where it rests on readings and choices of the model, they are those of the assumption log, entries 11, 60. -/
def Obligations.EthernetAndPtpAnswer : Prop :=
  ∀ (s : State) (via : Via) (v : W32) (domain : Byte) (offset : Int) (a4 : W32) (a6 : BitVec 128) (data : List Byte) (up : Bool),
    (mayWrite s via = true →
      (∀ r, readNet s = some r → ∃ t, exec (.ethEnable via v) s = .next t ∧ t = { s with hst := t.hst } ∧
        t.hst.ethEnable = true ∧ t.hst.net = some r ∧ t.hst.kbtEn = bit v 11) ∧
      (readNet s = none → exec (.ethEnable via v) s = .next { s with hst := { s.hst with ethErr := 1 } } ∧
        exec (.ethReload via v) s = .next { s with hst := { s.hst with ethErr := 1 } }) ∧
      (∀ r, readNet s = some r → bit v 0 = true → ∃ t, exec (.ethReload via v) s = .next t ∧ t = { s with hst := t.hst } ∧
        t.hst.net = some r ∧ t.hst.ethEnable = true) ∧
      (bit v 0 = false → bit v 1 = false → ∃ t, exec (.ethCntClr via v) s = .next t ∧ t = { s with hst := t.hst } ∧
        t.hst.kbtDrop = 0 ∧ t.hst.rxDrop = 0 ∧ t.hst.fecUe = 0 ∧ t.hst.ethEnable = false)) ∧
    (∀ r, s.hst.net = some r → s.hst.ethEnable = true →
      (r.ipv4On = true → r.ipv4 = a4 →
        exec (.arp a4 data) s = .next (s.emit (.eth 0 (beBytes 6 s.glb.fuses.mac.toNat ++ beBytes 4 a4.toNat ++ data))) ∧
        exec (.icmpEcho a4 data) s = .next (s.emit (.eth 1 data))) ∧
      (r.ipv4 ≠ a4 → exec (.arp a4 data) s = .next s) ∧
      (r.ipv6On = true → r.ipv6 = a6 →
        exec (.neighbourDiscovery a6) s =
          .next (s.emit (.eth 2 (beBytes 16 a6.toNat ++ beBytes 6 s.glb.fuses.mac.toNat))) ∧
        exec (.icmpv6Echo a6 data) s = .next (s.emit (.eth 3 data))) ∧
      exec .ethFrameDrop s = .next { s with hst := { s.hst with rxDrop := satInc s.hst.rxDrop } } ∧
      exec .kbtMessageDropped s = .next { s with hst := { s.hst with kbtDrop := satInc s.hst.kbtDrop } } ∧
      exec (.ethLinkChange up) s = .next { s with hst := { s.hst with link := up, fecLock := up } } ∧
      (r.ptpDomain = domain →
        (s.hst.ptpState = 1 → exec (.ptpAnnounce domain) s = .next { s with hst := { s.hst with ptpState := 2 } }) ∧
        (s.hst.ptpState = 2 → exec (.ptpDelayResp domain) s = .next { s with hst := { s.hst with ptpState := 3 } }) ∧
        (s.hst.ptpState ≠ 0 → offset.natAbs ≤ 100 → s.hst.ptpRun = 15 →
          ∃ t, exec (.ptpSync domain false offset) s = .next t ∧ t.hst.ptpLocked = true ∧ t.hst.ptpRun = 16 ∧
            t.hst.ptpOffset.toInt = offset ∧ t.mem = s.mem) ∧
        (s.hst.ptpState ≠ 0 → s.hst.ptpTwoStep = true → 1000 < offset.natAbs →
          ∃ t, exec (.ptpFollowUp domain offset) s = .next t ∧ t = { s with hst := t.hst } ∧ t.hst.ptpLocked = false ∧
            t.hst.ptpRun = 0 ∧ t.hst.ptpTwoStep = false))) ∧
    exec .ptpSyncTimeout s = .next { s with hst := { s.hst with ptpLocked := false, ptpRun := 0 } }

/-- R491 to R494: KBT. With KBT on, a message in order on a known session, with nothing held and no acknowledgement due, acts and
raises the next SEQ by one: CSR_READ answers the register's value, IDENT_REQ the identity record, CSR_WRITE writes the
register on the session's path, WRITE writes the cupboard within its rights, REQUEST hands its request in and READ is answered
in DATA messages. One that is a duplicate is acknowledged again and changes no register; with KBT off none does anything. An
ACK releases what precedes it. R493: KBT timers. A session with messages unacknowledged sends them all again while fewer than
eight tries have been made, and is abandoned at the ninth; one with messages received since its last ACK sends one at the
timer. A session without either does nothing. Where it rests on readings and choices of the model, they are those of the
assumption log, entries 11, 57. -/
def Obligations.KbtMessagesAndTimers : Prop :=
  (∀ (s : State) (m : KbtMsg) (x : Session),
    (kbtOn s = false → ∀ c ∈ [Instr.identReq m, .csrWrite m, .csrRead m, .write m, .read m, .request m, .kbtAck m, .kbtNak m],
      exec c s = .next s) ∧
    (kbtOn s = true → sessionOf s m.hdr.session = some x → ∀ u, u = kbtTouch s x m.hdr →
      (m.hdr.seq = x.nextRx → x.held = [] → x.sinceAck < 15 → ∀ w, w = modSession u m.hdr.session (fun y => { y with
          nextRx := y.nextRx + 1, sinceAck := y.sinceAck + 1 }) →
        exec (.identReq m) s = .next (kbtTell w m.hdr.session kbtIdent m.hdr.ctx 0 0 (identity w)) ∧
        (csrAddr m.hdr.addr = true →
          exec (.csrRead m) s = .next (kbtTell (readReg w (.kbt m.hdr.session m.hdr.agent) m.hdr.addr.toNat).1 m.hdr.session
            kbtCsrData m.hdr.ctx m.hdr.addr (readReg w (.kbt m.hdr.session m.hdr.agent) m.hdr.addr.toNat).2 []) ∧
          (writeRefused w (.kbt m.hdr.session m.hdr.agent) m.hdr.addr.toNat = false →
            exec (.csrWrite m) s =
              .next (registerWrite w (.kbt m.hdr.session m.hdr.agent) m.hdr.addr.toNat m.hdr.arg))) ∧
        (m.hdr.addr.toNat % 8 = 0 → m.payload.length % 8 = 0 → m.hdr.len.toNat = m.payload.length →
          mayWrite w (.kbt m.hdr.session m.hdr.agent) = true → m.hdr.ctx = 0xFF →
          hostWriteOk w none m.hdr.addr.toNat m.payload.length = true →
          exec (.write m) s = .next (hostWrite w m.hdr.addr.toNat m.payload)) ∧
        (8 ≤ m.payload.length → m.hdr.len.toNat = m.payload.length → m.hdr.ctx.toNat < 16 →
          ∃ t r, exec (.request m) s = .next t ∧ t.hst.requests = s.hst.requests ++ [r] ∧ r.ctx.val = m.hdr.ctx.toNat ∧
            r.pcie = false ∧ r.payload = m.payload.drop 8 ∧ t.mem = s.mem) ∧
        (m.hdr.addr.toNat % 8 = 0 → m.hdr.len.toNat = 64 → m.hdr.ctx = 0xFF → hostReadOk w none m.hdr.addr.toNat 64 = true →
          exec (.read m) s = .next (kbtSend (hostRead w m.hdr.addr.toNat 64).1 m.hdr.session kbtData m.hdr.ctx m.hdr.addr 0
            (hostRead w m.hdr.addr.toNat 64).2))) ∧
      (2 ^ 31 ≤ (m.hdr.seq - x.nextRx).toNat → exec (.csrWrite m) s = .next (kbtSendAck u m.hdr.session)) ∧
      exec (.kbtAck m) s = .next (kbtRelease u m.hdr.session (m.hdr.arg + 1)) ∧
      exec (.kbtNak m) s = .next (kbtRetransmit (kbtRelease u m.hdr.session m.hdr.arg) m.hdr.session))) ∧
  (∀ (s : State) (id : W32) (x : Session), sessionOf s id = some x →
    (x.unacked ≠ [] → s.hst.link = true → x.tries < 8 → ∃ t, exec (.kbtRetransmitTimeout id) s = .next t ∧
      (∀ m ∈ x.unacked, Out.kbt m ∈ t.outs) ∧ t.mem = s.mem ∧ t.own = s.own ∧
      ∃ y, sessionOf t id = some y ∧ y.tries = x.tries + 1 ∧ y.unacked = x.unacked) ∧
    (x.unacked ≠ [] → s.hst.link = true → 8 ≤ x.tries → ∃ t, exec (.kbtRetransmitTimeout id) s = .next t ∧
      sessionOf t id = none ∧ t.mem = s.mem) ∧
    (x.unacked = [] → exec (.kbtRetransmitTimeout id) s = .next s) ∧
    (x.sinceAck = 0 → exec (.kbtAckTimer id) s = .next s) ∧
    (x.sinceAck ≠ 0 → ∃ t m y, exec (.kbtAckTimer id) s = .next t ∧ t.outs = .kbt m :: s.outs ∧ m.typ = kbtAck ∧
      m.hdr.arg = x.nextRx - 1 ∧ m.hdr.session = x.id ∧ sessionOf t id = some y ∧ y.sinceAck = 0 ∧ t.mem = s.mem))

/-- R496 to R503, Tables 14-15 and 14-16: intake queues. ENABLE is refused with code RANGE for a depth or mark out of range and
LIVE for a change of an enabled queue's place. A doorbell of a context that exists submits the window's bytes and reads
pending, and one while pending is only counted. A request is decided: refused and counted with its reason where the queue is
off, admitted into its slot, raising W, otherwise. A reply pass with nothing consumed answers nothing. A window write stays in
the VF's window. Where it rests on readings and choices of the model, they are those of the assumption log, entries 11, 59,
62. -/
def Obligations.IntakeQueuesDecideRequests : Prop :=
  ∀ (s : State) (ctx : Ctx) (via : Via) (v : W32) (off : Nat) (data : List Byte) (r : IntakeReq) (rest : List IntakeReq),
    ∀ i f, i = intakeAt s ctx.val → f = s.hst.vfs.toList.getD ctx.val Vf.reset →
    (mayWrite s via = true → s.hst.vsel.toNat = ctx.val →
      (i.enable = false → bits v 15 8 = 0 → exec (.intakeEnable ctx via v) s =
        .next { s with hst := { s.hst with intakeErr := 2 } }) ∧
      (i.enable = true → v.extractLsb' 15 8 ≠ i.depth → exec (.intakeEnable ctx via v) s =
        .next { s with hst := { s.hst with intakeErr := 1 } }) ∧
      (i.enable = false → bits v 15 8 ≠ 0 → bits v 7 8 ≠ 0 → bits v 7 8 ≤ bits v 15 8 → bits v 23 9 ≤ 383 →
        exec (.intakeEnable ctx via v) s = .next (intakeStart s ctx.val { i with
          baseMb := v.extractLsb' 23 9, depth := v.extractLsb' 15 8, hwm := v.extractLsb' 7 8, slot := v.extractLsb' 5 2,
          hold := bit v 4 }))) ∧
    (ctxExists s ctx.val = true →
      (f.result ≠ 7 → ∃ t q, exec (.intakeDoor ctx v) s = .next t ∧ t = { s with hst := t.hst } ∧
        (t.hst.vfs.toList.getD ctx.val Vf.reset).result = 7 ∧ t.hst.requests = s.hst.requests ++ [q] ∧
        q.ctx = ctx ∧ q.reqId = f.intakeId ∧ q.payload = readBytes f.window 0 (bits v 0 17)) ∧
      (f.result = 7 → ∃ t, exec (.intakeDoor ctx v) s = .next t ∧ t = { s with hst := t.hst } ∧
        t.hst.requests = s.hst.requests ∧ (t.hst.vfs.toList.getD ctx.val Vf.reset).dropped = satInc f.dropped) ∧
      (0x10000 ≤ off → ∃ t, exec (.intakeWindowWrite ctx off data) s = .next t ∧ t = { s with hst := t.hst } ∧
        (t.hst.vfs.toList.getD ctx.val Vf.reset).window = writeBytes f.window (off - 0x10000) (data.take (0x20000 - off)))) ∧
    (s.hst.requests = r :: rest → r.pcie = true →
      ((intakeAt s r.ctx.val).enable = false → ∃ t, exec .intakeDecision s = .next t ∧ t = { s with hst := t.hst } ∧
        t.hst.requests = rest ∧ (intakeAt t r.ctx.val).refused = satInc (intakeAt s r.ctx.val).refused ∧
        (t.hst.vfs.toList.getD r.ctx.val Vf.reset).result = 1) ∧
      (∀ j, j = intakeAt s r.ctx.val → ctxExists s r.ctx.val = true → j.enable = true → j.hold = false →
        r.payload.length + 64 ≤ slotBytes j → (j.w - consumedNow s j).toNat < j.hwm.toNat → j.hwm.toNat ≤ j.depth.toNat →
        ∃ t, exec .intakeDecision s = .next t ∧ t.hst.requests = rest ∧ (intakeAt t r.ctx.val).w = j.w + 1 ∧
          (t.hst.vfs.toList.getD r.ctx.val Vf.reset).result = 0)) ∧
    (s.hst.requests = [] → exec .intakeDecision s = .next s) ∧
    (i.enable = true → i.consumed = consumedNow s i → (i.w - consumedNow s i).toNat ≤ i.depth.toNat →
      exec (.intakeReply ctx) s = .next s) ∧
    (i.enable = true → (i.w - consumedNow s i).toNat ≤ i.depth.toNat → consumedNow s i = i.consumed + 1 →
      (i.w - i.consumed).toNat ≠ 0 → ∃ t, exec (.intakeReply ctx) s = .next t ∧ t.mem = s.mem ∧
        (intakeAt t ctx.val).consumed = i.consumed + 1)

/-- R511 to R517, R541: power domains. A request that nothing refuses is stored and the sequencer works toward it; a running
core's domain may not go off (code HALTED) and a change then stores nothing. The end of a power-up of a core's domain
switches it on, with its droop control at reset. A supply that leaves its window takes an on core's domain off at once, marks it and clears its request. A cap in
range is stored, and out of range refused with code RANGE. Where it rests on readings and choices of the model, they are those
of the assumption log, entries 11, 63. -/
def Obligations.DomainsSwitchInOrder : Prop :=
  ∀ (s : State) (via : Via) (v : W32) (core : CoreId) (domain : Fin 36),
    (mayWrite s via = true →
      (reqRefusal s { s.pwr with req := v } = none → exec (.domainRequestWrite false via v) s =
        .next (sequence { s with pwr := { s.pwr with req := v } })) ∧
      (reqRefusal s { s.pwr with telReq := bit v 0 } = none → exec (.domainRequestWrite true via v) s =
        .next (sequence { s with pwr := { s.pwr with telReq := bit v 0 } })) ∧
      (bit s.pwr.req 0 = true → bit v 0 = false → bit s.pwr.heldOff 0 = false → (coreAt s 0).state ≠ 0 →
        exec (.domainRequestWrite false via v) s = .next { s with pwr := { s.pwr with err := 1, errDom := 0 } }) ∧
      (100 ≤ bits v 18 10 → bits v 18 10 ≤ 400 → ∃ t, exec (.pwrCapWrite via v) s = .next t ∧ t = { s with pwr := t.pwr } ∧
        t.pwr.cap.toNat = bits v 18 10 ∧ t.pwr.evtCap = bit v 17 ∧ t.pwr.ceil = s.pwr.ceil) ∧
      (400 < bits v 18 10 → exec (.pwrCapWrite via v) s = .next { s with pwr := { s.pwr with capErr := 5 } })) ∧
    (s.pwr.busy = none → exec .domainSwitchDone s = .next s) ∧
    (∀ d, s.pwr.busy = some (d, true) → d < 16 → ∃ t, exec .domainSwitchDone s = .next t ∧
      (∀ p, p = { s.pwr with busy := none, on := setBit s.pwr.on d true } → nextSwitch p = none →
        domainOn t d = true ∧ t.pwr.busy = none ∧ t.pwr.droop.toList.getD d Droop.reset = Droop.reset)) ∧
    (domain.val < 16 → domainOn s domain.val = true → (∀ x ∈ s.pwr.busy, x.1 ≠ domain.val) →
      ∃ t, exec (.supplyFault domain) s = .next t ∧ domainOn t domain.val = false ∧ t.pwr.fault = true ∧
        t.pwr.faultDom.toNat = domain.val ∧ bit t.pwr.req domain.val = false) ∧
    (domainOn s domain.val = false → (∀ x ∈ s.pwr.busy, x.1 ≠ domain.val) → exec (.supplyFault domain) s = .next s) ∧
    (domainOn s core.val = true → domainOn s 32 = true → s.pwr.loopEn = true → s.pwr.gateOpen = true →
      ∀ d, d = s.pwr.droop.toList.getD core.val Droop.reset → 8 * (s.pwr.release.toNat + 1) ≤ d.release → d.level.toNat < 8 →
      ∃ t, exec (.droopStepUp core) s = .next t ∧ t = { s with pwr := t.pwr } ∧
        (t.pwr.droop.toList.getD core.val Droop.reset).level.toNat = d.level.toNat + 1 ∧
        (t.pwr.droop.toList.getD core.val Droop.reset).release = 0)

/-- R524 to R532, R544: telemetry. In continuous mode a conversion counts its channel and, where the channel is selected and due,
queues one entry; outside that mode it does nothing. A range step moves an autoranging channel by one. Calibration is marked;
START asks for a software conversion in power-down and RECAL clears the marks of the slices in continuous mode. FLUSH empties
the queue; a read of its head takes one entry, or returns 0x8000_0000. R533 to R537: the slow converter and MAINS_REF. An edge
records its period; four periods in range within 1 % of one another lock, one out of range or 50 ms without an edge loses the
lock. A window that ends queues its four entries where there is room, counts itself in the energy accounts, leaves the ceiling
where no cap is set and, where the total exceeds the cap, lowers it by one step but never below 1; it raises it by one step at the
second window in a row below 95 % of the cap. It writes nothing but the energy table. Where it rests on readings and choices of the
model, they are those of the assumption log, entries 11, 64, 65. -/
def Obligations.TelemetryWindowsAndMains : Prop :=
  (∀ (s : State) (via : Via) (v : W32) (ch : Fin 20) (range : Fin 4) (slice : Fin 8) (code : BitVec 10) (clip : Bool)
      (codes : List (BitVec 10 × Bool)),
    (domainOn s 32 = true →
      (s.tel.mode ≠ 1 → exec (.fastConversion ch slice code clip false) s = .next s) ∧
      (s.tel.mode = 1 → bit s.tel.sel ch.val = true → s.tel.qdiv = 0 → s.tel.queue.length < 512 →
        ∃ t e, exec (.fastConversion ch slice code clip false) s = .next t ∧ t.tel.queue = s.tel.queue ++ [e] ∧
          bits e.word0 25 5 = ch.val ∧ bits e.word1 0 24 = code.toNat ∧ t.mem = s.mem ∧ t.cores = s.cores) ∧
      (s.tel.mode = 1 → bit s.tel.sel ch.val = true → s.tel.qdiv = 0 → 512 ≤ s.tel.queue.length →
        ∃ t, exec (.fastConversion ch slice code clip false) s = .next t ∧ t.tel.queue = s.tel.queue ∧ t.tel.ovf = true ∧
          t.tel.dropped = satInc s.tel.dropped) ∧
      (∀ r up, r = s.tel.ranges.toList.getD range.val Range.reset → s.tel.mode = 1 → r.due = some up → r.auto = true →
        ∃ t, exec (.rangeStep range) s = .next t ∧ t = { s with tel := t.tel } ∧
          (t.tel.ranges.toList.getD range.val Range.reset).cur = (if up then r.cur + 1 else r.cur - 1) ∧
          (t.tel.ranges.toList.getD range.val Range.reset).held = 0) ∧
      (s.tel.mode = 1 → exec .calibrationConverged s = .next { s with tel := { s.tel with conv := true, convSeen := true } }) ∧
      (s.tel.soft = false → exec (.softConversion codes) s = .next s) ∧
      (s.tel.soft = true → ∃ t, exec (.softConversion codes) s = .next t ∧ t = { s with tel := t.tel } ∧
        t.tel.soft = false ∧ t.tel.lpActing = s.tel.lp) ∧
      (s.tel.queue = [] → (latchOf s via).telHi = none → exec (.telQHeadRead via) s =
        .next (s.emit (.readData via 0xA0008 0x80000000))) ∧
      (∀ e r, s.tel.queue = e :: r → (latchOf s via).telHi = none → ∃ t, exec (.telQHeadRead via) s = .next t ∧
        t.tel.queue = r ∧ t.outs = .readData via 0xA0008 e.word0 :: s.outs ∧ (latchOf t via).telHi = some e.word1) ∧
      (mayWrite s via = true →
        (bits v 26 2 = 2 → s.pwr.loopEn = false → s.tel.soft = false → ∃ t, exec (.start via v) s = .next t ∧
          t = { s with tel := t.tel } ∧ t.tel.soft = true ∧ t.tel.mode = 2 ∧ t.tel.sel = v.setWidth 20) ∧
        (bits v 26 2 = 1 → exec (.start via v) s = .next { s with tel := { s.tel with err := 3 } }) ∧
        (s.tel.mode = 1 → exec (.recal via v) s = .next { s with tel := { s.tel with conv := false, bad := 0 } }) ∧
        (s.tel.mode ≠ 1 → exec (.recal via v) s = .next { s with tel := { s.tel with err := 3 } }) ∧
        (∃ t, exec (.flush via v) s = .next t ∧ t.tel.queue = [] ∧ (latchOf t via).telHi = none ∧ t.mem = s.mem)))) ∧
  (∀ (s : State) (p : Nat) (w : SlowWindow), domainOn s 32 = true →
    (151500 ≤ p → p ≤ 222200 → ∃ t, exec (.mainsRefEdge p) s = .next t ∧ t = { s with tel := t.tel } ∧
      t.tel.period = BitVec.ofNat 24 p ∧ t.tel.periods = (p :: s.tel.periods).take 4 ∧
      (s.tel.periods.take 3 = [p, p, p] → t.tel.locked = true)) ∧
    (p < 151500 ∨ 222200 < p → s.tel.locked = true → ∃ t, exec (.mainsRefEdge p) s = .next t ∧ t.tel.locked = false ∧
      t.tel.lost = true ∧ t.tel.periods = [] ∧ t.mem = s.mem) ∧
    (s.tel.locked = true → ∃ t, exec .mainsLostTimeout s = .next t ∧ t.tel.locked = false ∧ t.tel.lost = true ∧
      t.mem = s.mem) ∧
    (s.tel.locked = false → exec .mainsLostTimeout s = .next s) ∧
    (s.tel.en = true → s.tel.accMb = 0x1FF → s.tel.queue.length ≤ 508 → ∃ t, exec (.slowWindowEnd w) s = .next t ∧
      t.tel.energy.windows = s.tel.energy.windows + 1 ∧ t.tel.queue.length = s.tel.queue.length + 4 ∧ t.mem = s.mem ∧
      t.cores = s.cores ∧ (s.pwr.cap = 0 → t.pwr.ceil = s.pwr.ceil) ∧ (1 ≤ s.pwr.ceil.toNat → 1 ≤ t.pwr.ceil.toNat) ∧
      ∀ cap num den, cap = s.pwr.cap.toNat → cap ≠ 0 → (num, den) = (List.range 4).foldl (fun a r =>
          (a.1 * (railPower s w r).2 + (railPower s w r).1 * a.2, a.2 * (railPower s w r).2)) (0, 1) →
        (1000 * cap * den < num → t.pwr.ceil = BitVec.ofNat 4 (max 1 (s.pwr.ceil.toNat - 1))) ∧
        (num ≤ 1000 * cap * den → num < 950 * cap * den → 1 ≤ s.pwr.below →
          t.pwr.ceil = BitVec.ofNat 4 (min 8 (s.pwr.ceil.toNat + 1))) ∧
        (num ≤ 1000 * cap * den → 950 * cap * den ≤ num ∨ s.pwr.below = 0 → t.pwr.ceil = s.pwr.ceil)) ∧
    (s.tel.en = true → Memory.wf s.mem = true → ∃ t, exec (.slowWindowEnd w) s = .next t ∧
      ∀ a, a < 0x100000 * s.tel.accMb.toNat ∨ 0x100000 * s.tel.accMb.toNat + 4096 ≤ a → readByte t.mem a = readByte s.mem a) ∧
    (s.tel.en = false → exec (.slowWindowEnd w) s = .next s))

/-- R549 to R555: start-up. The fuse map loaded, the chip leaves RESET; a map that fails its check and an image store without a
valid image fault the chip with causes FUSE and FIRMWARE; the boot of a valid image takes the chip to STARTING with its
version; the chip is READY once nothing is left to wait for; the watchdog faults a chip that has booted. A chip that faults
runs no port, and as a MEMBER it asserts the fence control. THERMTRIP is latched. Where it rests on readings and choices of
the model, they are those of the assumption log, entries 11, 18, 66. -/
def Obligations.StartUpAndChipFaults : Prop :=
  ∀ (s : State) (m : FuseMap),
    (s.glb.state = 0 → s.glb.resetHeld = false →
      (∃ t, exec (.fuseLoadEnd (some m)) s = .next t ∧ t.glb.fuses = m ∧ t.glb.fuseDone = true ∧ t.glb.state ≠ 0) ∧
      (∃ t, exec (.fuseLoadEnd none) s = .next t ∧ t.glb.state = 9 ∧ t.glb.cause = 1 ∧ t.glb.fuseFail = true ∧
        t.fenceN = s.fenceN ∧ ∀ p < 10, (portAt t p).state = 0 ∧ (portAt t p).enable = false)) ∧
    (s.glb.state = 3 → s.fw.current1 = false →
      (∀ i, s.fw.slot0 = some i → i.wellFormed = true → s.fw.floor.toNat ≤ i.version.toNat →
        ∃ t, exec .bootEnd s = .next t ∧ t.glb.state = 4 ∧ t.glb.fwSlot = false ∧ t.glb.fwVersion = i.version ∧
          t.mem = s.mem ∧ t.cores = s.cores) ∧
      (s.fw.slot0 = none → s.fw.slot1 = none → ∃ t, exec .bootEnd s = .next t ∧ t.glb.state = 9 ∧ t.glb.cause = 2)) ∧
    (s.glb.state = 4 → waitCode s = 0 → s.glb.join = false →
      ∃ t, exec .chipReady s = .next t ∧ t.glb.state = 5 ∧ t.mem = s.mem) ∧
    (waitCode s ≠ 0 → exec .chipReady s = .next s) ∧
    (3 ≤ s.glb.state.toNat → stopped s = false → ∃ t, exec .watchdogExpiry s = .next t ∧ t.glb.state = 9 ∧
      t.glb.cause = 4 ∧ t.fenceN = (s.fenceN || s.glb.state == 7) ∧ ∀ p < 10, (portAt t p).state = 0) ∧
    exec .thermtrip s = .next { s with thermtrip := true }

/-- R559 to R563: formation. At a multiple of 2^20 microslots a FORMING chip of the table's partition forms it: the epoch is the
instant's number, the beat count 0, the partition OPEN and without owner. A FORM_DOWN with result 0 in time confirms the
partition, its chip becomes a MEMBER with the service latency sent; with another result the chip stays FORMING, and one of
another instant does nothing. At 4 ms a root
without every FORM_UP refuses; at the first beat start after 8 ms an unconfirmed chip leaves the
partition. JOIN is taken
where no staged field moves. Where it rests on readings and choices of the model, they are those of the assumption log,
entries 11, 22, 68, 79. -/
def Obligations.PartitionsFormAtTheirInstant : Prop :=
  ∀ (s : State) (f : FormDownFrame) (u : FormUpFrame) (src : Coord) (m : W64) (via : Via) (v : W32),
    (∀ t b, s.glb.state = 6 → s.glb.instant = none → s.beat.ms.toNat ≠ 0 → s.beat.ms.toNat % 2 ^ 20 = 0 → waitCode s = 0 →
      table? s = some t → partOf t t.self = some b → (planesNow s t b).contains t.self.w = true →
      exec .formationInstant s = .next (formAt s t b (planesNow s t b) s.beat.ms)) ∧
    (s.beat.ms.toNat % 2 ^ 20 ≠ 0 → exec .formationInstant s = .next s) ∧
    (s.glb.state = 6 → s.glb.instant = some m → f.m = m → s.glb.confirmed = false →
      (f.result = 0 → s.beat.ms.toNat ≤ m.toNat + 8000 → isRoot s = false →
        ∃ t, exec (.formDown f) s = .next t ∧ t.glb.state = 7 ∧ t.glb.confirmed = true ∧ t.own.svcLat = f.svcLat ∧
          t.own.owner = s.own.owner ∧ t.mem = s.mem) ∧
      (f.result = 0 → s.beat.ms.toNat ≤ m.toNat + 8000 → isRoot s = true →
        ∃ t, exec (.formDown f) s = .next t ∧ t.glb.state = 7 ∧ t.glb.confirmed = true ∧ t.own.svcLat = f.svcLat) ∧
      (f.result ≠ 0 ∨ m.toNat + 8000 < s.beat.ms.toNat →
        ∃ t, exec (.formDown f) s = .next t ∧ t.glb = s.glb ∧ t.own = s.own ∧ t.mem = s.mem)) ∧
    (s.glb.instant ≠ some f.m → exec (.formDown f) s = .next s) ∧
    (s.glb.formUp = none ∨ s.glb.instant ≠ some u.m ∨ s.own.children.contains src = false →
      exec (.formUp src u) s = .next s) ∧
    (s.glb.formUp = none → exec .formConfirmTimeout s = .next s) ∧
    (∀ w, s.glb.state = 6 → s.glb.instant = some u.m → s.glb.formUp = some w → s.own.children.contains src = true →
      s.glb.formUps + 1 < s.own.children.length → ∃ t x, exec (.formUp src u) s = .next t ∧ t = { s with glb := t.glb } ∧
        t.glb.formUp = some x ∧ x.count = w.count + u.count ∧ x.pmin = min w.pmin u.pmin ∧ x.pmax = max w.pmax u.pmax ∧
        t.glb.formUps = s.glb.formUps + 1) ∧
    (s.glb.instant = some m → isRoot s = true → s.glb.formUp.isSome = true → s.glb.confirmed = false → s.glb.state = 6 →
      m.toNat + 4000 ≤ s.beat.ms.toNat → ∃ t, exec .formConfirmTimeout s = .next t ∧ t.glb.formUp = none ∧
        t.glb.confirmed = false ∧ t.glb.state = 6 ∧ t.mem = s.mem) ∧
    (s.glb.instant = some m → s.beat.ms.toNat < m.toNat + 4000 → exec .formConfirmTimeout s = .next s) ∧
    (s.glb.instant = some m → s.glb.state = 6 → m.toNat + 8000 < s.beat.startMs.toNat →
      ∃ t, exec .formUnconfirmedTimeout s = .next t ∧ t.own.valid = false ∧ t.glb.instant = none) ∧
    (mayWrite s via = true → bits (regValue s .pf 0x8) 8 2 = bits v 8 2 → bits v 8 2 ≠ 3 →
      ∃ t, exec (.join via v) s = .next t ∧ t.glb.join = bit v 6 ∧ t.glb.degradedOk = bit v 7 ∧ t.mem = s.mem)

/-- R567 to R570, R585, R588: fences. A link of the partition dark for its time is reported once to the service root and standby;
the second distinct report of a chip, or a FENCE_REQ, at the decider of a confirmed partition fences its tray; a FENCE is
scheduled once and passed to the children; at its effective beat the fence of the chip's own tray takes it to FENCED with
cause TRAY, and one not yet due waits. Where it rests on readings and choices of the model, they are those of the assumption
log, entries 11, 66, 67. -/
def Obligations.FencesAreDecidedAndApplied : Prop :=
  ∀ (s : State) (port : PortId) (d : DarkFrame) (q : FenceReqFrame) (f : FenceFrame),
    (∀ t v far p, table? s = some t → s.glb.part = some v → linkFar t v t.self port.val = some (far, p) → s.glb.state = 7 →
      bit s.beat.admitted port.val = true → bit s.glb.darkSent port.val = false → far ≠ t.self →
      exec (.darkTimeout port) s = .next (toRoles
        { s with glb := { s.glb with darkSent := setBit s.glb.darkSent port.val true } }
        (.dark ⟨t.self, far, port.val, s.beat.ms⟩) fun s => darkIn s ⟨t.self, far, port.val, s.beat.ms⟩)) ∧
    (bit s.glb.darkSent port.val = true → exec (.darkTimeout port) s = .next s) ∧
    (s.glb.state = 7 → decides s (trayNo s d.named) = true → fenceKnown s (trayNo s d.named) = false →
      s.glb.reports.contains (d.named, d.reporter) = false →
      ((∀ r ∈ s.glb.reports, r.1 ≠ d.named) → exec (.dark d) s =
        .next { s with glb := { s.glb with reports := s.glb.reports ++ [(d.named, d.reporter)] } }) ∧
      ((∃ r ∈ s.glb.reports, r.1 = d.named) → exec (.dark d) s =
        .next (decideFence { s with glb := { s.glb with reports := s.glb.reports ++ [(d.named, d.reporter)] } }
          (trayNo s d.named) 6))) ∧
    (s.glb.state = 7 → decides s q.tray = true → exec (.fenceReq q) s = .next (decideFence s q.tray q.cause)) ∧
    (s.glb.state ≠ 7 → exec (.fenceReq q) s = .next s) ∧
    (formed s = true → stopped s = false → fenceKnown s f.tray = false → ∃ t, exec (.fenceFrame f) s = .next t ∧
      t.glb = { s.glb with fences := s.glb.fences ++ [⟨f.tray, f.cause, f.effective, f.newRoot, f.newStandby⟩] } ∧
      t.mem = s.mem ∧ t.own = s.own) ∧
    (fenceKnown s f.tray = true → exec (.fenceFrame f) s = .next s) ∧
    (∀ t v r x, formed s = true → stopped s = false → s.glb.fences = [x] → trayOfPart s x.tray = some (t, v, r) →
      (s.beat.count.toNat < x.effective.toNat → exec .fenceApply s = .next s) ∧
      (x.effective.toNat ≤ s.beat.count.toNat → x.tray = t.tray → ∃ u, exec .fenceApply s = .next u ∧ u.glb.state = 8 ∧
        u.glb.cause = 8 ∧ u.fenceN = (s.fenceN || s.glb.state == 7)))

/-- R549, R556 to R558, R589, R611, R620, R627, R650: resets and firmware. CHIP_RESET, RESET_N and a power-on reset give every
register its reset value, and keep the anchor store, the firmware store and the seal's openings; a write without its key
changes nothing. RESET_N released lets the chip start again. A PCIe fundamental reset changes nothing of the control space.
FW_LOAD starts the verification of an image in SYS frames; a good image goes to the slot that is not current, becomes current
and can only raise the floor. FENCE of a chip that is no MEMBER is refused with code NOTMEMBER. Where it rests on readings and
choices of the model, they are those of the assumption log, entries 11, 69, 70. -/
def Obligations.ResetsAndFirmware : Prop :=
  ∀ (s : State) (via : Via) (v : W32) (plug button : Bool), mayWrite s via = true →
    (bits v 24 8 ≠ 0xA5 → ∀ c ∈ [Instr.chipReset via v, .glbFence via v, .fwLoad via v],
      exec c s = .next { s with glb := { s.glb with err := 1 } }) ∧
    (bits v 24 8 = 0xA5 → bit v 11 = false → bit v 10 = false → ∃ t, exec (.chipReset via v) s = .next t ∧
      t.pending = s.pending ∧ t.anchor = s.anchor ∧ t.fw = s.fw ∧ t.own.sealing.openings = s.own.sealing.openings ∧
      t.own.valid = false ∧ t.cores = State.reset.cores ∧ t.mem = State.reset.mem ∧ t.frames = State.reset.frames ∧
      t.ports = State.reset.ports ∧ t.beat = State.reset.beat ∧ t.wrg = State.reset.wrg ∧ t.arm = State.reset.arm ∧
      t.glb = State.reset.glb ∧ t.hst = State.reset.hst ∧ t.hut = State.reset.hut) ∧
    (bits v 24 8 = 0xA5 → bit v 12 = false → bit v 10 = false → s.glb.state ≠ 7 →
      exec (.glbFence via v) s = .next { s with glb := { s.glb with err := 4 } }) ∧
    (bits v 24 8 = 0xA5 → bit v 12 = false → bit v 10 = false → s.glb.state = 7 → (trayOfPart s (bits v 13 11)).isSome = true →
      exec (.glbFence via v) s = .next (toRoles s (.fenceReq ⟨bits v 13 11, 7, selfOf s⟩)
        fun s => fenceReqIn s ⟨bits v 13 11, 7, selfOf s⟩)) ∧
    (bits v 24 8 = 0xA5 → bit v 12 = false → bit v 11 = false → s.glb.fwLoad = none →
      (fwFrame s (bits v 0 9) = true → exec (.fwLoad via v) s = .next { s with glb := { s.glb with err := 5 } }) ∧
      (fwFrame s (bits v 0 9) = false → exec (.fwLoad via v) s =
        .next { s with glb := { s.glb with fwLoad := some (v.extractLsb' 0 9) } })) ∧
    (∀ mb i, s.glb.fwLoad = some mb → i = fwImageAt s mb.toNat →
      ∃ t, exec .fwLoadEnd s = .next t ∧ t.glb.fwLoad = none ∧ t.mem = s.mem ∧ t.own = s.own ∧
        t.fw.slot s.fw.current1 = s.fw.slot s.fw.current1 ∧ s.fw.floor.toNat ≤ t.fw.floor.toNat ∧
        (if fwFrame s mb.toNat = false ∧ i.wellFormed = true ∧ s.fw.floor.toNat ≤ i.version.toNat ∧
            (i.key = s.fw.acceptedKey ∨ s.own.sealing.windowOpen = true)
          then t.fw.current1 = !s.fw.current1 ∧ t.fw.slot (!s.fw.current1) = some i
          else t.fw = s.fw)) ∧
    (∃ t, exec .resetN s = .next t ∧ t.glb.resetHeld = true ∧ t.cores = State.reset.cores ∧ t.mem = State.reset.mem ∧
      t.anchor = s.anchor ∧ t.fw = s.fw) ∧
    (s.glb.resetHeld = true → ∃ t, exec (.resetNRelease plug button) s = .next t ∧ t.glb.resetHeld = false ∧
      t.own.sealing.plug = plug ∧ t.own.sealing.absent = !plug ∧ t.own.sealing.button = button ∧ t.mem = s.mem) ∧
    (∃ t, exec (.powerOnReset plug) s = .next t ∧ t.cores = State.reset.cores ∧ t.mem = State.reset.mem ∧
      t.anchor = s.anchor ∧ t.fw = s.fw ∧ t.thermtrip = false ∧ t.own.sealing.plug = plug ∧
      t.own.sealing.openings = s.own.sealing.openings) ∧
    exec .pcieFundamentalReset s = .next s
end

