-- ==== Sys2Proof/Laws/Memory.lean ====
section
/-! SUPPORT. Laws/Memory.lean: the sparse memories of Machine/Ops.lean. A byte written reads back, every other byte reads as
before, and every operation keeps the canonical form. -/

namespace Sys2Proof.Machine

/-! ### Reading and writing one byte -/

theorem readByte_low {m : List Host.Cell} : ∀ {lo a : Nat}, Memory.wfFrom lo m = true → a < lo → readByte m a = 0 := by
  induction m with
  | nil => intros; rfl
  | cons c m _ =>
    intro lo a h ha
    obtain ⟨k, v⟩ := c
    simp only [Memory.wfFrom, Bool.and_eq_true, decide_eq_true_eq] at h
    rw [readByte, if_neg (by omega), if_pos (by omega)]

theorem readByte_writeByte {m : List Host.Cell} :
    ∀ {lo : Nat} (a : Nat) (b : Byte) (x : Nat), Memory.wfFrom lo m = true →
      readByte (writeByte m a b) x = if x = a then b else readByte m x := by
  induction m with
  | nil =>
    intro lo a b x _
    by_cases hb : b = 0#8
    · simp [writeByte, hb, readByte]
    · simp only [writeByte, BitVec.ofNat_eq_ofNat, hb, if_false, readByte]
      by_cases hx : a = x
      · simp [hx]
      · simp [hx, Ne.symm hx]
  | cons c m ih =>
    intro lo a b x h
    obtain ⟨k, v⟩ := c
    simp only [Memory.wfFrom, Bool.and_eq_true, decide_eq_true_eq] at h
    have low {y : Nat} (hy : y ≤ k) : readByte m y = 0 := readByte_low h.2 (by omega)
    unfold writeByte
    by_cases hak : a < k
    · by_cases hb : b = 0#8
      · by_cases hx : x = a
        · simp [hak, hb, hx, readByte, Nat.ne_of_gt hak]
        · simp [hak, hb, hx]
      · by_cases hx : x = a
        · simp [hak, hb, hx, readByte]
        · by_cases hl : x < a
          · have : x < k := by omega
            simp [hak, hb, hx, Ne.symm hx, hl, readByte, this, Nat.ne_of_gt this]
          · simp [hak, hb, hx, Ne.symm hx, hl, readByte]
    · by_cases hk : a = k
      · subst hk
        by_cases hb : b = 0#8
        · by_cases hx : x = a
          · simp [hb, hx, low (Nat.le_refl a)]
          · by_cases hl : x < a
            · simp [hb, hx, Ne.symm hx, readByte, hl, low (Nat.le_of_lt hl)]
            · simp [hb, hx, Ne.symm hx, readByte, hl]
        · by_cases hx : x = a
          · simp [hb, hx, readByte]
          · simp [hb, hx, Ne.symm hx, readByte]
      · simp only [hak, hk, if_false, readByte]
        rw [ih a b x h.2]
        by_cases hx : x = a
        · subst hx
          simp [hak, Ne.symm hk]
        · simp [hx]

theorem readByte_writeByte_same {m : List Host.Cell} (a : Nat) (b : Byte) (h : Memory.wf m = true) :
    readByte (writeByte m a b) a = b := by
  rw [readByte_writeByte a b a h, if_pos rfl]

theorem readByte_writeByte_other {m : List Host.Cell} {a x : Nat} (b : Byte) (h : Memory.wf m = true) (hx : x ≠ a) :
    readByte (writeByte m a b) x = readByte m x := by
  rw [readByte_writeByte a b x h, if_neg hx]

/-! ### The canonical form -/

theorem wfFrom_mono {m : List Host.Cell} {lo hi : Nat} (hle : lo ≤ hi) (h : Memory.wfFrom hi m = true) :
    Memory.wfFrom lo m = true := by
  cases m with
  | nil => rfl
  | cons c m =>
    simp only [Memory.wfFrom, Bool.and_eq_true, decide_eq_true_eq] at h ⊢
    exact ⟨⟨by omega, h.1.2⟩, h.2⟩

theorem writeByte_wfFrom {m : List Host.Cell} :
    ∀ {lo : Nat} (a : Nat) (b : Byte), lo ≤ a → Memory.wfFrom lo m = true → Memory.wfFrom lo (writeByte m a b) = true := by
  induction m with
  | nil =>
    intro lo a b ha _
    by_cases hb : b = 0#8 <;> simp [writeByte, hb, Memory.wfFrom, ha]
  | cons c m ih =>
    intro lo a b ha h
    obtain ⟨k, v⟩ := c
    simp only [Memory.wfFrom, Bool.and_eq_true, decide_eq_true_eq] at h
    unfold writeByte
    by_cases hak : a < k
    · by_cases hb : b = 0#8
      · simp [hak, hb, Memory.wfFrom, h]; simpa using h.1.2
      · simp only [hak, BitVec.ofNat_eq_ofNat, hb, if_true, if_false, Memory.wfFrom, Bool.and_eq_true, decide_eq_true_eq]
        exact ⟨⟨ha, by simpa using hb⟩, ⟨by omega, h.1.2⟩, h.2⟩
    · by_cases hk : a = k
      · by_cases hb : b = 0#8
        · simp [hk, hb]; exact wfFrom_mono (by omega) h.2
        · simp only [hk, BitVec.ofNat_eq_ofNat, hb, Nat.lt_irrefl, if_true, if_false, Memory.wfFrom, Bool.and_eq_true, decide_eq_true_eq]
          exact ⟨⟨by omega, by simpa using hb⟩, h.2⟩
      · simp only [hak, hk, if_false, Memory.wfFrom, Bool.and_eq_true, decide_eq_true_eq]
        exact ⟨h.1, ih a b (by omega) h.2⟩

theorem writeByte_wf {m : List Host.Cell} (a : Nat) (b : Byte) (h : Memory.wf m = true) :
    Memory.wf (writeByte m a b) = true := writeByte_wfFrom a b (Nat.zero_le a) h

@[simp] theorem writeBytes_wf {m : List Host.Cell} (a : Nat) (bs : List Byte) (h : Memory.wf m = true) :
    Memory.wf (writeBytes m a bs) = true := by
  induction bs generalizing m a with
  | nil => exact h
  | cons b bs ih => exact ih (a + 1) (writeByte_wf a b h)

theorem filter_wfFrom {m : List Host.Cell} (p : Host.Cell → Bool) :
    ∀ {lo : Nat}, Memory.wfFrom lo m = true → Memory.wfFrom lo (m.filter p) = true := by
  induction m with
  | nil => intro lo h; exact h
  | cons c m ih =>
    intro lo h
    obtain ⟨k, v⟩ := c
    simp only [Memory.wfFrom, Bool.and_eq_true, decide_eq_true_eq] at h
    rw [List.filter_cons]
    split
    · simp only [Memory.wfFrom, Bool.and_eq_true, decide_eq_true_eq]
      exact ⟨h.1, ih h.2⟩
    · exact wfFrom_mono (by omega) (ih h.2)

@[simp] theorem zeroRange_wf {m : List Host.Cell} (a n : Nat) (h : Memory.wf m = true) :
    Memory.wf (zeroRange m a n) = true := filter_wfFrom _ h

/-! ### Reading and writing several bytes -/

theorem readByte_writeBytes {m : List Host.Cell} (a : Nat) (bs : List Byte) (x : Nat) (h : Memory.wf m = true) :
    readByte (writeBytes m a bs) x = if a ≤ x ∧ x < a + bs.length then bs.getD (x - a) 0 else readByte m x := by
  induction bs generalizing m a with
  | nil => rw [if_neg (by simp only [List.length_nil]; omega)]; rfl
  | cons b bs ih =>
    rw [writeBytes, ih (a + 1) (writeByte_wf a b h), readByte_writeByte a b x h]
    simp only [List.length_cons]
    by_cases h1 : a + 1 ≤ x ∧ x < a + 1 + bs.length
    · obtain ⟨j, rfl⟩ : ∃ j, x = a + 1 + j := ⟨x - (a + 1), by omega⟩
      have e1 : a + 1 + j - (a + 1) = j := by omega
      have e2 : a + 1 + j - a = j + 1 := by omega
      rw [if_pos h1, if_pos (by omega), e1, e2]
      simp
    · rw [if_neg h1]
      by_cases hx : x = a
      · subst hx
        rw [if_pos rfl, if_pos (by omega), Nat.sub_self]
        rfl
      · rw [if_neg hx, if_neg (by omega)]

theorem readByte_writeBytes_other {m : List Host.Cell} {a x : Nat} {bs : List Byte} (h : Memory.wf m = true)
    (hx : x < a ∨ a + bs.length ≤ x) : readByte (writeBytes m a bs) x = readByte m x := by
  rw [readByte_writeBytes a bs x h, if_neg (by omega)]

theorem readByte_filter {m : List Host.Cell} (p : Nat → Bool) :
    ∀ {lo : Nat} (x : Nat), Memory.wfFrom lo m = true →
      readByte (m.filter fun c => p c.1) x = if p x then readByte m x else 0 := by
  induction m with
  | nil => intros; simp [readByte]
  | cons c m ih =>
    intro lo x h
    obtain ⟨k, v⟩ := c
    simp only [Memory.wfFrom, Bool.and_eq_true, decide_eq_true_eq] at h
    have tail := ih x h.2
    have low (hx : x ≤ k) : readByte m x = 0 := readByte_low h.2 (by omega)
    have low' (hx : x ≤ k) : readByte (m.filter fun c => p c.1) x = 0 := readByte_low (filter_wfFrom _ h.2) (by omega)
    rw [List.filter_cons]
    by_cases hp : p k
    · simp only [hp, if_true, readByte]
      by_cases hk : k = x
      · simp [← hk, hp]
      · by_cases hl : x < k
        · simp [hk, hl]
        · simp only [hk, hl, if_false]; exact tail
    · simp only [hp, readByte]
      by_cases hk : k = x
      · simp [← hk, hp]; rw [hk]; exact low' (by omega)
      · by_cases hl : x < k
        · simp [hk, hl, low' (by omega)]
        · simp only [hk, hl, if_false]; exact tail

theorem readByte_zeroRange {m : List Host.Cell} (a n x : Nat) (h : Memory.wf m = true) :
    readByte (zeroRange m a n) x = if a ≤ x ∧ x < a + n then 0 else readByte m x := by
  have := readByte_filter (m := m) (fun k => decide (k < a ∨ a + n ≤ k)) x h
  rw [zeroRange, this]
  by_cases hx : a ≤ x ∧ x < a + n
  · rw [if_pos hx, if_neg (by simp; omega)]
  · rw [if_neg hx, if_pos (by simp; omega)]

@[simp] theorem length_readBytes (m : List Host.Cell) (a n : Nat) : (readBytes m a n).length = n := by
  induction n generalizing a with
  | zero => rfl
  | succ n ih => simp [readBytes, ih]

theorem readBytes_getElem? (m : List Host.Cell) (a n i : Nat) (h : i < n) :
    (readBytes m a n)[i]? = some (readByte m (a + i)) := by
  induction n generalizing a i with
  | zero => omega
  | succ n ih =>
    cases i with
    | zero => rfl
    | succ i =>
      have := ih (a + 1) i (by omega)
      simp only [readBytes, List.getElem?_cons_succ, this]
      congr 2; omega

end Sys2Proof.Machine
end

