-- ==== Sys2Proof/Laws/FrameRegs.lean ====
section
/-! SUPPORT. Laws/FrameRegs.lean: what the operations of Machine/Regs.lean leave alone: the queue of commands, and the memory or
its canonical form. -/

namespace Sys2Proof.Machine

@[simp] theorem setLatch_frame (s : State) (l : Latch) : (setLatch s l).pending = s.pending ∧ (setLatch s l).mem = s.mem :=
  by simp [setLatch]

end Sys2Proof.Machine
end

