-- ==== Sys2Proof/Laws/FrameEvents.lean ====
section
/-! SUPPORT. Laws/FrameEvents.lean: what the operations of Machine/Events.lean leave alone: the queue of commands, and the memory or
its canonical form. -/

namespace Sys2Proof.Machine

@[simp] theorem setQueue_frame (s : State) (fn : Nat) (q : EvtQueue) :
    (setQueue s fn q).pending = s.pending ∧ (setQueue s fn q).mem = s.mem :=
  by simp [setQueue]

@[simp] theorem writeRecord_frame (s : State) (fn : Nat) (r : EvtRec) :
    (writeRecord s fn r).pending = s.pending ∧ (writeRecord s fn r).mem = s.mem :=
  by simp [writeRecord]

@[simp] theorem raiseIbi_frame (s : State) : (raiseIbi s).pending = s.pending ∧ (raiseIbi s).mem = s.mem :=
  by simp [raiseIbi]

@[simp] theorem reportLost_frame (s : State) (fn : Nat) :
    (reportLost s fn).pending = s.pending ∧ (reportLost s fn).mem = s.mem :=
  by simp [reportLost]

@[simp] theorem offer_frame (s : State) (fn : Nat) (r : EvtRec) :
    (offer s fn r).pending = s.pending ∧ (offer s fn r).mem = s.mem :=
  by simp [offer]

@[simp] theorem post_frame (s : State) (cls kind : Nat) (ctx : Option Ctx) (b : EvtBody) :
    (post s cls kind ctx b).pending = s.pending ∧ (post s cls kind ctx b).mem = s.mem :=
  by unfold post; split <;> simp

@[simp] theorem postReg_frame (s : State) (cls : Nat) (ctx : Option Ctx) (off bitNo : Nat) (detail : W64) :
    (postReg s cls ctx off bitNo detail).pending = s.pending ∧ (postReg s cls ctx off bitNo detail).mem = s.mem :=
  by simp [postReg]

@[simp] theorem postNone_frame (s : State) (cls : Nat) (ctx : Option Ctx) (detail : W64) :
    (postNone s cls ctx detail).pending = s.pending ∧ (postNone s cls ctx detail).mem = s.mem :=
  by simp [postNone]

@[simp] theorem setOwnErrOf_frame (s : State) (p : PathKind) (e : BitVec 4) :
    (setOwnErrOf s p e).pending = s.pending ∧ (setOwnErrOf s p e).mem = s.mem :=
  by unfold setOwnErrOf; split <;> simp

@[simp] theorem setOwnErr_frame (s : State) (v : Via) (e : BitVec 4) :
    (setOwnErr s v e).pending = s.pending ∧ (setOwnErr s v e).mem = s.mem :=
  by simp [setOwnErr]

@[simp] theorem guarded_pending (s : State) (v : Via) (off : Nat) (f : State → State) (h : ∀ s, (f s).pending = s.pending) :
    (guarded s v off f).pending = s.pending := by
  unfold guarded; (repeat' split) <;> simp [h]

@[simp] theorem guarded_mem (s : State) (v : Via) (off : Nat) (f : State → State) (h : ∀ s, (f s).mem = s.mem) :
    (guarded s v off f).mem = s.mem := by
  unfold guarded; (repeat' split) <;> simp [h]

@[simp] theorem guarded_wf (s : State) (v : Via) (off : Nat) (f : State → State)
    (h : ∀ s, Memory.wf s.mem = true → Memory.wf (f s).mem = true) (hs : Memory.wf s.mem = true) :
    Memory.wf (guarded s v off f).mem = true := by
  unfold guarded; (repeat' split) <;> simp [h, hs]

@[simp] theorem lockedErr_frame (s : State) : (lockedErr s).pending = s.pending ∧ (lockedErr s).mem = s.mem :=
  by simp [lockedErr]

end Sys2Proof.Machine
end

