-- ==== Sys2Proof/Laws/FrameReads.lean ====
section
/-! SUPPORT. Laws/FrameReads.lean: what the operations of Machine/Reads.lean leave alone: the queue of commands, and the memory or
its canonical form. -/

namespace Sys2Proof.Machine

@[simp] theorem readEffect_frame (s : State) (v : Via) (off : Nat) :
    (readEffect s v off).pending = s.pending ∧ (readEffect s v off).mem = s.mem :=
  by unfold readEffect; (repeat' split) <;> simp

@[simp] theorem telHeadRead_frame (s : State) (v : Via) :
    (telHeadRead s v).1.pending = s.pending ∧ (telHeadRead s v).1.mem = s.mem :=
  by unfold telHeadRead; dsimp only; repeat' (first | (simp; done) | split)

@[simp] theorem modCore_frame (s : State) (n : Nat) (f : Core → Core) :
    (modCore s n f).pending = s.pending ∧ (modCore s n f).mem = s.mem :=
  by simp [modCore]

@[simp] theorem counterParity_frame (s : State) (n ctr : Nat) :
    (counterParity s n ctr).pending = s.pending ∧ (counterParity s n ctr).mem = s.mem :=
  by simp [counterParity]

@[simp] theorem touchCounter_frame (s : State) (n ctr : Nat) :
    (touchCounter s n ctr).pending = s.pending ∧ (touchCounter s n ctr).mem = s.mem :=
  by unfold touchCounter; split <;> simp

@[simp] theorem readReg_frame (s : State) (v : Via) (off : Nat) :
    (readReg s v off).1.pending = s.pending ∧ (readReg s v off).1.mem = s.mem :=
  by unfold readReg; (repeat' split) <;> simp

@[simp] theorem readOut_frame (s : State) (v : Via) (off : Nat) :
    (readOut s v off).pending = s.pending ∧ (readOut s v off).mem = s.mem :=
  by simp [readOut]

end Sys2Proof.Machine
end

