-- ==== Sys2Proof/Laws/FrameFabric.lean ====
section
/-! SUPPORT. Laws/FrameFabric.lean: what the operations of Machine/Fabric.lean leave alone: the queue of commands, and the memory or
its canonical form. -/

namespace Sys2Proof.Machine

@[simp] theorem misroute_frame (s : State) (ev : Bool) : (misroute s ev).pending = s.pending ∧ (misroute s ev).mem = s.mem :=
  by simp [misroute]

@[simp] theorem enqueue_frame (s : State) (out : Nat) (o : OutFrame) :
    (enqueue s out o).pending = s.pending ∧ (enqueue s out o).mem = s.mem :=
  by simp [enqueue]

@[simp] theorem forward_frame (s : State) (input : Nat) (f : Frame) :
    (forward s input f).pending = s.pending ∧ (forward s input f).mem = s.mem :=
  by unfold forward; (repeat' split) <;> simp

@[simp] theorem inject_frame (s : State) (dest : Coord) (ctx : Nat) (b : Body) :
    (inject s dest ctx b).pending = s.pending ∧ (inject s dest ctx b).mem = s.mem :=
  by unfold inject; repeat' (first | (simp; done) | split)

@[simp] theorem sendPrio_frame (s : State) (dest : Coord) (b : Body) :
    (sendPrio s dest b).pending = s.pending ∧ (sendPrio s dest b).mem = s.mem :=
  by simp [sendPrio]

@[simp] theorem sendAll_frame (s : State) (ds : List Coord) (b : Body) :
    (sendAll s ds b).pending = s.pending ∧ (sendAll s ds b).mem = s.mem :=
  by simp [sendAll]

end Sys2Proof.Machine
end

