-- ==== Sys2Proof/Laws/FrameCupboard.lean ====
section
/-! SUPPORT. Laws/FrameCupboard.lean: what the operations of Machine/Cupboard.lean leave alone: the queue of commands, and the memory or
its canonical form. -/

namespace Sys2Proof.Machine

@[simp] theorem noteUe_frame (s : State) (a : Nat) (core : Option Nat) (reader : Nat) :
    (noteUe s a core reader).pending = s.pending ∧ (noteUe s a core reader).mem = s.mem :=
  by simp [noteUe]

@[simp] theorem correctRead_frame (s : State) (a n : Nat) :
    (correctRead s a n).pending = s.pending ∧ (correctRead s a n).mem = s.mem :=
  by simp [correctRead]

@[simp] theorem noteRead_frame (s : State) (a n : Nat) (core : Option Nat) (reader : Nat) :
    (noteRead s a n core reader).pending = s.pending ∧ (noteRead s a n core reader).mem = s.mem :=
  by simp [noteRead]

@[simp] theorem poisonWord_frame (s : State) (w : Nat) :
    (poisonWord s w).pending = s.pending ∧ (poisonWord s w).mem = s.mem :=
  by simp [poisonWord]

@[simp] theorem upsetWord_frame (s : State) (w : Nat) :
    (upsetWord s w).pending = s.pending ∧ (upsetWord s w).mem = s.mem :=
  by unfold upsetWord; (repeat' split) <;> simp

@[simp] theorem writeWord_pending (s : State) (a : Nat) (bs : List Byte) (core : Option Nat) :
    (writeWord s a bs core).pending = s.pending :=
  by simp [writeWord]

@[simp] theorem writeWord_wf (s : State) (a : Nat) (bs : List Byte) (core : Option Nat) (h :
    Memory.wf s.mem = true) : Memory.wf (writeWord s a bs core).mem = true :=
  by simp [writeWord, h]

@[simp] theorem writeSpan_pending (k : Nat) (s : State) (a : Nat) (bs : List Byte) (core : Option Nat) :
    (writeSpan k s a bs core).pending = s.pending := by
  induction k generalizing s a bs with
  | zero => rfl
  | succ k ih => simp [writeSpan, ih]

@[simp] theorem writeSpan_wf (k : Nat) (s : State) (a : Nat) (bs : List Byte) (core : Option Nat)
    (h : Memory.wf s.mem = true) : Memory.wf (writeSpan k s a bs core).mem = true := by
  induction k generalizing s a bs with
  | zero => exact h
  | succ k ih => simp [writeSpan, ih, h]

@[simp] theorem cupWrite_pending (s : State) (a : Nat) (bs : List Byte) (core : Option Nat) :
    (cupWrite s a bs core).pending = s.pending :=
  by simp [cupWrite]

@[simp] theorem cupWrite_wf (s : State) (a : Nat) (bs : List Byte) (core : Option Nat) (h :
    Memory.wf s.mem = true) : Memory.wf (cupWrite s a bs core).mem = true :=
  by simp [cupWrite, h]

@[simp] theorem cupWriteRow_pending (s : State) (a : Nat) (bs : List Byte) (bad : List Nat) :
    (cupWriteRow s a bs bad).pending = s.pending :=
  by simp [cupWriteRow]

@[simp] theorem cupWriteRow_wf (s : State) (a : Nat) (bs : List Byte) (bad : List Nat) (h :
    Memory.wf s.mem = true) : Memory.wf (cupWriteRow s a bs bad).mem = true :=
  by simp [cupWriteRow, h]

@[simp] theorem cupZero_pending (s : State) (a n : Nat) : (cupZero s a n).pending = s.pending := by simp [cupZero]

@[simp] theorem cupZero_wf (s : State) (a n : Nat) (h : Memory.wf s.mem = true) : Memory.wf (cupZero s a n).mem = true :=
  by simp [cupZero, h]

@[simp] theorem bumpCounter_frame (s : State) (core ctr : Nat) :
    (bumpCounter s core ctr).pending = s.pending ∧ (bumpCounter s core ctr).mem = s.mem :=
  by simp [bumpCounter]

@[simp] theorem setCounter_frame (s : State) (core ctr : Nat) (v : W32) :
    (setCounter s core ctr v).pending = s.pending ∧ (setCounter s core ctr v).mem = s.mem :=
  by simp [setCounter]

@[simp] theorem voidCounters_frame (s : State) : (voidCounters s).pending = s.pending ∧ (voidCounters s).mem = s.mem :=
  by simp [voidCounters]

@[simp] theorem counterWrite_frame (s : State) (core ctr : Nat) (v : W32) :
    (counterWrite s core ctr v).pending = s.pending ∧ (counterWrite s core ctr v).mem = s.mem :=
  by simp [counterWrite]

@[simp] theorem advanceIntake_pending (s : State) (t : Nat) : (advanceIntake s t).pending = s.pending :=
  by simp [advanceIntake]

@[simp] theorem advanceIntake_wf (s : State) (t : Nat) (h :
    Memory.wf s.mem = true) : Memory.wf (advanceIntake s t).mem = true :=
  by simp [advanceIntake, h]

@[simp] theorem releaseHeld_pending (s : State) : (releaseHeld s).pending = s.pending := by simp [releaseHeld]

@[simp] theorem releaseHeld_wf (s : State) (h : Memory.wf s.mem = true) : Memory.wf (releaseHeld s).mem = true :=
  by unfold releaseHeld; (repeat' split) <;> simp_all

@[simp] theorem cpbModeWrite_pending (s : State) (n : Nat) (v : W32) : (cpbModeWrite s n v).pending = s.pending :=
  by simp [cpbModeWrite]

@[simp] theorem cpbModeWrite_wf (s : State) (n : Nat) (v : W32) (h :
    Memory.wf s.mem = true) : Memory.wf (cpbModeWrite s n v).mem = true :=
  by simp [cpbModeWrite, h]

@[simp] theorem scrub_frame (s : State) (n : Nat) (single double : List Nat) :
    (scrub s n single double).pending = s.pending ∧ (scrub s n single double).mem = s.mem :=
  by simp [scrub]

end Sys2Proof.Machine
end

