-- ==== Sys2Proof/Laws/FrameShelf.lean ====
section
/-! SUPPORT. Laws/FrameShelf.lean: what the operations of Machine/Shelf.lean leave alone: the queue of commands, and the memory or
its canonical form. -/

namespace Sys2Proof.Machine

@[simp] theorem encWrite_pending (s : State) (west : Bool) (k x : Nat) (bs : List Byte) :
    (encWrite s west k x bs).pending = s.pending :=
  by simp [encWrite]

@[simp] theorem encWrite_wf (s : State) (west : Bool) (k x : Nat) (bs : List Byte) (h :
    Memory.wf s.mem = true) : Memory.wf (encWrite s west k x bs).mem = true :=
  by simp [encWrite, h]

@[simp] theorem setMark_frame (s : State) (m : SlotMark) :
    (setMark s m).pending = s.pending ∧ (setMark s m).mem = s.mem :=
  by unfold setMark; repeat' (first | (simp; done) | split)

@[simp] theorem takeSlot_frame (s : State) (x : Shelf) (core : Nat) (west : Bool) (i : Nat) :
    (takeSlot s x core west i).pending = s.pending ∧ (takeSlot s x core west i).mem = s.mem :=
  by unfold takeSlot; repeat' (first | (simp; done) | split)

@[simp] theorem poisonSending_frame (s : State) (west : Bool) (b : W64) :
    (poisonSending s west b).pending = s.pending ∧ (poisonSending s west b).mem = s.mem :=
  by unfold poisonSending; repeat' (first | (simp; done) | split)

@[simp] theorem setArr_frame (s : State) (west : Bool) (x : Option Shelf) :
    (setArr s west x).pending = s.pending ∧ (setArr s west x).mem = s.mem :=
  by simp [setArr]

@[simp] theorem setHeld_frame (s : State) (west : Bool) (x : Option Shelf) :
    (setHeld s west x).pending = s.pending ∧ (setHeld s west x).mem = s.mem :=
  by simp [setHeld]

@[simp] theorem setShelf_frame (s : State) (west : Bool) (x : Shelf) :
    (setShelf s west x).pending = s.pending ∧ (setShelf s west x).mem = s.mem :=
  by simp [setShelf]

@[simp] theorem notePoison_frame (s : State) (g : Nat) :
    (notePoison s g).pending = s.pending ∧ (notePoison s g).mem = s.mem :=
  by simp [notePoison]

@[simp] theorem freeShelf_frame (s : State) (west : Bool) (b : W64) :
    (freeShelf s west b).pending = s.pending ∧ (freeShelf s west b).mem = s.mem :=
  by simp [freeShelf]

@[simp] theorem damage_frame (s : State) (west : Bool) (x : Shelf) (cause : Nat) :
    (damage s west x cause).pending = s.pending ∧ (damage s west x cause).mem = s.mem :=
  by simp [damage]

@[simp] theorem acceptShelf_frame (s : State) (west : Bool) (h : List Byte) (poison trusted : Bool) :
    (acceptShelf s west h poison trusted).pending = s.pending ∧ (acceptShelf s west h poison trusted).mem = s.mem :=
  by simp [acceptShelf]

end Sys2Proof.Machine
end

