-- ==== Sys2Proof/Laws/FrameRing.lean ====
section
/-! SUPPORT. Laws/FrameRing.lean: what the operations of Machine/Ring.lean leave alone: the queue of commands, and the memory or
its canonical form. -/

namespace Sys2Proof.Machine

@[simp] theorem noteHalt_frame (s : State) (cause : BitVec 4) (b : W64) :
    (noteHalt s cause b).pending = s.pending ∧ (noteHalt s cause b).mem = s.mem :=
  by unfold noteHalt; repeat' (first | (simp; done) | split)

@[simp] theorem homeRead_frame (s : State) (g a n : Nat) :
    (homeRead s g a n).pending = s.pending ∧ (homeRead s g a n).mem = s.mem :=
  by unfold homeRead; repeat' (first | (simp; done) | split)

@[simp] theorem noteDir_frame (s : State) (d : RingDir) :
    (noteDir s d).pending = s.pending ∧ (noteDir s d).mem = s.mem :=
  by unfold noteDir; repeat' (first | (simp; done) | split)

@[simp] theorem poisonSlots_frame (s : State) (west : Bool) (fault : W64) :
    (poisonSlots s west fault).pending = s.pending ∧ (poisonSlots s west fault).mem = s.mem :=
  by unfold poisonSlots; repeat' (first | (simp; done) | split)

@[simp] theorem refuse_frame (s : State) (cause : BitVec 4) (send : Bool) :
    (refuse s cause send).pending = s.pending ∧ (refuse s cause send).mem = s.mem :=
  by simp [refuse]

@[simp] theorem judgeRecords_frame (s : State) : (judgeRecords s).pending = s.pending ∧ (judgeRecords s).mem = s.mem :=
  by unfold judgeRecords; (repeat' split) <;> simp

@[simp] theorem startForm_frame (s : State) : (startForm s).pending = s.pending ∧ (startForm s).mem = s.mem :=
  by simp [startForm]

@[simp] theorem formationRecord_frame (s : State) (f : FormRec) :
    (formationRecord s f).pending = s.pending ∧ (formationRecord s f).mem = s.mem :=
  by simp [formationRecord]

@[simp] theorem formationRefusal_frame (s : State) (cause : Nat) :
    (formationRefusal s cause).pending = s.pending ∧ (formationRefusal s cause).mem = s.mem :=
  by simp [formationRefusal]

@[simp] theorem setSend_frame (s : State) (west : Bool) (x : Option Sending) :
    (setSend s west x).pending = s.pending ∧ (setSend s west x).mem = s.mem :=
  by simp [setSend]

@[simp] theorem injectCheck_frame (s : State) (ver : W16) :
    (injectCheck s ver).pending = s.pending ∧ (injectCheck s ver).mem = s.mem :=
  by simp [injectCheck]

@[simp] theorem injectHome_frame (s : State) (west : Bool) (d : RingDir) (lap pass : Nat) :
    (injectHome s west d lap pass).pending = s.pending ∧ (injectHome s west d lap pass).mem = s.mem :=
  by unfold injectHome; dsimp only; repeat' (first | (simp; done) | split)

@[simp] theorem injectLap_frame (s : State) (lap pass : Nat) :
    (injectLap s lap pass).pending = s.pending ∧ (injectLap s lap pass).mem = s.mem :=
  by unfold injectLap; split <;> simp

@[simp] theorem forwardHeld_frame (s : State) (west : Bool) :
    (forwardHeld s west).pending = s.pending ∧ (forwardHeld s west).mem = s.mem :=
  by unfold forwardHeld; split <;> simp

@[simp] theorem meetHalt_frame (s : State) (cause : BitVec 4) (b : W64) :
    (meetHalt s cause b).pending = s.pending ∧ (meetHalt s cause b).mem = s.mem :=
  by simp [meetHalt]

@[simp] theorem haltFrame_frame (s : State) (f : HaltFrame) :
    (haltFrame s f).pending = s.pending ∧ (haltFrame s f).mem = s.mem :=
  by simp [haltFrame]

@[simp] theorem haltNow_frame (s : State) (cause : BitVec 4) (fault : W64) :
    (haltNow s cause fault).pending = s.pending ∧ (haltNow s cause fault).mem = s.mem :=
  by simp [haltNow]

@[simp] theorem shelfHeaderIn_frame (s : State) (west : Bool) (h : List Byte) :
    (shelfHeaderIn s west h).pending = s.pending ∧ (shelfHeaderIn s west h).mem = s.mem :=
  by unfold shelfHeaderIn; (repeat' split) <;> simp

@[simp] theorem bumpSegment_frame (s : State) (west : Bool) (core : Nat) :
    (bumpSegment s west core).pending = s.pending ∧ (bumpSegment s west core).mem = s.mem :=
  by simp [bumpSegment]

@[simp] theorem markLanded_frame (s : State) (west : Bool) (x : Shelf) (core k : Nat) :
    (markLanded s west x core k).pending = s.pending ∧ (markLanded s west x core k).mem = s.mem :=
  by simp [markLanded]

@[simp] theorem landStep0_frame (s : State) (west : Bool) (x : Shelf) (core : Nat) :
    (landStep0 s west x core).pending = s.pending ∧ (landStep0 s west x core).mem = s.mem :=
  by simp [landStep0]

@[simp] theorem landStep_pending (s : State) (west : Bool) (x : Shelf) (core k : Nat) :
    (landStep s west x core k).pending = s.pending :=
  by unfold landStep; dsimp only; repeat' (first | (simp; done) | split)

@[simp] theorem landStep_wf (s : State) (west : Bool) (x : Shelf) (core k : Nat) (h :
    Memory.wf s.mem = true) : Memory.wf (landStep s west x core k).mem = true :=
  by unfold landStep; dsimp only; repeat' (first | (simp [h]; done) | split)

@[simp] theorem segmentLand_pending (s : State) (west : Bool) (core k : Nat) :
    (segmentLand s west core k).pending = s.pending :=
  by unfold segmentLand; (repeat' split) <;> simp

@[simp] theorem segmentLand_wf (s : State) (west : Bool) (core k : Nat) (h :
    Memory.wf s.mem = true) : Memory.wf (segmentLand s west core k).mem = true :=
  by unfold segmentLand; (repeat' split) <;> simp [h]

@[simp] theorem ringOverrun_frame (s : State) (core : Nat) :
    (ringOverrun s core).pending = s.pending ∧ (ringOverrun s core).mem = s.mem :=
  by simp [ringOverrun]

@[simp] theorem abandon_frame (s : State) (west : Bool) :
    (abandon s west).pending = s.pending ∧ (abandon s west).mem = s.mem :=
  by unfold abandon; split <;> simp

@[simp] theorem holdShelf_frame (s : State) (west : Bool) :
    (holdShelf s west).pending = s.pending ∧ (holdShelf s west).mem = s.mem :=
  by unfold holdShelf; split <;> simp

@[simp] theorem setPlace_frame (s : State) (p : RingPlace) :
    (setPlace s p).pending = s.pending ∧ (setPlace s p).mem = s.mem :=
  by simp [setPlace]

@[simp] theorem leadIn_frame (s : State) (lap pass : Nat) :
    (leadIn s lap pass).pending = s.pending ∧ (leadIn s lap pass).mem = s.mem :=
  by simp [leadIn]

@[simp] theorem lapBeat_frame (s : State) (p : RingPlace) : (lapBeat s p).pending = s.pending ∧ (lapBeat s p).mem = s.mem :=
  by unfold lapBeat; dsimp only; repeat' (first | (simp; done) | split)

@[simp] theorem startPasses_frame (s : State) : (startPasses s).pending = s.pending ∧ (startPasses s).mem = s.mem :=
  by simp [startPasses]

@[simp] theorem checkBeat_frame (s : State) : (checkBeat s).pending = s.pending ∧ (checkBeat s).mem = s.mem :=
  by unfold checkBeat; dsimp only; repeat' (first | (simp; done) | split)

@[simp] theorem beatHalts_frame (s : State) (next : Option RingPlace) :
    (beatHalts s next).pending = s.pending ∧ (beatHalts s next).mem = s.mem :=
  by unfold beatHalts; repeat' (first | (simp; done) | split)

@[simp] theorem ringBeat_frame (s : State) : (ringBeat s).pending = s.pending ∧ (ringBeat s).mem = s.mem :=
  by unfold ringBeat; dsimp only; repeat' (first | (simp ; done) | (simp_all; done) | split)

@[simp] theorem groupCopyStart_frame (s : State) : (groupCopyStart s).pending = s.pending ∧ (groupCopyStart s).mem = s.mem :=
  by unfold groupCopyStart; split <;> simp

@[simp] theorem copyImage_pending (s : State) (d : RingDir) (g : Nat) (west : Bool) :
    (copyImage s d g west).pending = s.pending :=
  by simp [copyImage]

@[simp] theorem copyImage_wf (s : State) (d : RingDir) (g : Nat) (west : Bool) (h :
    Memory.wf s.mem = true) : Memory.wf (copyImage s d g west).mem = true :=
  by simp [copyImage, h]

@[simp] theorem groupCopyEnd_pending (s : State) : (groupCopyEnd s).pending = s.pending :=
  by unfold groupCopyEnd; split <;> simp

@[simp] theorem groupCopyEnd_wf (s : State) (h : Memory.wf s.mem = true) : Memory.wf (groupCopyEnd s).mem = true :=
  by unfold groupCopyEnd; split <;> simp [h]

@[simp] theorem takeVersion_pending (s : State) (v : W16) : (takeVersion s v).pending = s.pending := by simp [takeVersion]

@[simp] theorem takeVersion_wf (s : State) (v : W16) (h : Memory.wf s.mem = true) : Memory.wf (takeVersion s v).mem = true :=
  by simp [takeVersion, h]

@[simp] theorem swapSwitch_pending (s : State) : (swapSwitch s).pending = s.pending := by unfold swapSwitch; split <;> simp

@[simp] theorem swapSwitch_wf (s : State) (h : Memory.wf s.mem = true) : Memory.wf (swapSwitch s).mem = true :=
  by unfold swapSwitch; split <;> simp [h]

@[simp] theorem enterSwap_frame (s : State) : (enterSwap s).pending = s.pending ∧ (enterSwap s).mem = s.mem :=
  by simp [enterSwap]

@[simp] theorem restartRing_frame (s : State) (zero : Bool) (d : RingDir) :
    (restartRing s zero d).pending = s.pending ∧ (restartRing s zero d).mem = s.mem :=
  by unfold restartRing; dsimp only; (repeat' split) <;> simp

@[simp] theorem restart_frame (s : State) : (restart s).pending = s.pending ∧ (restart s).mem = s.mem :=
  by unfold restart; dsimp only; repeat' (first | (simp ; done) | split)

@[simp] theorem ringEpoch_pending (s : State) : (ringEpoch s).pending = s.pending := by simp [ringEpoch]

@[simp] theorem ringEpoch_wf (s : State) (h : Memory.wf s.mem = true) : Memory.wf (ringEpoch s).mem = true :=
  by simp [ringEpoch, h]

@[simp] theorem wrgErr_frame (s : State) (e : BitVec 4) : (wrgErr s e).pending = s.pending ∧ (wrgErr s e).mem = s.mem :=
  by simp [wrgErr]

@[simp] theorem zeroRegions_pending (s : State) : (zeroRegions s).pending = s.pending := by simp [zeroRegions]

@[simp] theorem zeroRegions_wf (s : State) (h : Memory.wf s.mem = true) : Memory.wf (zeroRegions s).mem = true :=
  by unfold zeroRegions; (repeat' split) <;> simp_all

@[simp] theorem wrgCtlWrite_pending (s : State) (v : W32) : (wrgCtlWrite s v).pending = s.pending := by simp [wrgCtlWrite]

@[simp] theorem wrgCtlWrite_wf (s : State) (v : W32) (h : Memory.wf s.mem = true) : Memory.wf (wrgCtlWrite s v).mem = true :=
  by simp [wrgCtlWrite, h]

@[simp] theorem wrgStatWrite_frame (s : State) (v : W32) :
    (wrgStatWrite s v).pending = s.pending ∧ (wrgStatWrite s v).mem = s.mem :=
  by simp [wrgStatWrite]

end Sys2Proof.Machine
end

