-- ==== Sys2Proof/Laws/FrameCoreCtl.lean ====
section
/-! SUPPORT. Laws/FrameCoreCtl.lean: what the operations of Machine/CoreCtl.lean leave alone: the queue of commands, and the memory or
its canonical form. -/

namespace Sys2Proof.Machine

@[simp] theorem postCore_frame (s : State) (n kind : Nat) (b : EvtBody) :
    (postCore s n kind b).pending = s.pending ∧ (postCore s n kind b).mem = s.mem :=
  by simp [postCore]

@[simp] theorem postFault_frame (s : State) (n code sub agent : Nat) (precise : Bool) (instr detail : W32) :
    (postFault s n code sub agent precise instr detail).pending = s.pending ∧ (postFault s n code sub agent precise instr detail).mem = s.mem :=
  by simp [postFault]

@[simp] theorem cpFault_frame (s : State) (n code sub : Nat) (detail : W32) :
    (cpFault s n code sub detail).pending = s.pending ∧ (cpFault s n code sub detail).mem = s.mem :=
  by simp [cpFault]

@[simp] theorem unitFault_frame (s : State) (n u code sub : Nat) (pc detail : W32) :
    (unitFault s n u code sub pc detail).pending = s.pending ∧ (unitFault s n u code sub pc detail).mem = s.mem :=
  by simp [unitFault]

@[simp] theorem unitOffline_frame (s : State) (n u : Nat) (pc : W32) :
    (unitOffline s n u pc).pending = s.pending ∧ (unitOffline s n u pc).mem = s.mem :=
  by unfold unitOffline; repeat' (first | (simp; done) | split)

@[simp] theorem flushStores_pending (s : State) (n : Nat) : (flushStores s n).pending = s.pending := by simp [flushStores]

@[simp] theorem flushStores_wf (s : State) (n : Nat) (h : Memory.wf s.mem = true) : Memory.wf (flushStores s n).mem = true :=
  by unfold flushStores; (repeat' split) <;> simp_all

@[simp] theorem enterHalted_pending (s : State) (n : Nat) : (enterHalted s n).pending = s.pending := by simp [enterHalted]

@[simp] theorem enterHalted_wf (s : State) (n : Nat) (h : Memory.wf s.mem = true) : Memory.wf (enterHalted s n).mem = true :=
  by simp [enterHalted, h]

@[simp] theorem coreDrained_pending (s : State) (n : Nat) : (coreDrained s n).pending = s.pending := by simp [coreDrained]

@[simp] theorem coreDrained_wf (s : State) (n : Nat) (h : Memory.wf s.mem = true) : Memory.wf (coreDrained s n).mem = true :=
  by simp [coreDrained, h]

@[simp] theorem corErr_frame (s : State) (n : Nat) (e : BitVec 4) :
    (corErr s n e).pending = s.pending ∧ (corErr s n e).mem = s.mem :=
  by simp [corErr]

@[simp] theorem corPcWrite_frame (s : State) (n : Nat) (v : W32) :
    (corPcWrite s n v).pending = s.pending ∧ (corPcWrite s n v).mem = s.mem :=
  by simp [corPcWrite]

@[simp] theorem advanceBoot_frame (s : State) : (advanceBoot s).pending = s.pending ∧ (advanceBoot s).mem = s.mem :=
  by simp [advanceBoot]

@[simp] theorem selftestEnd_frame (s : State) (n : Nat) (fails soft : BitVec 4) (cover : BitVec 24) :
    (selftestEnd s n fails soft cover).pending = s.pending ∧ (selftestEnd s n fails soft cover).mem = s.mem :=
  by simp [selftestEnd]

@[simp] theorem fdisWrite_frame (s : State) (n : Nat) (v : W32) :
    (fdisWrite s n v).pending = s.pending ∧ (fdisWrite s n v).mem = s.mem :=
  by simp [fdisWrite]

end Sys2Proof.Machine
end

