-- ==== Sys2Proof/Laws/FrameDescriptor.lean ====
section
/-! SUPPORT. Laws/FrameDescriptor.lean: what the operations of Machine/Descriptor.lean leave alone: the queue of commands, and the memory or
its canonical form. -/

namespace Sys2Proof.Machine

@[simp] theorem cpRead_frame (s : State) (n a k : Nat) :
    (cpRead s n a k).1.pending = s.pending ∧ (cpRead s n a k).1.mem = s.mem :=
  by unfold cpRead; dsimp only; repeat' (first | (simp; done) | split)

theorem cpRead_leaves {s t : State} {n a k : Nat} {r : Except (Nat × Nat × W32) (List Byte)} (e : cpRead s n a k = (t, r)) :
    t.pending = s.pending ∧ t.mem = s.mem := by
  have h := cpRead_frame s n a k
  rw [e] at h
  exact h

end Sys2Proof.Machine
end

