-- ==== Sys2Proof/Laws/FrameIssue.lean ====
section
/-! SUPPORT. Laws/FrameIssue.lean: what the operations of Machine/Issue.lean leave alone: the queue of commands, and the memory or
its canonical form. -/

namespace Sys2Proof.Machine

@[simp] theorem issueWith_pending (s : State) (n : Nat) (g : Guard) (i : Isa) (eff : State → State)
    (h : ∀ s, (eff s).pending = s.pending) : (issueWith s n g i eff).pending = s.pending := by
  simp [issueWith, h]

@[simp] theorem issueWith_mem (s : State) (n : Nat) (g : Guard) (i : Isa) (eff : State → State)
    (h : ∀ s, (eff s).mem = s.mem) : (issueWith s n g i eff).mem = s.mem := by
  simp [issueWith, h]

@[simp] theorem doAlu_frame (s : State) (n : Nat) (f : FieldsR) :
    (doAlu s n f).pending = s.pending ∧ (doAlu s n f).mem = s.mem :=
  by simp [doAlu]

@[simp] theorem doAlui_frame (s : State) (n : Nat) (f : FieldsI) :
    (doAlui s n f).pending = s.pending ∧ (doAlui s n f).mem = s.mem :=
  by simp [doAlui]

@[simp] theorem doCmp_frame (s : State) (n : Nat) (f : FieldsR) :
    (doCmp s n f).pending = s.pending ∧ (doCmp s n f).mem = s.mem :=
  by simp [doCmp]

@[simp] theorem doCmpi_frame (s : State) (n : Nat) (f : FieldsI) :
    (doCmpi s n f).pending = s.pending ∧ (doCmpi s n f).mem = s.mem :=
  by simp [doCmpi]

@[simp] theorem doPlog_frame (s : State) (n : Nat) (f : FieldsR) :
    (doPlog s n f).pending = s.pending ∧ (doPlog s n f).mem = s.mem :=
  by simp [doPlog]

@[simp] theorem doAop_frame (s : State) (n : Nat) (f : FieldsI) :
    (doAop s n f).pending = s.pending ∧ (doAop s n f).mem = s.mem :=
  by simp [doAop]

@[simp] theorem doLd_frame (s : State) (n : Nat) (f : FieldsI) :
    (doLd s n f).pending = s.pending ∧ (doLd s n f).mem = s.mem :=
  by unfold doLd; dsimp only; repeat' (first | (simp; done) | (next e => simp [cpRead_leaves e]; done) | (next e _ _ => simp [cpRead_leaves e]; done) | (next e _ _ _ => simp [cpRead_leaves e]; done) | split)

@[simp] theorem doSt_frame (s : State) (n : Nat) (f : FieldsI) :
    (doSt s n f).pending = s.pending ∧ (doSt s n f).mem = s.mem :=
  by simp [doSt]

@[simp] theorem doRdc_frame (s : State) (n : Nat) (f : FieldsI) :
    (doRdc s n f).pending = s.pending ∧ (doRdc s n f).mem = s.mem :=
  by simp [doRdc]

@[simp] theorem doTdld_frame (s : State) (n : Nat) (f : FieldsI) :
    (doTdld s n f).pending = s.pending ∧ (doTdld s n f).mem = s.mem :=
  by unfold doTdld; dsimp only; repeat' (first | (simp; done) | (next e => simp [cpRead_leaves e]; done) | (next e _ _ => simp [cpRead_leaves e]; done) | (next e _ _ _ => simp [cpRead_leaves e]; done) | split)

@[simp] theorem doTdst_frame (s : State) (n : Nat) (f : FieldsI) :
    (doTdst s n f).pending = s.pending ∧ (doTdst s n f).mem = s.mem :=
  by simp [doTdst]

@[simp] theorem doTdbase_frame (s : State) (n : Nat) (f : FieldsI) :
    (doTdbase s n f).pending = s.pending ∧ (doTdbase s n f).mem = s.mem :=
  by unfold doTdbase; dsimp only; repeat' (first | (simp; done) | split)

@[simp] theorem doJ_frame (s : State) (n : Nat) (f : FieldsJ) : (doJ s n f).pending = s.pending ∧ (doJ s n f).mem = s.mem :=
  by simp [doJ]

@[simp] theorem doJal_frame (s : State) (n : Nat) (f : FieldsJ) :
    (doJal s n f).pending = s.pending ∧ (doJal s n f).mem = s.mem :=
  by simp [doJal]

@[simp] theorem doJalr_frame (s : State) (n : Nat) (f : FieldsI) :
    (doJalr s n f).pending = s.pending ∧ (doJalr s n f).mem = s.mem :=
  by simp [doJalr]

@[simp] theorem doDjnz_frame (s : State) (n : Nat) (f : FieldsJ) :
    (doDjnz s n f).pending = s.pending ∧ (doDjnz s n f).mem = s.mem :=
  by simp [doDjnz]

@[simp] theorem doWaitc_frame (s : State) (n : Nat) (f : FieldsWC) :
    (doWaitc s n f).pending = s.pending ∧ (doWaitc s n f).mem = s.mem :=
  by unfold doWaitc; (repeat' split) <;> simp

@[simp] theorem doWaitb_frame (s : State) (n : Nat) (f : FieldsWB) :
    (doWaitb s n f).pending = s.pending ∧ (doWaitb s n f).mem = s.mem :=
  by unfold doWaitb; (repeat' split) <;> simp

@[simp] theorem doFence_frame (s : State) (n : Nat) (mask : Byte) :
    (doFence s n mask).pending = s.pending ∧ (doFence s n mask).mem = s.mem :=
  by simp [doFence]

@[simp] theorem doCset_frame (s : State) (n : Nat) (f : FieldsCT) :
    (doCset s n f).pending = s.pending ∧ (doCset s n f).mem = s.mem :=
  by simp [doCset]

@[simp] theorem doCadd_frame (s : State) (n : Nat) (f : FieldsCT) :
    (doCadd s n f).pending = s.pending ∧ (doCadd s n f).mem = s.mem :=
  by simp [doCadd]

@[simp] theorem doCread_frame (s : State) (n : Nat) (f : FieldsCT) (parity : Bool) :
    (doCread s n f parity).pending = s.pending ∧ (doCread s n f parity).mem = s.mem :=
  by simp [doCread]

@[simp] theorem doSignal_frame (s : State) (n : Nat) (f : FieldsSG) :
    (doSignal s n f).pending = s.pending ∧ (doSignal s n f).mem = s.mem :=
  by simp [doSignal]

@[simp] theorem doTdchk_frame (s : State) (n : Nat) (f : FieldsR) :
    (doTdchk s n f).pending = s.pending ∧ (doTdchk s n f).mem = s.mem :=
  by simp [doTdchk]

@[simp] theorem doEnd_frame (s : State) (n : Nat) : (doEnd s n).pending = s.pending ∧ (doEnd s n).mem = s.mem :=
  by simp [doEnd]

@[simp] theorem doNop_frame (s : State) (n : Nat) : (doNop s n).pending = s.pending ∧ (doNop s n).mem = s.mem :=
  by simp [doNop]

@[simp] theorem doMove_frame (s : State) (n : Nat) (f : FieldsMV) :
    (doMove s n f).pending = s.pending ∧ (doMove s n f).mem = s.mem :=
  by unfold doMove; dsimp only; repeat' (first | (simp; done) | (next e => simp [cpRead_leaves e]; done) | (next e _ _ => simp [cpRead_leaves e]; done) | (next e _ _ _ => simp [cpRead_leaves e]; done) | split)

@[simp] theorem doPut_frame (s : State) (n : Nat) (f : FieldsPT) :
    (doPut s n f).pending = s.pending ∧ (doPut s n f).mem = s.mem :=
  by simp [doPut]

@[simp] theorem enqueueOp_frame (s : State) (n : Nat) (i : Isa) (used : List (Option TD)) (k : Capture) (scalar : W64) :
    (enqueueOp s n i used k scalar).pending = s.pending ∧ (enqueueOp s n i used k scalar).mem = s.mem :=
  by unfold enqueueOp; split <;> simp

@[simp] theorem doTm_frame (s : State) (n : Nat) (op : TmOp) (f : FieldsTM) :
    (doTm s n op f).pending = s.pending ∧ (doTm s n op f).mem = s.mem :=
  by simp [doTm]

@[simp] theorem doVec_frame (s : State) (n : Nat) (f : FieldsV) :
    (doVec s n f).pending = s.pending ∧ (doVec s n f).mem = s.mem :=
  by simp [doVec]

@[simp] theorem doTflg_frame (s : State) (n : Nat) (f : FieldsFL) :
    (doTflg s n f).pending = s.pending ∧ (doTflg s n f).mem = s.mem :=
  by simp [doTflg]

@[simp] theorem doCx_frame (s : State) (n : Nat) (i : Isa) (f : FieldsCX) :
    (doCx s n i f).pending = s.pending ∧ (doCx s n i f).mem = s.mem :=
  by simp [doCx]

@[simp] theorem doCall_frame (s : State) (n : Nat) (f : FieldsCL) :
    (doCall s n f).pending = s.pending ∧ (doCall s n f).mem = s.mem :=
  by simp [doCall]

@[simp] theorem doCpri_frame (s : State) (n : Nat) (f : FieldsCP) :
    (doCpri s n f).pending = s.pending ∧ (doCpri s n f).mem = s.mem :=
  by simp [doCpri]

@[simp] theorem effect_frame (s : State) (n : Nat) (i : Isa) :
    (effect s n i).pending = s.pending ∧ (effect s n i).mem = s.mem := by
  cases i <;> simp [effect]

@[simp] theorem issue_frame (s : State) (n : Nat) (g : Guard) (i : Isa) :
    (issue s n g i).pending = s.pending ∧ (issue s n g i).mem = s.mem :=
  by simp [issue]

@[simp] theorem fetchWord_frame (s : State) (n : Nat) :
    (fetchWord s n).1.pending = s.pending ∧ (fetchWord s n).1.mem = s.mem :=
  by unfold fetchWord; dsimp only; repeat' (first | (simp; done) | split)

@[simp] theorem fetchIssue_frame (s : State) (n : Nat) :
    (fetchIssue s n).pending = s.pending ∧ (fetchIssue s n).mem = s.mem :=
  by unfold fetchIssue; dsimp only; repeat' (first | (simp; done) | split)

@[simp] theorem storeWritten_pending (s : State) (n : Nat) : (storeWritten s n).pending = s.pending :=
  by unfold storeWritten; split <;> simp

@[simp] theorem storeWritten_wf (s : State) (n : Nat) (h :
    Memory.wf s.mem = true) : Memory.wf (storeWritten s n).mem = true :=
  by unfold storeWritten; split <;> simp [h]

@[simp] theorem waitcComplete_frame (s : State) (n agent : Nat) :
    (waitcComplete s n agent).pending = s.pending ∧ (waitcComplete s n agent).mem = s.mem :=
  by unfold waitcComplete; dsimp only; repeat' (first | (simp; done) | split)

@[simp] theorem waitbComplete_frame (s : State) (n agent : Nat) :
    (waitbComplete s n agent).pending = s.pending ∧ (waitbComplete s n agent).mem = s.mem :=
  by unfold waitbComplete; dsimp only; repeat' (first | (simp; done) | split)

end Sys2Proof.Machine
end

