-- ==== Sys2Proof/Laws/FrameArray.lean ====
section
/-! SUPPORT. Laws/FrameArray.lean: what the operations of Machine/Array.lean leave alone: the queue of commands, and the memory or its
canonical form. -/

namespace Sys2Proof.Machine

/-- A fold over the state keeps what every step of it keeps. -/
theorem foldl_keeps {α β γ : Type} (p : γ → β) (f : γ → α → γ) (h : ∀ s a, p (f s a) = p s) (l : List α) (s : γ) :
    p (l.foldl f s) = p s := by
  induction l generalizing s with
  | nil => rfl
  | cons a l ih => rw [List.foldl_cons, ih, h]

@[simp] theorem readStep_frame (s : State) (n u : Nat) (x : QEntry) (reads : List (Nat × Nat)) :
    (readStep s n u x reads).state.pending = s.pending ∧ (readStep s n u x reads).state.mem = s.mem :=
  by unfold readStep; repeat' (first | (simp; done) | split)

@[simp] theorem settled_frame (s : State) (fmt : Nat) (invalid : Bool) (es : List Elem) :
    (settled s fmt invalid es).1.pending = s.pending ∧ (settled s fmt invalid es).1.mem = s.mem :=
  by unfold settled; repeat' (first | (simp; done) | split)

@[simp] theorem pushPiece_frame (s : State) (x : QEntry) (d : TD) (piece : List ((Nat × Nat) × Elem)) :
    (pushPiece s x d piece).1.pending = s.pending ∧ (pushPiece s x d piece).1.mem = s.mem :=
  by unfold pushPiece; dsimp only; repeat' (first | (simp ; done) | (simp_all; done) | split)

@[simp] theorem pushPieces_frame (s : State) (x : QEntry) (d : TD) (ps : List (List ((Nat × Nat) × Elem))) :
    (pushPieces s x d ps).1.pending = s.pending ∧ (pushPieces s x d ps).1.mem = s.mem := by
  constructor
  · exact foldl_keeps (fun r : State × QEntry => r.1.pending) _ (fun r p => (pushPiece_frame r.1 r.2 d p).1) ps (s, x)
  · exact foldl_keeps (fun r : State × QEntry => r.1.mem) _ (fun r p => (pushPiece_frame r.1 r.2 d p).2) ps (s, x)

@[simp] theorem modArray_frame (s : State) (n u : Nat) (f : TrsArray → TrsArray) :
    (modArray s n u f).pending = s.pending ∧ (modArray s n u f).mem = s.mem :=
  by unfold modArray; repeat' (first | (simp; done) | split)

@[simp] theorem loadTile_frame (s : State) (n u : Nat) (v : TmView) (bits : List Nat) (cells : List Num) (f : TrsArray →
    TrsArray) :
    (loadTile s n u v bits cells f).pending = s.pending ∧ (loadTile s n u v bits cells f).mem = s.mem :=
  by unfold loadTile; repeat' (first | (simp; done) | split)

@[simp] theorem settledBits_frame (s : State) (invalid : Bool) (width : Nat) (bits : List Nat) :
    (settledBits s invalid width bits).1.pending = s.pending ∧ (settledBits s invalid width bits).1.mem = s.mem :=
  by unfold settledBits; repeat' (first | (simp; done) | split)

@[simp] theorem stageTile_frame (s : State) (n u : Nat) (x : QEntry) (v : TmView) (o : Ops) (t : Tile) :
    (stageTile s n u x v o t).state.pending = s.pending ∧ (stageTile s n u x v o t).state.mem = s.mem :=
  by unfold stageTile; dsimp only; repeat' (first | (simp ; done) | (simp_all; done) | split)

@[simp] theorem loadStep_frame (s : State) (n u : Nat) (x : QEntry) (v : TmView) (o : Ops) (sh : Nat × Nat × Nat) (t : Tile)
    (total : Nat) :
    (loadStep s n u x v o sh t total).state.pending = s.pending ∧ (loadStep s n u x v o sh t total).state.mem = s.mem :=
  by unfold loadStep; dsimp only; repeat' (first | (simp ; done) | (simp_all; done) | split)

@[simp] theorem streamStep_frame (s : State) (n u : Nat) (x : QEntry) (v : TmView) (o : Ops) (t : Tile) (total : Nat) :
    (streamStep s n u x v o t total).state.pending = s.pending ∧ (streamStep s n u x v o t total).state.mem = s.mem :=
  by unfold streamStep; dsimp only; repeat' (first | (simp; done) | split)

@[simp] theorem elemStep_frame (s : State) (n u : Nat) (x : QEntry) (i : Isa) (o : Ops) (scalar : W64) (sh : Nat × Nat × Nat) :
    (elemStep s n u x i o scalar sh).state.pending = s.pending ∧ (elemStep s n u x i o scalar sh).state.mem = s.mem :=
  by unfold elemStep; dsimp only; repeat' (first | (simp ; done) | (simp_all; done) | split)

@[simp] theorem stepEntry_frame (s : State) (n u : Nat) (x : QEntry) :
    (stepEntry s n u x).state.pending = s.pending ∧ (stepEntry s n u x).state.mem = s.mem :=
  by unfold stepEntry; dsimp only; repeat' (first | (simp ; done) | (simp_all; done) | split)

@[simp] theorem runEntry_frame (k : Nat) (s : State) (n u : Nat) (x : QEntry) :
    (runEntry k s n u x).state.pending = s.pending ∧ (runEntry k s n u x).state.mem = s.mem := by
  induction k generalizing s x with
  | zero => exact ⟨rfl, rfl⟩
  | succ k ih =>
    unfold runEntry
    split
    · exact ⟨rfl, rfl⟩
    · dsimp only
      split
      · simp
      · simp [ih]

@[simp] theorem finishEntry_frame (s : State) (n u : Nat) (x : QEntry) :
    (finishEntry s n u x).state.pending = s.pending ∧ (finishEntry s n u x).state.mem = s.mem :=
  by unfold finishEntry; repeat' (first | (simp; done) | split)

@[simp] theorem writeAll_pending (s : State) (n : Nat) (ws : List (Nat × List Byte)) : (writeAll s n ws).pending = s.pending :=
  by unfold writeAll; repeat' (first | (simp; done) | split)

@[simp] theorem writeAll_wf (s : State) (n : Nat) (ws : List (Nat × List Byte)) (h : Memory.wf s.mem = true) :
    Memory.wf (writeAll s n ws).mem = true :=
  by unfold writeAll; repeat' (first | (simp [h]; done) | (simp_all; done) | split)

@[simp] theorem loadPiece_frame (s : State) (n u : Nat) (i : Isa) (o : Ops) (scalar : W64) (lo hi : Nat) :
    (loadPiece s n u i o scalar lo hi).pending = s.pending ∧ (loadPiece s n u i o scalar lo hi).mem = s.mem := by
  unfold loadPiece
  split
  · exact ⟨rfl, rfl⟩
  · constructor <;> (apply foldl_keeps; intro s j; split <;> simp)

end Sys2Proof.Machine
end

