-- ==== Sys2Proof/Laws/FrameInstall.lean ====
section
/-! SUPPORT. Laws/FrameInstall.lean: what the operations of Machine/Install.lean leave alone: the queue of commands, and the memory or
its canonical form. -/

namespace Sys2Proof.Machine

@[simp] theorem enterIdent_frame (s : State) (p : Nat) (f : Port → Port) :
    (enterIdent s p f).pending = s.pending ∧ (enterIdent s p f).mem = s.mem :=
  by unfold enterIdent; repeat' (first | (simp; done) | split)

@[simp] theorem darkPorts_frame (s : State) (t : Table) :
    (darkPorts s t).pending = s.pending ∧ (darkPorts s t).mem = s.mem :=
  by simp [darkPorts]

@[simp] theorem startCheck_frame (s : State) : (startCheck s).pending = s.pending ∧ (startCheck s).mem = s.mem :=
  by simp [startCheck]

@[simp] theorem enterLoaded_frame (s : State) (t : Table) :
    (enterLoaded s t).pending = s.pending ∧ (enterLoaded s t).mem = s.mem :=
  by simp [enterLoaded]

@[simp] theorem instErr_frame (s : State) (e : BitVec 4) : (instErr s e).pending = s.pending ∧ (instErr s e).mem = s.mem :=
  by simp [instErr]

@[simp] theorem leaveReady_frame (s : State) : (leaveReady s).pending = s.pending ∧ (leaveReady s).mem = s.mem :=
  by simp [leaveReady]

@[simp] theorem instLoad_frame (s : State) : (instLoad s).pending = s.pending ∧ (instLoad s).mem = s.mem :=
  by simp [instLoad]

@[simp] theorem instAnchor_frame (s : State) : (instAnchor s).pending = s.pending ∧ (instAnchor s).mem = s.mem :=
  by unfold instAnchor; (repeat' split) <;> simp

@[simp] theorem instVerify_frame (s : State) : (instVerify s).pending = s.pending ∧ (instVerify s).mem = s.mem :=
  by simp [instVerify]

@[simp] theorem instWrite_frame (s : State) (v : W32) : (instWrite s v).pending = s.pending ∧ (instWrite s v).mem = s.mem :=
  by simp [instWrite]

@[simp] theorem parseEnd_pending (s : State) : (parseEnd s).pending = s.pending :=
  by unfold parseEnd; dsimp only; repeat' (first | (simp; done) | split)

@[simp] theorem parseEnd_wf (s : State) (h : Memory.wf s.mem = true) : Memory.wf (parseEnd s).mem = true :=
  by unfold parseEnd; dsimp only; repeat' (first | (simp [h]; done) | split)

@[simp] theorem sendId_frame (s : State) (p : Nat) :
    (sendId s p).pending = s.pending ∧ (sendId s p).mem = s.mem :=
  by unfold sendId; repeat' (first | (simp; done) | split)

@[simp] theorem beginTrain_frame (s : State) (p : Nat) :
    (beginTrain s p).pending = s.pending ∧ (beginTrain s p).mem = s.mem :=
  by simp [beginTrain]

@[simp] theorem portPass_frame (s : State) (p : Nat) (byp : Bool) :
    (portPass s p byp).pending = s.pending ∧ (portPass s p byp).mem = s.mem :=
  by simp [portPass]

@[simp] theorem portFail_frame (s : State) (p : Nat) : (portFail s p).pending = s.pending ∧ (portFail s p).mem = s.mem :=
  by simp [portFail]

@[simp] theorem idFrame_frame (s : State) (p : Nat) (f : IdFrame) :
    (idFrame s p f).pending = s.pending ∧ (idFrame s p f).mem = s.mem :=
  by unfold idFrame; split <;> simp

@[simp] theorem startBeat_frame (s : State) : (startBeat s).pending = s.pending ∧ (startBeat s).mem = s.mem :=
  by simp [startBeat]

@[simp] theorem checkEnd_frame (s : State) : (checkEnd s).pending = s.pending ∧ (checkEnd s).mem = s.mem :=
  by simp [checkEnd]

end Sys2Proof.Machine
end

