-- ==== Sys2Proof/Laws/FrameBeat.lean ====
section
/-! SUPPORT. Laws/FrameBeat.lean: what the operations of Machine/Beat.lean leave alone: the queue of commands, and the memory or
its canonical form. -/

namespace Sys2Proof.Machine

@[simp] theorem modBeatPort_frame (s : State) (p : Nat) (f : BeatPort → BeatPort) :
    (modBeatPort s p f).pending = s.pending ∧ (modBeatPort s p f).mem = s.mem :=
  by simp [modBeatPort]

@[simp] theorem setDist_frame (s : State) : (setDist s).pending = s.pending ∧ (setDist s).mem = s.mem :=
  by unfold setDist; split <;> simp

@[simp] theorem enterHoldover_frame (s : State) : (enterHoldover s).pending = s.pending ∧ (enterHoldover s).mem = s.mem :=
  by simp [enterHoldover]

@[simp] theorem enterRelock_frame (s : State) : (enterRelock s).pending = s.pending ∧ (enterRelock s).mem = s.mem :=
  by simp [enterRelock]

@[simp] theorem enterOos_frame (s : State) (p : Nat) : (enterOos s p).pending = s.pending ∧ (enterOos s p).mem = s.mem :=
  by simp [enterOos]

@[simp] theorem modPorts_frame (s : State) (gs : List Nat) :
    (modPorts s gs).pending = s.pending ∧ (modPorts s gs).mem = s.mem :=
  by unfold modPorts; repeat' (first | (simp; done) | split)

@[simp] theorem correct_frame (s : State) (beat : Bool) :
    (correct s beat).pending = s.pending ∧ (correct s beat).mem = s.mem :=
  by unfold correct; repeat' (first | (simp ; done) | split)

@[simp] theorem recordHeader_frame (s : State) (p : Nat) (h : BeatHdr) (e : Int) :
    (recordHeader s p h e).pending = s.pending ∧ (recordHeader s p h e).mem = s.mem :=
  by simp [recordHeader]

@[simp] theorem adopt_frame (s : State) (p : Nat) (h : BeatHdr) :
    (adopt s p h).pending = s.pending ∧ (adopt s p h).mem = s.mem :=
  by simp [adopt]

@[simp] theorem takeLive_frame (s : State) (p : Nat) (h : BeatHdr) :
    (takeLive s p h).pending = s.pending ∧ (takeLive s p h).mem = s.mem :=
  by simp [takeLive]

@[simp] theorem countEdge_frame (s : State) (p : Nat) (e : Int) :
    (countEdge s p e).pending = s.pending ∧ (countEdge s p e).mem = s.mem :=
  by simp [countEdge]

@[simp] theorem judgeHold_frame (s : State) (p : Nat) (h : BeatHdr) :
    (judgeHold s p h).pending = s.pending ∧ (judgeHold s p h).mem = s.mem :=
  by simp [judgeHold]

@[simp] theorem notDark_frame (s : State) (p : Nat) (h : BeatHdr) :
    (notDark s p h).pending = s.pending ∧ (notDark s p h).mem = s.mem :=
  by simp [notDark]

@[simp] theorem afterHeader_frame (s : State) (p : Nat) :
    (afterHeader s p).pending = s.pending ∧ (afterHeader s p).mem = s.mem :=
  by unfold afterHeader; (repeat' split) <;> simp

@[simp] theorem judgeHeader_frame (s : State) (p : Nat) (h : BeatHdr) (e : Int) :
    (judgeHeader s p h e).pending = s.pending ∧ (judgeHeader s p h e).mem = s.mem :=
  by unfold judgeHeader; dsimp only; repeat' (first | (simp ; done) | (simp_all; done) | split)

@[simp] theorem acquireHeader_frame (s : State) (p : Nat) (h : BeatHdr) :
    (acquireHeader s p h).pending = s.pending ∧ (acquireHeader s p h).mem = s.mem :=
  by simp [acquireHeader]

@[simp] theorem beatHeaderIn_frame (s : State) (p : Nat) (h : BeatHdr) (e : Int) :
    (beatHeaderIn s p h e).pending = s.pending ∧ (beatHeaderIn s p h e).mem = s.mem :=
  by simp [beatHeaderIn]

@[simp] theorem noteStandby_frame (s : State) (p : Nat) :
    (noteStandby s p).pending = s.pending ∧ (noteStandby s p).mem = s.mem :=
  by unfold noteStandby; repeat' (first | (simp; done) | split)

@[simp] theorem missHeader_frame (s : State) (p : Nat) :
    (missHeader s p).pending = s.pending ∧ (missHeader s p).mem = s.mem :=
  by simp [missHeader]

@[simp] theorem standbyBack_frame (s : State) (p : Nat) :
    (standbyBack s p).pending = s.pending ∧ (standbyBack s p).mem = s.mem :=
  by unfold standbyBack; repeat' (first | (simp; done) | split)

@[simp] theorem relockMove_frame (s : State) : (relockMove s).pending = s.pending ∧ (relockMove s).mem = s.mem :=
  by simp [relockMove]

@[simp] theorem acquireEnd_frame (s : State) : (acquireEnd s).pending = s.pending ∧ (acquireEnd s).mem = s.mem :=
  by simp [acquireEnd]

@[simp] theorem liveTimeout_frame (s : State) : (liveTimeout s).pending = s.pending ∧ (liveTimeout s).mem = s.mem :=
  by simp [liveTimeout]

@[simp] theorem beatErr_frame (s : State) (e : BitVec 4) : (beatErr s e).pending = s.pending ∧ (beatErr s e).mem = s.mem :=
  by simp [beatErr]

@[simp] theorem stopBeat_frame (s : State) : (stopBeat s).pending = s.pending ∧ (stopBeat s).mem = s.mem :=
  by simp [stopBeat]

@[simp] theorem beatCtlWrite_frame (s : State) (v : W32) :
    (beatCtlWrite s v).pending = s.pending ∧ (beatCtlWrite s v).mem = s.mem :=
  by simp [beatCtlWrite]

@[simp] theorem beatGuardWrite_frame (s : State) (v : W32) :
    (beatGuardWrite s v).pending = s.pending ∧ (beatGuardWrite s v).mem = s.mem :=
  by simp [beatGuardWrite]

end Sys2Proof.Machine
end

