-- ==== Sys2Proof/Laws/FrameColl.lean ====
section
/-! SUPPORT. Laws/FrameColl.lean: what the operations of Machine/Coll.lean leave alone: the queue of commands, and the memory or
its canonical form. -/

namespace Sys2Proof.Machine

@[simp] theorem invalidEvent_frame (s : State) (n u : Nat) (pc : W32) :
    (invalidEvent s n u pc).pending = s.pending ∧ (invalidEvent s n u pc).mem = s.mem :=
  by simp [invalidEvent]

@[simp] theorem ovfDelivered_frame (s : State) : (ovfDelivered s).pending = s.pending ∧ (ovfDelivered s).mem = s.mem :=
  by simp [ovfDelivered]

@[simp] theorem freeRange_pending (s : State) (a n : Nat) : (freeRange s a n).pending = s.pending := by simp [freeRange]

@[simp] theorem freeRange_wf (s : State) (a n : Nat) (h : Memory.wf s.mem = true) : Memory.wf (freeRange s a n).mem = true :=
  by simp [freeRange, h]

@[simp] theorem freeRows_pending (s : State) (t : TD) : (freeRows s t).pending = s.pending := by simp [freeRows]

@[simp] theorem freeRows_wf (s : State) (t : TD) (h : Memory.wf s.mem = true) : Memory.wf (freeRows s t).mem = true := by
  rw [freeRows]
  refine foldl_wf _ _ _ (fun s r hs => ?_) h
  dsimp only
  split
  · exact foldl_wf _ _ _ (fun s i hs => freeRange_wf s _ _ hs) hs
  · exact freeRange_wf s _ _ hs

@[simp] theorem sendColl_frame (s : State) (ctx : Nat) (dest : Coord) (f : CollFrame) :
    (sendColl s ctx dest f).pending = s.pending ∧ (sendColl s ctx dest f).mem = s.mem :=
  by simp [sendColl]

@[simp] theorem modColl_frame (s : State) (g : Nat) (q : W16) (f : Coll → Coll) :
    (modColl s g q f).pending = s.pending ∧ (modColl s g q f).mem = s.mem :=
  by simp [modColl]

@[simp] theorem sendReady_frame (k : Nat) (s : State) (g : Nat) (q : W16) :
    (sendReady k s g q).pending = s.pending ∧ (sendReady k s g q).mem = s.mem := by
  induction k generalizing s with
  | zero => exact ⟨rfl, rfl⟩
  | succ k ih =>
    unfold sendReady
    split
    · exact ⟨rfl, rfl⟩
    · split <;> simp [ih]

@[simp] theorem sendGrant_frame (s : State) (c : Coll) (p : Phase) (minus : Bool) (granted : Nat) :
    (sendGrant s c p minus granted).pending = s.pending ∧ (sendGrant s c p minus granted).mem = s.mem :=
  by simp [sendGrant]

@[simp] theorem writeFinal_pending (s : State) (g : Nat) (q : W16) (i : Nat) (xs : List CElem) :
    (writeFinal s g q i xs).pending = s.pending := by
  induction xs generalizing s i with
  | nil => rfl
  | cons x xs ih => unfold writeFinal; (repeat' split) <;> simp [ih]

@[simp] theorem writeFinal_wf (s : State) (g : Nat) (q : W16) (i : Nat) (xs : List CElem)
    (h : Memory.wf s.mem = true) : Memory.wf (writeFinal s g q i xs).mem = true := by
  induction xs generalizing s i with
  | nil => exact h
  | cons x xs ih => unfold writeFinal; (repeat' split) <;> simp [ih, h]

@[simp] theorem dropChunks_frame (s : State) (g : Nat) (q : W16) :
    (dropChunks s g q).pending = s.pending ∧ (dropChunks s g q).mem = s.mem :=
  by simp [dropChunks]

@[simp] theorem spreadAbort_frame (s : State) (e : GroupEntry) (q : W16) (prio : Bool) (cause : Nat) :
    (spreadAbort s e q prio cause).pending = s.pending ∧ (spreadAbort s e q prio cause).mem = s.mem :=
  by simp [spreadAbort]

@[simp] theorem cpriFinish_frame (s : State) (n u g : Nat) (q : W16) (value : W64) (invalid ovf : Bool) :
    (cpriFinish s n u g q value invalid ovf).pending = s.pending ∧ (cpriFinish s n u g q value invalid ovf).mem = s.mem :=
  by unfold cpriFinish; dsimp only; repeat' (first | (simp; done) | split)

@[simp] theorem abortColl_frame (s : State) (e : GroupEntry) (q : W16) (prio : Bool) (cause : Nat) :
    (abortColl s e q prio cause).pending = s.pending ∧ (abortColl s e q prio cause).mem = s.mem :=
  by unfold abortColl; dsimp only; repeat' (first | (simp; done) | split)

@[simp] theorem takeGrant_frame (s : State) (c : Coll) (f : CollFrame) :
    (takeGrant s c f).pending = s.pending ∧ (takeGrant s c f).mem = s.mem :=
  by unfold takeGrant; (repeat' split) <;> simp

@[simp] theorem heldGrants_frame (s : State) (g : Nat) (q : W16) (code : Nat) :
    (heldGrants s g q code).pending = s.pending ∧ (heldGrants s g q code).mem = s.mem := by
  constructor
  · rw [heldGrants, foldl_pending]; intro s h; split <;> simp
  · rw [heldGrants, foldl_mem]; intro s h; split <;> simp

@[simp] theorem beginPhase_pending (s : State) (c : Coll) (p : Phase) : (beginPhase s c p).pending = s.pending :=
  by simp [beginPhase]

@[simp] theorem beginPhase_wf (s : State) (c : Coll) (p : Phase) (h :
    Memory.wf s.mem = true) : Memory.wf (beginPhase s c p).mem = true :=
  by simp [beginPhase, h]

@[simp] theorem advance_pending (k : Nat) (s : State) (g : Nat) (q : W16) :
    (advance k s g q).pending = s.pending := by
  induction k generalizing s with
  | zero => rfl
  | succ k ih =>
    unfold advance
    (repeat' split) <;> simp [ih]
    all_goals split <;> simp [ih]

@[simp] theorem advance_wf (k : Nat) (s : State) (g : Nat) (q : W16)
    (h : Memory.wf s.mem = true) : Memory.wf (advance k s g q).mem = true := by
  induction k generalizing s with
  | zero => exact h
  | succ k ih =>
    unfold advance
    (repeat' split) <;> simp [ih, h]
    all_goals split <;> simp [ih, h]

@[simp] theorem runColl_pending (s : State) (g : Nat) (q : W16) : (runColl s g q).pending = s.pending :=
  by unfold runColl; split <;> simp

@[simp] theorem runColl_wf (s : State) (g : Nat) (q : W16) (h :
    Memory.wf s.mem = true) : Memory.wf (runColl s g q).mem = true :=
  by unfold runColl; split <;> simp [h]

@[simp] theorem setSeqs_frame (s : State) (g : Nat) (v : W16 × W16) :
    (setSeqs s g v).pending = s.pending ∧ (setSeqs s g v).mem = s.mem :=
  by simp [setSeqs]

@[simp] theorem grantFrame_pending (s : State) (src : Coord) (f : CollFrame) : (grantFrame s src f).pending = s.pending :=
  by unfold grantFrame; (repeat' split) <;> simp

@[simp] theorem grantFrame_wf (s : State) (src : Coord) (f : CollFrame) (h :
    Memory.wf s.mem = true) : Memory.wf (grantFrame s src f).mem = true :=
  by unfold grantFrame; (repeat' split) <;> simp [h]

@[simp] theorem feedEngines_frame (k : Nat) (s : State) :
    (feedEngines k s).pending = s.pending ∧ (feedEngines k s).mem = s.mem := by
  induction k generalizing s with
  | zero => exact ⟨rfl, rfl⟩
  | succ k ih => unfold feedEngines; split <;> simp [ih]

@[simp] theorem chunkLands_frame (s : State) (src : Coord) (f : CollFrame) :
    (chunkLands s src f).pending = s.pending ∧ (chunkLands s src f).mem = s.mem :=
  by unfold chunkLands; (repeat' split) <;> simp

@[simp] theorem residue_frame (s : State) (engine k grp fmt : Nat) :
    (residue s engine k grp fmt).pending = s.pending ∧ (residue s engine k grp fmt).mem = s.mem :=
  by simp [residue]

@[simp] theorem workChunk_pending (s : State) (c : Coll) (p : Phase) (f : CollFrame) (bad : Bool) :
    (workChunk s c p f bad).pending = s.pending :=
  by unfold workChunk; split <;> simp

@[simp] theorem workChunk_wf (s : State) (c : Coll) (p : Phase) (f : CollFrame) (bad : Bool) (h :
    Memory.wf s.mem = true) : Memory.wf (workChunk s c p f bad).mem = true :=
  by unfold workChunk; split <;> simp [h]

@[simp] theorem engineDone_pending (s : State) (engine : Nat) (mismatch again : Bool) :
    (engineDone s engine mismatch again).pending = s.pending :=
  by unfold engineDone; dsimp only; repeat' (first | (simp; done) | split)

@[simp] theorem engineDone_wf (s : State) (engine : Nat) (mismatch again : Bool) (h :
    Memory.wf s.mem = true) : Memory.wf (engineDone s engine mismatch again).mem = true :=
  by unfold engineDone; dsimp only; repeat' (first | (simp [h]; done) | split)

@[simp] theorem setCombine_frame (s : State) (b : Combine) :
    (setCombine s b).pending = s.pending ∧ (setCombine s b).mem = s.mem :=
  by simp [setCombine]

@[simp] theorem addChecked_frame (s : State) (b : Combine) (v : W64) (poison ovf mismatch again : Bool) :
    (addChecked s b v poison ovf mismatch again).1.pending = s.pending ∧ (addChecked s b v poison ovf mismatch again).1.mem = s.mem :=
  by unfold addChecked; repeat' (first | (simp; done) | split)

@[simp] theorem combineStep_frame (s : State) (e : GroupEntry) (b : Combine) :
    (combineStep s e b).pending = s.pending ∧ (combineStep s e b).mem = s.mem :=
  by unfold combineStep; dsimp only; repeat' (first | (simp; done) | split)

@[simp] theorem upFrame_frame (s : State) (src : Coord) (f : CpriFrame) (mismatch again : Bool) :
    (upFrame s src f mismatch again).pending = s.pending ∧ (upFrame s src f mismatch again).mem = s.mem :=
  by unfold upFrame; (repeat' split) <;> simp

@[simp] theorem downFrame_frame (s : State) (src : Coord) (f : CpriFrame) :
    (downFrame s src f).pending = s.pending ∧ (downFrame s src f).mem = s.mem :=
  by unfold downFrame; (repeat' split) <;> simp

@[simp] theorem pruneAborts_frame (s : State) (g : Nat) (q : W16) (prio : Bool) :
    (pruneAborts s g q prio).pending = s.pending ∧ (pruneAborts s g q prio).mem = s.mem :=
  by simp [pruneAborts]

@[simp] theorem scatterLocal_pending (s : State) (i : Isa) (o : Ops) (rows : List (List Elem)) :
    (scatterLocal s i o rows).pending = s.pending :=
  by unfold scatterLocal; split <;> simp

@[simp] theorem scatterLocal_wf (s : State) (i : Isa) (o : Ops) (rows : List (List Elem)) (h :
    Memory.wf s.mem = true) : Memory.wf (scatterLocal s i o rows).mem = true :=
  by unfold scatterLocal; (repeat' split) <;> simp_all

@[simp] theorem enterColl_pending (s : State) (e : GroupEntry) (aborted clash : Bool) (c : Coll) :
    (enterColl s e aborted clash c).pending = s.pending := by
  unfold enterColl; dsimp only; repeat' (first | (simp; done) | split)

@[simp] theorem enterColl_wf (s : State) (e : GroupEntry) (aborted clash : Bool) (c : Coll)
    (h : Memory.wf s.mem = true) : Memory.wf (enterColl s e aborted clash c).mem = true := by
  unfold enterColl
  dsimp only
  split
  · simpa using h
  · split
    · simpa using h
    · split
      · simp [h]
      · refine advance_wf _ _ _ _ (beginPhase_wf _ _ _ (freeRange_wf _ _ _ ?_))
        exact h

@[simp] theorem startBulk_pending (s : State) (n u : Nat) (e : GroupEntry) (q : W16) (x : QEntry) (i : Isa) (o : Ops) :
    (startBulk s n u e q x i o).pending = s.pending := by
  unfold startBulk
  dsimp only
  split
  · simp
  · rw [enterColl_pending, ite_pending]
    split <;> simp

@[simp] theorem startBulk_wf (s : State) (n u : Nat) (e : GroupEntry) (q : W16) (x : QEntry) (i : Isa) (o : Ops)
    (h : Memory.wf s.mem = true) : Memory.wf (startBulk s n u e q x i o).mem = true := by
  unfold startBulk
  dsimp only
  split
  · exact scatterLocal_wf _ _ _ _ h
  · refine enterColl_wf _ _ _ _ _ ?_
    rw [ite_mem, ite_wf]
    split
    · exact scatterLocal_wf _ _ _ _ h
    · exact scatterLocal_wf _ _ _ _ h

@[simp] theorem startCpri_frame (s : State) (n u : Nat) (e : GroupEntry) (q : W16) (f : FieldsCP) (v : W64)
    (mismatch again : Bool) :
    (startCpri s n u e q f v mismatch again).pending = s.pending ∧ (startCpri s n u e q f v mismatch again).mem = s.mem :=
  by unfold startCpri; (repeat' split) <;> simp

@[simp] theorem collectiveStart_pending (s : State) (n u : Nat) (mismatch again : Bool) :
    (collectiveStart s n u mismatch again).pending = s.pending :=
  by unfold collectiveStart; (repeat' split) <;> simp

@[simp] theorem collectiveStart_wf (s : State) (n u : Nat) (mismatch again : Bool) (h :
    Memory.wf s.mem = true) : Memory.wf (collectiveStart s n u mismatch again).mem = true :=
  by unfold collectiveStart; (repeat' split) <;> simp [h]

@[simp] theorem copyEnd_frame (s : State) : (copyEnd s).pending = s.pending ∧ (copyEnd s).mem = s.mem :=
  by unfold copyEnd; split <;> simp

@[simp] theorem hutCtlWrite_frame (s : State) (v : W32) :
    (hutCtlWrite s v).pending = s.pending ∧ (hutCtlWrite s v).mem = s.mem :=
  by simp [hutCtlWrite]

@[simp] theorem modStaged_frame (s : State) (f : Staged → Staged) :
    (modStaged s f).pending = s.pending ∧ (modStaged s f).mem = s.mem :=
  by simp [modStaged]

@[simp] theorem exactWrite_frame (s : State) (v : W32) :
    (exactWrite s v).pending = s.pending ∧ (exactWrite s v).mem = s.mem :=
  by simp [exactWrite]

@[simp] theorem grpBaseWrite_frame (s : State) (v : W32) :
    (grpBaseWrite s v).pending = s.pending ∧ (grpBaseWrite s v).mem = s.mem :=
  by simp [grpBaseWrite]

end Sys2Proof.Machine
end

