-- ==== Sys2Proof/Laws/FrameUnits.lean ====
section
/-! SUPPORT. Laws/FrameUnits.lean: what the operations of Machine/Units.lean leave alone: the queue of commands, and the memory or
its canonical form. -/

namespace Sys2Proof.Machine

@[simp] theorem setHead_frame (s : State) (n u : Nat) (x : QEntry) :
    (setHead s n u x).pending = s.pending ∧ (setHead s n u x).mem = s.mem :=
  by unfold setHead; repeat' (first | (simp; done) | split)

@[simp] theorem refuseRead_pending (s : State) (n u : Nat) (x : QEntry) : (refuseRead s n u x).pending = s.pending :=
  by unfold refuseRead; repeat' (first | (simp; done) | split)

@[simp] theorem refuseRead_wf (s : State) (n u : Nat) (x : QEntry) (h : Memory.wf s.mem = true) :
    Memory.wf (refuseRead s n u x).mem = true :=
  by unfold refuseRead; repeat' (first | (simp [h]; done) | (simp_all; done) | split)

@[simp] theorem dropColl_frame (s : State) (g : Nat) (q : W16) :
    (dropColl s g q).pending = s.pending ∧ (dropColl s g q).mem = s.mem :=
  by unfold dropColl; repeat' (first | (simp; done) | split)

@[simp] theorem beginEntry_frame (s : State) (u : Nat) (x : QEntry) (i : Isa) (o : Ops) (sh : Nat × Nat × Nat) :
    (beginEntry s u x i o sh).1.pending = s.pending ∧ (beginEntry s u x i o sh).1.mem = s.mem :=
  by unfold beginEntry; repeat' (first | (simp; done) | split)

@[simp] theorem unitStart_frame (s : State) (n u : Nat) :
    (unitStart s n u).pending = s.pending ∧ (unitStart s n u).mem = s.mem :=
  by unfold unitStart; dsimp only; repeat' (first | (simp ; done) | (simp_all; done) | split)

@[simp] theorem unitAdvance_pending (s : State) (n u k : Nat) : (unitAdvance s n u k).pending = s.pending :=
  by unfold unitAdvance; repeat' (first | (simp; done) | split)

@[simp] theorem unitAdvance_wf (s : State) (n u k : Nat) (h : Memory.wf s.mem = true) :
    Memory.wf (unitAdvance s n u k).mem = true :=
  by unfold unitAdvance; repeat' (first | (simp [h]; done) | (simp_all; done) | split)

@[simp] theorem rereadOwn_frame (s : State) (n u : Nat) (x : QEntry) (i : Isa) (o : Ops) :
    (rereadOwn s n u x i o).state.pending = s.pending ∧ (rereadOwn s n u x i o).state.mem = s.mem :=
  by unfold rereadOwn; repeat' (first | (simp; done) | split)

@[simp] theorem refuseColl_frame (s : State) (n u : Nat) (x : QEntry) :
    (refuseColl s n u x).pending = s.pending ∧ (refuseColl s n u x).mem = s.mem :=
  by unfold refuseColl; repeat' (first | (simp; done) | split)

@[simp] theorem unitRelease_pending (s : State) (n u : Nat) : (unitRelease s n u).pending = s.pending :=
  by unfold unitRelease; repeat' (first | (simp; done) | split)

@[simp] theorem unitRelease_wf (s : State) (n u : Nat) (h : Memory.wf s.mem = true) :
    Memory.wf (unitRelease s n u).mem = true :=
  by unfold unitRelease; repeat' (first | (simp [h]; done) | (simp_all; done) | split)

@[simp] theorem replaceEntry_frame (s : State) (n u : Nat) (x z : QEntry) :
    (replaceEntry s n u x z).pending = s.pending ∧ (replaceEntry s n u x z).mem = s.mem :=
  by unfold replaceEntry; repeat' (first | (simp; done) | split)

@[simp] theorem drainNext_pending (s : State) (n u : Nat) : (drainNext s n u).pending = s.pending :=
  by unfold drainNext; dsimp only; repeat' (first | (simp ; done) | (simp_all; done) | split)

@[simp] theorem drainNext_wf (s : State) (n u : Nat) (h : Memory.wf s.mem = true) :
    Memory.wf (drainNext s n u).mem = true :=
  by unfold drainNext; dsimp only; repeat' (first | (simp [h]; done) | (simp_all; done) | split)

@[simp] theorem leaveOpen_pending (s : State) (i : Isa) (o : Ops) (c : Coll) : (leaveOpen s i o c).pending = s.pending := by
  unfold leaveOpen
  dsimp only
  split
  · refine (foldl_pending _ _ _ fun s t => freeRows_pending s t).trans ?_
    split <;> simp
  · split
    · exact foldl_pending _ _ _ fun s t => freeRows_pending s t
    · rfl

@[simp] theorem leaveOpen_wf (s : State) (i : Isa) (o : Ops) (c : Coll) (h : Memory.wf s.mem = true) :
    Memory.wf (leaveOpen s i o c).mem = true := by
  unfold leaveOpen
  dsimp only
  split
  · refine foldl_wf _ _ _ (fun s t hs => freeRows_wf s t hs) ?_
    split <;> simp [h]
  · split
    · exact foldl_wf _ _ _ (fun s t hs => freeRows_wf s t hs) h
    · exact h

@[simp] theorem endOp_frame (s : State) (n u : Nat) (x : QEntry) (i : Isa) :
    (endOp s n u x i).pending = s.pending ∧ (endOp s n u x i).mem = s.mem :=
  by unfold endOp; split <;> simp

@[simp] theorem endPlain_pending (s : State) (n u : Nat) (x : QEntry) (i : Isa) : (endPlain s n u x i).pending = s.pending :=
  by unfold endPlain; repeat' (first | (simp; done) | split)

@[simp] theorem endPlain_wf (s : State) (n u : Nat) (x : QEntry) (i : Isa) (h : Memory.wf s.mem = true) :
    Memory.wf (endPlain s n u x i).mem = true :=
  by unfold endPlain; repeat' (first | (simp [h]; done) | (simp_all; done) | split)

@[simp] theorem gatherProduct_frame (s : State) (n u : Nat) (x : QEntry) (i : Isa) (o : Ops) (scalar : W64) :
    (gatherProduct s n u x i o scalar).1.pending = s.pending ∧ (gatherProduct s n u x i o scalar).1.mem = s.mem :=
  by unfold gatherProduct; repeat' (first | (simp; done) | split)

@[simp] theorem endBulk_pending (s : State) (n u : Nat) (x : QEntry) (i : Isa) (o : Ops) (scalar : W64) (c : Coll) : (endBulk
    s n u x i o scalar c).pending = s.pending :=
  by unfold endBulk; repeat' (first | (simp; done) | split)

@[simp] theorem endBulk_wf (s : State) (n u : Nat) (x : QEntry) (i : Isa) (o : Ops) (scalar : W64) (c : Coll) (h : Memory.wf
    s.mem = true) :
    Memory.wf (endBulk s n u x i o scalar c).mem = true :=
  by unfold endBulk; repeat' (first | (simp [h]; done) | (simp_all; done) | split)

@[simp] theorem unitComplete_pending (s : State) (n u : Nat) : (unitComplete s n u).pending = s.pending :=
  by unfold unitComplete; dsimp only; repeat' (first | (simp ; done) | (simp_all; done) | split)

@[simp] theorem unitComplete_wf (s : State) (n u : Nat) (h : Memory.wf s.mem = true) :
    Memory.wf (unitComplete s n u).mem = true :=
  by unfold unitComplete; dsimp only; repeat' (first | (simp [h]; done) | split)

end Sys2Proof.Machine
end

