-- ==== Sys2Proof/Laws/FrameMovers.lean ====
section
/-! SUPPORT. Laws/FrameMovers.lean: what the operations of Machine/Movers.lean leave alone: the queue of commands, and the memory or
its canonical form. -/

namespace Sys2Proof.Machine

@[simp] theorem setXfers_frame (s : State) (n m : Nat) (l : List Xfer) :
    (setXfers s n m l).pending = s.pending ∧ (setXfers s n m l).mem = s.mem :=
  by simp [setXfers]

@[simp] theorem modXfer_frame (s : State) (n m : Nat) (tag : W16) (f : Xfer → Xfer) :
    (modXfer s n m tag f).pending = s.pending ∧ (modXfer s n m tag f).mem = s.mem :=
  by simp [modXfer]

@[simp] theorem dropXfer_frame (s : State) (n m : Nat) (tag : W16) :
    (dropXfer s n m tag).pending = s.pending ∧ (dropXfer s n m tag).mem = s.mem :=
  by simp [dropXfer]

@[simp] theorem moverFault_frame (s : State) (n m code sub : Nat) (x : Xfer) (detail : W32) :
    (moverFault s n m code sub x detail).pending = s.pending ∧ (moverFault s n m code sub x detail).mem = s.mem :=
  by simp [moverFault]

@[simp] theorem transferStart_frame (s : State) (n m : Nat) :
    (transferStart s n m).pending = s.pending ∧ (transferStart s n m).mem = s.mem :=
  by unfold transferStart; dsimp only; repeat' (first | (simp; done) | split)

@[simp] theorem copyWords_pending (k : Nat) (s : State) (n a d : Nat) : (copyWords k s n a d).pending = s.pending := by
  induction k generalizing s n a d with
  | zero => rfl
  | succ k ih => unfold copyWords; repeat' (first | (simp [ih]; done) | split)

@[simp] theorem copyWords_wf (k : Nat) (s : State) (n a d : Nat) (h : Memory.wf s.mem = true) :
    Memory.wf (copyWords k s n a d).mem = true := by
  induction k generalizing s n a d with
  | zero => exact h
  | succ k ih => unfold copyWords; repeat' (first | (simp [ih, h]; done) | split)

@[simp] theorem rowNotes_frame (s : State) (n a len : Nat) :
    (rowNotes s n a len).pending = s.pending ∧ (rowNotes s n a len).mem = s.mem :=
  by simp [rowNotes]

@[simp] theorem rowCount_frame (s : State) (ctl : W32) (a : Nat) :
    (rowCount s ctl a).pending = s.pending ∧ (rowCount s ctl a).mem = s.mem :=
  by simp [rowCount]

@[simp] theorem sealedRow_pending (s : State) (n m : Nat) (x : Xfer) (a d k : Nat) :
    (sealedRow s n m x a d k).pending = s.pending :=
  by simp [sealedRow]

@[simp] theorem sealedRow_wf (s : State) (n m : Nat) (x : Xfer) (a d k : Nat) (h :
    Memory.wf s.mem = true) : Memory.wf (sealedRow s n m x a d k).mem = true :=
  by simp [sealedRow, h]

@[simp] theorem sendRows_frame (k r : Nat) (s : State) (n m : Nat) (x : Xfer) :
    (sendRows k r s n m x).1.pending = s.pending ∧ (sendRows k r s n m x).1.mem = s.mem := by
  induction k generalizing s r with
  | zero => exact ⟨rfl, rfl⟩
  | succ k ih =>
    constructor <;> unfold sendRows <;> dsimp only <;> split <;> try split
    all_goals simp [ih]

@[simp] theorem freeXfer_frame (s : State) (n m : Nat) (x : Xfer) :
    (freeXfer s n m x).pending = s.pending ∧ (freeXfer s n m x).mem = s.mem :=
  by simp [freeXfer]

@[simp] theorem dropUnsent_frame (s : State) (tag : W16) :
    (dropUnsent s tag).pending = s.pending ∧ (dropUnsent s tag).mem = s.mem :=
  by unfold dropUnsent; repeat' (first | (simp; done) | split)

@[simp] theorem pieceSent_frame (s : State) (f : Frame) :
    (pieceSent s f).pending = s.pending ∧ (pieceSent s f).mem = s.mem :=
  by unfold pieceSent; repeat' (first | (simp; done) | split)

@[simp] theorem srcCount_frame (s : State) (n : Nat) (x : Xfer) :
    (srcCount s n x).pending = s.pending ∧ (srcCount s n x).mem = s.mem :=
  by simp [srcCount]

@[simp] theorem sourceRead_pending (s : State) (n m : Nat) : (sourceRead s n m).pending = s.pending :=
  by unfold sourceRead; dsimp only; repeat' (first | (simp; done) | split)

@[simp] theorem sourceRead_wf (s : State) (n m : Nat) (h :
    Memory.wf s.mem = true) : Memory.wf (sourceRead s n m).mem = true :=
  by unfold sourceRead; dsimp only; repeat' (first | (simp [h]; done) | split)

@[simp] theorem rowLanded_pending (s : State) (n m : Nat) : (rowLanded s n m).pending = s.pending :=
  by unfold rowLanded; dsimp only; repeat' (first | (simp; done) | split)

@[simp] theorem rowLanded_wf (s : State) (n m : Nat) (h : Memory.wf s.mem = true) : Memory.wf (rowLanded s n m).mem = true :=
  by unfold rowLanded; dsimp only; repeat' (first | (simp [h]; done) | split)

@[simp] theorem slotFrees_frame (s : State) (n m : Nat) :
    (slotFrees s n m).pending = s.pending ∧ (slotFrees s n m).mem = s.mem :=
  by unfold slotFrees; split <;> simp

@[simp] theorem dropRow_frame (s : State) (src : Coord) (tag : W16) :
    (dropRow s src tag).pending = s.pending ∧ (dropRow s src tag).mem = s.mem :=
  by simp [dropRow]

@[simp] theorem dropRecord_frame (s : State) (src : Coord) (tag : W16) :
    (dropRecord s src tag).pending = s.pending ∧ (dropRecord s src tag).mem = s.mem :=
  by simp [dropRecord]

@[simp] theorem landPieces_pending (s : State) (ps : List BulkData) : (landPieces s ps).pending = s.pending :=
  by simp [landPieces]

@[simp] theorem landPieces_wf (s : State) (ps : List BulkData) (h :
    Memory.wf s.mem = true) : Memory.wf (landPieces s ps).mem = true :=
  by unfold landPieces; (repeat' split) <;> simp_all

@[simp] theorem bulkLands_pending (s : State) (src : Coord) (ctx : Nat) (epoch : W16) (f : BulkData) :
    (bulkLands s src ctx epoch f).pending = s.pending :=
  by unfold bulkLands; dsimp only; repeat' (first | (simp ; done) | (simp_all; done) | split)

@[simp] theorem bulkLands_wf (s : State) (src : Coord) (ctx : Nat) (epoch : W16) (f : BulkData) (h :
    Memory.wf s.mem = true) : Memory.wf (bulkLands s src ctx epoch f).mem = true :=
  by unfold bulkLands; dsimp only; repeat' (first | (simp [h]; done) | (simp_all; done) | split)

@[simp] theorem landedReply_frame (s : State) (src : Coord) (f : BulkCtl) :
    (landedReply s src f).pending = s.pending ∧ (landedReply s src f).mem = s.mem :=
  by unfold landedReply; split <;> simp

@[simp] theorem refusedReply_frame (s : State) (src : Coord) (f : BulkCtl) :
    (refusedReply s src f).pending = s.pending ∧ (refusedReply s src f).mem = s.mem :=
  by unfold refusedReply; split <;> simp

@[simp] theorem recordTimeout_pending (s : State) (src : Coord) (tag : W16) :
    (recordTimeout s src tag).pending = s.pending :=
  by simp [recordTimeout]

@[simp] theorem recordTimeout_wf (s : State) (src : Coord) (tag : W16) (h :
    Memory.wf s.mem = true) : Memory.wf (recordTimeout s src tag).mem = true :=
  by simp [recordTimeout, h]

end Sys2Proof.Machine
end

