-- ==== Sys2Proof/Laws/FrameCoreCmd.lean ====
section
/-! SUPPORT. Laws/FrameCoreCmd.lean: what the operations of Machine/CoreCmd.lean leave alone: the queue of commands, and the memory or
its canonical form. -/

namespace Sys2Proof.Machine

@[simp] theorem mixBytes_pending (k : Nat) (s : State) (n a : Nat) (bs : List Byte) :
    (mixBytes k s n a bs).pending = s.pending := by
  induction k generalizing s a bs with
  | zero => rfl
  | succ k ih => unfold mixBytes; repeat' (first | (simp [ih]; done) | split)

@[simp] theorem mixBytes_wf (k : Nat) (s : State) (n a : Nat) (bs : List Byte) (h : Memory.wf s.mem = true) :
    Memory.wf (mixBytes k s n a bs).mem = true := by
  induction k generalizing s a bs with
  | zero => exact h
  | succ k ih => unfold mixBytes; repeat' (first | (simp [ih, h]; done) | split)

@[simp] theorem abandonOp_pending (s : State) (n u : Nat) (x : QEntry) : (abandonOp s n u x).pending = s.pending :=
  by unfold abandonOp; dsimp only; repeat' (first | (simp; done) | split)

@[simp] theorem abandonOp_wf (s : State) (n u : Nat) (x : QEntry) (h :
    Memory.wf s.mem = true) : Memory.wf (abandonOp s n u x).mem = true :=
  by unfold abandonOp; dsimp only; repeat' (first | (simp_all; done) | split)

@[simp] theorem abandonRemote_frame (s : State) (n m : Nat) (x : Xfer) :
    (abandonRemote s n m x).pending = s.pending ∧ (abandonRemote s n m x).mem = s.mem :=
  by unfold abandonRemote; repeat' (first | (simp; done) | split)

@[simp] theorem abandonXfer_pending (s : State) (n m : Nat) (x : Xfer) : (abandonXfer s n m x).pending = s.pending :=
  by unfold abandonXfer; dsimp only; repeat' (first | (simp ; done) | (simp_all; done) | split)

@[simp] theorem abandonXfer_wf (s : State) (n m : Nat) (x : Xfer) (h :
    Memory.wf s.mem = true) : Memory.wf (abandonXfer s n m x).mem = true :=
  by unfold abandonXfer; dsimp only; repeat' (first | (simp [h]; done) | (simp_all; done) | split)

@[simp] theorem creset_pending (s : State) (n : Nat) : (creset s n).pending = s.pending :=
  by simp [creset]

@[simp] theorem creset_wf (s : State) (n : Nat) (h : Memory.wf s.mem = true) : Memory.wf (creset s n).mem = true := by
  unfold creset
  dsimp only
  rw [(modCore_frame _ _ _).2]
  refine foldl_wf _ _ _ (fun s m hs => foldl_wf _ _ _ (fun s x hs => abandonXfer_wf s n m x hs) hs) ?_
  exact foldl_wf _ _ _ (fun s u hs => foldl_wf _ _ _ (fun s x hs => abandonOp_wf s n u x hs) hs) h

@[simp] theorem corCtlWrite_pending (s : State) (n : Nat) (v : W32) : (corCtlWrite s n v).pending = s.pending :=
  by unfold corCtlWrite; split <;> simp

@[simp] theorem corCtlWrite_wf (s : State) (n : Nat) (v : W32) (h :
    Memory.wf s.mem = true) : Memory.wf (corCtlWrite s n v).mem = true :=
  by unfold corCtlWrite; split <;> simp [h]

@[simp] theorem epochOp_pending (s : State) (n u : Nat) (x : QEntry) : (epochOp s n u x).pending = s.pending :=
  by unfold epochOp; (repeat' split) <;> simp

@[simp] theorem epochOp_wf (s : State) (n u : Nat) (x : QEntry) (h :
    Memory.wf s.mem = true) : Memory.wf (epochOp s n u x).mem = true :=
  by unfold epochOp; (repeat' split) <;> simp [h]

@[simp] theorem epochCore_pending (s : State) (n : Nat) : (epochCore s n).pending = s.pending := by simp [epochCore]

@[simp] theorem epochCore_wf (s : State) (n : Nat) (h : Memory.wf s.mem = true) : Memory.wf (epochCore s n).mem = true := by
  unfold epochCore
  dsimp only
  split
  · exact h
  · rw [(modCore_frame _ _ _).2]
    refine flushStores_wf _ _ (foldl_wf _ _ _ (fun s u hs => ?_) h)
    rw [(modCore_frame _ _ _).2]
    exact foldl_wf _ _ _ (fun s x hs => epochOp_wf s n u x hs) hs

@[simp] theorem epochCores_pending (s : State) : (epochCores s).pending = s.pending := by simp [epochCores]

@[simp] theorem epochCores_wf (s : State) (h : Memory.wf s.mem = true) : Memory.wf (epochCores s).mem = true :=
  by unfold epochCores; (repeat' split) <;> simp_all

end Sys2Proof.Machine
end

