-- ==== Sys2Proof/Laws/FrameUnpacker.lean ====
section
/-! SUPPORT. Laws/FrameUnpacker.lean: what the operations of Machine/Unpacker.lean leave alone: the queue of commands, and the memory or
its canonical form. -/

namespace Sys2Proof.Machine

@[simp] theorem landBytes_pending (k : Nat) (s : State) (west : Bool) (x : Shelf) (o : Nat) (bs : List Byte) :
    (landBytes k s west x o bs).pending = s.pending := by
  induction k generalizing s o bs with
  | zero => rfl
  | succ k ih => simp [landBytes, ih]

@[simp] theorem landBytes_wf (k : Nat) (s : State) (west : Bool) (x : Shelf) (o : Nat) (bs : List Byte)
    (h : Memory.wf s.mem = true) : Memory.wf (landBytes k s west x o bs).mem = true := by
  induction k generalizing s o bs with
  | zero => exact h
  | succ k ih => simp [landBytes, ih, h]

@[simp] theorem checkTag_frame (s : State) (west : Bool) (x : Shelf) :
    (checkTag s west x).pending = s.pending ∧ (checkTag s west x).mem = s.mem :=
  by unfold checkTag; split <;> simp

@[simp] theorem checkIndex_frame (s : State) (west : Bool) (x : Shelf) :
    (checkIndex s west x).pending = s.pending ∧ (checkIndex s west x).mem = s.mem :=
  by unfold checkIndex; dsimp only; repeat' (first | (simp ; done) | (simp_all; done) | split)

@[simp] theorem settleBad_frame (s : State) (west : Bool) (b : W64) :
    (settleBad s west b).pending = s.pending ∧ (settleBad s west b).mem = s.mem :=
  by unfold settleBad; repeat' (first | (simp; done) | split)

@[simp] theorem meetBad_frame (s : State) (west : Bool) (x : Shelf) (u c : Nat) :
    (meetBad s west x u c).pending = s.pending ∧ (meetBad s west x u c).mem = s.mem :=
  by unfold meetBad; repeat' (first | (simp; done) | split)

@[simp] theorem countFlit_frame (s : State) (port : Nat) :
    (countFlit s port).pending = s.pending ∧ (countFlit s port).mem = s.mem :=
  by unfold countFlit; repeat' (first | (simp; done) | split)

@[simp] theorem countOwed_frame (s : State) (port : Nat) :
    (countOwed s port).pending = s.pending ∧ (countOwed s port).mem = s.mem :=
  by unfold countOwed; repeat' (first | (simp; done) | split)

@[simp] theorem finishChecks_frame (s : State) (west : Bool) (b : W64) :
    (finishChecks s west b).pending = s.pending ∧ (finishChecks s west b).mem = s.mem :=
  by unfold finishChecks; dsimp only; repeat' (first | (simp ; done) | (simp_all; done) | split)

@[simp] theorem noteSpill_frame (s : State) (west : Bool) (x : Shelf) (port : Nat) :
    (noteSpill s west x port).pending = s.pending ∧ (noteSpill s west x port).mem = s.mem :=
  by simp [noteSpill]

@[simp] theorem queueFlit_pending (s : State) (west : Bool) (x : Shelf) (port o n : Nat) (bs : List Byte) :
    (queueFlit s west x port o n bs).pending = s.pending :=
  by simp [queueFlit]

@[simp] theorem queueFlit_wf (s : State) (west : Bool) (x : Shelf) (port o n : Nat) (bs : List Byte) (h :
    Memory.wf s.mem = true) : Memory.wf (queueFlit s west x port o n bs).mem = true :=
  by simp [queueFlit, h]

@[simp] theorem flitIn_pending (s : State) (port : Nat) (data : List Byte) : (flitIn s port data).pending = s.pending :=
  by unfold flitIn; dsimp only; repeat' (first | (simp ; done) | (simp_all; done) | split)

@[simp] theorem flitIn_wf (s : State) (port : Nat) (data : List Byte) (h :
    Memory.wf s.mem = true) : Memory.wf (flitIn s port data).mem = true :=
  by unfold flitIn; dsimp only; repeat' (first | (simp [h]; done) | (simp_all; done) | split)

@[simp] theorem flitLost_frame (s : State) (port : Nat) :
    (flitLost s port).pending = s.pending ∧ (flitLost s port).mem = s.mem :=
  by unfold flitLost; dsimp only; repeat' (first | (simp ; done) | (simp_all; done) | split)

@[simp] theorem queueEarly_pending (k : Nat) (s : State) (west : Bool) (i : Nat) :
    (queueEarly k s west i).pending = s.pending := by
  induction k generalizing s i with
  | zero => rfl
  | succ k ih => unfold queueEarly; dsimp only; rw [ih]; repeat' (first | (simp; done) | split)

@[simp] theorem queueEarly_wf (k : Nat) (s : State) (west : Bool) (i : Nat) (h : Memory.wf s.mem = true) :
    Memory.wf (queueEarly k s west i).mem = true := by
  induction k generalizing s i with
  | zero => exact h
  | succ k ih => unfold queueEarly; dsimp only; apply ih; repeat' (first | (simp [h]; done) | split)

@[simp] theorem spillReadback_pending (s : State) (port : Nat) : (spillReadback s port).pending = s.pending :=
  by unfold spillReadback; dsimp only; repeat' (first | (simp; done) | split)

@[simp] theorem spillReadback_wf (s : State) (port : Nat) (h :
    Memory.wf s.mem = true) : Memory.wf (spillReadback s port).mem = true :=
  by unfold spillReadback; dsimp only; repeat' (first | (simp [h]; done) | split)

@[simp] theorem laneDispatch_frame (s : State) (west : Bool) :
    (laneDispatch s west).pending = s.pending ∧ (laneDispatch s west).mem = s.mem :=
  by unfold laneDispatch; (repeat' split) <;> simp

@[simp] theorem laneFinish_pending (s : State) (l : Nat) : (laneFinish s l).pending = s.pending :=
  by unfold laneFinish; dsimp only; repeat' (first | (simp; done) | split)

@[simp] theorem laneFinish_wf (s : State) (l : Nat) (h : Memory.wf s.mem = true) : Memory.wf (laneFinish s l).mem = true :=
  by unfold laneFinish; dsimp only; repeat' (first | (simp [h]; done) | split)

@[simp] theorem upkCtlWrite_frame (s : State) (v : W32) :
    (upkCtlWrite s v).pending = s.pending ∧ (upkCtlWrite s v).mem = s.mem :=
  by simp [upkCtlWrite]

@[simp] theorem upkStatWrite_frame (s : State) (v : W32) :
    (upkStatWrite s v).pending = s.pending ∧ (upkStatWrite s v).mem = s.mem :=
  by simp [upkStatWrite]

@[simp] theorem armCtlWrite_frame (s : State) (v : W32) :
    (armCtlWrite s v).pending = s.pending ∧ (armCtlWrite s v).mem = s.mem :=
  by simp [armCtlWrite]

@[simp] theorem armErrWrite_frame (s : State) (v : W32) :
    (armErrWrite s v).pending = s.pending ∧ (armErrWrite s v).mem = s.mem :=
  by simp [armErrWrite]

@[simp] theorem unpackBeat_frame (s : State) : (unpackBeat s).pending = s.pending ∧ (unpackBeat s).mem = s.mem :=
  by simp [unpackBeat]

end Sys2Proof.Machine
end

