-- ==== Sys2Proof/Laws/FrameLink.lean ====
section
/-! SUPPORT. Laws/FrameLink.lean: what the operations of Machine/Link.lean leave alone: the queue of commands, and the memory or
its canonical form. -/

namespace Sys2Proof.Machine

@[simp] theorem modPort_frame (s : State) (p : Nat) (f : Port → Port) :
    (modPort s p f).pending = s.pending ∧ (modPort s p f).mem = s.mem :=
  by simp [modPort]

@[simp] theorem modLink_frame (s : State) (p : Nat) (prio : Bool) (f : LinkClass → LinkClass) :
    (modLink s p prio f).pending = s.pending ∧ (modLink s p prio f).mem = s.mem :=
  by simp [modLink]

@[simp] theorem countDiscard_frame (s : State) : (countDiscard s).pending = s.pending ∧ (countDiscard s).mem = s.mem :=
  by simp [countDiscard]

@[simp] theorem giveCredit_frame (s : State) (p code : Nat) :
    (giveCredit s p code).pending = s.pending ∧ (giveCredit s p code).mem = s.mem :=
  by simp [giveCredit]

@[simp] theorem freeInput_frame (s : State) (o : OutFrame) :
    (freeInput s o).pending = s.pending ∧ (freeInput s o).mem = s.mem :=
  by simp [freeInput]

@[simp] theorem dropStale_frame (s : State) (p : Nat) : (dropStale s p).pending = s.pending ∧ (dropStale s p).mem = s.mem :=
  by simp [dropStale]

@[simp] theorem epochPorts_frame (s : State) : (epochPorts s).pending = s.pending ∧ (epochPorts s).mem = s.mem :=
  by simp [epochPorts]

@[simp] theorem enterDown_frame (s : State) (p : Nat) (cause step : BitVec 4) :
    (enterDown s p cause step).pending = s.pending ∧ (enterDown s p cause step).mem = s.mem :=
  by simp [enterDown]

@[simp] theorem enterRecover_frame (s : State) (p : Nat) :
    (enterRecover s p).pending = s.pending ∧ (enterRecover s p).mem = s.mem :=
  by simp [enterRecover]

@[simp] theorem resume_frame (s : State) (p bulk prio : Nat) :
    (resume s p bulk prio).pending = s.pending ∧ (resume s p bulk prio).mem = s.mem :=
  by simp [resume]

@[simp] theorem restartLink_frame (s : State) (p : Nat) :
    (restartLink s p).pending = s.pending ∧ (restartLink s p).mem = s.mem :=
  by simp [restartLink]

@[simp] theorem finishSeq_frame (s : State) (p : Nat) : (finishSeq s p).pending = s.pending ∧ (finishSeq s p).mem = s.mem :=
  by unfold finishSeq; dsimp only; repeat' (first | (simp; done) | split)

@[simp] theorem sendTiming_frame (s : State) (p : Nat) :
    (sendTiming s p).pending = s.pending ∧ (sendTiming s p).mem = s.mem :=
  by unfold sendTiming; repeat' (first | (simp; done) | split)

@[simp] theorem nextStep_frame (s : State) (p : Nat) :
    (nextStep s p).pending = s.pending ∧ (nextStep s p).mem = s.mem :=
  by unfold nextStep; dsimp only; repeat' (first | (simp ; done) | (simp_all; done) | split)

@[simp] theorem stepComplete_frame (s : State) (p : Nat) :
    (stepComplete s p).pending = s.pending ∧ (stepComplete s p).mem = s.mem :=
  by unfold stepComplete; repeat' (first | (simp; done) | split)

@[simp] theorem trainStepDone_frame (s : State) (p : Nat) (power : Vector (BitVec 8) 8) :
    (trainStepDone s p power).pending = s.pending ∧ (trainStepDone s p power).mem = s.mem :=
  by unfold trainStepDone; dsimp only; repeat' (first | (simp; done) | split)

@[simp] theorem trainStepTimeout_frame (s : State) (p cause : Nat) :
    (trainStepTimeout s p cause).pending = s.pending ∧ (trainStepTimeout s p cause).mem = s.mem :=
  by simp [trainStepTimeout]

@[simp] theorem ctlIn_pending (s : State) (p : Nat) (ok : Nat → Bool) (f : State → State)
    (h : ∀ s, (f s).pending = s.pending) : (ctlIn s p ok f).pending = s.pending :=
  by unfold ctlIn; dsimp only; repeat' (first | (simp ; done) | (simp_all; done) | split)

@[simp] theorem ctlIn_mem (s : State) (p : Nat) (ok : Nat → Bool) (f : State → State)
    (h : ∀ s, (f s).mem = s.mem) : (ctlIn s p ok f).mem = s.mem :=
  by unfold ctlIn; dsimp only; repeat' (first | (simp ; done) | (simp_all; done) | split)

@[simp] theorem trainIn_frame (s : State) (p step : Nat) :
    (trainIn s p step).pending = s.pending ∧ (trainIn s p step).mem = s.mem :=
  by unfold trainIn; repeat' (first | (simp; done) | split)

@[simp] theorem resyncIn_frame (s : State) (p bulk prio : Nat) (valid : Bool) :
    (resyncIn s p bulk prio valid).pending = s.pending ∧ (resyncIn s p bulk prio valid).mem = s.mem :=
  by simp [resyncIn]

@[simp] theorem recoveryEnd_frame (s : State) (p : Nat) :
    (recoveryEnd s p).pending = s.pending ∧ (recoveryEnd s p).mem = s.mem :=
  by unfold recoveryEnd; dsimp only; repeat' (first | (simp; done) | split)

@[simp] theorem giveUp_frame (s : State) (p seq : Nat) :
    (giveUp s p seq).pending = s.pending ∧ (giveUp s p seq).mem = s.mem :=
  by simp [giveUp]

@[simp] theorem nakIn_frame (s : State) (p : Nat) (prio : Bool) (first last : Nat) :
    (nakIn s p prio first last).pending = s.pending ∧ (nakIn s p prio first last).mem = s.mem :=
  by simp [nakIn]

@[simp] theorem deliver_pending (s : State) (p : Nat) (prio : Bool) (x : Option Frame) :
    (deliver s p prio x).pending = s.pending :=
  by unfold deliver; (repeat' split) <;> simp

@[simp] theorem deliver_wf (s : State) (p : Nat) (prio : Bool) (x : Option Frame) (h :
    Memory.wf s.mem = true) : Memory.wf (deliver s p prio x).mem = true :=
  by unfold deliver; (repeat' split) <;> simp [h]

@[simp] theorem drainHeld_pending (k : Nat) (s : State) (p : Nat) (prio : Bool) :
    (drainHeld k s p prio).pending = s.pending := by
  induction k generalizing s with
  | zero => rfl
  | succ k ih => unfold drainHeld; dsimp only; repeat' (first | (simp [ih]; done) | split)

@[simp] theorem drainHeld_wf (k : Nat) (s : State) (p : Nat) (prio : Bool) (h : Memory.wf s.mem = true) :
    Memory.wf (drainHeld k s p prio).mem = true := by
  induction k generalizing s with
  | zero => exact h
  | succ k ih => unfold drainHeld; dsimp only; repeat' (first | (simp [ih, h]; done) | split)

@[simp] theorem place_pending (s : State) (p : Nat) (prio : Bool) (n : Nat) (x : Option Frame) :
    (place s p prio n x).pending = s.pending :=
  by simp [place]

@[simp] theorem place_wf (s : State) (p : Nat) (prio : Bool) (n : Nat) (x : Option Frame) (h :
    Memory.wf s.mem = true) : Memory.wf (place s p prio n x).mem = true :=
  by simp [place, h]

@[simp] theorem receive_pending (s : State) (p : Nat) (prio : Bool) (n : Nat) (f : Frame) :
    (receive s p prio n f).pending = s.pending :=
  by simp [receive]

@[simp] theorem receive_wf (s : State) (p : Nat) (prio : Bool) (n : Nat) (f : Frame) (h :
    Memory.wf s.mem = true) : Memory.wf (receive s p prio n f).mem = true :=
  by simp [receive, h]

@[simp] theorem tailIn_frame (s : State) (p : Nat) (prio : Bool) (next : Nat) :
    (tailIn s p prio next).pending = s.pending ∧ (tailIn s p prio next).mem = s.mem :=
  by simp [tailIn]

@[simp] theorem powerSample_frame (s : State) (p : Nat) (rx tx : Vector (BitVec 8) 8) :
    (powerSample s p rx tx).pending = s.pending ∧ (powerSample s p rx tx).mem = s.mem :=
  by simp [powerSample]

@[simp] theorem afvCtlWrite_frame (s : State) (p : Nat) (v : W32) :
    (afvCtlWrite s p v).pending = s.pending ∧ (afvCtlWrite s p v).mem = s.mem :=
  by unfold afvCtlWrite; dsimp only; repeat' (first | (simp; done) | split)

@[simp] theorem afvLoopWrite_frame (s : State) (p : Nat) (v : W32) :
    (afvLoopWrite s p v).pending = s.pending ∧ (afvLoopWrite s p v).mem = s.mem :=
  by simp [afvLoopWrite]

@[simp] theorem afvPwrWrite_frame (s : State) (p : Nat) (v : W32) :
    (afvPwrWrite s p v).pending = s.pending ∧ (afvPwrWrite s p v).mem = s.mem :=
  by simp [afvPwrWrite]

end Sys2Proof.Machine
end

