-- ==== Sys2Proof/Laws/FramePartition.lean ====
section
/-! SUPPORT. Laws/FramePartition.lean: what the operations of Machine/Partition.lean leave alone: the queue of commands, and the memory or
its canonical form. -/

namespace Sys2Proof.Machine

@[simp] theorem buildTree_frame (s : State) : (buildTree s).pending = s.pending ∧ (buildTree s).mem = s.mem :=
  by unfold buildTree; split <;> simp

@[simp] theorem newSvcLat_frame (s : State) : (newSvcLat s).pending = s.pending ∧ (newSvcLat s).mem = s.mem :=
  by simp [newSvcLat]

@[simp] theorem takeRoot_frame (s : State) : (takeRoot s).pending = s.pending ∧ (takeRoot s).mem = s.mem :=
  by simp [takeRoot]

@[simp] theorem setLoopback_frame (s : State) (on : Bool) :
    (setLoopback s on).pending = s.pending ∧ (setLoopback s on).mem = s.mem :=
  by simp [setLoopback]

@[simp] theorem abortChange_frame (s : State) : (abortChange s).pending = s.pending ∧ (abortChange s).mem = s.mem :=
  by simp [abortChange]

@[simp] theorem abortUncommitted_frame (s : State) :
    (abortUncommitted s).pending = s.pending ∧ (abortUncommitted s).mem = s.mem :=
  by simp [abortUncommitted]

@[simp] theorem changeEpoch_pending (s : State) (e : W32) : (changeEpoch s e).pending = s.pending := by simp [changeEpoch]

@[simp] theorem changeEpoch_wf (s : State) (e : W32) (h : Memory.wf s.mem = true) : Memory.wf (changeEpoch s e).mem = true :=
  by simp [changeEpoch, h]

@[simp] theorem clearSettings_frame (s : State) : (clearSettings s).pending = s.pending ∧ (clearSettings s).mem = s.mem :=
  by simp [clearSettings]

@[simp] theorem leavePartition_pending (s : State) (st : BitVec 4) : (leavePartition s st).pending = s.pending :=
  by simp [leavePartition]

@[simp] theorem leavePartition_wf (s : State) (st : BitVec 4) (h :
    Memory.wf s.mem = true) : Memory.wf (leavePartition s st).mem = true :=
  by simp [leavePartition, h]

@[simp] theorem joinChanged_frame (s : State) : (joinChanged s).pending = s.pending ∧ (joinChanged s).mem = s.mem :=
  by simp [joinChanged]

end Sys2Proof.Machine
end

