-- ==== Sys2Proof/Laws/FrameOwn.lean ====
section
/-! SUPPORT. Laws/FrameOwn.lean: what the operations of Machine/Own.lean leave alone: the queue of commands, and the memory or
its canonical form. -/

namespace Sys2Proof.Machine

@[simp] theorem refuseCommand_frame (s : State) (p : PathKind) (kind : Nat) (e : BitVec 4) :
    (refuseCommand s p kind e).pending = s.pending ∧ (refuseCommand s p kind e).mem = s.mem :=
  by simp [refuseCommand]

@[simp] theorem settle_frame (s : State) (f : OrderFrame) : (settle s f).pending = s.pending ∧ (settle s f).mem = s.mem :=
  by simp [settle]

@[simp] theorem refusalIn_frame (s : State) (f : OrderFrame) :
    (refusalIn s f).pending = s.pending ∧ (refusalIn s f).mem = s.mem :=
  by unfold refusalIn; split <;> simp

@[simp] theorem modRoot_frame (s : State) (f : RootView → RootView) :
    (modRoot s f).pending = s.pending ∧ (modRoot s f).mem = s.mem :=
  by simp [modRoot]

@[simp] theorem issueOrder_frame (s : State) (f : OrderFrame) :
    (issueOrder s f).pending = s.pending ∧ (issueOrder s f).mem = s.mem :=
  by simp [issueOrder]

@[simp] theorem refuseReq_frame (s : State) (f : ReqFrame) (code : Nat) :
    (refuseReq s f code).pending = s.pending ∧ (refuseReq s f code).mem = s.mem :=
  by simp [refuseReq]

@[simp] theorem accept_frame (s : State) (f : ReqFrame) (kind : Nat) (agent : Agent) (arg : W64) :
    (accept s f kind agent arg).pending = s.pending ∧ (accept s f kind agent arg).mem = s.mem :=
  by simp [accept]

@[simp] theorem passOwner_frame (s : State) (st : BitVec 4) (a : Agent) (e : W64) :
    (passOwner s st a e).pending = s.pending ∧ (passOwner s st a e).mem = s.mem :=
  by simp [passOwner]

@[simp] theorem decideRenew_frame (s : State) (f : ReqFrame) :
    (decideRenew s f).pending = s.pending ∧ (decideRenew s f).mem = s.mem :=
  by simp [decideRenew]

@[simp] theorem decideClaim_frame (s : State) (f : ReqFrame) :
    (decideClaim s f).pending = s.pending ∧ (decideClaim s f).mem = s.mem :=
  by unfold decideClaim; dsimp only; repeat' (first | (simp; done) | split)

@[simp] theorem decide'_frame (s : State) (f : ReqFrame) : (decide' s f).pending = s.pending ∧ (decide' s f).mem = s.mem :=
  by unfold decide'; dsimp only; repeat' (first | (simp; done) | split)

@[simp] theorem reqIn_frame (s : State) (f : ReqFrame) : (reqIn s f).pending = s.pending ∧ (reqIn s f).mem = s.mem :=
  by unfold reqIn; (repeat' split) <;> simp

@[simp] theorem releaseWaiting_frame (s : State) : (releaseWaiting s).pending = s.pending ∧ (releaseWaiting s).mem = s.mem :=
  by simp [releaseWaiting]

@[simp] theorem submit_frame (s : State) (p : PathKind) (kind pref : Nat) (a : Agent) (arg : W64) :
    (submit s p kind pref a arg).pending = s.pending ∧ (submit s p kind pref a arg).mem = s.mem :=
  by simp [submit]

@[simp] theorem bindPath_frame (s : State) (v : Via) (a : Agent) :
    (bindPath s v a).pending = s.pending ∧ (bindPath s v a).mem = s.mem :=
  by unfold bindPath; (repeat' split) <;> simp

@[simp] theorem ownClaimWrite_frame (s : State) (v : Via) (w : W32) :
    (ownClaimWrite s v w).pending = s.pending ∧ (ownClaimWrite s v w).mem = s.mem :=
  by unfold ownClaimWrite; (repeat' split) <;> simp

@[simp] theorem orderIn_frame (s : State) (f : OrderFrame) : (orderIn s f).pending = s.pending ∧ (orderIn s f).mem = s.mem :=
  by simp [orderIn]

@[simp] theorem newOwner_frame (s : State) (st : BitVec 4) (f : OrderFrame) :
    (newOwner s st f).pending = s.pending ∧ (newOwner s st f).mem = s.mem :=
  by simp [newOwner]

@[simp] theorem noOwner_frame (s : State) : (noOwner s).pending = s.pending ∧ (noOwner s).mem = s.mem := by simp [noOwner]

@[simp] theorem modStage_frame (s : State) (f : Stage → Stage) :
    (modStage s f).pending = s.pending ∧ (modStage s f).mem = s.mem :=
  by simp [modStage]

@[simp] theorem applyOrder_pending (begin' : State → State) (s : State) (f : OrderFrame)
    (h : ∀ s, (begin' s).pending = s.pending) : (applyOrder begin' s f).pending = s.pending := by
  unfold applyOrder; repeat' (first | (simp [h]; done) | split)

@[simp] theorem applyOrder_mem (begin' : State → State) (s : State) (f : OrderFrame)
    (h : ∀ s, (begin' s).mem = s.mem) : (applyOrder begin' s f).mem = s.mem := by
  unfold applyOrder; repeat' (first | (simp [h]; done) | split)

@[simp] theorem noteLate_frame (s : State) (f : OrderFrame) :
    (noteLate s f).pending = s.pending ∧ (noteLate s f).mem = s.mem :=
  by simp [noteLate]

@[simp] theorem applyDue_pending (begin' : State → State) (k : Nat) (s : State)
    (h : ∀ s, (begin' s).pending = s.pending) : (applyDue begin' k s).pending = s.pending := by
  induction k generalizing s with
  | zero => rfl
  | succ k ih => unfold applyDue; repeat' (first | (simp [ih, h]; done) | split)

@[simp] theorem applyDue_mem (begin' : State → State) (k : Nat) (s : State)
    (h : ∀ s, (begin' s).mem = s.mem) : (applyDue begin' k s).mem = s.mem := by
  induction k generalizing s with
  | zero => rfl
  | succ k ih => unfold applyDue; repeat' (first | (simp [ih, h]; done) | split)

@[simp] theorem electionClose_frame (s : State) : (electionClose s).pending = s.pending ∧ (electionClose s).mem = s.mem :=
  by unfold electionClose; (repeat' split) <;> simp

@[simp] theorem leaseExpiry_frame (s : State) : (leaseExpiry s).pending = s.pending ∧ (leaseExpiry s).mem = s.mem :=
  by simp [leaseExpiry]

@[simp] theorem forceLapse_frame (s : State) : (forceLapse s).pending = s.pending ∧ (forceLapse s).mem = s.mem :=
  by simp [forceLapse]

@[simp] theorem modSeal_frame (s : State) (f : Seal → Seal) :
    (modSeal s f).pending = s.pending ∧ (modSeal s f).mem = s.mem :=
  by simp [modSeal]

@[simp] theorem press_frame (s : State) : (press s).pending = s.pending ∧ (press s).mem = s.mem := by simp [press]

end Sys2Proof.Machine
end

