-- ==== Sys2Proof/Laws/FrameStage.lean ====
section
/-! SUPPORT. Laws/FrameStage.lean: what the operations of Machine/Stage.lean leave alone: the queue of commands, and the memory or
its canonical form. -/

namespace Sys2Proof.Machine

@[simp] theorem noteChecked_frame (s : State) (g : Staged) :
    (noteChecked s g).pending = s.pending ∧ (noteChecked s g).mem = s.mem :=
  by unfold noteChecked; repeat' (first | (simp; done) | split)

@[simp] theorem beginCheck_frame (s : State) : (beginCheck s).pending = s.pending ∧ (beginCheck s).mem = s.mem :=
  by unfold beginCheck; split <;> simp

@[simp] theorem settleVote_frame (s : State) : (settleVote s).pending = s.pending ∧ (settleVote s).mem = s.mem :=
  by unfold settleVote; dsimp only; repeat' (first | (simp; done) | split)

@[simp] theorem localCheckEnd_frame (s : State) : (localCheckEnd s).pending = s.pending ∧ (localCheckEnd s).mem = s.mem :=
  by simp [localCheckEnd]

@[simp] theorem voteIn_frame (s : State) (f : VoteFrame) : (voteIn s f).pending = s.pending ∧ (voteIn s f).mem = s.mem :=
  by simp [voteIn]

@[simp] theorem applyFrames_pending (s : State) (fs : List W16) : (applyFrames s fs).pending = s.pending :=
  by simp [applyFrames]

@[simp] theorem applyFrames_wf (s : State) (fs : List W16) (h :
    Memory.wf s.mem = true) : Memory.wf (applyFrames s fs).mem = true :=
  by unfold applyFrames; (repeat' split) <;> simp_all

@[simp] theorem applyContexts_frame (s : State) (cs : List CtxEntry) :
    (applyContexts s cs).pending = s.pending ∧ (applyContexts s cs).mem = s.mem :=
  by simp [applyContexts]

@[simp] theorem applyKeys_frame (s : State) (ks : List KeyRec) :
    (applyKeys s ks).pending = s.pending ∧ (applyKeys s ks).mem = s.mem :=
  by simp [applyKeys]

@[simp] theorem applySettings_frame (s : State) (g : Staged) :
    (applySettings s g).pending = s.pending ∧ (applySettings s g).mem = s.mem :=
  by unfold applySettings; (repeat' split) <;> simp

@[simp] theorem applyImage_pending (s : State) (i : StageImage) : (applyImage s i).pending = s.pending :=
  by unfold applyImage; (repeat' split) <;> simp

@[simp] theorem applyImage_wf (s : State) (i : StageImage) (h :
    Memory.wf s.mem = true) : Memory.wf (applyImage s i).mem = true :=
  by unfold applyImage; (repeat' split) <;> simp [h]

@[simp] theorem applyReform_frame (s : State) : (applyReform s).pending = s.pending ∧ (applyReform s).mem = s.mem :=
  by unfold applyReform; split <;> simp

@[simp] theorem stagedCommitApply_pending (s : State) : (stagedCommitApply s).pending = s.pending := by
  unfold stagedCommitApply
  dsimp only
  cases s.own.stage.staged.image <;> repeat' (first | (simp; done) | split)

@[simp] theorem stagedCommitApply_wf (s : State) (h : Memory.wf s.mem = true) :
    Memory.wf (stagedCommitApply s).mem = true := by
  unfold stagedCommitApply
  dsimp only
  cases s.own.stage.staged.image <;> repeat' (first | (simp [h]; done) | split)

@[simp] theorem stageErr_frame (s : State) (e : BitVec 4) :
    (stageErr s e).pending = s.pending ∧ (stageErr s e).mem = s.mem :=
  by simp [stageErr]

@[simp] theorem stageCommand_frame (s : State) (v : Via) (cmd : Nat) :
    (stageCommand s v cmd).pending = s.pending ∧ (stageCommand s v cmd).mem = s.mem :=
  by simp [stageCommand]

@[simp] theorem stageCtlWrite_frame (s : State) (v : Via) (w : W32) :
    (stageCtlWrite s v w).pending = s.pending ∧ (stageCtlWrite s v w).mem = s.mem :=
  by simp [stageCtlWrite]

@[simp] theorem stageCmdWrite_frame (s : State) (via : Via) (v : W32) (cmd : Nat) :
    (stageCmdWrite s via v cmd).pending = s.pending ∧ (stageCmdWrite s via v cmd).mem = s.mem :=
  by simp [stageCmdWrite]

@[simp] theorem stageCommitWrite_frame (s : State) (hi : Bool) (w : W32) :
    (stageCommitWrite s hi w).pending = s.pending ∧ (stageCommitWrite s hi w).mem = s.mem :=
  by simp [stageCommitWrite]

@[simp] theorem stageStatWrite_frame (s : State) (w : W32) :
    (stageStatWrite s w).pending = s.pending ∧ (stageStatWrite s w).mem = s.mem :=
  by simp [stageStatWrite]

@[simp] theorem beatPeriodWrite_frame (s : State) (w : W32) :
    (beatPeriodWrite s w).pending = s.pending ∧ (beatPeriodWrite s w).mem = s.mem :=
  by simp [beatPeriodWrite]

@[simp] theorem wrgVersionWrite_frame (s : State) (w : W32) :
    (wrgVersionWrite s w).pending = s.pending ∧ (wrgVersionWrite s w).mem = s.mem :=
  by simp [wrgVersionWrite]

@[simp] theorem glbStateWrite_frame (s : State) (w : W32) :
    (glbStateWrite s w).pending = s.pending ∧ (glbStateWrite s w).mem = s.mem :=
  by simp [glbStateWrite]

@[simp] theorem stagedWrite_pending (s : State) (v : Via) (off : Nat) (w : W32) :
    (stagedWrite s v off w).pending = s.pending :=
  by unfold stagedWrite; split <;> simp

@[simp] theorem stagedWrite_wf (s : State) (v : Via) (off : Nat) (w : W32) (h :
    Memory.wf s.mem = true) : Memory.wf (stagedWrite s v off w).mem = true :=
  by unfold stagedWrite; split <;> simp [h]

end Sys2Proof.Machine
end

