-- ==== Sys2Proof/Laws/FrameHost.lean ====
section
/-! SUPPORT. Laws/FrameHost.lean: what the operations of Machine/Host.lean leave alone: the queue of commands, and the memory or
its canonical form. -/

namespace Sys2Proof.Machine

@[simp] theorem modHst_frame (s : State) (f : Hst → Hst) : (modHst s f).pending = s.pending ∧ (modHst s f).mem = s.mem :=
  by simp [modHst]

@[simp] theorem modVf_frame (s : State) (t : Nat) (f : Vf → Vf) :
    (modVf s t f).pending = s.pending ∧ (modVf s t f).mem = s.mem :=
  by simp [modVf]

@[simp] theorem modIntake_frame (s : State) (t : Nat) (f : Intake → Intake) :
    (modIntake s t f).pending = s.pending ∧ (modIntake s t f).mem = s.mem :=
  by simp [modIntake]

@[simp] theorem managed_pending (s : State) (v : Via) (f : State → State) (h : ∀ s, (f s).pending = s.pending) : (managed s v f).pending = s.pending := by
  simp [managed, h]

@[simp] theorem managed_mem (s : State) (v : Via) (f : State → State) (h : ∀ s, (f s).mem = s.mem) : (managed s v f).mem = s.mem := by
  simp [managed, h]

@[simp] theorem managed_wf (s : State) (v : Via) (f : State → State) (h : ∀ s, Memory.wf s.mem = true → Memory.wf (f s).mem = true)
    (hs : Memory.wf s.mem = true) : Memory.wf (managed s v f).mem = true := by
  simp [managed, h, hs]

@[simp] theorem hostRead_frame (s : State) (a n : Nat) :
    (hostRead s a n).1.pending = s.pending ∧ (hostRead s a n).1.mem = s.mem :=
  by simp [hostRead]

@[simp] theorem hostWrite_pending (s : State) (a : Nat) (bs : List Byte) : (hostWrite s a bs).pending = s.pending :=
  by simp [hostWrite]

@[simp] theorem hostWrite_wf (s : State) (a : Nat) (bs : List Byte) (h :
    Memory.wf s.mem = true) : Memory.wf (hostWrite s a bs).mem = true :=
  by simp [hostWrite, h]

@[simp] theorem hostRefused_frame (s : State) (fn : Option Nat) :
    (hostRefused s fn).pending = s.pending ∧ (hostRefused s fn).mem = s.mem :=
  by unfold hostRefused; split <;> simp

@[simp] theorem bar2_pending (s : State) (fn : Option Nat) (a n : Nat) (wr : Option (List Byte)) :
    (bar2 s fn a n wr).pending = s.pending :=
  by unfold bar2; split <;> simp

@[simp] theorem bar2_wf (s : State) (fn : Option Nat) (a n : Nat) (wr : Option (List Byte)) (h :
    Memory.wf s.mem = true) : Memory.wf (bar2 s fn a n wr).mem = true :=
  by unfold bar2; split <;> simp [h]

@[simp] theorem vfReset_frame (s : State) (t : Nat) : (vfReset s t).pending = s.pending ∧ (vfReset s t).mem = s.mem :=
  by simp [vfReset]

@[simp] theorem queueWrite_frame (s : State) (fn o : Nat) (v : W32) :
    (queueWrite s fn o v).pending = s.pending ∧ (queueWrite s fn o v).mem = s.mem :=
  by unfold queueWrite; split <;> simp

@[simp] theorem queueAccess_frame (s : State) (vf : Option Ctx) (o : Nat) (v : W32) :
    (queueAccess s vf o v).pending = s.pending ∧ (queueAccess s vf o v).mem = s.mem :=
  by unfold queueAccess; split <;> simp

@[simp] theorem lbWrite_pending (s : State) (off : Nat) (bs : List Byte) : (lbWrite s off bs).pending = s.pending :=
  by simp [lbWrite]

@[simp] theorem lbWrite_wf (s : State) (off : Nat) (bs : List Byte) (h :
    Memory.wf s.mem = true) : Memory.wf (lbWrite s off bs).mem = true :=
  by simp [lbWrite, h]

@[simp] theorem ethCtlWrite_frame (s : State) (v : W32) :
    (ethCtlWrite s v).pending = s.pending ∧ (ethCtlWrite s v).mem = s.mem :=
  by simp [ethCtlWrite]

@[simp] theorem modI3c_frame (s : State) (f : I3c → I3c) : (modI3c s f).pending = s.pending ∧ (modI3c s f).mem = s.mem :=
  by simp [modI3c]

@[simp] theorem i3cReply_frame (s : State) (bs : List Byte) :
    (i3cReply s bs).pending = s.pending ∧ (i3cReply s bs).mem = s.mem :=
  by simp [i3cReply]

@[simp] theorem i3cAsk_frame (s : State) (st : Byte) (bs : List Byte) :
    (i3cAsk s st bs).pending = s.pending ∧ (i3cAsk s st bs).mem = s.mem :=
  by simp [i3cAsk]

@[simp] theorem i3cWrote_frame (s : State) (st : Byte) : (i3cWrote s st).pending = s.pending ∧ (i3cWrote s st).mem = s.mem :=
  by simp [i3cWrote]

@[simp] theorem addressed_pending (s : State) (f : State → State) (h : ∀ s, (f s).pending = s.pending) : (addressed s f).pending = s.pending := by
  simp [addressed, h]

@[simp] theorem addressed_mem (s : State) (f : State → State) (h : ∀ s, (f s).mem = s.mem) : (addressed s f).mem = s.mem := by
  simp [addressed, h]

@[simp] theorem addressed_wf (s : State) (f : State → State) (h : ∀ s, Memory.wf s.mem = true → Memory.wf (f s).mem = true)
    (hs : Memory.wf s.mem = true) : Memory.wf (addressed s f).mem = true := by
  simp [addressed, h, hs]

@[simp] theorem csrr_frame (s : State) (a len : Nat) : (csrr s a len).pending = s.pending ∧ (csrr s a len).mem = s.mem :=
  by simp [csrr]

@[simp] theorem lbw_pending (s : State) (off : Nat) (bs : List Byte) : (lbw s off bs).pending = s.pending := by simp [lbw]

@[simp] theorem lbw_wf (s : State) (off : Nat) (bs : List Byte) (h :
    Memory.wf s.mem = true) : Memory.wf (lbw s off bs).mem = true :=
  by simp [lbw, h]

@[simp] theorem lbr_frame (s : State) (off : Nat) (len : Byte) :
    (lbr s off len).pending = s.pending ∧ (lbr s off len).mem = s.mem :=
  by simp [lbr]

@[simp] theorem rxDrop_frame (s : State) : (rxDrop s).pending = s.pending ∧ (rxDrop s).mem = s.mem := by simp [rxDrop]

@[simp] theorem ethAnswer_frame (s : State) (mine : NetRec → Bool) (kind : Nat) (bs : List Byte) :
    (ethAnswer s mine kind bs).pending = s.pending ∧ (ethAnswer s mine kind bs).mem = s.mem :=
  by simp [ethAnswer]

@[simp] theorem ptpOffset_frame (s : State) (o : Int) : (ptpOffset s o).pending = s.pending ∧ (ptpOffset s o).mem = s.mem :=
  by simp [ptpOffset]

@[simp] theorem modSession_frame (s : State) (id : W32) (f : Session → Session) :
    (modSession s id f).pending = s.pending ∧ (modSession s id f).mem = s.mem :=
  by simp [modSession]

@[simp] theorem kbtTell_frame (s : State) (id : W32) (typ : Nat) (ctx : Byte) (addr arg : W32) (payload : List Byte) :
    (kbtTell s id typ ctx addr arg payload).pending = s.pending ∧ (kbtTell s id typ ctx addr arg payload).mem = s.mem :=
  by unfold kbtTell; split <;> simp

@[simp] theorem kbtSend_frame (s : State) (id : W32) (typ : Nat) (ctx : Byte) (addr arg : W32) (payload : List Byte) :
    (kbtSend s id typ ctx addr arg payload).pending = s.pending ∧ (kbtSend s id typ ctx addr arg payload).mem = s.mem :=
  by unfold kbtSend; split <;> simp

@[simp] theorem kbtDropped_frame (s : State) : (kbtDropped s).pending = s.pending ∧ (kbtDropped s).mem = s.mem :=
  by simp [kbtDropped]

@[simp] theorem kbtSendAck_frame (s : State) (id : W32) :
    (kbtSendAck s id).pending = s.pending ∧ (kbtSendAck s id).mem = s.mem :=
  by unfold kbtSendAck; split <;> simp

@[simp] theorem kbtAbandon_frame (s : State) (id : W32) :
    (kbtAbandon s id).pending = s.pending ∧ (kbtAbandon s id).mem = s.mem :=
  by simp [kbtAbandon]

@[simp] theorem kbtRetransmit_frame (s : State) (id : W32) :
    (kbtRetransmit s id).pending = s.pending ∧ (kbtRetransmit s id).mem = s.mem :=
  by unfold kbtRetransmit; split <;> simp

@[simp] theorem kbtRelease_frame (s : State) (id n : W32) :
    (kbtRelease s id n).pending = s.pending ∧ (kbtRelease s id n).mem = s.mem :=
  by simp [kbtRelease]

@[simp] theorem kbtTouch_frame (s : State) (x : Session) (h : KbtHdr) :
    (kbtTouch s x h).pending = s.pending ∧ (kbtTouch s x h).mem = s.mem :=
  by simp [kbtTouch]

theorem kbtOpen_frame {s t : State} {h : KbtHdr} (e : kbtOpen s h = some t) : t.pending = s.pending ∧ t.mem = s.mem := by
  unfold kbtOpen at e
  dsimp only at e
  (repeat' split at e) <;> first | (cases e; simp; done) | simp at e

@[simp] theorem kbtAckIn_frame (s : State) (m : KbtMsg) : (kbtAckIn s m).pending = s.pending ∧ (kbtAckIn s m).mem = s.mem :=
  by unfold kbtAckIn; (repeat' split) <;> simp

@[simp] theorem kbtNakIn_frame (s : State) (m : KbtMsg) : (kbtNakIn s m).pending = s.pending ∧ (kbtNakIn s m).mem = s.mem :=
  by unfold kbtNakIn; (repeat' split) <;> simp

@[simp] theorem intakeErr_frame (s : State) (e : BitVec 4) :
    (intakeErr s e).pending = s.pending ∧ (intakeErr s e).mem = s.mem :=
  by simp [intakeErr]

@[simp] theorem intakeStart_pending (s : State) (t : Nat) (i : Intake) : (intakeStart s t i).pending = s.pending :=
  by simp [intakeStart]

@[simp] theorem intakeStart_wf (s : State) (t : Nat) (i : Intake) (h :
    Memory.wf s.mem = true) : Memory.wf (intakeStart s t i).mem = true :=
  by simp [intakeStart, h]

@[simp] theorem intakeCtlWrite_pending (s : State) (t : Nat) (v : W32) : (intakeCtlWrite s t v).pending = s.pending :=
  by simp [intakeCtlWrite]

@[simp] theorem intakeCtlWrite_wf (s : State) (t : Nat) (v : W32) (h :
    Memory.wf s.mem = true) : Memory.wf (intakeCtlWrite s t v).mem = true :=
  by simp [intakeCtlWrite, h]

@[simp] theorem submitRequest_frame (s : State) (r : IntakeReq) :
    (submitRequest s r).pending = s.pending ∧ (submitRequest s r).mem = s.mem :=
  by simp [submitRequest]

@[simp] theorem intakeDoor_frame (s : State) (t : Ctx) (v : W32) :
    (intakeDoor s t v).pending = s.pending ∧ (intakeDoor s t v).mem = s.mem :=
  by simp [intakeDoor]

@[simp] theorem vfPageWrite_frame (s : State) (t : Ctx) (o : Nat) (v : W32) :
    (vfPageWrite s t o v).pending = s.pending ∧ (vfPageWrite s t o v).mem = s.mem :=
  by unfold vfPageWrite; split <;> simp

@[simp] theorem vfBar0Write_pending (s : State) (t : Ctx) (off : Nat) (bs : List Byte) :
    (vfBar0Write s t off bs).pending = s.pending :=
  by simp [vfBar0Write]

@[simp] theorem vfBar0Write_wf (s : State) (t : Ctx) (off : Nat) (bs : List Byte) (h :
    Memory.wf s.mem = true) : Memory.wf (vfBar0Write s t off bs).mem = true :=
  by simp [vfBar0Write, h]

@[simp] theorem judgeConsumed_frame (s : State) (t : Nat) :
    (judgeConsumed s t).pending = s.pending ∧ (judgeConsumed s t).mem = s.mem :=
  by simp [judgeConsumed]

@[simp] theorem refuseRequest_frame (s : State) (r : IntakeReq) (reason : Nat) :
    (refuseRequest s r reason).pending = s.pending ∧ (refuseRequest s r reason).mem = s.mem :=
  by simp [refuseRequest]

@[simp] theorem admitRequest_pending (s : State) (r : IntakeReq) : (admitRequest s r).pending = s.pending :=
  by simp [admitRequest]

@[simp] theorem admitRequest_wf (s : State) (r : IntakeReq) (h :
    Memory.wf s.mem = true) : Memory.wf (admitRequest s r).mem = true :=
  by simp [admitRequest, h]

@[simp] theorem intakeDecision_pending (s : State) : (intakeDecision s).pending = s.pending :=
  by unfold intakeDecision; split <;> simp

@[simp] theorem intakeDecision_wf (s : State) (h : Memory.wf s.mem = true) : Memory.wf (intakeDecision s).mem = true :=
  by unfold intakeDecision; split <;> simp [h]

@[simp] theorem kbtReplySend_frame (s : State) (t : Nat) (ret : List Byte) (reqId : W64) (bs : List Byte) :
    (kbtReplySend s t ret reqId bs).pending = s.pending ∧ (kbtReplySend s t ret reqId bs).mem = s.mem :=
  by simp [kbtReplySend]

@[simp] theorem replySlot_frame (s : State) (t : Ctx) (n : Nat) :
    (replySlot s t n).pending = s.pending ∧ (replySlot s t n).mem = s.mem :=
  by simp [replySlot]

@[simp] theorem intakeReply_frame (s : State) (t : Ctx) :
    (intakeReply s t).pending = s.pending ∧ (intakeReply s t).mem = s.mem :=
  by simp [intakeReply]

end Sys2Proof.Machine
end

