-- ==== Sys2Proof/Laws/FramePower.lean ====
section
/-! SUPPORT. Laws/FramePower.lean: what the operations of Machine/Power.lean leave alone: the queue of commands, and the memory or
its canonical form. -/

namespace Sys2Proof.Machine

@[simp] theorem modPwr_frame (s : State) (f : Pwr → Pwr) : (modPwr s f).pending = s.pending ∧ (modPwr s f).mem = s.mem :=
  by simp [modPwr]

@[simp] theorem modTel_frame (s : State) (f : Tel → Tel) : (modTel s f).pending = s.pending ∧ (modTel s f).mem = s.mem :=
  by simp [modTel]

@[simp] theorem domainDown_pending (s : State) (d : Nat) : (domainDown s d).pending = s.pending := by simp [domainDown]

@[simp] theorem domainDown_wf (s : State) (d : Nat) (h : Memory.wf s.mem = true) : Memory.wf (domainDown s d).mem = true :=
  by simp [domainDown, h]

@[simp] theorem domainUp_frame (s : State) (d : Nat) : (domainUp s d).pending = s.pending ∧ (domainUp s d).mem = s.mem :=
  by simp [domainUp]

@[simp] theorem sequence_pending (s : State) : (sequence s).pending = s.pending :=
  by unfold sequence; (repeat' split) <;> simp

@[simp] theorem sequence_wf (s : State) (h : Memory.wf s.mem = true) : Memory.wf (sequence s).mem = true :=
  by unfold sequence; (repeat' split) <;> simp [h]

@[simp] theorem switchDone_pending (s : State) : (switchDone s).pending = s.pending := by unfold switchDone; split <;> simp

@[simp] theorem switchDone_wf (s : State) (h : Memory.wf s.mem = true) : Memory.wf (switchDone s).mem = true :=
  by unfold switchDone; split <;> simp [h]

@[simp] theorem domCtlWrite_pending (s : State) (hi : Bool) (v : W32) : (domCtlWrite s hi v).pending = s.pending :=
  by unfold domCtlWrite; dsimp only; repeat' (first | (simp; done) | split)

@[simp] theorem domCtlWrite_wf (s : State) (hi : Bool) (v : W32) (h :
    Memory.wf s.mem = true) : Memory.wf (domCtlWrite s hi v).mem = true :=
  by unfold domCtlWrite; dsimp only; repeat' (first | (simp [h]; done) | split)

@[simp] theorem supplyOff_pending (s : State) (d : Nat) : (supplyOff s d).pending = s.pending := by simp [supplyOff]

@[simp] theorem supplyOff_wf (s : State) (d : Nat) (h : Memory.wf s.mem = true) : Memory.wf (supplyOff s d).mem = true :=
  by simp [supplyOff, h]

@[simp] theorem rampWrite_frame (s : State) (v : W32) : (rampWrite s v).pending = s.pending ∧ (rampWrite s v).mem = s.mem :=
  by simp [rampWrite]

@[simp] theorem capWrite_frame (s : State) (v : W32) : (capWrite s v).pending = s.pending ∧ (capWrite s v).mem = s.mem :=
  by simp [capWrite]

@[simp] theorem domStatWrite_frame (s : State) (v : W32) :
    (domStatWrite s v).pending = s.pending ∧ (domStatWrite s v).mem = s.mem :=
  by simp [domStatWrite]

@[simp] theorem makeEntry_frame (s : State) (channel range : Nat) (settling clip bad uncal : Bool) (value : Nat) :
    (makeEntry s channel range settling clip bad uncal value).pending = s.pending ∧ (makeEntry s channel range settling clip bad uncal value).mem = s.mem :=
  by simp [makeEntry]

@[simp] theorem qStatWrite_frame (s : State) (v : W32) :
    (qStatWrite s v).pending = s.pending ∧ (qStatWrite s v).mem = s.mem :=
  by simp [qStatWrite]

@[simp] theorem droopSample_frame (s : State) (n code : Nat) :
    (droopSample s n code).pending = s.pending ∧ (droopSample s n code).mem = s.mem :=
  by simp [droopSample]

@[simp] theorem stepUp_frame (s : State) (n : Nat) : (stepUp s n).pending = s.pending ∧ (stepUp s n).mem = s.mem :=
  by simp [stepUp]

@[simp] theorem gateSample_frame (s : State) (x : Nat) :
    (gateSample s x).pending = s.pending ∧ (gateSample s x).mem = s.mem :=
  by simp [gateSample]

@[simp] theorem modRange_frame (s : State) (i : Nat) (f : Range → Range) :
    (modRange s i f).pending = s.pending ∧ (modRange s i f).mem = s.mem :=
  by simp [modRange]

@[simp] theorem markBad_frame (s : State) (slice : Nat) :
    (markBad s slice).pending = s.pending ∧ (markBad s slice).mem = s.mem :=
  by simp [markBad]

@[simp] theorem fastConversion_frame (s : State) (channel slice code : Nat) (clip exceeds : Bool) :
    (fastConversion s channel slice code clip exceeds).pending = s.pending ∧ (fastConversion s channel slice code clip exceeds).mem = s.mem :=
  by simp [fastConversion]

@[simp] theorem telErr_frame (s : State) (e : BitVec 4) : (telErr s e).pending = s.pending ∧ (telErr s e).mem = s.mem :=
  by simp [telErr]

@[simp] theorem fastCtlWrite_frame (s : State) (v : W32) :
    (fastCtlWrite s v).pending = s.pending ∧ (fastCtlWrite s v).mem = s.mem :=
  by simp [fastCtlWrite]

@[simp] theorem softEntries_frame (i : Nat) (s : State) (chs : List Nat) (cs : List (BitVec 10 × Bool)) :
    (softEntries i s chs cs).pending = s.pending ∧ (softEntries i s chs cs).mem = s.mem := by
  induction chs generalizing i s cs with
  | nil => unfold softEntries; exact ⟨rfl, rfl⟩
  | cons ch chs ih =>
    cases cs with
    | nil => unfold softEntries; exact ⟨rfl, rfl⟩
    | cons c cs =>
      unfold softEntries
      dsimp only
      constructor
      · rw [(ih _ _ _).1]; split <;> simp
      · rw [(ih _ _ _).2]; split <;> simp

@[simp] theorem softConversion_frame (s : State) (codes : List (BitVec 10 × Bool)) :
    (softConversion s codes).pending = s.pending ∧ (softConversion s codes).mem = s.mem := by
  unfold softConversion
  split
  · exact ⟨rfl, rfl⟩
  · dsimp only
    rw [(softEntries_frame _ _ _ _).1, (softEntries_frame _ _ _ _).2]
    simp

@[simp] theorem calStatWrite_frame (s : State) (v : W32) :
    (calStatWrite s v).pending = s.pending ∧ (calStatWrite s v).mem = s.mem :=
  by simp [calStatWrite]

@[simp] theorem rangeWrite_frame (s : State) (v : W32) :
    (rangeWrite s v).pending = s.pending ∧ (rangeWrite s v).mem = s.mem :=
  by simp [rangeWrite]

@[simp] theorem slowCtlWrite_frame (s : State) (v : W32) :
    (slowCtlWrite s v).pending = s.pending ∧ (slowCtlWrite s v).mem = s.mem :=
  by simp [slowCtlWrite]

@[simp] theorem mainsLost_frame (s : State) : (mainsLost s).pending = s.pending ∧ (mainsLost s).mem = s.mem :=
  by simp [mainsLost]

@[simp] theorem mainsEdge_frame (s : State) (p : Nat) : (mainsEdge s p).pending = s.pending ∧ (mainsEdge s p).mem = s.mem :=
  by simp [mainsEdge]

@[simp] theorem mainsWrite_frame (s : State) (v : W32) :
    (mainsWrite s v).pending = s.pending ∧ (mainsWrite s v).mem = s.mem :=
  by simp [mainsWrite]

@[simp] theorem energyWrite_pending (s : State) : (energyWrite s).pending = s.pending := by simp [energyWrite]

@[simp] theorem energyWrite_wf (s : State) (h : Memory.wf s.mem = true) : Memory.wf (energyWrite s).mem = true :=
  by simp [energyWrite, h]

@[simp] theorem capStep_frame (s : State) (num den : Nat) :
    (capStep s num den).pending = s.pending ∧ (capStep s num den).mem = s.mem :=
  by simp [capStep]

@[simp] theorem slowWindowEnd_pending (s : State) (w : SlowWindow) : (slowWindowEnd s w).pending = s.pending :=
  by simp [slowWindowEnd]

@[simp] theorem slowWindowEnd_wf (s : State) (w : SlowWindow) (h :
    Memory.wf s.mem = true) : Memory.wf (slowWindowEnd s w).mem = true :=
  by simp [slowWindowEnd, h]

end Sys2Proof.Machine
end

