-- ==== Sys2Proof/Laws/FrameSend.lean ====
section
/-! SUPPORT. Laws/FrameSend.lean: what the operations of Machine/Send.lean leave alone: the queue of commands, and the memory or
its canonical form. -/

namespace Sys2Proof.Machine

@[simp] theorem hasSent_frame (s : State) (p : Nat) : (hasSent s p).pending = s.pending ∧ (hasSent s p).mem = s.mem :=
  by simp [hasSent]

@[simp] theorem sendFrame_frame (s : State) (p : Nat) (prio : Bool) (f : Frame) (bad : Bool) :
    (sendFrame s p prio f bad).pending = s.pending ∧ (sendFrame s p prio f bad).mem = s.mem :=
  by simp [sendFrame]

@[simp] theorem sendAgain_frame (s : State) (p : Nat) (prio : Bool) (r : TxRec) :
    (sendAgain s p prio r).pending = s.pending ∧ (sendAgain s p prio r).mem = s.mem :=
  by simp [sendAgain]

@[simp] theorem prioWindow_frame (k : Nat) (s : State) (p sent : Nat) :
    (prioWindow k s p sent).1.pending = s.pending ∧ (prioWindow k s p sent).1.mem = s.mem := by
  induction k generalizing s sent with
  | zero => exact ⟨rfl, rfl⟩
  | succ k ih => constructor <;> unfold prioWindow <;> dsimp only <;> repeat' (first | (simp [ih]; done) | split)

@[simp] theorem openPrio_frame (s : State) (p : Nat) :
    (openPrio s p).pending = s.pending ∧ (openPrio s p).mem = s.mem :=
  by unfold openPrio; dsimp only; repeat' (first | (simp ; done) | (simp_all; done) | split)

@[simp] theorem lastPrio_frame (s : State) (p : Nat) :
    (lastPrio s p).pending = s.pending ∧ (lastPrio s p).mem = s.mem :=
  by unfold lastPrio; repeat' (first | (simp; done) | split)

end Sys2Proof.Machine
end

