-- ==== Sys2Proof/Laws/FrameLife.lean ====
section
/-! SUPPORT. Laws/FrameLife.lean: what the operations of Machine/Life.lean leave alone: the queue of commands, and the memory or
its canonical form. -/

namespace Sys2Proof.Machine

@[simp] theorem modGlb_frame (s : State) (f : Glb → Glb) : (modGlb s f).pending = s.pending ∧ (modGlb s f).mem = s.mem :=
  by simp [modGlb]

@[simp] theorem chipFault_pending (s : State) (st cause : BitVec 4) : (chipFault s st cause).pending = s.pending :=
  by unfold chipFault; dsimp only; repeat' (first | (simp ; done) | (simp_all; done) | split)

@[simp] theorem chipFault_wf (s : State) (st cause : BitVec 4) (h :
    Memory.wf s.mem = true) : Memory.wf (chipFault s st cause).mem = true :=
  by unfold chipFault; repeat' (first | (simp [h]; done) | (simp_all; done) | split)

@[simp] theorem supplyFault_pending (s : State) (d : Nat) : (supplyFault s d).pending = s.pending := by simp [supplyFault]

@[simp] theorem supplyFault_wf (s : State) (d : Nat) (h : Memory.wf s.mem = true) : Memory.wf (supplyFault s d).mem = true :=
  by simp [supplyFault, h]

@[simp] theorem fuseLoadEnd_pending (s : State) (m : Option FuseMap) : (fuseLoadEnd s m).pending = s.pending :=
  by unfold fuseLoadEnd; (repeat' split) <;> simp

@[simp] theorem fuseLoadEnd_wf (s : State) (m : Option FuseMap) (h :
    Memory.wf s.mem = true) : Memory.wf (fuseLoadEnd s m).mem = true :=
  by unfold fuseLoadEnd; (repeat' split) <;> simp [h]

@[simp] theorem setFwAlt_frame (s : State) : (setFwAlt s).pending = s.pending ∧ (setFwAlt s).mem = s.mem :=
  by simp [setFwAlt]

@[simp] theorem bootEnd_pending (s : State) : (bootEnd s).pending = s.pending :=
  by unfold bootEnd; dsimp only; repeat' (first | (simp; done) | split)

@[simp] theorem bootEnd_wf (s : State) (h : Memory.wf s.mem = true) : Memory.wf (bootEnd s).mem = true :=
  by unfold bootEnd; dsimp only; repeat' (first | (simp [h]; done) | split)

@[simp] theorem chipReady_frame (s : State) : (chipReady s).pending = s.pending ∧ (chipReady s).mem = s.mem :=
  by simp [chipReady]

@[simp] theorem formDownIn_frame (s : State) (f : FormDownFrame) :
    (formDownIn s f).pending = s.pending ∧ (formDownIn s f).mem = s.mem :=
  by unfold formDownIn; split <;> simp

@[simp] theorem formTry_frame (s : State) : (formTry s).pending = s.pending ∧ (formTry s).mem = s.mem :=
  by unfold formTry; dsimp only; repeat' (first | (simp; done) | split)

@[simp] theorem formAt_pending (s : State) (t : Table) (b : PartRec) (planes : List Nat) (m : W64) :
    (formAt s t b planes m).pending = s.pending :=
  by simp [formAt]

@[simp] theorem formAt_wf (s : State) (t : Table) (b : PartRec) (planes : List Nat) (m : W64) (h :
    Memory.wf s.mem = true) : Memory.wf (formAt s t b planes m).mem = true :=
  by simp [formAt, h]

@[simp] theorem formationInstant_pending (s : State) : (formationInstant s).pending = s.pending :=
  by unfold formationInstant; (repeat' split) <;> simp

@[simp] theorem formationInstant_wf (s : State) (h : Memory.wf s.mem = true) : Memory.wf (formationInstant s).mem = true :=
  by unfold formationInstant; (repeat' split) <;> simp [h]

@[simp] theorem formUpIn_frame (s : State) (src : Coord) (f : FormUpFrame) :
    (formUpIn s src f).pending = s.pending ∧ (formUpIn s src f).mem = s.mem :=
  by unfold formUpIn; split <;> simp

@[simp] theorem formConfirmTimeout_frame (s : State) :
    (formConfirmTimeout s).pending = s.pending ∧ (formConfirmTimeout s).mem = s.mem :=
  by unfold formConfirmTimeout; split <;> simp

@[simp] theorem formUnconfirmed_pending (s : State) : (formUnconfirmed s).pending = s.pending :=
  by unfold formUnconfirmed; split <;> simp

@[simp] theorem formUnconfirmed_wf (s : State) (h : Memory.wf s.mem = true) : Memory.wf (formUnconfirmed s).mem = true :=
  by unfold formUnconfirmed; split <;> simp [h]

@[simp] theorem decideFence_frame (s : State) (tray cause : Nat) :
    (decideFence s tray cause).pending = s.pending ∧ (decideFence s tray cause).mem = s.mem :=
  by unfold decideFence; split <;> simp

@[simp] theorem fenceReqIn_frame (s : State) (f : FenceReqFrame) :
    (fenceReqIn s f).pending = s.pending ∧ (fenceReqIn s f).mem = s.mem :=
  by simp [fenceReqIn]

@[simp] theorem darkIn_frame (s : State) (f : DarkFrame) : (darkIn s f).pending = s.pending ∧ (darkIn s f).mem = s.mem :=
  by simp [darkIn]

@[simp] theorem toRoles_pending (s : State) (b : Body) (here : State → State)
    (h : ∀ s, (here s).pending = s.pending) : (toRoles s b here).pending = s.pending := by simp [toRoles, h]

@[simp] theorem toRoles_mem (s : State) (b : Body) (here : State → State) (h : ∀ s, (here s).mem = s.mem) :
    (toRoles s b here).mem = s.mem := by simp [toRoles, h]

@[simp] theorem darkTimeout_frame (s : State) (p : Nat) :
    (darkTimeout s p).pending = s.pending ∧ (darkTimeout s p).mem = s.mem :=
  by unfold darkTimeout; (repeat' split) <;> simp

@[simp] theorem fenceIn_frame (s : State) (f : FenceFrame) : (fenceIn s f).pending = s.pending ∧ (fenceIn s f).mem = s.mem :=
  by simp [fenceIn]

@[simp] theorem standbyFenced_frame (s : State) (tray : Nat) :
    (standbyFenced s tray).pending = s.pending ∧ (standbyFenced s tray).mem = s.mem :=
  by unfold standbyFenced; repeat' (first | (simp; done) | split)

@[simp] theorem outlive_frame (s : State) (v : PartView) (tray w : Nat) :
    (outlive s v tray w).pending = s.pending ∧ (outlive s v tray w).mem = s.mem :=
  by simp [outlive]

@[simp] theorem fenceNow_pending (s : State) (x : FenceSched) : (fenceNow s x).pending = s.pending :=
  by unfold fenceNow; split <;> simp

@[simp] theorem fenceNow_wf (s : State) (x : FenceSched) (h :
    Memory.wf s.mem = true) : Memory.wf (fenceNow s x).mem = true :=
  by unfold fenceNow; split <;> simp [h]

@[simp] theorem fenceApply_pending (s : State) : (fenceApply s).pending = s.pending := by simp [fenceApply]

@[simp] theorem fenceApply_wf (s : State) (h : Memory.wf s.mem = true) : Memory.wf (fenceApply s).mem = true :=
  by unfold fenceApply; (repeat' split) <;> simp_all

@[simp] theorem fwLoadEnd_frame (s : State) : (fwLoadEnd s).pending = s.pending ∧ (fwLoadEnd s).mem = s.mem :=
  by unfold fwLoadEnd; split <;> simp

@[simp] theorem chipReset_pending (s : State) : (chipReset s).pending = s.pending := rfl

/-- A chip reset leaves no byte listed. -/
theorem chipReset_mem (s : State) : (chipReset s).mem = [] := rfl

@[simp] theorem chipReset_wf (s : State) : Memory.wf (chipReset s).mem = true := rfl

@[simp] theorem glbResetWrite_pending (s : State) (v : W32) : (glbResetWrite s v).pending = s.pending :=
  by simp [glbResetWrite]

@[simp] theorem glbResetWrite_wf (s : State) (v : W32) (h :
    Memory.wf s.mem = true) : Memory.wf (glbResetWrite s v).mem = true :=
  by simp [glbResetWrite, h]

end Sys2Proof.Machine
end

