-- ==== Sys2Proof/Laws/FrameWregs.lean ====
section
/-! SUPPORT. Laws/FrameWregs.lean: what the operations of Machine/Wregs.lean leave alone: the queue of commands, and the memory or
its canonical form. -/

namespace Sys2Proof.Machine

@[simp] theorem resErrWrite_frame (s : State) (v : W32) :
    (resErrWrite s v).pending = s.pending ∧ (resErrWrite s v).mem = s.mem :=
  by simp [resErrWrite]

@[simp] theorem corWrite_pending (s : State) (n o : Nat) (v : W32) : (corWrite s n o v).pending = s.pending :=
  by unfold corWrite; (repeat' split) <;> simp

@[simp] theorem corWrite_wf (s : State) (n o : Nat) (v : W32) (h :
    Memory.wf s.mem = true) : Memory.wf (corWrite s n o v).mem = true :=
  by unfold corWrite; (repeat' split) <;> simp [h]

@[simp] theorem afvWrite_frame (s : State) (p o : Nat) (v : W32) :
    (afvWrite s p o v).pending = s.pending ∧ (afvWrite s p o v).mem = s.mem :=
  by unfold afvWrite; split <;> simp

@[simp] theorem lowWrite_pending (s : State) (v : Via) (off : Nat) (w : W32) : (lowWrite s v off w).pending = s.pending :=
  by unfold lowWrite; split <;> simp

@[simp] theorem lowWrite_wf (s : State) (v : Via) (off : Nat) (w : W32) (h :
    Memory.wf s.mem = true) : Memory.wf (lowWrite s v off w).mem = true :=
  by unfold lowWrite; split <;> simp [h]

@[simp] theorem highWrite_pending (s : State) (off : Nat) (w : W32) : (highWrite s off w).pending = s.pending :=
  by unfold highWrite; split <;> simp

@[simp] theorem highWrite_wf (s : State) (off : Nat) (w : W32) (h :
    Memory.wf s.mem = true) : Memory.wf (highWrite s off w).mem = true :=
  by unfold highWrite; split <;> simp [h]

@[simp] theorem blockWrite_pending (s : State) (v : Via) (off : Nat) (w : W32) :
    (blockWrite s v off w).pending = s.pending :=
  by simp [blockWrite]

@[simp] theorem blockWrite_wf (s : State) (v : Via) (off : Nat) (w : W32) (h :
    Memory.wf s.mem = true) : Memory.wf (blockWrite s v off w).mem = true :=
  by simp [blockWrite, h]

@[simp] theorem registerWrite_pending (s : State) (v : Via) (off : Nat) (w : W32) :
    (registerWrite s v off w).pending = s.pending :=
  by simp [registerWrite]

@[simp] theorem registerWrite_wf (s : State) (v : Via) (off : Nat) (w : W32) (h :
    Memory.wf s.mem = true) : Memory.wf (registerWrite s v off w).mem = true :=
  by unfold registerWrite; (repeat' split) <;> simp_all

@[simp] theorem csrw_pending (s : State) (a : Nat) (v : W32) (len : Nat) : (csrw s a v len).pending = s.pending :=
  by simp [csrw]

@[simp] theorem csrw_wf (s : State) (a : Nat) (v : W32) (len : Nat) (h :
    Memory.wf s.mem = true) : Memory.wf (csrw s a v len).mem = true :=
  by simp [csrw, h]

end Sys2Proof.Machine
end

