-- ==== Sys2Proof/Laws/FrameKbt.lean ====
section
/-! SUPPORT. Laws/FrameKbt.lean: what the operations of Machine/Kbt.lean leave alone: the queue of commands, and the memory or
its canonical form. -/

namespace Sys2Proof.Machine

@[simp] theorem kbtRefuse_frame (s : State) (m : KbtMsg) :
    (kbtRefuse s m).pending = s.pending ∧ (kbtRefuse s m).mem = s.mem :=
  by simp [kbtRefuse]

@[simp] theorem kbtCsrWriteAct_pending (s : State) (m : KbtMsg) : (kbtCsrWriteAct s m).pending = s.pending :=
  by simp [kbtCsrWriteAct]

@[simp] theorem kbtCsrWriteAct_wf (s : State) (m : KbtMsg) (h :
    Memory.wf s.mem = true) : Memory.wf (kbtCsrWriteAct s m).mem = true :=
  by simp [kbtCsrWriteAct, h]

@[simp] theorem kbtCsrReadAct_frame (s : State) (m : KbtMsg) :
    (kbtCsrReadAct s m).pending = s.pending ∧ (kbtCsrReadAct s m).mem = s.mem :=
  by simp [kbtCsrReadAct]

@[simp] theorem kbtWriteAct_pending (s : State) (m : KbtMsg) : (kbtWriteAct s m).pending = s.pending := by simp [kbtWriteAct]

@[simp] theorem kbtWriteAct_wf (s : State) (m : KbtMsg) (h :
    Memory.wf s.mem = true) : Memory.wf (kbtWriteAct s m).mem = true :=
  by simp [kbtWriteAct, h]

@[simp] theorem kbtReadAct_frame (s : State) (m : KbtMsg) :
    (kbtReadAct s m).pending = s.pending ∧ (kbtReadAct s m).mem = s.mem :=
  by simp [kbtReadAct]

@[simp] theorem kbtRequestAct_frame (s : State) (m : KbtMsg) :
    (kbtRequestAct s m).pending = s.pending ∧ (kbtRequestAct s m).mem = s.mem :=
  by unfold kbtRequestAct; (repeat' split) <;> simp

@[simp] theorem kbtAct_pending (s : State) (m : KbtMsg) : (kbtAct s m).pending = s.pending := by simp [kbtAct]

@[simp] theorem kbtAct_wf (s : State) (m : KbtMsg) (h : Memory.wf s.mem = true) : Memory.wf (kbtAct s m).mem = true :=
  by simp [kbtAct, h]

@[simp] theorem kbtNext_pending (s : State) (m : KbtMsg) : (kbtNext s m).pending = s.pending :=
  by unfold kbtNext; dsimp only; repeat' (first | (simp; done) | split)

@[simp] theorem kbtNext_wf (s : State) (m : KbtMsg) (h : Memory.wf s.mem = true) : Memory.wf (kbtNext s m).mem = true :=
  by unfold kbtNext; dsimp only; repeat' (first | (simp [h]; done) | split)

@[simp] theorem kbtDrain_pending (id : W32) (k : Nat) (s : State) : (kbtDrain id k s).pending = s.pending := by
  induction k generalizing s with
  | zero => rfl
  | succ k ih => unfold kbtDrain; repeat' (first | (simp [ih]; done) | split)

@[simp] theorem kbtDrain_wf (id : W32) (k : Nat) (s : State) (h : Memory.wf s.mem = true) :
    Memory.wf (kbtDrain id k s).mem = true := by
  induction k generalizing s with
  | zero => exact h
  | succ k ih => unfold kbtDrain; repeat' (first | (simp [ih, h]; done) | split)

@[simp] theorem kbtAccept_pending (s : State) (m : KbtMsg) : (kbtAccept s m).pending = s.pending :=
  by unfold kbtAccept; split <;> simp

@[simp] theorem kbtAccept_wf (s : State) (m : KbtMsg) (h : Memory.wf s.mem = true) : Memory.wf (kbtAccept s m).mem = true :=
  by unfold kbtAccept; split <;> simp [h]

@[simp] theorem kbtIn_pending (s : State) (m : KbtMsg) : (kbtIn s m).pending = s.pending := by
  unfold kbtIn
  split
  · rfl
  · split
    · simp
    · rw [kbtAccept_pending, (kbtOpen_frame ‹_›).1]

@[simp] theorem kbtIn_wf (s : State) (m : KbtMsg) (h : Memory.wf s.mem = true) : Memory.wf (kbtIn s m).mem = true := by
  unfold kbtIn
  split
  · exact h
  · split
    · simp [h]
    · refine kbtAccept_wf _ _ ?_
      rw [(kbtOpen_frame ‹_›).2]
      exact h

end Sys2Proof.Machine
end

