-- ==== Sys2Proof/Laws/FrameSchedule.lean ====
section
/-! SUPPORT. Laws/FrameSchedule.lean: what the operations of Machine/Schedule.lean leave alone: the queue of commands, and the memory or
its canonical form. -/

namespace Sys2Proof.Machine

@[simp] theorem sendShelfFlit_frame (s : State) (p : Nat) (x : Sending) (i : Nat) :
    (sendShelfFlit s p x i).pending = s.pending ∧ (sendShelfFlit s p x i).mem = s.mem :=
  by unfold sendShelfFlit; dsimp only; repeat' (first | (simp; done) | split)

theorem sendBulk_frame {s : State} {p : Nat} {r : State × Nat} (h : sendBulk s p = some r) :
    r.1.pending = s.pending ∧ r.1.mem = s.mem := by
  unfold sendBulk at h
  dsimp only at h
  rw [Option.map_eq_some_iff] at h
  obtain ⟨x, -, rfl⟩ := h
  simp

@[simp] theorem bulkWindow_frame (k : Nat) (s : State) (p left : Nat) :
    (bulkWindow k s p left).pending = s.pending ∧ (bulkWindow k s p left).mem = s.mem := by
  induction k generalizing s left with
  | zero => exact ⟨rfl, rfl⟩
  | succ k ih =>
    have bulk (r : State × Nat) (h : sendBulk s p = some r) :
        (bulkWindow k r.1 p (left - r.2)).pending = s.pending ∧ (bulkWindow k r.1 p (left - r.2)).mem = s.mem := by
      have e := sendBulk_frame h
      rw [(ih _ _).1, (ih _ _).2]
      exact e
    unfold bulkWindow
    dsimp only
    split
    · exact ⟨rfl, rfl⟩
    · split
      · simp [ih]
      · split
        · split
          · simp [ih]
          · split
            · exact bulk _ ‹_›
            · exact ⟨rfl, rfl⟩
        · split
          · exact bulk _ ‹_›
          · exact ⟨rfl, rfl⟩

@[simp] theorem portWindows_frame (s : State) (k p : Nat) :
    (portWindows s k p).pending = s.pending ∧ (portWindows s k p).mem = s.mem :=
  by simp [portWindows]

@[simp] theorem openWindows_frame (s : State) (k : Nat) :
    (openWindows s k).pending = s.pending ∧ (openWindows s k).mem = s.mem :=
  by simp [openWindows]

@[simp] theorem microslotStart_frame (s : State) : (microslotStart s).pending = s.pending ∧ (microslotStart s).mem = s.mem :=
  by simp [microslotStart]

@[simp] theorem turnGrid_frame (s : State) (beat : Bool) :
    (turnGrid s beat).pending = s.pending ∧ (turnGrid s beat).mem = s.mem :=
  by unfold turnGrid; repeat' (first | (simp ; done) | split)

@[simp] theorem ageRelock_frame (s : State) :
    (ageRelock s).pending = s.pending ∧ (ageRelock s).mem = s.mem :=
  by unfold ageRelock; repeat' (first | (simp; done) | split)

@[simp] theorem newBeat_pending (s : State) : (newBeat s).pending = s.pending := by simp [newBeat]

@[simp] theorem newBeat_wf (s : State) (h : Memory.wf s.mem = true) : Memory.wf (newBeat s).mem = true :=
  by simp [newBeat, h]

@[simp] theorem portBeat_frame (s : State) (p : Nat) : (portBeat s p).pending = s.pending ∧ (portBeat s p).mem = s.mem :=
  by simp [portBeat]

@[simp] theorem awaitHeaders_frame (s : State) (beat : Bool) :
    (awaitHeaders s beat).pending = s.pending ∧ (awaitHeaders s beat).mem = s.mem :=
  by constructor <;> simp [awaitHeaders]

@[simp] theorem beatStart_pending (s : State) : (beatStart s).pending = s.pending :=
  by unfold beatStart; dsimp only; repeat' (first | (simp ; done) | (simp_all; done) | split)

@[simp] theorem beatStart_wf (s : State) (h : Memory.wf s.mem = true) : Memory.wf (beatStart s).mem = true :=
  by unfold beatStart; dsimp only; repeat' (first | (simp [h]; done) | (simp_all; done) | split)

@[simp] theorem gridFrameStart_pending (s : State) : (gridFrameStart s).pending = s.pending :=
  by unfold gridFrameStart; dsimp only; repeat' (first | (simp ; done) | (simp_all; done) | split)

@[simp] theorem gridFrameStart_wf (s : State) (h : Memory.wf s.mem = true) : Memory.wf (gridFrameStart s).mem = true :=
  by simp [gridFrameStart, h]

end Sys2Proof.Machine
end

