-- ==== Sys2Proof/Laws/FrameWaits.lean ====
section
/-! SUPPORT. Laws/FrameWaits.lean: what the operations of Machine/Waits.lean leave alone: the queue of commands, and the memory or
its canonical form. -/

namespace Sys2Proof.Machine

@[simp] theorem waitTimeout_frame (s : State) (n agent : Nat) :
    (waitTimeout s n agent).pending = s.pending ∧ (waitTimeout s n agent).mem = s.mem :=
  by unfold waitTimeout; dsimp only; repeat' (first | (simp ; done) | (simp_all; done) | split)

end Sys2Proof.Machine
end

