-- ==== Sys2Proof/Laws/FrameTick.lean ====
section
/-! SUPPORT. Laws/FrameTick.lean: what the operations of Machine/Tick.lean leave alone: the queue of commands, and the memory or
its canonical form. -/

namespace Sys2Proof.Machine

@[simp] theorem stageNext_pending (s : State) (n u : Nat) (x : QEntry) : (stageNext s n u x).pending = s.pending :=
  by unfold stageNext; dsimp only; repeat' (first | (simp ; done) | (simp_all; done) | split)

@[simp] theorem stageNext_wf (s : State) (n u : Nat) (x : QEntry) (h : Memory.wf s.mem = true) :
    Memory.wf (stageNext s n u x).mem = true :=
  by unfold stageNext; dsimp only; repeat' (first | (simp [h]; done) | (simp_all; done) | split)

@[simp] theorem headClock_pending (s : State) (n u : Nat) : (headClock s n u).pending = s.pending :=
  by unfold headClock; repeat' (first | (simp; done) | split)

@[simp] theorem headClock_wf (s : State) (n u : Nat) (h : Memory.wf s.mem = true) :
    Memory.wf (headClock s n u).mem = true :=
  by unfold headClock; repeat' (first | (simp [h]; done) | (simp_all; done) | split)

@[simp] theorem unitClock_pending (s : State) (n u : Nat) : (unitClock s n u).pending = s.pending :=
  by unfold unitClock; repeat' (first | (simp; done) | split)

@[simp] theorem unitClock_wf (s : State) (n u : Nat) (h : Memory.wf s.mem = true) :
    Memory.wf (unitClock s n u).mem = true :=
  by unfold unitClock; repeat' (first | (simp [h]; done) | (simp_all; done) | split)

@[simp] theorem unitsClock_pending (s : State) : (unitsClock s).pending = s.pending :=
  by unfold unitsClock; repeat' (first | (simp; done) | split)

@[simp] theorem unitsClock_wf (s : State) (h : Memory.wf s.mem = true) :
    Memory.wf (unitsClock s).mem = true := by
  unfold unitsClock
  exact foldl_wf _ _ _ (fun s n hs => foldl_wf _ _ _ (fun s u hs => unitClock_wf s n u hs) hs) h

@[simp] theorem upsetClock_pending (s : State) : (upsetClock s).pending = s.pending :=
  by unfold upsetClock; repeat' (first | (simp; done) | split)

@[simp] theorem upsetClock_wf (s : State) (h : Memory.wf s.mem = true) :
    Memory.wf (upsetClock s).mem = true :=
  by unfold upsetClock; repeat' (first | (simp [h]; done) | (simp_all; done) | split)

@[simp] theorem upsetArray_frame (s : State) (n u : Nat) :
    (upsetArray s n u).pending = s.pending ∧ (upsetArray s n u).mem = s.mem :=
  by simp [upsetArray]

@[simp] theorem upsetDrain_frame (s : State) (n u : Nat) :
    (upsetDrain s n u).pending = s.pending ∧ (upsetDrain s n u).mem = s.mem :=
  by unfold upsetDrain; dsimp only; split <;> simp

@[simp] theorem upsetTrestle_frame (s : State) :
    (upsetTrestle s).pending = s.pending ∧ (upsetTrestle s).mem = s.mem :=
  by unfold upsetTrestle; dsimp only; split <;> simp

@[simp] theorem timingClock_frame (s : State) :
    (timingClock s).pending = s.pending ∧ (timingClock s).mem = s.mem :=
  by unfold timingClock; repeat' (first | (simp; done) | split)

@[simp] theorem coresClock_frame (s : State) :
    (coresClock s).pending = s.pending ∧ (coresClock s).mem = s.mem :=
  by unfold coresClock; repeat' (first | (simp; done) | split)

@[simp] theorem State.tick_pending (s : State) : (State.tick s).pending = s.pending :=
  by unfold State.tick; repeat' (first | (simp; done) | split)

@[simp] theorem State.tick_wf (s : State) (h : Memory.wf s.mem = true) :
    Memory.wf (State.tick s).mem = true :=
  by unfold State.tick; repeat' (first | (simp [h]; done) | (simp_all; done) | split)

end Sys2Proof.Machine
end

