-- ==== Sys2Proof/Laws/Words.lean ====
section
/-! SUPPORT. Laws/Words.lean: single bits, saturating counts and register vectors of Machine/Ops.lean. -/

namespace Sys2Proof.Machine

theorem bit_setBit {n : Nat} (v : BitVec n) (i j : Nat) (b : Bool) (hj : j < n) :
    bit (setBit v i b) j = if j = i then b else bit v j := by
  cases b
  · simp only [bit, setBit, Bool.false_eq_true, if_false, BitVec.getLsbD_and, BitVec.getLsbD_not, BitVec.getLsbD_shiftLeft,
      BitVec.getLsbD_one]
    by_cases h : j = i
    · subst h; simp
      omega
    · have : ¬(i ≤ j ∧ j - i = 0) := by omega
      by_cases hle : j < i <;> simp [h, hj, hle]
      omega
  · simp only [bit, setBit, if_true, BitVec.getLsbD_or, BitVec.getLsbD_shiftLeft, BitVec.getLsbD_one]
    by_cases h : j = i
    · subst h; simp; omega
    · by_cases hle : j < i
      · simp [h, hle]
      · have : j - i ≠ 0 := by omega
        simp [h, this]

theorem bit_setBit_same {n : Nat} (v : BitVec n) (i : Nat) (b : Bool) (hi : i < n) : bit (setBit v i b) i = b := by
  rw [bit_setBit v i i b hi, if_pos rfl]

theorem bit_setBit_other {n : Nat} (v : BitVec n) {i j : Nat} (b : Bool) (hj : j < n) (h : j ≠ i) :
    bit (setBit v i b) j = bit v j := by
  rw [bit_setBit v i j b hj, if_neg h]

/-- A saturating count rises by `k`, or stands at its largest value. -/
theorem toNat_satAdd {n : Nat} (v : BitVec n) (k : Nat) : (satAdd v k).toNat = min (v.toNat + k) (2 ^ n - 1) := by
  unfold satAdd
  have hv := v.isLt
  split
  · rename_i h
    rw [BitVec.toNat_add, BitVec.toNat_ofNat, Nat.add_mod_mod, Nat.mod_eq_of_lt h]
    omega
  · rw [BitVec.toNat_allOnes]
    omega

theorem toNat_satInc {n : Nat} (v : BitVec n) : (satInc v).toNat = min (v.toNat + 1) (2 ^ n - 1) := toNat_satAdd v 1

/-! ### Vectors of registers -/

theorem vmod_get {α : Type} {n : Nat} (v : Vector α n) (i : Nat) (f : α → α) (j : Nat) (hj : j < n) :
    (vmod v i f)[j] = if i = j then f v[j] else v[j] := by
  unfold vmod
  split
  · rw [Vector.getElem_set]
    split
    · rename_i h; subst h; rfl
    · rfl
  · have : i ≠ j := by omega
    rw [if_neg this]

@[simp] theorem vmod_get_same {α : Type} {n : Nat} (v : Vector α n) (i : Nat) (f : α → α) (hi : i < n) :
    (vmod v i f)[i] = f v[i] := by
  rw [vmod_get v i f i hi, if_pos rfl]

theorem vmod_get_other {α : Type} {n : Nat} (v : Vector α n) {i j : Nat} (f : α → α) (hj : j < n) (h : i ≠ j) :
    (vmod v i f)[j] = v[j] := by
  rw [vmod_get v i f j hj, if_neg h]

theorem vmod_getD {α : Type} {n : Nat} (v : Vector α n) (i : Nat) (f : α → α) (j : Nat) (d : α) :
    (vmod v i f).toList.getD j d = if i = j ∧ j < n then f (v.toList.getD j d) else v.toList.getD j d := by
  by_cases hj : j < n
  · have e (w : Vector α n) : w.toList.getD j d = w[j] := by
      rw [List.getD_eq_getElem?_getD, List.getElem?_eq_getElem (by simpa using hj)]
      simp
    rw [e, e, vmod_get v i f j hj]
    simp [hj]
  · have e (w : Vector α n) : w.toList.getD j d = d := by
      rw [List.getD_eq_getElem?_getD, List.getElem?_eq_none (by simpa using hj)]
      rfl
    rw [e, e]
    simp [hj]

end Sys2Proof.Machine
end

