-- ==== Sys2Proof/Laws/State.lean ====
section
/-! SUPPORT. Laws/State.lean: one lemma per update of the state and field that the update leaves alone, true by rfl, and what the
field it changes holds afterwards. (The queue and the memory stand in the Frame files.) -/

namespace Sys2Proof.Machine

/-! ### State.emit -/

@[simp] theorem State.emit_clock (s : State) (o : Out) : (s.emit o).clock = s.clock := rfl
@[simp] theorem State.emit_draw (s : State) (o : Out) : (s.emit o).draw = s.draw := rfl
@[simp] theorem State.emit_outs (s : State) (o : Out) : (s.emit o).outs = o :: s.outs := rfl
@[simp] theorem State.emit_inst (s : State) (o : Out) : (s.emit o).inst = s.inst := rfl
@[simp] theorem State.emit_anchor (s : State) (o : Out) : (s.emit o).anchor = s.anchor := rfl
@[simp] theorem State.emit_own (s : State) (o : Out) : (s.emit o).own = s.own := rfl
@[simp] theorem State.emit_glb (s : State) (o : Out) : (s.emit o).glb = s.glb := rfl
@[simp] theorem State.emit_fw (s : State) (o : Out) : (s.emit o).fw = s.fw := rfl
@[simp] theorem State.emit_hst (s : State) (o : Out) : (s.emit o).hst = s.hst := rfl
@[simp] theorem State.emit_latches (s : State) (o : Out) : (s.emit o).latches = s.latches := rfl
@[simp] theorem State.emit_beat (s : State) (o : Out) : (s.emit o).beat = s.beat := rfl
@[simp] theorem State.emit_wrg (s : State) (o : Out) : (s.emit o).wrg = s.wrg := rfl
@[simp] theorem State.emit_upk (s : State) (o : Out) : (s.emit o).upk = s.upk := rfl
@[simp] theorem State.emit_arm (s : State) (o : Out) : (s.emit o).arm = s.arm := rfl
@[simp] theorem State.emit_cores (s : State) (o : Out) : (s.emit o).cores = s.cores := rfl
@[simp] theorem State.emit_frames (s : State) (o : Out) : (s.emit o).frames = s.frames := rfl
@[simp] theorem State.emit_fills (s : State) (o : Out) : (s.emit o).fills = s.fills := rfl
@[simp] theorem State.emit_ue (s : State) (o : Out) : (s.emit o).ue = s.ue := rfl
@[simp] theorem State.emit_ce (s : State) (o : Out) : (s.emit o).ce = s.ce := rfl
@[simp] theorem State.emit_ports (s : State) (o : Out) : (s.emit o).ports = s.ports := rfl
@[simp] theorem State.emit_hut (s : State) (o : Out) : (s.emit o).hut = s.hut := rfl
@[simp] theorem State.emit_pwr (s : State) (o : Out) : (s.emit o).pwr = s.pwr := rfl
@[simp] theorem State.emit_tel (s : State) (o : Out) : (s.emit o).tel = s.tel := rfl
@[simp] theorem State.emit_fenceN (s : State) (o : Out) : (s.emit o).fenceN = s.fenceN := rfl
@[simp] theorem State.emit_thermtrip (s : State) (o : Out) : (s.emit o).thermtrip = s.thermtrip := rfl

/-! ### State.drawn -/

@[simp] theorem State.drawn_clock (s : State) (n : Nat) : (s.drawn n).clock = s.clock := rfl
@[simp] theorem State.drawn_draw (s : State) (n : Nat) : (s.drawn n).draw = s.draw + n := rfl
@[simp] theorem State.drawn_outs (s : State) (n : Nat) : (s.drawn n).outs = s.outs := rfl
@[simp] theorem State.drawn_inst (s : State) (n : Nat) : (s.drawn n).inst = s.inst := rfl
@[simp] theorem State.drawn_anchor (s : State) (n : Nat) : (s.drawn n).anchor = s.anchor := rfl
@[simp] theorem State.drawn_own (s : State) (n : Nat) : (s.drawn n).own = s.own := rfl
@[simp] theorem State.drawn_glb (s : State) (n : Nat) : (s.drawn n).glb = s.glb := rfl
@[simp] theorem State.drawn_fw (s : State) (n : Nat) : (s.drawn n).fw = s.fw := rfl
@[simp] theorem State.drawn_hst (s : State) (n : Nat) : (s.drawn n).hst = s.hst := rfl
@[simp] theorem State.drawn_latches (s : State) (n : Nat) : (s.drawn n).latches = s.latches := rfl
@[simp] theorem State.drawn_beat (s : State) (n : Nat) : (s.drawn n).beat = s.beat := rfl
@[simp] theorem State.drawn_wrg (s : State) (n : Nat) : (s.drawn n).wrg = s.wrg := rfl
@[simp] theorem State.drawn_upk (s : State) (n : Nat) : (s.drawn n).upk = s.upk := rfl
@[simp] theorem State.drawn_arm (s : State) (n : Nat) : (s.drawn n).arm = s.arm := rfl
@[simp] theorem State.drawn_cores (s : State) (n : Nat) : (s.drawn n).cores = s.cores := rfl
@[simp] theorem State.drawn_frames (s : State) (n : Nat) : (s.drawn n).frames = s.frames := rfl
@[simp] theorem State.drawn_fills (s : State) (n : Nat) : (s.drawn n).fills = s.fills := rfl
@[simp] theorem State.drawn_ue (s : State) (n : Nat) : (s.drawn n).ue = s.ue := rfl
@[simp] theorem State.drawn_ce (s : State) (n : Nat) : (s.drawn n).ce = s.ce := rfl
@[simp] theorem State.drawn_ports (s : State) (n : Nat) : (s.drawn n).ports = s.ports := rfl
@[simp] theorem State.drawn_hut (s : State) (n : Nat) : (s.drawn n).hut = s.hut := rfl
@[simp] theorem State.drawn_pwr (s : State) (n : Nat) : (s.drawn n).pwr = s.pwr := rfl
@[simp] theorem State.drawn_tel (s : State) (n : Nat) : (s.drawn n).tel = s.tel := rfl
@[simp] theorem State.drawn_fenceN (s : State) (n : Nat) : (s.drawn n).fenceN = s.fenceN := rfl
@[simp] theorem State.drawn_thermtrip (s : State) (n : Nat) : (s.drawn n).thermtrip = s.thermtrip := rfl

/-! ### modCore -/

@[simp] theorem modCore_clock (s : State) (n : Nat) (f : Core → Core) : (modCore s n f).clock = s.clock := rfl
@[simp] theorem modCore_draw (s : State) (n : Nat) (f : Core → Core) : (modCore s n f).draw = s.draw := rfl
@[simp] theorem modCore_outs (s : State) (n : Nat) (f : Core → Core) : (modCore s n f).outs = s.outs := rfl
@[simp] theorem modCore_inst (s : State) (n : Nat) (f : Core → Core) : (modCore s n f).inst = s.inst := rfl
@[simp] theorem modCore_anchor (s : State) (n : Nat) (f : Core → Core) : (modCore s n f).anchor = s.anchor := rfl
@[simp] theorem modCore_own (s : State) (n : Nat) (f : Core → Core) : (modCore s n f).own = s.own := rfl
@[simp] theorem modCore_glb (s : State) (n : Nat) (f : Core → Core) : (modCore s n f).glb = s.glb := rfl
@[simp] theorem modCore_fw (s : State) (n : Nat) (f : Core → Core) : (modCore s n f).fw = s.fw := rfl
@[simp] theorem modCore_hst (s : State) (n : Nat) (f : Core → Core) : (modCore s n f).hst = s.hst := rfl
@[simp] theorem modCore_latches (s : State) (n : Nat) (f : Core → Core) : (modCore s n f).latches = s.latches := rfl
@[simp] theorem modCore_beat (s : State) (n : Nat) (f : Core → Core) : (modCore s n f).beat = s.beat := rfl
@[simp] theorem modCore_wrg (s : State) (n : Nat) (f : Core → Core) : (modCore s n f).wrg = s.wrg := rfl
@[simp] theorem modCore_upk (s : State) (n : Nat) (f : Core → Core) : (modCore s n f).upk = s.upk := rfl
@[simp] theorem modCore_arm (s : State) (n : Nat) (f : Core → Core) : (modCore s n f).arm = s.arm := rfl
@[simp] theorem modCore_cores (s : State) (n : Nat) (f : Core → Core) : (modCore s n f).cores = vmod s.cores n f := rfl
@[simp] theorem modCore_frames (s : State) (n : Nat) (f : Core → Core) : (modCore s n f).frames = s.frames := rfl
@[simp] theorem modCore_fills (s : State) (n : Nat) (f : Core → Core) : (modCore s n f).fills = s.fills := rfl
@[simp] theorem modCore_ue (s : State) (n : Nat) (f : Core → Core) : (modCore s n f).ue = s.ue := rfl
@[simp] theorem modCore_ce (s : State) (n : Nat) (f : Core → Core) : (modCore s n f).ce = s.ce := rfl
@[simp] theorem modCore_ports (s : State) (n : Nat) (f : Core → Core) : (modCore s n f).ports = s.ports := rfl
@[simp] theorem modCore_hut (s : State) (n : Nat) (f : Core → Core) : (modCore s n f).hut = s.hut := rfl
@[simp] theorem modCore_pwr (s : State) (n : Nat) (f : Core → Core) : (modCore s n f).pwr = s.pwr := rfl
@[simp] theorem modCore_tel (s : State) (n : Nat) (f : Core → Core) : (modCore s n f).tel = s.tel := rfl
@[simp] theorem modCore_fenceN (s : State) (n : Nat) (f : Core → Core) : (modCore s n f).fenceN = s.fenceN := rfl
@[simp] theorem modCore_thermtrip (s : State) (n : Nat) (f : Core → Core) : (modCore s n f).thermtrip = s.thermtrip := rfl

/-! ### modPort -/

@[simp] theorem modPort_clock (s : State) (p : Nat) (f : Port → Port) : (modPort s p f).clock = s.clock := rfl
@[simp] theorem modPort_draw (s : State) (p : Nat) (f : Port → Port) : (modPort s p f).draw = s.draw := rfl
@[simp] theorem modPort_outs (s : State) (p : Nat) (f : Port → Port) : (modPort s p f).outs = s.outs := rfl
@[simp] theorem modPort_inst (s : State) (p : Nat) (f : Port → Port) : (modPort s p f).inst = s.inst := rfl
@[simp] theorem modPort_anchor (s : State) (p : Nat) (f : Port → Port) : (modPort s p f).anchor = s.anchor := rfl
@[simp] theorem modPort_own (s : State) (p : Nat) (f : Port → Port) : (modPort s p f).own = s.own := rfl
@[simp] theorem modPort_glb (s : State) (p : Nat) (f : Port → Port) : (modPort s p f).glb = s.glb := rfl
@[simp] theorem modPort_fw (s : State) (p : Nat) (f : Port → Port) : (modPort s p f).fw = s.fw := rfl
@[simp] theorem modPort_hst (s : State) (p : Nat) (f : Port → Port) : (modPort s p f).hst = s.hst := rfl
@[simp] theorem modPort_latches (s : State) (p : Nat) (f : Port → Port) : (modPort s p f).latches = s.latches := rfl
@[simp] theorem modPort_beat (s : State) (p : Nat) (f : Port → Port) : (modPort s p f).beat = s.beat := rfl
@[simp] theorem modPort_wrg (s : State) (p : Nat) (f : Port → Port) : (modPort s p f).wrg = s.wrg := rfl
@[simp] theorem modPort_upk (s : State) (p : Nat) (f : Port → Port) : (modPort s p f).upk = s.upk := rfl
@[simp] theorem modPort_arm (s : State) (p : Nat) (f : Port → Port) : (modPort s p f).arm = s.arm := rfl
@[simp] theorem modPort_cores (s : State) (p : Nat) (f : Port → Port) : (modPort s p f).cores = s.cores := rfl
@[simp] theorem modPort_frames (s : State) (p : Nat) (f : Port → Port) : (modPort s p f).frames = s.frames := rfl
@[simp] theorem modPort_fills (s : State) (p : Nat) (f : Port → Port) : (modPort s p f).fills = s.fills := rfl
@[simp] theorem modPort_ue (s : State) (p : Nat) (f : Port → Port) : (modPort s p f).ue = s.ue := rfl
@[simp] theorem modPort_ce (s : State) (p : Nat) (f : Port → Port) : (modPort s p f).ce = s.ce := rfl
@[simp] theorem modPort_ports (s : State) (p : Nat) (f : Port → Port) : (modPort s p f).ports = vmod s.ports p f := rfl
@[simp] theorem modPort_hut (s : State) (p : Nat) (f : Port → Port) : (modPort s p f).hut = s.hut := rfl
@[simp] theorem modPort_pwr (s : State) (p : Nat) (f : Port → Port) : (modPort s p f).pwr = s.pwr := rfl
@[simp] theorem modPort_tel (s : State) (p : Nat) (f : Port → Port) : (modPort s p f).tel = s.tel := rfl
@[simp] theorem modPort_fenceN (s : State) (p : Nat) (f : Port → Port) : (modPort s p f).fenceN = s.fenceN := rfl
@[simp] theorem modPort_thermtrip (s : State) (p : Nat) (f : Port → Port) : (modPort s p f).thermtrip = s.thermtrip := rfl

/-! ### modBeatPort -/

@[simp] theorem modBeatPort_clock (s : State) (p : Nat) (f : BeatPort → BeatPort) : (modBeatPort s p f).clock = s.clock := rfl
@[simp] theorem modBeatPort_draw (s : State) (p : Nat) (f : BeatPort → BeatPort) : (modBeatPort s p f).draw = s.draw := rfl
@[simp] theorem modBeatPort_outs (s : State) (p : Nat) (f : BeatPort → BeatPort) : (modBeatPort s p f).outs = s.outs := rfl
@[simp] theorem modBeatPort_inst (s : State) (p : Nat) (f : BeatPort → BeatPort) : (modBeatPort s p f).inst = s.inst := rfl
@[simp] theorem modBeatPort_anchor (s : State) (p : Nat) (f : BeatPort → BeatPort) : (modBeatPort s p f).anchor = s.anchor := rfl
@[simp] theorem modBeatPort_own (s : State) (p : Nat) (f : BeatPort → BeatPort) : (modBeatPort s p f).own = s.own := rfl
@[simp] theorem modBeatPort_glb (s : State) (p : Nat) (f : BeatPort → BeatPort) : (modBeatPort s p f).glb = s.glb := rfl
@[simp] theorem modBeatPort_fw (s : State) (p : Nat) (f : BeatPort → BeatPort) : (modBeatPort s p f).fw = s.fw := rfl
@[simp] theorem modBeatPort_hst (s : State) (p : Nat) (f : BeatPort → BeatPort) : (modBeatPort s p f).hst = s.hst := rfl
@[simp] theorem modBeatPort_latches (s : State) (p : Nat) (f : BeatPort → BeatPort) : (modBeatPort s p f).latches = s.latches := rfl
@[simp] theorem modBeatPort_wrg (s : State) (p : Nat) (f : BeatPort → BeatPort) : (modBeatPort s p f).wrg = s.wrg := rfl
@[simp] theorem modBeatPort_upk (s : State) (p : Nat) (f : BeatPort → BeatPort) : (modBeatPort s p f).upk = s.upk := rfl
@[simp] theorem modBeatPort_arm (s : State) (p : Nat) (f : BeatPort → BeatPort) : (modBeatPort s p f).arm = s.arm := rfl
@[simp] theorem modBeatPort_cores (s : State) (p : Nat) (f : BeatPort → BeatPort) : (modBeatPort s p f).cores = s.cores := rfl
@[simp] theorem modBeatPort_frames (s : State) (p : Nat) (f : BeatPort → BeatPort) : (modBeatPort s p f).frames = s.frames := rfl
@[simp] theorem modBeatPort_fills (s : State) (p : Nat) (f : BeatPort → BeatPort) : (modBeatPort s p f).fills = s.fills := rfl
@[simp] theorem modBeatPort_ue (s : State) (p : Nat) (f : BeatPort → BeatPort) : (modBeatPort s p f).ue = s.ue := rfl
@[simp] theorem modBeatPort_ce (s : State) (p : Nat) (f : BeatPort → BeatPort) : (modBeatPort s p f).ce = s.ce := rfl
@[simp] theorem modBeatPort_ports (s : State) (p : Nat) (f : BeatPort → BeatPort) : (modBeatPort s p f).ports = s.ports := rfl
@[simp] theorem modBeatPort_hut (s : State) (p : Nat) (f : BeatPort → BeatPort) : (modBeatPort s p f).hut = s.hut := rfl
@[simp] theorem modBeatPort_pwr (s : State) (p : Nat) (f : BeatPort → BeatPort) : (modBeatPort s p f).pwr = s.pwr := rfl
@[simp] theorem modBeatPort_tel (s : State) (p : Nat) (f : BeatPort → BeatPort) : (modBeatPort s p f).tel = s.tel := rfl
@[simp] theorem modBeatPort_fenceN (s : State) (p : Nat) (f : BeatPort → BeatPort) : (modBeatPort s p f).fenceN = s.fenceN := rfl
@[simp] theorem modBeatPort_thermtrip (s : State) (p : Nat) (f : BeatPort → BeatPort) : (modBeatPort s p f).thermtrip = s.thermtrip := rfl

/-! ### modColl -/

@[simp] theorem modColl_clock (s : State) (g : Nat) (q : W16) (f : Coll → Coll) : (modColl s g q f).clock = s.clock := rfl
@[simp] theorem modColl_draw (s : State) (g : Nat) (q : W16) (f : Coll → Coll) : (modColl s g q f).draw = s.draw := rfl
@[simp] theorem modColl_outs (s : State) (g : Nat) (q : W16) (f : Coll → Coll) : (modColl s g q f).outs = s.outs := rfl
@[simp] theorem modColl_inst (s : State) (g : Nat) (q : W16) (f : Coll → Coll) : (modColl s g q f).inst = s.inst := rfl
@[simp] theorem modColl_anchor (s : State) (g : Nat) (q : W16) (f : Coll → Coll) : (modColl s g q f).anchor = s.anchor := rfl
@[simp] theorem modColl_own (s : State) (g : Nat) (q : W16) (f : Coll → Coll) : (modColl s g q f).own = s.own := rfl
@[simp] theorem modColl_glb (s : State) (g : Nat) (q : W16) (f : Coll → Coll) : (modColl s g q f).glb = s.glb := rfl
@[simp] theorem modColl_fw (s : State) (g : Nat) (q : W16) (f : Coll → Coll) : (modColl s g q f).fw = s.fw := rfl
@[simp] theorem modColl_hst (s : State) (g : Nat) (q : W16) (f : Coll → Coll) : (modColl s g q f).hst = s.hst := rfl
@[simp] theorem modColl_latches (s : State) (g : Nat) (q : W16) (f : Coll → Coll) : (modColl s g q f).latches = s.latches := rfl
@[simp] theorem modColl_beat (s : State) (g : Nat) (q : W16) (f : Coll → Coll) : (modColl s g q f).beat = s.beat := rfl
@[simp] theorem modColl_wrg (s : State) (g : Nat) (q : W16) (f : Coll → Coll) : (modColl s g q f).wrg = s.wrg := rfl
@[simp] theorem modColl_upk (s : State) (g : Nat) (q : W16) (f : Coll → Coll) : (modColl s g q f).upk = s.upk := rfl
@[simp] theorem modColl_arm (s : State) (g : Nat) (q : W16) (f : Coll → Coll) : (modColl s g q f).arm = s.arm := rfl
@[simp] theorem modColl_cores (s : State) (g : Nat) (q : W16) (f : Coll → Coll) : (modColl s g q f).cores = s.cores := rfl
@[simp] theorem modColl_frames (s : State) (g : Nat) (q : W16) (f : Coll → Coll) : (modColl s g q f).frames = s.frames := rfl
@[simp] theorem modColl_fills (s : State) (g : Nat) (q : W16) (f : Coll → Coll) : (modColl s g q f).fills = s.fills := rfl
@[simp] theorem modColl_ue (s : State) (g : Nat) (q : W16) (f : Coll → Coll) : (modColl s g q f).ue = s.ue := rfl
@[simp] theorem modColl_ce (s : State) (g : Nat) (q : W16) (f : Coll → Coll) : (modColl s g q f).ce = s.ce := rfl
@[simp] theorem modColl_ports (s : State) (g : Nat) (q : W16) (f : Coll → Coll) : (modColl s g q f).ports = s.ports := rfl
@[simp] theorem modColl_pwr (s : State) (g : Nat) (q : W16) (f : Coll → Coll) : (modColl s g q f).pwr = s.pwr := rfl
@[simp] theorem modColl_tel (s : State) (g : Nat) (q : W16) (f : Coll → Coll) : (modColl s g q f).tel = s.tel := rfl
@[simp] theorem modColl_fenceN (s : State) (g : Nat) (q : W16) (f : Coll → Coll) : (modColl s g q f).fenceN = s.fenceN := rfl
@[simp] theorem modColl_thermtrip (s : State) (g : Nat) (q : W16) (f : Coll → Coll) : (modColl s g q f).thermtrip = s.thermtrip := rfl

/-! ### modHst -/

@[simp] theorem modHst_clock (s : State) (f : Hst → Hst) : (modHst s f).clock = s.clock := rfl
@[simp] theorem modHst_draw (s : State) (f : Hst → Hst) : (modHst s f).draw = s.draw := rfl
@[simp] theorem modHst_outs (s : State) (f : Hst → Hst) : (modHst s f).outs = s.outs := rfl
@[simp] theorem modHst_inst (s : State) (f : Hst → Hst) : (modHst s f).inst = s.inst := rfl
@[simp] theorem modHst_anchor (s : State) (f : Hst → Hst) : (modHst s f).anchor = s.anchor := rfl
@[simp] theorem modHst_own (s : State) (f : Hst → Hst) : (modHst s f).own = s.own := rfl
@[simp] theorem modHst_glb (s : State) (f : Hst → Hst) : (modHst s f).glb = s.glb := rfl
@[simp] theorem modHst_fw (s : State) (f : Hst → Hst) : (modHst s f).fw = s.fw := rfl
@[simp] theorem modHst_hst (s : State) (f : Hst → Hst) : (modHst s f).hst = f s.hst := rfl
@[simp] theorem modHst_latches (s : State) (f : Hst → Hst) : (modHst s f).latches = s.latches := rfl
@[simp] theorem modHst_beat (s : State) (f : Hst → Hst) : (modHst s f).beat = s.beat := rfl
@[simp] theorem modHst_wrg (s : State) (f : Hst → Hst) : (modHst s f).wrg = s.wrg := rfl
@[simp] theorem modHst_upk (s : State) (f : Hst → Hst) : (modHst s f).upk = s.upk := rfl
@[simp] theorem modHst_arm (s : State) (f : Hst → Hst) : (modHst s f).arm = s.arm := rfl
@[simp] theorem modHst_cores (s : State) (f : Hst → Hst) : (modHst s f).cores = s.cores := rfl
@[simp] theorem modHst_frames (s : State) (f : Hst → Hst) : (modHst s f).frames = s.frames := rfl
@[simp] theorem modHst_fills (s : State) (f : Hst → Hst) : (modHst s f).fills = s.fills := rfl
@[simp] theorem modHst_ue (s : State) (f : Hst → Hst) : (modHst s f).ue = s.ue := rfl
@[simp] theorem modHst_ce (s : State) (f : Hst → Hst) : (modHst s f).ce = s.ce := rfl
@[simp] theorem modHst_ports (s : State) (f : Hst → Hst) : (modHst s f).ports = s.ports := rfl
@[simp] theorem modHst_hut (s : State) (f : Hst → Hst) : (modHst s f).hut = s.hut := rfl
@[simp] theorem modHst_pwr (s : State) (f : Hst → Hst) : (modHst s f).pwr = s.pwr := rfl
@[simp] theorem modHst_tel (s : State) (f : Hst → Hst) : (modHst s f).tel = s.tel := rfl
@[simp] theorem modHst_fenceN (s : State) (f : Hst → Hst) : (modHst s f).fenceN = s.fenceN := rfl
@[simp] theorem modHst_thermtrip (s : State) (f : Hst → Hst) : (modHst s f).thermtrip = s.thermtrip := rfl

/-! ### modGlb -/

@[simp] theorem modGlb_clock (s : State) (f : Glb → Glb) : (modGlb s f).clock = s.clock := rfl
@[simp] theorem modGlb_draw (s : State) (f : Glb → Glb) : (modGlb s f).draw = s.draw := rfl
@[simp] theorem modGlb_outs (s : State) (f : Glb → Glb) : (modGlb s f).outs = s.outs := rfl
@[simp] theorem modGlb_inst (s : State) (f : Glb → Glb) : (modGlb s f).inst = s.inst := rfl
@[simp] theorem modGlb_anchor (s : State) (f : Glb → Glb) : (modGlb s f).anchor = s.anchor := rfl
@[simp] theorem modGlb_own (s : State) (f : Glb → Glb) : (modGlb s f).own = s.own := rfl
@[simp] theorem modGlb_glb (s : State) (f : Glb → Glb) : (modGlb s f).glb = f s.glb := rfl
@[simp] theorem modGlb_fw (s : State) (f : Glb → Glb) : (modGlb s f).fw = s.fw := rfl
@[simp] theorem modGlb_hst (s : State) (f : Glb → Glb) : (modGlb s f).hst = s.hst := rfl
@[simp] theorem modGlb_latches (s : State) (f : Glb → Glb) : (modGlb s f).latches = s.latches := rfl
@[simp] theorem modGlb_beat (s : State) (f : Glb → Glb) : (modGlb s f).beat = s.beat := rfl
@[simp] theorem modGlb_wrg (s : State) (f : Glb → Glb) : (modGlb s f).wrg = s.wrg := rfl
@[simp] theorem modGlb_upk (s : State) (f : Glb → Glb) : (modGlb s f).upk = s.upk := rfl
@[simp] theorem modGlb_arm (s : State) (f : Glb → Glb) : (modGlb s f).arm = s.arm := rfl
@[simp] theorem modGlb_cores (s : State) (f : Glb → Glb) : (modGlb s f).cores = s.cores := rfl
@[simp] theorem modGlb_frames (s : State) (f : Glb → Glb) : (modGlb s f).frames = s.frames := rfl
@[simp] theorem modGlb_fills (s : State) (f : Glb → Glb) : (modGlb s f).fills = s.fills := rfl
@[simp] theorem modGlb_ue (s : State) (f : Glb → Glb) : (modGlb s f).ue = s.ue := rfl
@[simp] theorem modGlb_ce (s : State) (f : Glb → Glb) : (modGlb s f).ce = s.ce := rfl
@[simp] theorem modGlb_ports (s : State) (f : Glb → Glb) : (modGlb s f).ports = s.ports := rfl
@[simp] theorem modGlb_hut (s : State) (f : Glb → Glb) : (modGlb s f).hut = s.hut := rfl
@[simp] theorem modGlb_pwr (s : State) (f : Glb → Glb) : (modGlb s f).pwr = s.pwr := rfl
@[simp] theorem modGlb_tel (s : State) (f : Glb → Glb) : (modGlb s f).tel = s.tel := rfl
@[simp] theorem modGlb_fenceN (s : State) (f : Glb → Glb) : (modGlb s f).fenceN = s.fenceN := rfl
@[simp] theorem modGlb_thermtrip (s : State) (f : Glb → Glb) : (modGlb s f).thermtrip = s.thermtrip := rfl

/-! ### modRoot -/

@[simp] theorem modRoot_clock (s : State) (f : RootView → RootView) : (modRoot s f).clock = s.clock := rfl
@[simp] theorem modRoot_draw (s : State) (f : RootView → RootView) : (modRoot s f).draw = s.draw := rfl
@[simp] theorem modRoot_outs (s : State) (f : RootView → RootView) : (modRoot s f).outs = s.outs := rfl
@[simp] theorem modRoot_inst (s : State) (f : RootView → RootView) : (modRoot s f).inst = s.inst := rfl
@[simp] theorem modRoot_anchor (s : State) (f : RootView → RootView) : (modRoot s f).anchor = s.anchor := rfl
@[simp] theorem modRoot_glb (s : State) (f : RootView → RootView) : (modRoot s f).glb = s.glb := rfl
@[simp] theorem modRoot_fw (s : State) (f : RootView → RootView) : (modRoot s f).fw = s.fw := rfl
@[simp] theorem modRoot_hst (s : State) (f : RootView → RootView) : (modRoot s f).hst = s.hst := rfl
@[simp] theorem modRoot_latches (s : State) (f : RootView → RootView) : (modRoot s f).latches = s.latches := rfl
@[simp] theorem modRoot_beat (s : State) (f : RootView → RootView) : (modRoot s f).beat = s.beat := rfl
@[simp] theorem modRoot_wrg (s : State) (f : RootView → RootView) : (modRoot s f).wrg = s.wrg := rfl
@[simp] theorem modRoot_upk (s : State) (f : RootView → RootView) : (modRoot s f).upk = s.upk := rfl
@[simp] theorem modRoot_arm (s : State) (f : RootView → RootView) : (modRoot s f).arm = s.arm := rfl
@[simp] theorem modRoot_cores (s : State) (f : RootView → RootView) : (modRoot s f).cores = s.cores := rfl
@[simp] theorem modRoot_frames (s : State) (f : RootView → RootView) : (modRoot s f).frames = s.frames := rfl
@[simp] theorem modRoot_fills (s : State) (f : RootView → RootView) : (modRoot s f).fills = s.fills := rfl
@[simp] theorem modRoot_ue (s : State) (f : RootView → RootView) : (modRoot s f).ue = s.ue := rfl
@[simp] theorem modRoot_ce (s : State) (f : RootView → RootView) : (modRoot s f).ce = s.ce := rfl
@[simp] theorem modRoot_ports (s : State) (f : RootView → RootView) : (modRoot s f).ports = s.ports := rfl
@[simp] theorem modRoot_hut (s : State) (f : RootView → RootView) : (modRoot s f).hut = s.hut := rfl
@[simp] theorem modRoot_pwr (s : State) (f : RootView → RootView) : (modRoot s f).pwr = s.pwr := rfl
@[simp] theorem modRoot_tel (s : State) (f : RootView → RootView) : (modRoot s f).tel = s.tel := rfl
@[simp] theorem modRoot_fenceN (s : State) (f : RootView → RootView) : (modRoot s f).fenceN = s.fenceN := rfl
@[simp] theorem modRoot_thermtrip (s : State) (f : RootView → RootView) : (modRoot s f).thermtrip = s.thermtrip := rfl

/-! ### modStage -/

@[simp] theorem modStage_clock (s : State) (f : Stage → Stage) : (modStage s f).clock = s.clock := rfl
@[simp] theorem modStage_draw (s : State) (f : Stage → Stage) : (modStage s f).draw = s.draw := rfl
@[simp] theorem modStage_outs (s : State) (f : Stage → Stage) : (modStage s f).outs = s.outs := rfl
@[simp] theorem modStage_inst (s : State) (f : Stage → Stage) : (modStage s f).inst = s.inst := rfl
@[simp] theorem modStage_anchor (s : State) (f : Stage → Stage) : (modStage s f).anchor = s.anchor := rfl
@[simp] theorem modStage_glb (s : State) (f : Stage → Stage) : (modStage s f).glb = s.glb := rfl
@[simp] theorem modStage_fw (s : State) (f : Stage → Stage) : (modStage s f).fw = s.fw := rfl
@[simp] theorem modStage_hst (s : State) (f : Stage → Stage) : (modStage s f).hst = s.hst := rfl
@[simp] theorem modStage_latches (s : State) (f : Stage → Stage) : (modStage s f).latches = s.latches := rfl
@[simp] theorem modStage_beat (s : State) (f : Stage → Stage) : (modStage s f).beat = s.beat := rfl
@[simp] theorem modStage_wrg (s : State) (f : Stage → Stage) : (modStage s f).wrg = s.wrg := rfl
@[simp] theorem modStage_upk (s : State) (f : Stage → Stage) : (modStage s f).upk = s.upk := rfl
@[simp] theorem modStage_arm (s : State) (f : Stage → Stage) : (modStage s f).arm = s.arm := rfl
@[simp] theorem modStage_cores (s : State) (f : Stage → Stage) : (modStage s f).cores = s.cores := rfl
@[simp] theorem modStage_frames (s : State) (f : Stage → Stage) : (modStage s f).frames = s.frames := rfl
@[simp] theorem modStage_fills (s : State) (f : Stage → Stage) : (modStage s f).fills = s.fills := rfl
@[simp] theorem modStage_ue (s : State) (f : Stage → Stage) : (modStage s f).ue = s.ue := rfl
@[simp] theorem modStage_ce (s : State) (f : Stage → Stage) : (modStage s f).ce = s.ce := rfl
@[simp] theorem modStage_ports (s : State) (f : Stage → Stage) : (modStage s f).ports = s.ports := rfl
@[simp] theorem modStage_hut (s : State) (f : Stage → Stage) : (modStage s f).hut = s.hut := rfl
@[simp] theorem modStage_pwr (s : State) (f : Stage → Stage) : (modStage s f).pwr = s.pwr := rfl
@[simp] theorem modStage_tel (s : State) (f : Stage → Stage) : (modStage s f).tel = s.tel := rfl
@[simp] theorem modStage_fenceN (s : State) (f : Stage → Stage) : (modStage s f).fenceN = s.fenceN := rfl
@[simp] theorem modStage_thermtrip (s : State) (f : Stage → Stage) : (modStage s f).thermtrip = s.thermtrip := rfl

/-! ### modSeal -/

@[simp] theorem modSeal_clock (s : State) (f : Seal → Seal) : (modSeal s f).clock = s.clock := rfl
@[simp] theorem modSeal_draw (s : State) (f : Seal → Seal) : (modSeal s f).draw = s.draw := rfl
@[simp] theorem modSeal_outs (s : State) (f : Seal → Seal) : (modSeal s f).outs = s.outs := rfl
@[simp] theorem modSeal_inst (s : State) (f : Seal → Seal) : (modSeal s f).inst = s.inst := rfl
@[simp] theorem modSeal_anchor (s : State) (f : Seal → Seal) : (modSeal s f).anchor = s.anchor := rfl
@[simp] theorem modSeal_glb (s : State) (f : Seal → Seal) : (modSeal s f).glb = s.glb := rfl
@[simp] theorem modSeal_fw (s : State) (f : Seal → Seal) : (modSeal s f).fw = s.fw := rfl
@[simp] theorem modSeal_hst (s : State) (f : Seal → Seal) : (modSeal s f).hst = s.hst := rfl
@[simp] theorem modSeal_latches (s : State) (f : Seal → Seal) : (modSeal s f).latches = s.latches := rfl
@[simp] theorem modSeal_beat (s : State) (f : Seal → Seal) : (modSeal s f).beat = s.beat := rfl
@[simp] theorem modSeal_wrg (s : State) (f : Seal → Seal) : (modSeal s f).wrg = s.wrg := rfl
@[simp] theorem modSeal_upk (s : State) (f : Seal → Seal) : (modSeal s f).upk = s.upk := rfl
@[simp] theorem modSeal_arm (s : State) (f : Seal → Seal) : (modSeal s f).arm = s.arm := rfl
@[simp] theorem modSeal_cores (s : State) (f : Seal → Seal) : (modSeal s f).cores = s.cores := rfl
@[simp] theorem modSeal_frames (s : State) (f : Seal → Seal) : (modSeal s f).frames = s.frames := rfl
@[simp] theorem modSeal_fills (s : State) (f : Seal → Seal) : (modSeal s f).fills = s.fills := rfl
@[simp] theorem modSeal_ue (s : State) (f : Seal → Seal) : (modSeal s f).ue = s.ue := rfl
@[simp] theorem modSeal_ce (s : State) (f : Seal → Seal) : (modSeal s f).ce = s.ce := rfl
@[simp] theorem modSeal_ports (s : State) (f : Seal → Seal) : (modSeal s f).ports = s.ports := rfl
@[simp] theorem modSeal_hut (s : State) (f : Seal → Seal) : (modSeal s f).hut = s.hut := rfl
@[simp] theorem modSeal_pwr (s : State) (f : Seal → Seal) : (modSeal s f).pwr = s.pwr := rfl
@[simp] theorem modSeal_tel (s : State) (f : Seal → Seal) : (modSeal s f).tel = s.tel := rfl
@[simp] theorem modSeal_fenceN (s : State) (f : Seal → Seal) : (modSeal s f).fenceN = s.fenceN := rfl
@[simp] theorem modSeal_thermtrip (s : State) (f : Seal → Seal) : (modSeal s f).thermtrip = s.thermtrip := rfl

/-! ### modPwr -/

@[simp] theorem modPwr_clock (s : State) (f : Pwr → Pwr) : (modPwr s f).clock = s.clock := rfl
@[simp] theorem modPwr_draw (s : State) (f : Pwr → Pwr) : (modPwr s f).draw = s.draw := rfl
@[simp] theorem modPwr_outs (s : State) (f : Pwr → Pwr) : (modPwr s f).outs = s.outs := rfl
@[simp] theorem modPwr_inst (s : State) (f : Pwr → Pwr) : (modPwr s f).inst = s.inst := rfl
@[simp] theorem modPwr_anchor (s : State) (f : Pwr → Pwr) : (modPwr s f).anchor = s.anchor := rfl
@[simp] theorem modPwr_own (s : State) (f : Pwr → Pwr) : (modPwr s f).own = s.own := rfl
@[simp] theorem modPwr_glb (s : State) (f : Pwr → Pwr) : (modPwr s f).glb = s.glb := rfl
@[simp] theorem modPwr_fw (s : State) (f : Pwr → Pwr) : (modPwr s f).fw = s.fw := rfl
@[simp] theorem modPwr_hst (s : State) (f : Pwr → Pwr) : (modPwr s f).hst = s.hst := rfl
@[simp] theorem modPwr_latches (s : State) (f : Pwr → Pwr) : (modPwr s f).latches = s.latches := rfl
@[simp] theorem modPwr_beat (s : State) (f : Pwr → Pwr) : (modPwr s f).beat = s.beat := rfl
@[simp] theorem modPwr_wrg (s : State) (f : Pwr → Pwr) : (modPwr s f).wrg = s.wrg := rfl
@[simp] theorem modPwr_upk (s : State) (f : Pwr → Pwr) : (modPwr s f).upk = s.upk := rfl
@[simp] theorem modPwr_arm (s : State) (f : Pwr → Pwr) : (modPwr s f).arm = s.arm := rfl
@[simp] theorem modPwr_cores (s : State) (f : Pwr → Pwr) : (modPwr s f).cores = s.cores := rfl
@[simp] theorem modPwr_frames (s : State) (f : Pwr → Pwr) : (modPwr s f).frames = s.frames := rfl
@[simp] theorem modPwr_fills (s : State) (f : Pwr → Pwr) : (modPwr s f).fills = s.fills := rfl
@[simp] theorem modPwr_ue (s : State) (f : Pwr → Pwr) : (modPwr s f).ue = s.ue := rfl
@[simp] theorem modPwr_ce (s : State) (f : Pwr → Pwr) : (modPwr s f).ce = s.ce := rfl
@[simp] theorem modPwr_ports (s : State) (f : Pwr → Pwr) : (modPwr s f).ports = s.ports := rfl
@[simp] theorem modPwr_hut (s : State) (f : Pwr → Pwr) : (modPwr s f).hut = s.hut := rfl
@[simp] theorem modPwr_pwr (s : State) (f : Pwr → Pwr) : (modPwr s f).pwr = f s.pwr := rfl
@[simp] theorem modPwr_tel (s : State) (f : Pwr → Pwr) : (modPwr s f).tel = s.tel := rfl
@[simp] theorem modPwr_fenceN (s : State) (f : Pwr → Pwr) : (modPwr s f).fenceN = s.fenceN := rfl
@[simp] theorem modPwr_thermtrip (s : State) (f : Pwr → Pwr) : (modPwr s f).thermtrip = s.thermtrip := rfl

/-! ### modTel -/

@[simp] theorem modTel_clock (s : State) (f : Tel → Tel) : (modTel s f).clock = s.clock := rfl
@[simp] theorem modTel_draw (s : State) (f : Tel → Tel) : (modTel s f).draw = s.draw := rfl
@[simp] theorem modTel_outs (s : State) (f : Tel → Tel) : (modTel s f).outs = s.outs := rfl
@[simp] theorem modTel_inst (s : State) (f : Tel → Tel) : (modTel s f).inst = s.inst := rfl
@[simp] theorem modTel_anchor (s : State) (f : Tel → Tel) : (modTel s f).anchor = s.anchor := rfl
@[simp] theorem modTel_own (s : State) (f : Tel → Tel) : (modTel s f).own = s.own := rfl
@[simp] theorem modTel_glb (s : State) (f : Tel → Tel) : (modTel s f).glb = s.glb := rfl
@[simp] theorem modTel_fw (s : State) (f : Tel → Tel) : (modTel s f).fw = s.fw := rfl
@[simp] theorem modTel_hst (s : State) (f : Tel → Tel) : (modTel s f).hst = s.hst := rfl
@[simp] theorem modTel_latches (s : State) (f : Tel → Tel) : (modTel s f).latches = s.latches := rfl
@[simp] theorem modTel_beat (s : State) (f : Tel → Tel) : (modTel s f).beat = s.beat := rfl
@[simp] theorem modTel_wrg (s : State) (f : Tel → Tel) : (modTel s f).wrg = s.wrg := rfl
@[simp] theorem modTel_upk (s : State) (f : Tel → Tel) : (modTel s f).upk = s.upk := rfl
@[simp] theorem modTel_arm (s : State) (f : Tel → Tel) : (modTel s f).arm = s.arm := rfl
@[simp] theorem modTel_cores (s : State) (f : Tel → Tel) : (modTel s f).cores = s.cores := rfl
@[simp] theorem modTel_frames (s : State) (f : Tel → Tel) : (modTel s f).frames = s.frames := rfl
@[simp] theorem modTel_fills (s : State) (f : Tel → Tel) : (modTel s f).fills = s.fills := rfl
@[simp] theorem modTel_ue (s : State) (f : Tel → Tel) : (modTel s f).ue = s.ue := rfl
@[simp] theorem modTel_ce (s : State) (f : Tel → Tel) : (modTel s f).ce = s.ce := rfl
@[simp] theorem modTel_ports (s : State) (f : Tel → Tel) : (modTel s f).ports = s.ports := rfl
@[simp] theorem modTel_hut (s : State) (f : Tel → Tel) : (modTel s f).hut = s.hut := rfl
@[simp] theorem modTel_pwr (s : State) (f : Tel → Tel) : (modTel s f).pwr = s.pwr := rfl
@[simp] theorem modTel_tel (s : State) (f : Tel → Tel) : (modTel s f).tel = f s.tel := rfl
@[simp] theorem modTel_fenceN (s : State) (f : Tel → Tel) : (modTel s f).fenceN = s.fenceN := rfl
@[simp] theorem modTel_thermtrip (s : State) (f : Tel → Tel) : (modTel s f).thermtrip = s.thermtrip := rfl

/-! ### Cores, ports and the beat unit's records -/

theorem coreAt_modCore (s : State) (n m : Nat) (f : Core → Core) :
    coreAt (modCore s n f) m = if n = m ∧ m < 16 then f (coreAt s m) else coreAt s m := vmod_getD s.cores n f m Core.reset

@[simp] theorem coreAt_modCore_same (s : State) (n : CoreId) (f : Core → Core) :
    coreAt (modCore s n.val f) n.val = f (coreAt s n.val) := by
  rw [coreAt_modCore, if_pos ⟨rfl, n.isLt⟩]

theorem coreAt_modCore_other (s : State) {n m : Nat} (f : Core → Core) (h : n ≠ m) :
    coreAt (modCore s n f) m = coreAt s m := by
  rw [coreAt_modCore, if_neg fun q => h q.1]

theorem portAt_modPort (s : State) (p q : Nat) (f : Port → Port) :
    portAt (modPort s p f) q = if p = q ∧ q < 10 then f (portAt s q) else portAt s q := vmod_getD s.ports p f q Port.reset

@[simp] theorem portAt_modPort_same (s : State) (p : PortId) (f : Port → Port) :
    portAt (modPort s p.val f) p.val = f (portAt s p.val) := by
  rw [portAt_modPort, if_pos ⟨rfl, p.isLt⟩]

theorem portAt_modPort_other (s : State) {p q : Nat} (f : Port → Port) (h : p ≠ q) :
    portAt (modPort s p f) q = portAt s q := by
  rw [portAt_modPort, if_neg fun e => h e.1]

theorem beatPort_modBeatPort (s : State) (p q : Nat) (f : BeatPort → BeatPort) :
    beatPort (modBeatPort s p f) q = if p = q ∧ q < 10 then f (beatPort s q) else beatPort s q :=
  vmod_getD s.beat.ports p f q BeatPort.reset

@[simp] theorem beatPort_modBeatPort_same (s : State) (p : PortId) (f : BeatPort → BeatPort) :
    beatPort (modBeatPort s p.val f) p.val = f (beatPort s p.val) := by
  rw [beatPort_modBeatPort, if_pos ⟨rfl, p.isLt⟩]

/-! ### A register write on a management path (R443, R603, R610) -/

theorem mayWrite_free {s : State} (h : s.own.valid = false) (via : Via) : mayWrite s via = true := by
  simp [mayWrite, h]

theorem guarded_accepted {s : State} {via : Via} {off : Nat} (f : State → State) (hw : mayWrite s via = true)
    (hr : regReachable s off = true) : guarded s via off f = f s := by
  simp [guarded, hw, hr]

theorem guarded_refused {s : State} {via : Via} (off : Nat) (f : State → State) (hw : mayWrite s via = false) :
    guarded s via off f = setOwnErr s via 1 := by
  simp [guarded, hw]

/-- What a register write can do: what `f` says, nothing, or a refusal on its path. -/
theorem guarded_cases (s : State) (via : Via) (off : Nat) (f : State → State) :
    guarded s via off f = f s ∨ guarded s via off f = s ∨ guarded s via off f = setOwnErr s via 1 := by
  unfold guarded
  split
  · split
    · exact .inl rfl
    · exact .inr (.inl rfl)
  · exact .inr (.inr rfl)

/-- Two changes of a core that agree on the core as it stands are one. -/
theorem modCore_congr {s : State} {n : Nat} {f g : Core → Core} (h : f (coreAt s n) = g (coreAt s n)) :
    modCore s n f = modCore s n g := by
  have : vmod s.cores n f = vmod s.cores n g := by
    unfold vmod
    split
    · next hn =>
      have e : coreAt s n = s.cores[n] := by simp [coreAt, List.getD, hn]
      rw [e] at h; rw [h]
    · rfl
  simp only [modCore, this]

end Sys2Proof.Machine
end

