-- ==== Sys2Proof/Laws/Issue.lean ====
section
/-! SUPPORT. Laws/Issue.lean: what an instruction of a core can do at issue. -/

namespace Sys2Proof.Machine

/-- An instruction that issues has its effect. -/
theorem issueWith_eq {s : State} {n : Nat} {g : Guard} {i : Isa} (eff : State → State) (h : issues s n g i = true) :
    issueWith s n g i eff = eff s := by
  simp only [issues, Bool.and_eq_true, Bool.not_eq_true'] at h
  obtain ⟨⟨⟨⟨⟨h1, h2⟩, h3⟩, h4⟩, h5⟩, h6⟩ := h
  simp [issueWith, h1, h2, h3, h4, h5, h6]

theorem issue_eq {s : State} {n : Nat} {g : Guard} {i : Isa} (h : issues s n g i = true) : issue s n g i = effect s n i :=
  issueWith_eq _ h

/-- The fields of an instruction that issues are legal. -/
theorem legal_of_issues {s : State} {n : Nat} {g : Guard} {i : Isa} (h : issues s n g i = true) : legal i = true := by
  simp only [issues, Bool.and_eq_true] at h
  exact h.1.1.1.1.2

/-- An instruction at issue waits, faults at decode, is skipped by its predicate, or has its effect. -/
theorem issueWith_cases (s : State) (n : Nat) (g : Guard) (i : Isa) (eff : State → State) :
    issueWith s n g i eff = s ∨ (legal i = false ∧ issueWith s n g i eff = cpFault s n 1 0 0) ∨
      (guardOf (coreAt s n) g = false ∧ issueWith s n g i eff = modCore s n retire) ∨
      (issues s n g i = true ∧ issueWith s n g i eff = eff s) := by
  dsimp only [issueWith, issues]
  generalize mayIssue (coreAt s n) = b1, legal i = b2, bit (coreAt s n).pPend g.p.toNat = b3, guardOf (coreAt s n) g = b4,
    regsFree (coreAt s n) i = b5, hasRoom (coreAt s n) i = b6
  cases b1 <;> cases b2 <;> cases b3 <;> cases b4 <;> cases b5 <;> cases b6 <;> simp

theorem issue_waits {s : State} {n : Nat} (g : Guard) (i : Isa) (h : mayIssue (coreAt s n) = false) : issue s n g i = s := by
  simp [issue, issueWith, h]

theorem issue_illegal {s : State} {n : Nat} (g : Guard) {i : Isa} (h : mayIssue (coreAt s n) = true) (hl : legal i = false) :
    issue s n g i = cpFault s n 1 0 0 := by simp [issue, issueWith, h, hl]

theorem issue_skipped {s : State} {n : Nat} {g : Guard} {i : Isa} (h : mayIssue (coreAt s n) = true) (hl : legal i = true)
    (hp : bit (coreAt s n).pPend g.p.toNat = false) (hg : guardOf (coreAt s n) g = false) :
    issue s n g i = modCore s n retire := by simp [issue, issueWith, h, hl, hp, hg]

end Sys2Proof.Machine
end

