-- ==== Sys2Proof/Tests/Slice0.lean ====
section
/-! SUPPORT. Tests/Slice0.lean: ill-formed commands that the checks refuse, instruction words written out from the tables, worked
cases of the manual, and for each statement states and operands that meet its hypotheses, clause by clause. -/

set_option Elab.async false

open Sys2Proof Sys2Proof.Machine

/-! ### Ill-formed commands -/

/-- A BULK_DATA payload in range. -/
def Demo.bulk : BulkData := ⟨0x1000, 0, 0, false, false, false, false, 0, List.replicate 16 0, []⟩

/-- A link frame in range. -/
def Demo.frame : Frame := ⟨false, 0, ⟨0, 0, 0, 0⟩, ⟨1, 0, 0, 0⟩, false, 0, false, false, false, 0, 0, .bulkData Demo.bulk⟩

/-- A KBT message with a payload of `n` bytes. -/
def Demo.kbt (n : Nat) : KbtMsg := ⟨1, ⟨1, 0, 0, 0, 0, 0, 0, 0, 0⟩, List.replicate n 0⟩

/-- A collective flit. -/
def Demo.coll (typ phase n : Nat) : CollFrame := ⟨0, 0, typ, false, false, false, phase, false, 0, 0, List.replicate n 0⟩

theorem test_ill_formed_lengths :
    (Instr.shelfHeader false (List.replicate 255 0)).wellFormed = false ∧
    (Instr.shelfFlit 0 0 (List.replicate 239 0)).wellFormed = false ∧
    (Instr.grant ⟨0, 0, 0, 0⟩ (Demo.coll 2 0 7)).wellFormed = false ∧
    (Instr.collChunk ⟨0, 0, 0, 0⟩ (Demo.coll 2 0 8)).wellFormed = false ∧
    (Instr.collChunk ⟨0, 0, 0, 0⟩ (Demo.coll 0 8 8)).wellFormed = false ∧
    (Instr.loadBufferWrite 0xFFFFF [0, 0]).wellFormed = false ∧
    (Instr.intakeWindowWrite 0 0x1FFFF [0, 0]).wellFormed = false ∧
    (Instr.lbw 0 []).wellFormed = false := by decide +kernel

theorem test_ill_formed_ring :
    (Instr.coreRingStep 16).wellFormed = false ∧ (Instr.segmentLand false 0 16).wellFormed = false ∧
    (Instr.scrubRead 0 [4] []).wellFormed = false ∧ (Instr.scrubRead 0 [] [0x18000000]).wellFormed = false := by decide

theorem test_ill_formed_link :
    (Instr.shelfFlit 0 4096 (List.replicate 240 0)).wellFormed = false ∧ (Instr.ack 0 false 4096 0).wellFormed = false ∧
    (Instr.nak 0 false 0 4096).wellFormed = false ∧ (Instr.tail 0 false 4096).wellFormed = false ∧
    (Instr.lost 0 4096).wellFormed = false ∧ (Instr.resync 0 0 4096 true).wellFormed = false ∧
    (Instr.credit 0 0 65536).wellFormed = false ∧ (Instr.train 0 16).wellFormed = false ∧
    (Instr.trainStepTimeout 0 11).wellFormed = false := by decide +kernel

theorem test_ill_formed_frames :
    (Instr.hutchForward 0 { Demo.frame with seq := 4096 }).wellFormed = false ∧
    (Instr.hutchForward 0 { Demo.frame with whops := 64 }).wellFormed = false ∧
    (Instr.hutchForward 0 { Demo.frame with ctx := 16 }).wellFormed = false ∧
    (Instr.bulkData ⟨0, 0, 0, 0⟩ ⟨0, 0⟩ { Demo.bulk with addr := 0x1004 }).wellFormed = false ∧
    (Instr.bulkData ⟨0, 0, 0, 0⟩ ⟨0, 0⟩ { Demo.bulk with addr := 0x20000000 }).wellFormed = false ∧
    (Instr.bulkData ⟨0, 0, 0, 0⟩ ⟨0, 0⟩ { Demo.bulk with data := [] }).wellFormed = false ∧
    (Instr.bulkData ⟨0, 0, 0, 0⟩ ⟨0, 0⟩ { Demo.bulk with put := true }).wellFormed = false := by decide +kernel

theorem test_ill_formed_addresses :
    (Instr.stagedWrite 0x200000 .pf 0).wellFormed = false ∧ (Instr.stagedWrite 2 .pf 0).wellFormed = false ∧
    (Instr.registerWrite 0x200000 .pf 0).wellFormed = false ∧ (Instr.registerWrite 1 .pf 0).wellFormed = false ∧
    (Instr.csrw 0x1000000 0 4).wellFormed = false ∧ (Instr.csrr 0x1000000 4).wellFormed = false ∧
    (Instr.lbr 0x1000000 0).wellFormed = false := by decide +kernel

theorem test_ill_formed_messages :
    [Instr.identReq, .csrWrite, .csrRead, .write, .read, .request, .kbtAck, .kbtNak].all
      (fun c => !(c (Demo.kbt 8193)).wellFormed && (c (Demo.kbt 8192)).wellFormed) = true := by decide +kernel

/-! ### Instruction words -/

/-- The three words that chapter 5's worked case lists, and the word of chapter 6's. -/
theorem test_words_of_the_worked_cases :
    isaDecode 0x6000A26000000000 = some (.waitc ⟨0, 20, false, true, 6, 0⟩) ∧
    isaDecode 0x4011000000000000 = some (.move ⟨2, 4, false, 0, 0⟩) ∧
    isaDecode 0x5C080000FFFFFFF6 = some (.djnz ⟨4, 0xFFFFFFF6⟩) ∧
    isaDecode 0x800811028008A000 =
      some (.tm .tmul ⟨4, 1, 2, 0, 2, 4, 0, false, false, false, false, false, 0, true, 20, false, 0⟩) ∧
    wordGuard 0x800811028008A000 = ⟨0, false⟩ := by decide +kernel

/-- Layout R: d 53:49, a 48:44, b 43:39, FN 38:34. -/
theorem test_word_layout_r :
    isaDecode 0x06E22EA400000000 = some (.alu ⟨17, 2, 29, 9⟩) ∧ wordGuard 0x06E22EA400000000 = ⟨5, true⟩ ∧
    isaDecode 0x0EE22EA400000000 = some (.cmp ⟨17, 2, 29, 9⟩) ∧ wordGuard 0x0EE22EA400000000 = ⟨5, true⟩ ∧
    isaDecode 0x16E22EA400000000 = some (.plog ⟨17, 2, 29, 9⟩) ∧ wordGuard 0x16E22EA400000000 = ⟨5, true⟩ ∧
    isaDecode 0x76E22EA400000000 = some (.tdchk ⟨17, 2, 29, 9⟩) ∧ wordGuard 0x76E22EA400000000 = ⟨5, true⟩ := by decide +kernel

/-- Layout I: d 53:49, a 48:44, FN 43:39, imm 31:0. -/
theorem test_word_layout_i :
    isaDecode 0x0AE22E8089ABCDEF = some (.alui ⟨17, 2, 29, 0x89ABCDEF⟩) ∧ wordGuard 0x0AE22E8089ABCDEF = ⟨5, true⟩ ∧
    isaDecode 0x12E22E8089ABCDEF = some (.cmpi ⟨17, 2, 29, 0x89ABCDEF⟩) ∧ wordGuard 0x12E22E8089ABCDEF = ⟨5, true⟩ ∧
    isaDecode 0x1AE22E8089ABCDEF = some (.aop ⟨17, 2, 29, 0x89ABCDEF⟩) ∧ wordGuard 0x1AE22E8089ABCDEF = ⟨5, true⟩ ∧
    isaDecode 0x1EE22E8089ABCDEF = some (.ld ⟨17, 2, 29, 0x89ABCDEF⟩) ∧ wordGuard 0x1EE22E8089ABCDEF = ⟨5, true⟩ ∧
    isaDecode 0x22E22E8089ABCDEF = some (.st ⟨17, 2, 29, 0x89ABCDEF⟩) ∧ wordGuard 0x22E22E8089ABCDEF = ⟨5, true⟩ ∧
    isaDecode 0x26E22E8089ABCDEF = some (.rdc ⟨17, 2, 29, 0x89ABCDEF⟩) ∧ wordGuard 0x26E22E8089ABCDEF = ⟨5, true⟩ ∧
    isaDecode 0x2AE22E8089ABCDEF = some (.tdld ⟨17, 2, 29, 0x89ABCDEF⟩) ∧ wordGuard 0x2AE22E8089ABCDEF = ⟨5, true⟩ ∧
    isaDecode 0x2EE22E8089ABCDEF = some (.tdst ⟨17, 2, 29, 0x89ABCDEF⟩) ∧ wordGuard 0x2EE22E8089ABCDEF = ⟨5, true⟩ ∧
    isaDecode 0x32E22E8089ABCDEF = some (.tdbase ⟨17, 2, 29, 0x89ABCDEF⟩) ∧ wordGuard 0x32E22E8089ABCDEF = ⟨5, true⟩ ∧
    isaDecode 0x5AE22E8089ABCDEF = some (.jalr ⟨17, 2, 29, 0x89ABCDEF⟩) ∧ wordGuard 0x5AE22E8089ABCDEF = ⟨5, true⟩ := by decide +kernel

/-- Layout J: d 53:49, offset 31:0. -/
theorem test_word_layout_j :
    isaDecode 0x52E2000089ABCDEF = some (.j ⟨17, 0x89ABCDEF⟩) ∧ wordGuard 0x52E2000089ABCDEF = ⟨5, true⟩ ∧
    isaDecode 0x56E2000089ABCDEF = some (.jal ⟨17, 0x89ABCDEF⟩) ∧ wordGuard 0x56E2000089ABCDEF = ⟨5, true⟩ ∧
    isaDecode 0x5EE2000089ABCDEF = some (.djnz ⟨17, 0x89ABCDEF⟩) ∧ wordGuard 0x5EE2000089ABCDEF = ⟨5, true⟩ := by decide +kernel

/-- Layouts WC, WB and FN. -/
theorem test_word_waits :
    isaDecode 0x62DD2D5012345678 = some (.waitc ⟨3, 0xA5, true, false, 21, 0x12345678⟩) ∧ wordGuard 0x62DD2D5012345678 = ⟨5, true⟩ ∧
    isaDecode 0x66F2A80000000000 = some (.waitb ⟨6, 2, 21⟩) ∧ wordGuard 0x66F2A80000000000 = ⟨5, true⟩ ∧
    isaDecode 0x6AE9400000000000 = some (.fence 0xA5) ∧ wordGuard 0x6AE9400000000000 = ⟨5, true⟩ := by decide +kernel

/-- Layouts CT (FN 43:39) and SG. -/
theorem test_word_counters :
    isaDecode 0x6EE2205280000000 = some (.cset ⟨17, 2, 0xA5⟩) ∧ wordGuard 0x6EE2205280000000 = ⟨5, true⟩ ∧
    isaDecode 0x6EE220D280000000 = some (.cadd ⟨17, 2, 0xA5⟩) ∧ wordGuard 0x6EE220D280000000 = ⟨5, true⟩ ∧
    isaDecode 0x6EE2215280000000 = some (.cread ⟨17, 2, 0xA5⟩) ∧ wordGuard 0x6EE2215280000000 = ⟨5, true⟩ ∧
    isaDecode 0x72C02A5000000000 = some (.signal ⟨2, 0xA5⟩) ∧ wordGuard 0x72C02A5000000000 = ⟨5, true⟩ ∧
    isaDecode 0x7AC0000000000000 = some (.endp) ∧ wordGuard 0x7AC0000000000000 = ⟨5, true⟩ ∧
    isaDecode 0x7EC0000000000000 = some (.nop) ∧ wordGuard 0x7EC0000000000000 = ⟨5, true⟩ := by decide +kernel

/-- Layouts MV and PT. -/
theorem test_word_movers :
    isaDecode 0x42DD74A012345678 = some (.move ⟨3, 21, true, 0xA5, 0x12345678⟩) ∧ wordGuard 0x42DD74A012345678 = ⟨5, true⟩ ∧
    isaDecode 0x46E22EE940000000 = some (.put ⟨17, 2, 29, true, 0xA5⟩) ∧ wordGuard 0x46E22EE940000000 = ⟨5, true⟩ := by decide +kernel

/-- Layout TM: UNIT 33:32, MW 31:29, DF 28:27, BENCH 26, LD 25, KEEP 24, ACC 23, AEN 22, RND 21:20, CEN 19, CCNT 18:11, SHX 10, sh 9:5. -/
theorem test_word_layout_tm :
    isaDecode 0x82E22EA5B56D2E60 = some (.tm .tmul ⟨17, 2, 29, 9, 1, 5, 2, true, false, true, false, true, 2, true, 0xA5, true, 19⟩) ∧ wordGuard 0x82E22EA5B56D2E60 = ⟨5, true⟩ ∧
    isaDecode 0x86E22EA5B56D2E60 = some (.tm .tl1 ⟨17, 2, 29, 9, 1, 5, 2, true, false, true, false, true, 2, true, 0xA5, true, 19⟩) ∧ wordGuard 0x86E22EA5B56D2E60 = ⟨5, true⟩ ∧
    isaDecode 0x8AE22EA5B56D2E60 = some (.tm .tl2 ⟨17, 2, 29, 9, 1, 5, 2, true, false, true, false, true, 2, true, 0xA5, true, 19⟩) ∧ wordGuard 0x8AE22EA5B56D2E60 = ⟨5, true⟩ ∧
    isaDecode 0x8EE22EA5B56D2E60 = some (.tm .tminp ⟨17, 2, 29, 9, 1, 5, 2, true, false, true, false, true, 2, true, 0xA5, true, 19⟩) ∧ wordGuard 0x8EE22EA5B56D2E60 = ⟨5, true⟩ ∧
    isaDecode 0x92E22EA5B56D2E60 = some (.tm .tmaxp ⟨17, 2, 29, 9, 1, 5, 2, true, false, true, false, true, 2, true, 0xA5, true, 19⟩) ∧ wordGuard 0x92E22EA5B56D2E60 = ⟨5, true⟩ ∧
    isaDecode 0x96E22EA5B56D2E60 = some (.tm .tham ⟨17, 2, 29, 9, 1, 5, 2, true, false, true, false, true, 2, true, 0xA5, true, 19⟩) ∧ wordGuard 0x96E22EA5B56D2E60 = ⟨5, true⟩ ∧
    isaDecode 0x9AE22EA5B56D2E60 = some (.tm .tccnt ⟨17, 2, 29, 9, 1, 5, 2, true, false, true, false, true, 2, true, 0xA5, true, 19⟩) ∧ wordGuard 0x9AE22EA5B56D2E60 = ⟨5, true⟩ ∧
    isaDecode 0xB2E22EA5B56D2E60 = some (.tm .smv ⟨17, 2, 29, 9, 1, 5, 2, true, false, true, false, true, 2, true, 0xA5, true, 19⟩) ∧ wordGuard 0xB2E22EA5B56D2E60 = ⟨5, true⟩ := by decide +kernel

/-- Layouts V, FL, CX, CL and CP. -/
theorem test_word_collectives :
    isaDecode 0xB6E22EA6B4ED2800 = some (.vec ⟨17, 2, 29, 9, 21, 0x53, 2, true, 0xA5⟩) ∧ wordGuard 0xB6E22EA6B4ED2800 = ⟨5, true⟩ ∧
    isaDecode 0xBAE3400000000000 = some (.tflg ⟨17, 5⟩) ∧ wordGuard 0xBAE3400000000000 = ⟨5, true⟩ ∧
    isaDecode 0xE2E22EA6B52B6DA5 = some (.gather ⟨17, 2, 29, 9, 21, 0x2A5, 1, 5, true, false, true, 2, true, 0xA5⟩) ∧ wordGuard 0xE2E22EA6B52B6DA5 = ⟨5, true⟩ ∧
    isaDecode 0xE6E22EA6B52B6DA5 = some (.scatter ⟨17, 2, 29, 9, 21, 0x2A5, 1, 5, true, false, true, 2, true, 0xA5⟩) ∧ wordGuard 0xE6E22EA6B52B6DA5 = ⟨5, true⟩ ∧
    isaDecode 0xEAE22A95B4A00000 = some (.call ⟨17, 2, 0x2A5, 1, 2, true, 0xA5⟩) ∧ wordGuard 0xEAE22A95B4A00000 = ⟨5, true⟩ ∧
    isaDecode 0xEEE22A95B4A00000 = some (.cpri ⟨17, 2, 0x2A5, 1, 2, true, 0xA5⟩) ∧ wordGuard 0xEEE22A95B4A00000 = ⟨5, true⟩ := by decide +kernel

/-- Word 0 is ILL; a reserved opcode, a CTR function above 2 and a set RSV bit are no instruction. -/
theorem test_word_reserved :
    isaDecode 0 = some .ill ∧
    isaDecode 0x3400000000000000 = none ∧
    isaDecode 0x4800000000000000 = none ∧
    isaDecode 0x9C00000000000000 = none ∧
    isaDecode 0xBC00000000000000 = none ∧
    isaDecode 0xF000000000000000 = none ∧
    isaDecode 0xFC00000000000000 = none ∧
    isaDecode 0x6C00018000000000 = none ∧
    isaDecode 0x0400000200000000 = none ∧
    isaDecode 0x0800004000000000 = none ∧
    isaDecode 0x8000000000000010 = none ∧
    isaDecode 0x7800000000000001 = none := by decide +kernel

/-! ### States to start from -/

/-- A machine of four trays on one W line of planes, each of 4 × 4 chips, in one partition. -/
def Demo.table : Table where
  machineId := 5
  sequence := 1
  lw := 4
  lx := 4
  ly := 4
  lz := 1
  tx := 0
  ty := 0
  tz := 0
  root := ⟨0, 0, 0, 0⟩
  standby := ⟨1, 0, 0, 0⟩
  trays := (List.range 4).map fun w => ⟨BitVec.ofNat 64 (w + 1), w, 0, 0, 0, true, 0, List.replicate 16 7, 0⟩
  parts := [⟨3, 0, 4, 0, 1, 0, 1, 0, 1⟩]
  tray := 0
  slot := 0
  self := ⟨0, 0, 0, 0⟩
  hash := 0
  anchored := 0

/-- A partition view with every plane active. -/
def Demo.view : PartView := ⟨⟨3, 0, 4, 0, 1, 0, 1, 0, 1⟩, [0, 1, 2, 3], []⟩

/-- A vector tensor of 16 bfloat16 elements of context 0. -/
def Demo.td : TD := ⟨0x2000, 1, 1, false, 0, 16, 1, 1, 1, 0, 0, 0⟩

/-- A ring directory of three groups. -/
def Demo.dir : RingDir := ⟨4, 2, 3, 3, 1, [(0, 0, 0, 0), (1, 0, 0, 0), (2, 0, 0, 0)], [0, 1, 2]⟩

/-- A chip that has started up, with every domain on, a checked table and every port UP, in no partition. -/
def Demo.on : State := { State.reset with
  inst := { Inst.reset with state := 6, table := some Demo.table, nbrOk := 0x3FF }
  glb := { Glb.reset with state := 5, fuseDone := true }
  pwr := { Pwr.reset with on := -1, req := -1, telReq := true }
  beat := { Beat.reset with gridSet := true, state := 2, enable := true, ms := 1000, startMs := 1000, admitted := 0 }
  frames := Vector.ofFn fun f => if f.val < 4 then 0x6000 else if f.val < 8 then 0x4001 else if f.val < 12 then 0x8000 else 0
  cores := Vector.replicate 16 { Core.reset with selfTested := true }
  ports := Vector.replicate 10 { Port.reset with enable := true, inService := true, state := 3 } }

/-- The same chip as the root of a formed partition that agent 7 owns, with contexts 0 and 1. -/
def Demo.member : State := { Demo.on with
  own := { Own.reset with
    valid := true, state := 3, owner := 7, boundPf := some 7, boundI3c := some 7, epoch := 1, partId := 3
    leaseX := some 0x100000, nextSeq := 1
    ctxs := Vector.ofFn fun t => ⟨decide (t.val < 2), 0⟩
    serviceRoot := some ⟨0, 0, 0, 0⟩, serviceStandby := some ⟨1, 0, 0, 0⟩, children := [⟨1, 0, 0, 0⟩, ⟨0, 1, 0, 0⟩]
    root := { RootView.reset with state := 3, owner := 7, leaseX := 0x100000, seq := 1 } }
  glb := { Glb.reset with state := 7, fuseDone := true, confirmed := true, instant := some 0, part := some Demo.view }
  beat := { Beat.reset with
    gridSet := true, state := 2, enable := true, ms := 1000, startMs := 1000, count := 5, admitted := 0x3FF }
  wrg := { Wrg.reset with enable := true, east := true, state := 3, posValid := true, dir := some Demo.dir, dirMb := 8 } }

/-- Its core 0 runs in context 0. -/
def Demo.run : State := modCore Demo.member 0 fun c => { c with
  state := 1, pc := 0x1000, td := Vector.replicate 32 (some Demo.td) }

/-! ### Worked cases -/

/-- R179: a counter 32 below its target does not satisfy GE; after 32 increments, past the wrap, it does. -/
theorem test_ge_comparison_wraps :
    waitcHolds 0xFFFFFFF0 false 0x10 = false ∧ waitcHolds 0x10 false 0x10 = true := by decide

/-- R289: a value just under 127.5 converted to int8 gives 127 and no OVERFLOW, one just above saturates with OVERFLOW. -/
theorem test_int8_conversion :
    writeElem 1 0 (.ofDy ⟨1019, -3⟩) = ⟨127, false, false⟩ ∧ writeElem 1 0 (.ofDy ⟨1021, -3⟩) = ⟨127, true, false⟩ := by
  decide +kernel

/-- The four non-zero elements of chapter 8's worked case 1: 12.5, 3.0, −0.40625 and 0.0625 in bfloat16. -/
def Demo.block : List Machine.Num := [0x4148, 0x4040, 0xBED0, 0x3D80].map (elemOf 2)

/-- Chapter 8, worked case 1: the aligned multiples of the unit at widths 4, 8 and 16. -/
theorem test_alignment_of_the_worked_case :
    alignRow 4 Demo.block = [.fin false ⟨12, 0⟩, .fin false ⟨3, 0⟩, .fin true ⟨0, 0⟩, .fin false ⟨0, 0⟩] ∧
    alignRow 8 Demo.block = [.fin false ⟨200, -4⟩, .fin false ⟨48, -4⟩, .fin true ⟨-6, -4⟩, .fin false ⟨1, -4⟩] ∧
    alignRow 16 Demo.block =
      [.fin false ⟨51200, -12⟩, .fin false ⟨12288, -12⟩, .fin true ⟨-1664, -12⟩, .fin false ⟨256, -12⟩] := by decide +kernel

/-- Chapter 8, worked case 1: 15.15625 in bfloat16 is the tie 15.125, in binary32 it is exact. -/
theorem test_rounding_of_the_worked_case :
    writeElem 2 0 (.ofDy ⟨485, -5⟩) = ⟨0x4172, false, false⟩ ∧
    writeElem 4 0 (.ofDy ⟨485, -5⟩) = ⟨0x41728000, false, false⟩ := by decide +kernel

/-- R342: code lengths 127 → 1, 126 → 2, 124 → 3 and 125 → 3 give the codes 0, 10, 110 and 111. -/
theorem test_canonical_codes :
    codewords (splice (List.replicate 256 0) (0x40 + 62) [0x33, 0x12]) =
      [(1, 0, 127), (2, 2, 126), (3, 6, 124), (3, 7, 125)] := by decide +kernel

/-- The full machine of chapter 1's worked case 1, twisted by 32 in X and Y, one partition of every tray. -/
def Demo.full : Table := { Demo.table with lw := 64, lx := 8, ly := 8, lz := 8, tx := 32, ty := 32 }
def Demo.fullView : PartView := ⟨⟨1, 0, 64, 0, 2, 0, 2, 0, 8⟩, List.range 64, []⟩

/-- Chapter 1 and chapter 11, worked cases: the twisted route of 13 hops, the wrap it takes and its W port. -/
theorem test_twisted_route :
    routeOf Demo.full Demo.fullView ⟨0, 0, 0, 0⟩ ⟨40, 7, 1, 3⟩ = some ⟨13, 8, true, false, false, false⟩ ∧
    neighbour Demo.full ⟨8, 0, 0, 0⟩ 5 = (⟨40, 7, 0, 0⟩, 4) ∧
    packCoord ⟨40, 7, 1, 3⟩ = 0x51CB ∧ wPairPort ⟨0, 0, 0, 0⟩ ⟨40, 7, 1, 3⟩ false = 0 := by decide +kernel

/-- Chapter 11, worked case 2: a tie of east and west goes east. -/
theorem test_tied_route_goes_east :
    routeOf Demo.full Demo.fullView ⟨0, 0, 0, 0⟩ ⟨32, 0, 0, 0⟩ = some ⟨32, 32, false, false, false, false⟩ := by
  decide +kernel

/-- Chapter 1, worked case 1, size A: slot 0 of one tray reaches slot 15 by the X− and the Y− wraps. -/
theorem test_one_tray_wraps :
    let t := { Demo.table with lw := 1 }
    neighbour t ⟨0, 0, 0, 0⟩ 5 = (⟨0, 3, 0, 0⟩, 4) ∧ neighbour t ⟨0, 3, 0, 0⟩ 7 = (⟨0, 3, 3, 0⟩, 6) := by decide

/-! ### Effects of instructions, by hand from Table 5-6 -/

/-- Core 0 of a member with two scalar registers set. -/
def Demo.regs (a b : W64) : State := modCore Demo.run 0 fun c => { c with s := (vmod (vmod c.s 1 fun _ => a) 2 fun _ => b) }

/-- Register 3 of core 0 after a command, where the core still runs. -/
def Demo.result (o : Host.Outcome State Fault Refusal) : Option W64 :=
  match o with
  | .next t => if (coreAt t 0).state = 1 then some (getS (coreAt t 0) 3) else none
  | _ => none

/-- An ALU function of s1 and s2 into s3. -/
def Demo.alu (fn : BitVec 5) (a b : W64) : Option W64 := Demo.result (exec (.alu 0 ⟨0, false⟩ ⟨3, 1, 2, fn⟩) (Demo.regs a b))

/-- The same where the result returns in a later clock. -/
def Demo.late (fn : BitVec 5) (a b : W64) : Option W64 :=
  match exec (.alu 0 ⟨0, false⟩ ⟨3, 1, 2, fn⟩) (Demo.regs a b) with
  | .next t => Demo.result (execAluResultReturn 0 t)
  | _ => none

/-- An ALUI function of s1 and an immediate into s3. -/
def Demo.alui (fn : BitVec 5) (a : W64) (imm : W32) : Option W64 :=
  Demo.result (exec (.alui 0 ⟨0, false⟩ ⟨3, 1, fn, imm⟩) (Demo.regs a 0))

theorem test_alu_arithmetic :
    Demo.alu 0 0xFFFFFFFFFFFFFFFF 2 = some 1 ∧ Demo.alu 1 2 5 = some 0xFFFFFFFFFFFFFFFD ∧
    Demo.alu 6 5 3 = some 7 ∧ Demo.alu 7 5 3 = some 6 := by decide +kernel

theorem test_alu_results_that_return_later :
    Demo.late 2 0xFFFFFFFFFFFFFFFF 2 = some 0xFFFFFFFFFFFFFFFE ∧ Demo.late 3 0xFFFFFFFFFFFFFFFF 2 = some 0xFFFFFFFFFFFFFFFF ∧
    Demo.late 4 0xFFFFFFFFFFFFFFFF 2 = some 1 ∧ Demo.late 15 7 0 = some 0xFFFFFFFFFFFFFFFF ∧
    Demo.late 15 17 5 = some 3 ∧ Demo.late 16 7 0 = some 7 ∧ Demo.late 16 17 5 = some 2 := by decide +kernel

theorem test_alu_shifts_and_minima :
    Demo.alu 8 1 65 = some 2 ∧ Demo.alu 9 0x8000000000000000 63 = some 1 ∧
    Demo.alu 10 0x8000000000000000 63 = some 0xFFFFFFFFFFFFFFFF ∧ Demo.alu 11 0xFFFFFFFFFFFFFFFF 1 = some 0xFFFFFFFFFFFFFFFF ∧
    Demo.alu 13 0xFFFFFFFFFFFFFFFF 1 = some 1 := by decide +kernel

theorem test_alui :
    Demo.alui 0 5 0xFFFFFFFF = some 4 ∧ Demo.alui 1 0xFFFFFFFFFFFFFFFF 0xFFFFFFFF = some 0xFFFFFFFF ∧
    Demo.alui 8 0xAAAAAAAA00000001 2 = some 0x200000001 := by decide +kernel

/-! ### Parts of such states -/

/-- A word with its bits [lo, lo + w) replaced. -/
def Demo.put (v : W32) (lo w x : Nat) : W32 :=
  BitVec.ofNat 32 (v.toNat - 2 ^ lo * (v.toNat / 2 ^ lo % 2 ^ w) + 2 ^ lo * (x % 2 ^ w))

/-- A mover of a core that holds one transfer. -/
def Demo.putX (s : State) (n m : Nat) (x : Xfer) : State := modCore s n fun c => { c with movers := vmod c.movers m fun _ => [x] }

/-- A transfer of two rows of 16 bytes. -/
def Demo.desc : XDesc := ⟨0x1000, 0x2000, 0, 16, 2, 16, 16, 0⟩

/-- A shelf header of EXP-C. -/
def Demo.header : List Byte :=
  splice (splice (splice (List.replicate 256 0) 6 (leBytes 2 0x22)) 20 (leBytes 4 60000)) 24 (leBytes 4 65536)

/-- A member of a group of three on the W line. -/
def Demo.group (s : State) (g : Nat) : State := { s with
  inst.table := some { Demo.table with self := ⟨1, 0, 0, 0⟩ }, hut.loaded := true
  hut.groups := [⟨g, false, s.own.epoch.setWidth 16, 0, [⟨0, 0, 0, 0⟩, ⟨1, 0, 0, 0⟩, ⟨2, 0, 0, 0⟩], [0, 1, 2, 3], 0, 0⟩] }

/-- A network record in the load buffer. -/
def Demo.net (s : State) : State :=
  let b := leBytes 4 0x54454E4B ++ leBytes 2 1 ++ leBytes 2 6 ++ leBytes 2 5 ++ leBytes 2 4000 ++ [1, 2, 3, 4, 24, 7, 0, 0] ++
    List.replicate 40 9
  { s with hst.loadBuf := writeBytes [] 0x80000 (b ++ leBytes 4 (crc32c b).toNat) }

/-- A KBT session for a message, with Ethernet up. -/
def Demo.session (s : State) (m : KbtMsg) (x : Session) : State := { s with
  hst.sessions := [{ x with id := m.hdr.session }], hst.ethEnable := true, hst.kbtEn := true
  hst.net := some ⟨false, true, true, 1, 4000, 1, 2, 3, 4, 5, 6, 7⟩ }

/-- A halted ring with its directory in frame 8 and a restart due. -/
def Demo.restart (s : State) : State := { s with
  mem := writeBytes [] 0x800000 (leBytes 4 0x52494457 ++ leBytes 2 1 ++ leBytes 1 4 ++ leBytes 1 0 ++ leBytes 2 3 ++
    leBytes 2 3 ++ leBytes 2 1 ++ List.replicate 98 0 ++ [0, 0, 1, 0, 2, 0])
  wrg := { s.wrg with
    east := false, west := false, dirMb := 8, restartDue := some s.wrg.restartZero, state := 5, trail := [], swap := false
    homeUeMarks := [], dir := some ⟨4, 0, 3, 3, 1, [(0, 0, 0, 0), (0, 0, 0, 0), (0, 0, 0, 0)], [0, 1, 2]⟩ } }

/-! ### Statements have instances -/

/-- A state with one command waiting. -/
def Demo.waiting (s : State) : State := { s with pending := [.microslotStart] }

/-- Hypotheses of StepTakesTheFrontCommand, clause by clause. -/
theorem witness_StepTakesTheFrontCommand :
    (Demo.waiting Demo.on).pending = [.microslotStart] ∧ Demo.on.pending = [] := by decide +kernel

/-- Hypotheses of CommandsAreTakenFirstInFirstOut, clause by clause: a command and an idle step answer a next state. -/
theorem witness_CommandsAreTakenFirstInFirstOut :
    (match exec .microslotStart Demo.on with | .next _ => true | _ => false) = true ∧
    (match step (Demo.waiting Demo.on) with | .next t => decide (t.pending = []) | _ => false) = true ∧
    (match step Demo.on with | .next _ => true | _ => false) = true := by decide +kernel

/-- Hypotheses of MemoryStaysCanonical: a memory that lists bytes, and a step. -/
theorem witness_MemoryStaysCanonical :
    Memory.wf (Demo.restart Demo.on).mem = true ∧ (Demo.restart Demo.on).mem ≠ [] ∧
    (match step (Demo.waiting (Demo.restart Demo.on)) with | .next _ => true | _ => false) = true := by decide +kernel

/-- Hypotheses of WritesNeedOwnership, clause by clause. -/
theorem witness_WritesNeedOwnership :
    (let s := Demo.on
     let via : Via := .pf
     let s := { s with own.valid := true, own.state := 1 }
     decide (mayWrite s via = false)) = true ∧
    (let s := Demo.on
     let via : Via := .pf
     let off : Nat := 0
     let s := { s with own.valid := true, own.state := 1 }
     decide (mayWrite s via = false ∧ isRegister off = true ∧ off ≠ 0x20008)) = true := by decide +kernel

/-- Hypotheses of PredicateZeroAlwaysReadsOne, clause by clause. -/
theorem witness_PredicateZeroAlwaysReadsOne :
    (let q : BitVec 5 := 0
     let r : BitVec 5 := 7
     decide (q ≠ r)) = true ∧
    (let q : BitVec 5 := 0
     let r : BitVec 5 := 7
     decide (r.toNat < 16 ∧ q ≠ r)) = true ∧
    (let q : BitVec 5 := 0
     let r : BitVec 5 := 7
     decide (0 < r.toNat ∧ r.toNat < 8 ∧ q ≠ r)) = true ∧
    (let q : BitVec 5 := 0
     let r : BitVec 5 := 7
     decide (q ≠ r)) = true ∧
    (let s := Demo.run
     let core : CoreId := 0
     let g : Guard := ⟨0, false⟩
     let f : FieldsR := ⟨0, 0, 0, 0⟩
     let h : FieldsI := ⟨0, 0, 0, 0⟩
     let f := { f with d := 0 }
     let h := { h with d := 0 }
     decide (f.d = 0 ∧ h.d = 0 ∧ issues s core.val g (.cmp f) = true)) = true ∧
    (let s := Demo.run
     let core : CoreId := 0
     let g : Guard := ⟨0, false⟩
     let f : FieldsR := ⟨0, 0, 0, 0⟩
     let h : FieldsI := ⟨0, 0, 0, 0⟩
     let f := { f with d := 0 }
     let h := { h with d := 0 }
     decide (f.d = 0 ∧ h.d = 0 ∧ issues s core.val g (.cmpi h) = true)) = true ∧
    (let s := Demo.run
     let core : CoreId := 0
     let g : Guard := ⟨0, false⟩
     let f : FieldsR := ⟨0, 0, 0, 0⟩
     let h : FieldsI := ⟨0, 0, 0, 0⟩
     let f := { f with d := 0 }
     let h := { h with d := 0 }
     decide (f.d = 0 ∧ h.d = 0 ∧ issues s core.val g (.plog f) = true)) = true ∧
    (let s := Demo.run
     let core : CoreId := 0
     let g : Guard := ⟨0, false⟩
     let f : FieldsR := ⟨0, 0, 0, 0⟩
     let h : FieldsI := ⟨0, 0, 0, 0⟩
     let f := { f with d := 0 }
     let h := { h with d := 0 }
     decide (f.d = 0 ∧ h.d = 0 ∧ issues s core.val g (.tdchk f) = true)) = true := by decide +kernel

/-- Hypotheses of EndDrainsAndHalts, clause by clause. -/
theorem witness_EndDrainsAndHalts :
    (let s := Demo.run
     let core : CoreId := 0
     let g : Guard := ⟨0, false⟩
     decide (issues s core.val g .endp = true)) = true ∧
    (let s := Demo.on
     let core : CoreId := 0
     let s := modCore s core.val fun z => { z with state := 3 }
     let s := modCore s core.val fun z => { z with stopNext := 3 }
     decide ((coreAt s core.val).state = 3 ∧ (coreAt s core.val).stopNext = 3 ∧ idleCore (coreAt s core.val) = true)) = true := by decide +kernel

/-- Hypotheses of RegisterWritesReachTheirRegister, clause by clause. -/
theorem witness_RegisterWritesReachTheirRegister :
    (let off : Nat := 32
     decide (isRegister off = false)) = true ∧
    (let s := Demo.on
     let via : Via := .pf
     let s := { s with pwr.on := 0 }
     let off := 0x40000
     decide (mayWrite s via = true ∧ off ≠ 0x20008 ∧ regReachable s off = false)) = true ∧
    (let s := Demo.on
     let via : Via := .pf
     let n : CoreId := 0
     let s := { s with pwr.on := -1 }
     let s := modCore s n.val fun z => { z with state := 0 }
     decide (mayWrite s via = true ∧ domainOn s n.val = true ∧ (coreAt s n.val).state = 0)) = true ∧
    (let s := Demo.run
     let via : Via := .pf
     let n : CoreId := 0
     let s := { s with pwr.on := -1 }
     decide (mayWrite s via = true ∧ domainOn s n.val = true ∧ (coreAt s n.val).state ≠ 0)) = true ∧
    (let s := Demo.on
     let via : Via := .pf
     let v : W32 := 0x2000
     let s := { s with own.valid := false }
     decide (mayWrite s via = true ∧ formed s = false ∧ (v.extractLsb' 8 8 : Byte) ≠ nextM1 s ∧
       minM1 s ≤ (v.extractLsb' 8 8).toNat)) = true ∧
    (let s := Demo.on
     let via : Via := .pf
     let v : W32 := 0
     let s := { s with own.valid := false }
     decide (mayWrite s via = true ∧ formed s = false ∧ (v.extractLsb' 8 8 : Byte) ≠ nextM1 s ∧
       (v.extractLsb' 8 8).toNat < minM1 s)) = true ∧
    (let s := Demo.on
     let via : Via := .pf
     let v : W32 := 0x0E10FF01
     decide (mayWrite s via = true ∧ bit v 23 = false ∧ bits v 24 4 ≠ 15 ∧ bits v 20 3 ≠ 0 ∧ bits v 0 8 ≠ 0 ∧
       bits v 0 8 < bits v 8 8)) = true ∧
    (let s := Demo.on
     let via : Via := .pf
     let v : W32 := 0xF000000
     decide (mayWrite s via = true ∧ bit v 23 = false ∧ (bits v 24 4 = 15 ∨ bits v 20 3 = 0 ∨ bits v 0 8 = 0 ∨
       bits v 8 8 ≤ bits v 0 8))) = true := by decide +kernel

/-- Hypotheses of InstallCommandsStart, clause by clause. -/
theorem witness_InstallCommandsStart :
    (let s := Demo.on
     let via : Via := .pf
     let v : W32 := 0
     decide (mayWrite s via = true ∧ s.own.valid = false ∧ bit v 0 = false ∧ bit v 1 = false ∧ s.inst.state ≠ 3)) = true ∧
    (let via : Via := .pf
     let s := Demo.member
     let v : W32 := 4
     decide (mayWrite s via = true ∧ s.own.valid = true ∧ bit v 0 = false ∧ bit v 1 = false)) = true ∧
    (let s := Demo.on
     let via : Via := .pf
     let s := { s with inst.state := 3 }
     let v : W32 := 4
     decide (mayWrite s via = true ∧ bit v 0 = false ∧ bit v 1 = false ∧ s.own.valid = false ∧ s.inst.state = 3 ∧
       s.own.sealing.windowOpen = false)) = true ∧
    (let s := Demo.on
     let via : Via := .pf
     let s := { s with inst.state := 3, own.sealing.windowOpen := true }
     let tab : Table := Demo.table
     let v : W32 := 4
     decide (mayWrite s via = true ∧ bit v 0 = false ∧ bit v 1 = false ∧ s.own.valid = false ∧ s.inst.state = 3 ∧
       s.own.sealing.windowOpen = true ∧ s.inst.table = some tab)) = true ∧
    (let s := Demo.on
     let via : Via := .pf
     let v : W32 := 2
     decide (mayWrite s via = true ∧ bit v 0 = false ∧ bit v 2 = false ∧ (s.inst.state = 6 ∨ s.inst.state = 7))) = true ∧
    (let s := Demo.on
     let via : Via := .pf
     let s := { s with inst.state := 3 }
     let v : W32 := 2
     decide (mayWrite s via = true ∧ bit v 0 = false ∧ bit v 2 = false ∧ s.inst.state ≠ 6 ∧ s.inst.state ≠ 7)) = true ∧
    (let s := Demo.on
     let via : Via := .pf
     let v : W32 := 7
     decide (mayWrite s via = true ∧ bit v 0 = true)) = true ∧
    (let s := Demo.on
     let via : Via := .pf
     let v : W32 := 6
     decide (mayWrite s via = true ∧ bit v 0 = false ∧ bit v 1 = true ∧ bit v 2 = true)) = true := by decide +kernel

/-- Hypotheses of ParsingAndAnchoring, clause by clause. -/
theorem witness_ParsingAndAnchoring :
    (let s := Demo.on
     let s := { s with inst.state := 1 }
     decide (s.inst.state = 1) &&
     (let r := imageTable s
      let e := tableErr s r
      true)) = true ∧
    (let s := Demo.on
     let a : Anchor := ⟨0, 0⟩
     let s := { s with inst.anchorWrite := some a, inst.state := 3 }
     decide (s.inst.anchorWrite = some a ∧ s.inst.state = 3) &&
     (match s.inst.table with
      | some tab =>
         decide (tab.anchored = a.digest)
      | _ => false)) = true := by decide +kernel

/-- Hypotheses of NeighbourCheckJudgesPorts, clause by clause. -/
theorem witness_NeighbourCheckJudgesPorts :
    (let s := Demo.on
     let port : PortId := 0
     let s := modPort s 0 fun q => { q with state := 6 }
     decide ((portAt s port.val).state = 6)) = true ∧
    (let s := Demo.on
     let port : PortId := 0
     let s := modPort s 0 fun q => { q with enable := false }
     decide (exchanging (portAt s port.val) = false ∧ (portAt s port.val).state ≠ 6)) = true ∧
    (let s := Demo.on
     let port : PortId := 0
     let tab : Table := Demo.table
     let f : IdFrame := ⟨5, 0, 7, (expected Demo.table true 0).1, (expected Demo.table true 0).2, true, false⟩
     let s := { s with inst.agree := Vector.replicate 10 2 }
     let direct : Bool := frameAgrees tab f (expected tab (portAt s port.val).inService port.val).fst (expected tab (portAt s port.val).inService port.val).snd
     decide (table? s = some tab ∧ exchanging (portAt s port.val) = true ∧ portExists tab port.val = true ∧ 5 ≤ s.inst.state.toNat ∧
       direct = true ∧ 2 ≤ s.inst.agree.toList.getD port.val 0)) = true ∧
    (let s := Demo.on
     let port : PortId := 0
     let tab : Table := Demo.table
     let f : IdFrame := ⟨5, 0, 7, (expected Demo.table true 0).1, (expected Demo.table true 0).2, true, false⟩
     let s := { s with inst.agree := Vector.replicate 10 1 }
     let direct : Bool := frameAgrees tab f (expected tab (portAt s port.val).inService port.val).fst (expected tab (portAt s port.val).inService port.val).snd
     decide (table? s = some tab ∧ exchanging (portAt s port.val) = true ∧ portExists tab port.val = true ∧ 5 ≤ s.inst.state.toNat ∧
       direct = true ∧ s.inst.agree.toList.getD port.val 0 < 2)) = true ∧
    (let s := Demo.on
     let port : PortId := 0
     let tab : Table := Demo.table
     let f : IdFrame := ⟨5, 0, 7, (expected Demo.table true 0).1, (expected Demo.table true 0).2, true, false⟩
     let s := { modPort s 0 (fun q => { q with inService := false }) with inst.agreeByp := Vector.replicate 10 2 }
     let f := { f with coord := (bypassNeighbour Demo.table Demo.table.self 0).1, port := (bypassNeighbour Demo.table Demo.table.self 0).2 }
     let direct : Bool := frameAgrees tab f (expected tab (portAt s port.val).inService port.val).fst (expected tab (portAt s port.val).inService port.val).snd
     let byp : Bool := frameBypass tab f port.val
     decide (table? s = some tab ∧ exchanging (portAt s port.val) = true ∧ portExists tab port.val = true ∧ 5 ≤ s.inst.state.toNat ∧
       direct = false ∧ byp = true ∧ 2 ≤ s.inst.agreeByp.toList.getD port.val 0)) = true ∧
    (let s := Demo.on
     let port : PortId := 0
     let tab : Table := Demo.table
     let f : IdFrame := ⟨5, 0, 7, (expected Demo.table true 0).1, (expected Demo.table true 0).2, true, false⟩
     let s := modPort s 0 fun q => { q with inService := false }
     let f := { f with coord := (bypassNeighbour Demo.table Demo.table.self 0).1, port := (bypassNeighbour Demo.table Demo.table.self 0).2 }
     let direct : Bool := frameAgrees tab f (expected tab (portAt s port.val).inService port.val).fst (expected tab (portAt s port.val).inService port.val).snd
     let byp : Bool := frameBypass tab f port.val
     decide (table? s = some tab ∧ exchanging (portAt s port.val) = true ∧ portExists tab port.val = true ∧ 5 ≤ s.inst.state.toNat ∧
       direct = false ∧ byp = true ∧ s.inst.agreeByp.toList.getD port.val 0 < 2)) = true ∧
    (let s := Demo.on
     let port : PortId := 0
     let tab : Table := Demo.table
     let f : IdFrame := ⟨5, 0, 7, (expected Demo.table true 0).1, (expected Demo.table true 0).2, true, false⟩
     let f := { f with machineId := 0 }
     let direct : Bool := frameAgrees tab f (expected tab (portAt s port.val).inService port.val).fst (expected tab (portAt s port.val).inService port.val).snd
     let byp : Bool := frameBypass tab f port.val
     decide (table? s = some tab ∧ exchanging (portAt s port.val) = true ∧ portExists tab port.val = true ∧ 5 ≤ s.inst.state.toNat ∧
       direct = false ∧ byp = false ∧ bit s.inst.nbrFail port.val = false)) = true ∧
    (let s := Demo.on
     let port : PortId := 0
     let tab : Table := Demo.table
     let f : IdFrame := ⟨5, 0, 7, (expected Demo.table true 0).1, (expected Demo.table true 0).2, true, false⟩
     let s := { s with inst.nbrFail := 1 }
     let f := { f with machineId := 0 }
     let direct : Bool := frameAgrees tab f (expected tab (portAt s port.val).inService port.val).fst (expected tab (portAt s port.val).inService port.val).snd
     let byp : Bool := frameBypass tab f port.val
     decide (table? s = some tab ∧ exchanging (portAt s port.val) = true ∧ portExists tab port.val = true ∧ 5 ≤ s.inst.state.toNat ∧
       direct = false ∧ byp = false ∧ bit s.inst.nbrFail port.val = true)) = true ∧
    (let tab : Table := Demo.table
     let f : IdFrame := ⟨5, 0, 7, (expected Demo.table true 0).1, (expected Demo.table true 0).2, true, false⟩
     let f := { f with machineId := 0 }
     decide (f.machineId = 0 ∧ tab.machineId ≠ 0)) = true ∧
    (let s := Demo.on
     let port : PortId := 0
     let s := { s with inst.state := 5, inst.nbrOk := 0 }
     decide (undecided s port.val = true)) = true ∧
    (let s := Demo.on
     let port : PortId := 1
     decide (undecided s port.val = false)) = true ∧
    (let s := Demo.on
     let s := { s with inst.state := 5 }
     decide (s.inst.state = 5 ∧ s.inst.nbrFail = 0 ∧ (∀ (p : Nat), p < 10 → undecided s p = false))) = true ∧
    (let s := Demo.on
     let port : PortId := 0
     let s := { s with inst.state := 5, inst.nbrOk := 0 }
     decide (s.inst.state = 5 ∧ (undecided s port.val = true ∨ s.inst.nbrFail ≠ 0))) = true ∧
    (let s := Demo.on
     decide (s.inst.state ≠ 5)) = true := by decide +kernel

/-- Hypotheses of BeatRegistersAct, clause by clause. -/
theorem witness_BeatRegistersAct :
    (let s := Demo.on
     let via : Via := .pf
     let v : W32 := 1
     let s := { s with beat.state := 0, inst.state := 6 }
     decide (mayWrite s via = true ∧ bit v 0 = true ∧ s.beat.state = 0 ∧ s.inst.state = 6 ∧ stopped s = false)) = true ∧
    (let s := State.reset
     let via : Via := .pf
     let v : W32 := 1
     let s := { s with beat.state := 0 }
     decide (mayWrite s via = true ∧ bit v 0 = true ∧ s.beat.state = 0 ∧ s.inst.state ≠ 6)) = true ∧
    (let s := Demo.on
     let via : Via := .pf
     let v : W32 := 0
     let s := { s with own.valid := false }
     decide (mayWrite s via = true ∧ bit v 0 = false ∧ formed s = false ∧ s.beat.state ≠ 5)) = true ∧
    (let s := Demo.member
     let via : Via := .pf
     let v : W32 := 0
     let s := { s with own.valid := true }
     decide (mayWrite s via = true ∧ bit v 0 = false ∧ formed s = true)) = true ∧
    (let s := Demo.on
     let via : Via := .pf
     let v : W32 := 1
     decide (mayWrite s via = true ∧ bit v 0 = true ∧ s.beat.state ≠ 0)) = true ∧
    (let s := Demo.on
     let via : Via := .pf
     let s := { s with latches := [⟨.pf, some 7, none, [], none⟩] }
     decide (mayWrite s via = true) &&
     (match (latchOf s via).beatHi with
      | some hi =>
         true
      | _ => false)) = true ∧
    (let s := Demo.on
     let via : Via := .pf
     let s := { s with beat.state := 5, inst.state := 3 }
     let v : W32 := 1
     decide (mayWrite s via = true ∧ bit v 0 = true ∧ (s.beat.state = 0 ∨ s.beat.state = 5) ∧ s.inst.state ≠ 6)) = true ∧
    (let s := Demo.on
     let via : Via := .pf
     let s := { s with beat.state := 5 }
     let v : W32 := 1
     decide (mayWrite s via = true ∧ bit v 0 = true ∧ s.beat.state ≠ 0 ∧ (s.beat.state ≠ 5 ∨ s.inst.state = 6))) = true := by decide +kernel

/-- Hypotheses of HeadersAndRelock, clause by clause. -/
theorem witness_HeadersAndRelock :
    (let s := Demo.on
     let s := { s with beat.state := 4, beat.relockAge := 64 }
     decide (s.beat.state = 4 ∧ 64 ≤ s.beat.relockAge ∧ stopped s = false)) = true ∧
    (let s := Demo.on
     let port : PortId := 0
     let h : BeatHdr := { headerFor Demo.on 0 with src := ⟨1, 0, 0, 0⟩ }
     let bytes : List Byte := beatHdrBytes h
     let e : Int := -401
     decide (s.beat.state ≠ 0 ∧ s.beat.state ≠ 5 ∧ s.beat.gridSet = true ∧ hdrOf bytes = some h ∧ beatLink s port.val = true ∧
       (beatPort s port.val).oos = false ∧ 400 < e.natAbs)) = true ∧
    (let s := Demo.on
     let port : PortId := 0
     let h : BeatHdr := { headerFor Demo.on 0 with src := ⟨1, 0, 0, 0⟩ }
     let h := { h with ms := 1 }
     let bytes : List Byte := beatHdrBytes h
     let e : Int := 400
     decide (s.beat.state ≠ 0 ∧ s.beat.state ≠ 5 ∧ s.beat.gridSet = true ∧ hdrOf bytes = some h ∧ beatLink s port.val = true ∧
       (beatPort s port.val).oos = false ∧ e.natAbs ≤ 400 ∧ valuesAgree s port.val h = false)) = true ∧
    (let s := Demo.on
     let port : PortId := 0
     let h : BeatHdr := { headerFor Demo.on 0 with src := ⟨1, 0, 0, 0⟩ }
     let bytes : List Byte := beatHdrBytes h
     let e : Int := -400
     decide (s.beat.state ≠ 0 ∧ s.beat.state ≠ 5 ∧ s.beat.gridSet = true ∧ hdrOf bytes = some h ∧ beatLink s port.val = true ∧
       (beatPort s port.val).oos = false ∧ e.natAbs ≤ 400 ∧ valuesAgree s port.val h = true)) = true ∧
    (let s := Demo.on
     let port : PortId := 0
     let s := modBeatPort s 0 fun b => { b with missing := 2 }
     let bytes : List Byte := List.replicate 3 0
     let c : Instr := .beatHeader 0 (List.replicate 3 0) 0
     decide (s.beat.state ≠ 0 ∧ s.beat.state ≠ 5 ∧ s.beat.gridSet = true ∧ bit s.inst.nbrOk port.val = true ∧
       (beatPort s port.val).fresh = false ∧ (c = Instr.headerMissing port ∨ hdrOf bytes = none) ∧
       (beatPort s port.val).missing < 3)) = true ∧
    (let s := Demo.on
     let port : PortId := 0
     let h : BeatHdr := { headerFor Demo.on 0 with src := ⟨1, 0, 0, 0⟩ }
     let bytes : List Byte := beatHdrBytes h
     let s := modBeatPort s 0 fun b => { b with missing := 3 }
     let c : Instr := .headerMissing 0
     decide (s.beat.state ≠ 0 ∧ s.beat.state ≠ 5 ∧ s.beat.gridSet = true ∧ bit s.inst.nbrOk port.val = true ∧
       (beatPort s port.val).fresh = false ∧ (c = Instr.headerMissing port ∨ hdrOf bytes = none) ∧
       3 ≤ (beatPort s port.val).missing)) = true ∧
    (let s := Demo.on
     let port : PortId := 0
     let s := modBeatPort s 0 fun b => { b with fresh := true }
     decide (s.beat.state ≠ 0 ∧ s.beat.state ≠ 5 ∧ s.beat.gridSet = true ∧ (beatPort s port.val).fresh = true)) = true ∧
    (let s := Demo.on
     let s := { s with
       beat.state := 4, beat.relockStep := true, beat.acting := false, beat.rootDist := 1,
       beat.ports := Vector.replicate 10 { BeatPort.reset with heard := true } }
     let ps : List Nat := List.filter (fun p ↦ parentLink s p && beatLink s p) (List.range 10)
     decide (s.beat.state = 4 ∧ s.beat.relockStep = true ∧ ps ≠ [])) = true := by decide +kernel

/-- Hypotheses of RootRoleTaken, clause by clause. -/
theorem witness_RootRoleTaken :
    (let s := Demo.on
     let s := { s with beat.state := 1, beat.advanced := false }
     decide (s.beat.state = 1 ∧ s.beat.advanced = false ∧ hasRole s false = true)) = true ∧
    (let s := Demo.on
     let s := { s with
       beat.state := 2, beat.acting := false, beat.liveAt := 0, beat.ms := 5000, inst.state := 6,
       inst.table := some { Demo.table with self := ⟨1, 0, 0, 0⟩ } }
     let s := { s with beat.ports := s.beat.ports.map fun b => { b with oos := false } }
     decide (s.beat.state = 2 ∧ s.beat.acting = false ∧ s.beat.liveAt.toNat + 1024 ≤ s.beat.ms.toNat ∧ hasRole s true = true ∧
       (∀ p, p < 10 → parentLink s p = true → (beatPort s p).oos = false))) = true ∧
    (let s := Demo.on
     let port : PortId := 0
     let s := { s with beat.gridMs := 1000 }
     let p : Nat := port.val
     let part : Bool := admittedPort s p
     decide (gridRuns s = true ∧ beatLink s p = true ∧ (beatPort s p).sentHeader = false ∧
       BitVec.toNat (s.beat.ms - if part = true then s.beat.startMs else s.beat.gridMs) < linkWindow s part p ∧ part = false)) = true ∧
    (let port : PortId := 0
     let s := Demo.member
     let s := modBeatPort s 0 fun b => { b with sentHeader := true }
     let p : Nat := port.val
     let part : Bool := admittedPort s p
     decide ((gridRuns s = false ∨ beatLink s p = false ∨ (beatPort s p).sentHeader = true ∨ linkWindow s part p ≤ BitVec.toNat (s.beat.ms - if part = true then s.beat.startMs else s.beat.gridMs)) ∧
       part = true)) = true ∧
    (let s := Demo.on
     let s := { s with beat.ms := 1024, beat.liveAt := 0, inst.table := some { Demo.table with self := ⟨2, 0, 0, 0⟩ } }
     decide (s.beat.state = 2 ∧ s.beat.acting = false ∧ BitVec.toNat s.beat.liveAt + 1024 ≤ BitVec.toNat s.beat.ms ∧
       (hasRole s true = false ∨ ∃ p, p < 10 ∧ parentLink s p = true ∧ (beatPort s p).oos = true))) = true := by decide +kernel

/-- Hypotheses of TimeAdvancesByMicroslotBeatAndGridFrame, clause by clause. -/
theorem witness_TimeAdvancesByMicroslotBeatAndGridFrame :
    (let s := Demo.on
     let s := { s with own.valid := true }
     decide (gridRuns s = true ∧ formed s = true ∧ (s.beat.ms - s.beat.startMs).toNat < period s)) = true ∧
    (let s := State.reset
     decide (gridRuns s = false)) = true ∧
    (let s := Demo.on
     let u : State := { s with beat := { s.beat with ms := s.beat.ms + 1 } }
     decide (gridRuns s = true ∧ (formed s = false ∨ period u ≤ BitVec.toNat (u.beat.ms - u.beat.startMs)))) = true ∧
    (let s := Demo.member
     let u : State := { s with beat := { s.beat with ms := s.beat.ms + 1 } }
     decide (gridRuns s = true ∧ formed s = true ∧ BitVec.toNat (u.beat.ms - u.beat.startMs) < period u)) = true ∧
    (let s := Demo.member
     let s := { s with beat.ms := s.beat.startMs + BitVec.ofNat 64 (period s) }
     decide (gridRuns s = true ∧ formed s = true ∧ period s ≤ BitVec.toNat (s.beat.ms - s.beat.startMs))) = true ∧
    (let s := Demo.member
     let s := { s with beat.gridMs := 992 }
     decide (gridRuns s = true ∧ BitVec.toNat s.beat.ms % 8 = 0 ∧ s.beat.ms ≠ s.beat.gridMs ∧ formed s = true)) = true ∧
    (let s := { Demo.on with beat.gridMs := 992 }
     decide (gridRuns s = true ∧ BitVec.toNat s.beat.ms % 8 = 0 ∧ s.beat.ms ≠ s.beat.gridMs ∧ formed s = false)) = true ∧
    (let s := Demo.member
     let s := { s with beat.gridMs := 1000 }
     decide ((BitVec.toNat s.beat.ms % 8 ≠ 0 ∨ s.beat.ms = s.beat.gridMs))) = true := by decide +kernel

/-- Hypotheses of RingFormation, clause by clause. -/
theorem witness_RingFormation :
    (let s := Demo.on
     let via : Via := .pf
     let s := { s with own.valid := false }
     decide (mayWrite s via = true ∧ formed s = false)) = true ∧
    (let s := Demo.member
     let via : Via := .pf
     let s := { s with own.valid := true, wrg.state := 0, wrg.enable := true }
     let v : W32 := 1
     let v := Demo.put v 19 9 (s.wrg.dirMb).toNat
     let v := Demo.put v 2 1 ((s.wrg.east) : Bool).toNat
     let v := Demo.put v 3 1 ((s.wrg.west) : Bool).toNat
     decide (mayWrite s via = true ∧ formed s = true ∧ (s.wrg.state = 0 ∨ s.wrg.state = 6) ∧ s.wrg.enable = true ∧
       bit v 0 = true ∧ bit v 7 = false ∧ v.extractLsb' 19 9 = s.wrg.dirMb ∧ bit v 2 = s.wrg.east ∧ bit v 3 = s.wrg.west ∧
       s.wrg.dirMb.toNat ≤ 383 ∧ ringFrame s.wrg.dirMb.toNat = false ∧ (readDir s).nPacked ≠ ringN s)) = true ∧
    (let s := Demo.on
     let via : Via := .pf
     let s := { s with wrg.state := 1, wrg.checkDue := false }
     decide (mayWrite s via = true ∧ s.wrg.state = 1 ∧ s.wrg.checkDue = false)) = true ∧
    (let s := Demo.on
     let via : Via := .pf
     let s := { s with wrg.state := 1 }
     decide (mayWrite s via = true ∧ (s.wrg.state = 1 ∨ s.wrg.state = 2))) = true ∧
    (let s := Demo.on
     let s := { s with wrg.state := 0 }
     decide (s.wrg.state = 0 ∨ s.wrg.state = 6)) = true ∧
    (let s := Demo.on
     let via : Via := .pf
     let s := { s with wrg.state := 1, wrg.checkDue := true }
     decide (mayWrite s via = true ∧ (s.wrg.state ≠ 1 ∨ s.wrg.checkDue = true))) = true ∧
    (let s := Demo.on
     let f : FormRec := ⟨0, 0, 0, 0, 0, 0, 0, 0, 0, false, false, 0⟩
     let d : RingDir := Demo.dir
     let s := { s with wrg.state := 1, wrg.dir := some d }
     let f := { f with epoch := 9 }
     decide (s.wrg.state = 1 ∧ s.wrg.checkDue = false ∧ s.wrg.dir = some d ∧ f.epoch ≠ s.own.epoch)) = true ∧
    (let s := Demo.on
     let f : FormRec := ⟨0, 0, 0, 0, 0, 0, 0, 0, 0, false, false, 0⟩
     let d : RingDir := Demo.dir
     let s := { s with wrg.state := 1, wrg.dir := some d }
     let f := { f with fw := 1 }
     decide (s.wrg.state = 1 ∧ s.wrg.checkDue = false ∧ s.wrg.dir = some d ∧ f.epoch = s.own.epoch ∧
       (∀ (r : FormRec), r ∈ s.wrg.records → r.epoch = s.own.epoch) ∧ f.fw ≠ s.glb.fwVersion)) = true ∧
    (let s := Demo.on
     let s := { s with wrg.state := 2 }
     decide (s.wrg.state ≠ 0 ∧ s.wrg.state ≠ 1 ∧ s.wrg.state ≠ 6)) = true := by decide +kernel

/-- Hypotheses of HaltCausesAreMetOnce, clause by clause. -/
theorem witness_HaltCausesAreMetOnce :
    (let s := Demo.member
     let west : Bool := false
     let h : List Byte := []
     let s := { s with wrg.state := 3, wrg.halt := none }
     decide ((s.wrg.state = 3 ∨ s.wrg.state = 4) ∧ streamOn s west = true ∧ arrOf s west = none) &&
     (match expectedPlace s with
      | some p =>
         (match s.wrg.dir with
          | some d =>
             decide (hcrcOk h = true) &&
             (match receiveCause s west h p d with
              | some c =>
                 decide (s.wrg.halt = none)
              | _ => false)
          | _ => false)
      | _ => false)) = true ∧
    (let s := Demo.member
     let via : Via := .pf
     let s := { s with wrg.state := 5 }
     let v : W32 := 0x0040000D
     decide ((s.wrg.state = 3 ∨ s.wrg.state = 4 ∨ s.wrg.state = 5) ∧ mayWrite s via = true ∧ s.wrg.halt = none ∧
       bit v 0 = s.wrg.enable ∧ bit v 4 = false ∧ bit v 7 = false ∧ BitVec.extractLsb' 19 9 v = s.wrg.dirMb ∧
       bit v 2 = s.wrg.east ∧ bit v 3 = s.wrg.west ∧ s.wrg.dirMb.toNat ≤ 383 ∧ ringFrame s.wrg.dirMb.toNat = false)) = true ∧
    (let s := Demo.member
     decide ((s.wrg.state = 3 ∨ s.wrg.state = 4 ∨ s.wrg.state = 5) ∧ s.wrg.halt = none)) = true ∧
    (let s := Demo.member
     let s := { s with wrg.state := 4, wrg.halt := some (3, 5) }
     decide ((s.wrg.state = 3 ∨ s.wrg.state = 4 ∨ s.wrg.state = 5) ∧ s.wrg.halt.isSome = true)) = true ∧
    (let s := Demo.on
     decide (s.wrg.state ≠ 3 ∧ s.wrg.state ≠ 4 ∧ s.wrg.state ≠ 5)) = true := by decide +kernel

/-- Hypotheses of SegmentsMoveRoundTheCoreRing, clause by clause. -/
theorem witness_SegmentsMoveRoundTheCoreRing :
    (let s := Demo.member
     decide ((s.wrg.state = 3 ∨ s.wrg.state = 4))) = true ∧
    (let s := Demo.member
     let west : Bool := false
     let k : Nat := 6
     let core : CoreId := 15
     let x : Shelf := ⟨Demo.header, 0, 0, false, false, false, none, false, 0, 0, false, [(14, 5)], [], none⟩
     let s := { s with wrg.heldE := some x, wrg.step := 5 }
     let src : Nat := if west = true then (core.val + 1) % 16 else subMod core.val 1 16
     decide ((s.wrg.state = 3 ∨ s.wrg.state = 4) ∧ heldOf s west = some x ∧ 1 ≤ k ∧ k ≤ s.wrg.step.toNat + 1 ∧
       x.landed.contains (core.val, k) = false ∧ x.landed.contains (src, k - 1) = true ∧ Memory.wf s.mem = true)) = true ∧
    (let s := Demo.on
     decide (s.wrg.state ≠ 3 ∧ s.wrg.state ≠ 4)) = true := by decide +kernel

/-- Hypotheses of RingReplacementRestartAndRegions, clause by clause. -/
theorem witness_RingReplacementRestartAndRegions :
    (let s := Demo.member
     let d : RingDir := Demo.dir
     let s := { s with wrg.state := 4, wrg.copyNext := 2, wrg.passEnded := true }
     decide (s.wrg.dir = some d ∧ s.wrg.state = 4 ∧ s.wrg.copying = none ∧ s.wrg.copyNext < d.groups ∧
       groupOver s d s.wrg.copyNext = true)) = true ∧
    (let s := Demo.member
     let d : RingDir := Demo.dir
     let s := { s with wrg.copying := some 0 }
     let g : Nat := 0
     decide (s.wrg.dir = some d ∧ s.wrg.copying = some g)) = true ∧
    (let s := Demo.member
     let d : RingDir := Demo.dir
     let s := { s with wrg.state := 4, wrg.copyNext := 3, wrg.passEnded := true }
     decide (s.wrg.dir = some d ∧ s.wrg.state = 4 ∧ s.wrg.passEnded = true ∧ s.wrg.copying = none ∧ s.wrg.copyNext = d.groups)) = true ∧
    (let s := Demo.restart { Demo.on with wrg.restartZero := true }
     let s := { s with wrg.halt := some (7, 2) }
     let d : RingDir := s.wrg.dir.getD Demo.dir
     let zero : Bool := true
     let r : RingDir := readDir s
     let c : BitVec 4 := 7
     let b : W64 := 2
     decide (s.wrg.dir = some d ∧ s.wrg.restartDue = some zero ∧ s.wrg.state = 5 ∧
       (s.wrg.trail.any fun x ↦ x.fst == s.beat.count) = false ∧ r = readDir s ∧ s.wrg.halt = some (c, b))) = true ∧
    (let s := Demo.restart Demo.on
     let d : RingDir := s.wrg.dir.getD Demo.dir
     let zero : Bool := false
     let r : RingDir := readDir s
     let u : State := noteDir { s with wrg := { s.wrg with restartDue := none } } r
     decide (s.wrg.dir = some d ∧ s.wrg.restartDue = some zero ∧ s.wrg.state = 5 ∧
       (s.wrg.trail.any fun x ↦ x.fst == s.beat.count) = false ∧ r = readDir s ∧ s.wrg.halt = none ∧
       (zero = false → homeBad u = false) ∧ dirOk u r = true ∧ r.nPacked = d.nPacked ∧ r.plan = d.plan ∧ r.groups = d.groups ∧
       zero = false)) = true ∧
    (let s := Demo.restart { Demo.on with wrg.restartZero := true }
     let s := { s with wrg.swap := true }
     let d : RingDir := s.wrg.dir.getD Demo.dir
     let zero : Bool := true
     let r : RingDir := readDir s
     let u : State := noteDir { s with wrg := { s.wrg with restartDue := none } } r
     decide (s.wrg.dir = some d ∧ s.wrg.restartDue = some zero ∧ s.wrg.state = 5 ∧
       (s.wrg.trail.any fun x ↦ x.fst == s.beat.count) = false ∧ r = readDir s ∧ s.wrg.halt = none ∧
       (zero = false → homeBad u = false) ∧ dirOk u r = true ∧ r.nPacked = d.nPacked ∧ r.plan = d.plan ∧ r.groups = d.groups ∧
       zero = true ∧ u.wrg.swap = true)) = true ∧
    (let s := Demo.restart { Demo.on with wrg.restartZero := true }
     let d : RingDir := s.wrg.dir.getD Demo.dir
     let zero : Bool := true
     let r : RingDir := readDir s
     let u : State := noteDir { s with wrg := { s.wrg with restartDue := none } } r
     decide (s.wrg.dir = some d ∧ s.wrg.restartDue = some zero ∧ s.wrg.state = 5 ∧
       (s.wrg.trail.any fun x ↦ x.fst == s.beat.count) = false ∧ r = readDir s ∧ s.wrg.halt = none ∧
       (zero = false → homeBad u = false) ∧ dirOk u r = true ∧ r.nPacked = d.nPacked ∧ r.plan = d.plan ∧ r.groups = d.groups ∧
       zero = true ∧ u.wrg.swap = false ∧ u.wrg.homeUeMarks.contains (lapGroup r 0) = false)) = true ∧
    (let via : Via := .pf
     let s := { Demo.on with wrg.dirMb := 5 }
     let v : W32 := 1
     decide (mayWrite s via = true ∧ s.wrg.state = 0 ∧ bit v 0 ≠ s.wrg.enable ∧ bit v 4 = false ∧ bit v 5 = false ∧ bit v 7 = false ∧
       bits v 19 9 ≤ 383 ∧ ringFrame (bits v 19 9) = false ∧ Memory.wf s.mem = true)) = true ∧
    (let s := Demo.member
     let via : Via := .pf
     decide (mayWrite s via = true)) = true := by decide +kernel

/-- Hypotheses of AluTakesItsFunction, clause by clause. -/
theorem witness_AluTakesItsFunction :
    (let s := Demo.run
     let core : CoreId := 0
     let g : Guard := ⟨0, false⟩
     let f : FieldsR := ⟨0, 0, 0, 0⟩
     decide (issues s core.val g (.alu f) = true) &&
     (let x := getS (coreAt s core.val) f.a
      let y := getS (coreAt s core.val) f.b
      true)) = true := by decide +kernel

/-- Hypotheses of ImmediateAddressAndReadInstructions, clause by clause. -/
theorem witness_ImmediateAddressAndReadInstructions :
    (let s := Demo.run
     let core : CoreId := 0
     let g : Guard := ⟨0, false⟩
     let f : FieldsI := ⟨0, 0, 0, 0⟩
     let v : W64 := 0
     decide (issues s core.val g (.alui f) = true) &&
     (let x := getS (coreAt s core.val) f.a
      decide ((f.fn.toNat = 0 ∧ v = x + f.imm.signExtend 64) ∨ (f.fn.toNat = 1 ∧ v = x &&& f.imm.setWidth 64) ∨
        (f.fn.toNat = 2 ∧ v = x ||| f.imm.setWidth 64) ∨ (f.fn.toNat = 3 ∧ v = x ^^^ f.imm.setWidth 64) ∨ (f.fn.toNat = 4 ∧
        v = x <<< f.imm.toNat) ∨ (f.fn.toNat = 5 ∧ v = x >>> f.imm.toNat) ∨ (f.fn.toNat = 6 ∧ v = x.sshiftRight f.imm.toNat) ∨
        (f.fn.toNat = 7 ∧ v = f.imm.signExtend 64) ∨ (f.fn.toNat = 8 ∧ v = f.imm ++ x.extractLsb' 0 32)))) = true ∧
    (let s := Demo.run
     let core : CoreId := 0
     let g : Guard := ⟨0, false⟩
     let f : FieldsI := ⟨9, 9, 9, 0⟩
     decide (issues s core.val g (.alui f) = true) &&
     (let x := getS (coreAt s core.val) f.a
      decide (f.fn.toNat = 9))) = true ∧
    (let s := Demo.run
     let core : CoreId := 0
     let g : Guard := ⟨0, false⟩
     let f : FieldsI := ⟨0, 0, 0, 0⟩
     decide (issues s core.val g (.aop f) = true ∧ f.fn.toNat = 0)) = true ∧
    (let s := Demo.run
     let core : CoreId := 0
     let g : Guard := ⟨0, false⟩
     let f : FieldsI := ⟨1, 1, 1, 0⟩
     decide (issues s core.val g (.aop f) = true ∧ f.fn.toNat = 1)) = true ∧
    (let s := Demo.run
     let core : CoreId := 0
     let g : Guard := ⟨0, false⟩
     let f : FieldsI := ⟨2, 2, 2, 0⟩
     decide (issues s core.val g (.aop f) = true ∧ f.fn.toNat = 2)) = true ∧
    (let s := Demo.run
     let core : CoreId := 0
     let g : Guard := ⟨0, false⟩
     let f : FieldsI := ⟨3, 0, 3, 8⟩
     decide (issues s core.val g (.aop f) = true ∧ f.fn.toNat = 3)) = true ∧
    (let s := Demo.run
     let core : CoreId := 0
     let g : Guard := ⟨0, false⟩
     let f : FieldsI := ⟨0, 0, 0, 0⟩
     decide (issues s core.val g (.rdc f) = true)) = true := by decide +kernel

/-- Hypotheses of ComparisonsWriteOnePredicate, clause by clause. -/
theorem witness_ComparisonsWriteOnePredicate :
    (let s := Demo.run
     let core : CoreId := 0
     let g : Guard := ⟨0, false⟩
     let f : FieldsR := ⟨0, 0, 0, 0⟩
     decide (issues s core.val g (.cmp f) = true)) = true ∧
    (let s := Demo.run
     let core : CoreId := 0
     let g : Guard := ⟨0, false⟩
     let h : FieldsI := ⟨0, 0, 0, 0⟩
     decide (issues s core.val g (.cmpi h) = true)) = true ∧
    (let s := Demo.run
     let core : CoreId := 0
     let g : Guard := ⟨0, false⟩
     let f : FieldsR := ⟨0, 0, 0, 0⟩
     decide (issues s core.val g (.plog f) = true)) = true ∧
    (let s := Demo.run
     let core : CoreId := 0
     let g : Guard := ⟨0, false⟩
     let f : FieldsR := ⟨0, 0, 0, 0⟩
     decide (issues s core.val g (.tdchk f) = true)) = true := by decide +kernel

/-- Hypotheses of LoadsReturnLaterAndStoresArePosted, clause by clause. -/
theorem witness_LoadsReturnLaterAndStoresArePosted :
    (let s := Demo.run
     let core : CoreId := 0
     let g : Guard := ⟨0, false⟩
     let f : FieldsI := ⟨3, 3, 0, 0x2000⟩
     let t : Nat := (coreAt s core.val).ctx.toNat
     let k : Nat := if f.fn = 0 then 8 else 4
     let f := { f with imm := 0x17FFFFFF }
     let a : Nat := (getA (coreAt s core.val) f.a + f.imm).toNat
     decide (t = (coreAt s core.val).ctx.toNat ∧ a = BitVec.toNat (getA (coreAt s core.val) f.a + f.imm) ∧
       k = (if f.fn = 0 then 8 else 4) ∧ issues s core.val g (Isa.ld f) = true ∧ a % k ≠ 0)) = true ∧
    (let s := Demo.run
     let core : CoreId := 0
     let g : Guard := ⟨0, false⟩
     let f : FieldsI := ⟨3, 3, 0, 0x2000⟩
     let t : Nat := (coreAt s core.val).ctx.toNat
     let a : Nat := (getA (coreAt s core.val) f.a + f.imm).toNat
     let k : Nat := if f.fn = 0 then 8 else 4
     let s := { s with fills := [0] }
     decide (t = (coreAt s core.val).ctx.toNat ∧ a = BitVec.toNat (getA (coreAt s core.val) f.a + f.imm) ∧
       k = (if f.fn = 0 then 8 else 4) ∧ issues s core.val g (Isa.ld f) = true ∧ a % k = 0 ∧
       firstBad s a k (readableKind t) = none ∧ filling s a k = true)) = true ∧
    (let s := Demo.run
     let core : CoreId := 0
     let g : Guard := ⟨0, false⟩
     let f : FieldsI := ⟨3, 3, 0, 0x2000⟩
     let t : Nat := (coreAt s core.val).ctx.toNat
     let a : Nat := (getA (coreAt s core.val) f.a + f.imm).toNat
     let k : Nat := if f.fn = 0 then 8 else 4
     decide (t = (coreAt s core.val).ctx.toNat ∧ a = BitVec.toNat (getA (coreAt s core.val) f.a + f.imm) ∧
       k = (if f.fn = 0 then 8 else 4) ∧ issues s core.val g (Isa.ld f) = true ∧ a % k = 0 ∧
       firstBad s a k (readableKind t) = none ∧ filling s a k = false ∧
       ringView s a k = { window := false, poison := false, keys := [] } ∧ cpUe s core.val a k = none)) = true ∧
    (let s := Demo.run
     let core : CoreId := 0
     let g : Guard := ⟨0, false⟩
     let f : FieldsI := ⟨3, 3, 0, 0x2000⟩
     let t : Nat := (coreAt s core.val).ctx.toNat
     let k : Nat := if f.fn = 0 then 8 else 4
     let f := { f with imm := 0x17FFFFF8 }
     let a : Nat := (getA (coreAt s core.val) f.a + f.imm).toNat
     let e : Nat × Nat × W32 := match (cpRead s core.val a k).2 with | .error e => e | _ => (0, 0, 0)
     decide (t = (coreAt s core.val).ctx.toNat ∧ a = BitVec.toNat (getA (coreAt s core.val) f.a + f.imm) ∧
       k = (if f.fn = 0 then 8 else 4) ∧ issues s core.val g (Isa.ld f) = true ∧ a % k = 0 ∧ cpWaits s core.val a k = false ∧
       (match cpRead s core.val a k with | (_, .error y) => decide (y = e) | _ => false) = true)) = true ∧
    (let s := Demo.run
     let core : CoreId := 0
     let g : Guard := ⟨0, false⟩
     let f : FieldsI := ⟨3, 3, 0, 0x2000⟩
     let t : Nat := (coreAt s core.val).ctx.toNat
     let k : Nat := if f.fn = 0 then 8 else 4
     let f := { f with imm := 0x18000000 }
     let a : Nat := (getA (coreAt s core.val) f.a + f.imm).toNat
     decide (t = (coreAt s core.val).ctx.toNat ∧ a = BitVec.toNat (getA (coreAt s core.val) f.a + f.imm) ∧
       k = (if f.fn = 0 then 8 else 4) ∧ issues s core.val g (Isa.ld f) = true ∧ a % k = 0 ∧
       (firstBad s a k (readableKind t)).isSome = true)) = true ∧
    (let s := Demo.run
     let core : CoreId := 0
     let g : Guard := ⟨0, false⟩
     let f : FieldsI := ⟨3, 3, 0, 0x2000⟩
     let t : Nat := (coreAt s core.val).ctx.toNat
     let k : Nat := if f.fn = 0 then 8 else 4
     let f := { f with imm := 4 }
     let a : Nat := (getA (coreAt s core.val) f.a + f.imm).toNat
     decide (t = (coreAt s core.val).ctx.toNat ∧ a = BitVec.toNat (getA (coreAt s core.val) f.a + f.imm) ∧
       k = (if f.fn = 0 then 8 else 4) ∧ issues s core.val g (Isa.st f) = true ∧ a % k ≠ 0)) = true ∧
    (let s := Demo.run
     let core : CoreId := 0
     let g : Guard := ⟨0, false⟩
     let f : FieldsI := ⟨3, 3, 0, 0x2000⟩
     let t : Nat := (coreAt s core.val).ctx.toNat
     let k : Nat := if f.fn = 0 then 8 else 4
     let f := { f with imm := 0x17FFFFF8 }
     let a : Nat := (getA (coreAt s core.val) f.a + f.imm).toNat
     decide (t = (coreAt s core.val).ctx.toNat ∧ a = BitVec.toNat (getA (coreAt s core.val) f.a + f.imm) ∧
       k = (if f.fn = 0 then 8 else 4) ∧ issues s core.val g (Isa.st f) = true ∧ a % k = 0 ∧ cpStoreBad s core.val a k = true)) = true ∧
    (let s := Demo.run
     let core : CoreId := 0
     let g : Guard := ⟨0, false⟩
     let f : FieldsI := ⟨3, 3, 0, 0x2000⟩
     let t : Nat := (coreAt s core.val).ctx.toNat
     let k : Nat := if f.fn = 0 then 8 else 4
     let f := { f with imm := 0 }
     let a : Nat := (getA (coreAt s core.val) f.a + f.imm).toNat
     decide (t = (coreAt s core.val).ctx.toNat ∧ a = BitVec.toNat (getA (coreAt s core.val) f.a + f.imm) ∧
       k = (if f.fn = 0 then 8 else 4) ∧ issues s core.val g (Isa.st f) = true ∧ a % k = 0 ∧ cpStoreBad s core.val a k = false)) = true ∧
    (let s := Demo.run
     let core : CoreId := 0
     let f : FieldsI := ⟨3, 3, 0, 0x2000⟩
     let t : Nat := (coreAt s core.val).ctx.toNat
     let a : Nat := (getA (coreAt s core.val) f.a + f.imm).toNat
     let k : Nat := if f.fn = 0 then 8 else 4
     let r : Ret := ⟨true, false, 3, 5⟩
     let rest : List Ret := []
     let s := modCore s 0 fun c => { c with rets := [r] }
     decide (t = (coreAt s core.val).ctx.toNat ∧ a = BitVec.toNat (getA (coreAt s core.val) f.a + f.imm) ∧
       k = (if f.fn = 0 then 8 else 4) ∧ (coreAt s core.val).rets = r :: rest ∧ r.isLoad = true)) = true ∧
    (let s := Demo.run
     let core : CoreId := 0
     let f : FieldsI := ⟨3, 3, 0, 0x2000⟩
     let t : Nat := (coreAt s core.val).ctx.toNat
     let a : Nat := (getA (coreAt s core.val) f.a + f.imm).toNat
     let k : Nat := if f.fn = 0 then 8 else 4
     let r : Ret := ⟨false, false, 3, 5⟩
     let rest : List Ret := []
     let s := modCore s 0 fun c => { c with rets := [r] }
     decide (t = (coreAt s core.val).ctx.toNat ∧ a = BitVec.toNat (getA (coreAt s core.val) f.a + f.imm) ∧
       k = (if f.fn = 0 then 8 else 4) ∧ (coreAt s core.val).rets = r :: rest ∧ r.isLoad = false)) = true ∧
    (let s := Demo.run
     let core : CoreId := 0
     let f : FieldsI := ⟨3, 3, 0, 0x2000⟩
     let t : Nat := (coreAt s core.val).ctx.toNat
     let a : Nat := (getA (coreAt s core.val) f.a + f.imm).toNat
     let k : Nat := if f.fn = 0 then 8 else 4
     decide (t = (coreAt s core.val).ctx.toNat ∧ a = BitVec.toNat (getA (coreAt s core.val) f.a + f.imm) ∧
       k = (if f.fn = 0 then 8 else 4) ∧ (coreAt s core.val).rets = [] ∧ (coreAt s core.val).stores = [])) = true ∧
    (let s := Demo.run
     let core : CoreId := 0
     let f : FieldsI := ⟨3, 3, 0, 0x2000⟩
     let t : Nat := (coreAt s core.val).ctx.toNat
     let a : Nat := (getA (coreAt s core.val) f.a + f.imm).toNat
     let k : Nat := if f.fn = 0 then 8 else 4
     let v : W64 := 5
     let rest : List (Nat × Nat × W64) := []
     let s := { modCore s 0 (fun c => { c with stores := [(0x2000, 8, 5)] }) with fills := [0] }
     decide (t = (coreAt s core.val).ctx.toNat ∧ a = BitVec.toNat (getA (coreAt s core.val) f.a + f.imm) ∧
       k = (if f.fn = 0 then 8 else 4) ∧ (coreAt s core.val).stores = (a, k, v) :: rest ∧ a % k = 0 ∧ filling s a k = true)) = true ∧
    (let s := Demo.run
     let core : CoreId := 0
     let f : FieldsI := ⟨3, 3, 0, 0x2000⟩
     let t : Nat := (coreAt s core.val).ctx.toNat
     let f := { f with fn := 1 }
     let a : Nat := 0x2000
     let k : Nat := if f.fn = 0 then 8 else 4
     let v : W64 := 5
     let rest : List (Nat × Nat × W64) := []
     let s := modCore s 0 fun c => { c with stores := [(0x2000, 4, 5)] }
     decide (t = (coreAt s core.val).ctx.toNat ∧ a = BitVec.toNat (getA (coreAt s core.val) f.a + f.imm) ∧
       k = (if f.fn = 0 then 8 else 4) ∧ (coreAt s core.val).stores = (a, k, v) :: rest ∧ a % k = 0 ∧ filling s a k = false ∧
       (k = 4 → s.ue.contains (a / 8) = false))) = true := by decide +kernel

/-- Hypotheses of ControlFlowInstructions, clause by clause. -/
theorem witness_ControlFlowInstructions :
    (let s := Demo.run
     let core : CoreId := 0
     let g : Guard := ⟨0, false⟩
     let f : FieldsJ := ⟨0, 0⟩
     decide (issues s core.val g (.j f) = true)) = true ∧
    (let s := Demo.run
     let core : CoreId := 0
     let g : Guard := ⟨0, false⟩
     let f : FieldsJ := ⟨0, 0⟩
     decide (issues s core.val g (.jal f) = true)) = true ∧
    (let s := Demo.run
     let core : CoreId := 0
     let g : Guard := ⟨0, false⟩
     let h : FieldsI := ⟨3, 3, 0, 4⟩
     decide (issues s core.val g (.jalr h) = true ∧ (getA (coreAt s core.val) h.a + h.imm).toNat % 8 ≠ 0)) = true ∧
    (let s := Demo.run
     let core : CoreId := 0
     let g : Guard := ⟨0, false⟩
     let h : FieldsI := ⟨0, 0, 0, 0⟩
     decide (issues s core.val g (.jalr h) = true ∧ (getA (coreAt s core.val) h.a + h.imm).toNat % 8 = 0)) = true ∧
    (let s := Demo.run
     let core : CoreId := 0
     let g : Guard := ⟨0, false⟩
     let f : FieldsJ := ⟨0, 0⟩
     decide (issues s core.val g (.djnz f) = true)) = true ∧
    (let s := Demo.run
     let core : CoreId := 0
     let g : Guard := ⟨0, false⟩
     decide (issues s core.val g .endp = true)) = true ∧
    (let s := Demo.run
     let core : CoreId := 0
     let g : Guard := ⟨0, false⟩
     decide (issues s core.val g .nop = true)) = true ∧
    (let s := Demo.run
     let core : CoreId := 0
     let g : Guard := ⟨0, false⟩
     let x : FieldsSG := ⟨0, 0⟩
     decide (issues s core.val g (.signal x) = true)) = true := by decide +kernel

/-- Hypotheses of WaitsHoldIssueUntilTheirCondition, clause by clause. -/
theorem witness_WaitsHoldIssueUntilTheirCondition :
    (let s := Demo.run
     let core : CoreId := 0
     let g : Guard := ⟨0, false⟩
     let f : FieldsWC := ⟨5, 1, false, false, 0, 0⟩
     decide (issues s core.val g (Isa.waitc f) = true ∧ f.place ≠ 0)) = true ∧
    (let s := Demo.run
     let core : CoreId := 0
     let g : Guard := ⟨0, false⟩
     let f : FieldsWC := ⟨0, 255, false, false, 0, 0⟩
     let s := modCore s 0 fun c => { c with counters := Vector.replicate 256 ⟨0, true, true⟩ }
     let k : Counter := counterAt s core.val (BitVec.toNat f.ctr)
     decide (issues s core.val g (Isa.waitc f) = true ∧ f.place = 0 ∧ k.upset = true)) = true ∧
    (let s := Demo.run
     let core : CoreId := 0
     let g : Guard := ⟨0, false⟩
     let f : FieldsWC := ⟨0, 255, false, false, 0, 0⟩
     let s := modCore s 0 fun c => { c with counters := Vector.replicate 256 ⟨0, false, false⟩ }
     let k : Counter := counterAt s core.val (BitVec.toNat f.ctr)
     decide (issues s core.val g (Isa.waitc f) = true ∧ f.place = 0 ∧ k.upset = false ∧ k.valid = false)) = true ∧
    (let s := Demo.run
     let core : CoreId := 0
     let g : Guard := ⟨0, false⟩
     let f : FieldsWC := ⟨0, 255, false, false, 0, 0⟩
     let k : Counter := counterAt s core.val (BitVec.toNat f.ctr)
     decide (issues s core.val g (Isa.waitc f) = true ∧ f.place = 0 ∧ k.upset = false ∧ k.valid = true)) = true ∧
    (let s := Demo.run
     let core : CoreId := 0
     let g : Guard := ⟨0, false⟩
     let b : FieldsWB := ⟨0, 2, 0⟩
     let s := { s with wrg.posValid := false }
     decide (issues s core.val g (Isa.waitb b) = true ∧ (formed s = false ∨ b.mode = 2 ∧ s.wrg.posValid = false))) = true ∧
    (let s := Demo.run
     let core : CoreId := 0
     let g : Guard := ⟨0, false⟩
     let b : FieldsWB := ⟨0, 0, 0⟩
     decide (issues s core.val g (Isa.waitb b) = true ∧ formed s = true ∧ b.place = 0 ∧ b.mode = 0)) = true ∧
    (let s := Demo.run
     let core : CoreId := 0
     let g : Guard := ⟨0, false⟩
     let b : FieldsWB := ⟨0, 1, 0⟩
     decide (issues s core.val g (Isa.waitb b) = true ∧ formed s = true ∧ b.place = 0 ∧ b.mode = 1)) = true ∧
    (let s := Demo.run
     let core : CoreId := 0
     let g : Guard := ⟨0, false⟩
     let b : FieldsWB := ⟨0, 2, 0⟩
     decide (issues s core.val g (Isa.waitb b) = true ∧ formed s = true ∧ b.place = 0 ∧ b.mode = 2 ∧ s.wrg.posValid = true)) = true ∧
    (let s := Demo.run
     let core : CoreId := 0
     let g : Guard := ⟨0, false⟩
     let b : FieldsWB := ⟨5, 2, 0⟩
     decide (issues s core.val g (Isa.waitb b) = true ∧ formed s = true ∧ b.place ≠ 0 ∧ (b.mode = 2 → s.wrg.posValid = true))) = true ∧
    (let s := Demo.run
     let core : CoreId := 0
     let g : Guard := ⟨0, false⟩
     let m : Byte := 0
     decide (issues s core.val g (Isa.fence m) = true)) = true ∧
    (let s := Demo.run
     let core : CoreId := 0
     let ctr : Byte := 255
     let eq : Bool := false
     let v : W32 := 0
     let s := modCore s 0 fun c => { c with wait := .waitc ctr eq v }
     decide ((coreAt s core.val).wait = CpWait.waitc ctr eq v ∧ (counterAt s core.val (BitVec.toNat ctr)).upset = false ∧
       (counterAt s core.val (BitVec.toNat ctr)).valid = true ∧
       waitcHolds (counterAt s core.val (BitVec.toNat ctr)).value eq v = true)) = true ∧
    (let s := Demo.run
     let core : CoreId := 0
     let ctr : Byte := 255
     let eq : Bool := false
     let v : W32 := 1
     let s := modCore s 0 fun c => { c with wait := .waitc ctr eq v }
     decide ((coreAt s core.val).wait = CpWait.waitc ctr eq v ∧ (counterAt s core.val (BitVec.toNat ctr)).upset = false ∧
       (counterAt s core.val (BitVec.toNat ctr)).valid = true ∧
       waitcHolds (counterAt s core.val (BitVec.toNat ctr)).value eq v = false)) = true ∧
    (let s := Demo.run
     let core : CoreId := 0
     let mode : Nat := 1
     let v : W64 := 0
     let at' : W64 := 0
     let s := modCore s 0 fun c => { c with wait := .waitb mode v at' }
     decide ((coreAt s core.val).wait = CpWait.waitb mode v at' ∧ waitbHolds s mode v at' = true)) = true ∧
    (let s := Demo.run
     let core : CoreId := 0
     let mode : Nat := 1
     let v : W64 := 6
     let at' : W64 := 0
     let s := modCore s 0 fun c => { c with wait := .waitb mode v at' }
     decide ((coreAt s core.val).wait = CpWait.waitb mode v at' ∧ waitbHolds s mode v at' = false)) = true ∧
    (let s := Demo.run
     let core : CoreId := 0
     let u : Fin 6 := 5
     let ctr : Byte := 255
     let eq : Bool := true
     let v : W32 := 0
     let e : QEntry := mkEntry 0 (.waitc ctr eq v)
     let rest : List QEntry := []
     let s := modCore s 0 fun c => enqUnit { c with pc := 0 } 5 (.waitc ctr eq v)
     decide (((coreAt s core.val).units.toList.getD u.val CUnit.empty).queue = e :: rest ∧
       offline (coreAt s core.val) u.val = false ∧ e.work = QWork.waitc ctr eq v ∧
       (counterAt s core.val (BitVec.toNat ctr)).upset = false ∧ (counterAt s core.val (BitVec.toNat ctr)).valid = true ∧
       waitcHolds (counterAt s core.val (BitVec.toNat ctr)).value eq v = true)) = true ∧
    (let s := Demo.run
     let core : CoreId := 0
     let u : Fin 6 := 0
     let mode : Nat := 1
     let v : W64 := 0
     let at' : W64 := 0
     let e : QEntry := mkEntry 0 (.waitb mode v at')
     let rest : List QEntry := []
     let s := modCore s 0 fun c => enqUnit { c with pc := 0 } 0 (.waitb mode v at')
     decide (((coreAt s core.val).units.toList.getD u.val CUnit.empty).queue = e :: rest ∧
       offline (coreAt s core.val) u.val = false ∧ e.work = QWork.waitb mode v at' ∧ waitbHolds s mode v at' = true)) = true ∧
    (let s := Demo.run
     let core : CoreId := 0
     let m : Byte := 255
     let s := modCore s 0 fun c => { c with wait := .fence m }
     decide ((coreAt s core.val).wait = CpWait.fence m ∧ fenceHolds (coreAt s core.val) m = true ∧
       (coreAt s core.val).wait ≠ CpWait.none)) = true := by decide +kernel

/-- Hypotheses of CounterInstructions, clause by clause. -/
theorem witness_CounterInstructions :
    (let s := Demo.run
     let core : CoreId := 0
     let g : Guard := ⟨0, false⟩
     let f : FieldsCT := ⟨0, 0, 254⟩
     let n : Nat := core.val
     decide (issues s n g (Isa.cset f) = true ∧ s.wrg.enable = true ∧ 254 ≤ BitVec.toNat f.ctr)) = true ∧
    (let s := Demo.run
     let core : CoreId := 0
     let g : Guard := ⟨0, false⟩
     let f : FieldsCT := ⟨0, 0, 253⟩
     let n : Nat := core.val
     decide (issues s n g (Isa.cset f) = true ∧ ¬(s.wrg.enable = true ∧ 254 ≤ BitVec.toNat f.ctr))) = true ∧
    (let s := Demo.run
     let core : CoreId := 0
     let g : Guard := ⟨0, false⟩
     let f : FieldsCT := ⟨0, 0, 254⟩
     let n : Nat := core.val
     let k : Counter := counterAt s n (BitVec.toNat f.ctr)
     decide (issues s n g (Isa.cadd f) = true ∧ k.upset = false ∧ (s.wrg.enable = true ∧ 254 ≤ BitVec.toNat f.ctr ∨ k.valid = false))) = true ∧
    (let s := Demo.run
     let core : CoreId := 0
     let g : Guard := ⟨0, false⟩
     let f : FieldsCT := ⟨0, 0, 254⟩
     let s := modCore s 0 fun c => { c with counters := Vector.replicate 256 ⟨0, true, true⟩ }
     let n : Nat := core.val
     let k : Counter := counterAt s n (BitVec.toNat f.ctr)
     decide (issues s n g (Isa.cadd f) = true ∧ k.upset = true)) = true ∧
    (let s := Demo.run
     let core : CoreId := 0
     let g : Guard := ⟨0, false⟩
     let f : FieldsCT := ⟨0, 0, 253⟩
     let n : Nat := core.val
     let k : Counter := counterAt s n (BitVec.toNat f.ctr)
     decide (issues s n g (Isa.cadd f) = true ∧ k.upset = false ∧ ¬(s.wrg.enable = true ∧ 254 ≤ BitVec.toNat f.ctr) ∧ k.valid = true)) = true ∧
    (let s := Demo.run
     let core : CoreId := 0
     let g : Guard := ⟨0, false⟩
     let f : FieldsCT := ⟨0, 0, 254⟩
     let n : Nat := core.val
     let k : Counter := counterAt s n (BitVec.toNat f.ctr)
     decide (issues s n g (Isa.cread f) = true ∧ k.upset = false ∧ k.valid = true)) = true ∧
    (let s := Demo.run
     let core : CoreId := 0
     let g : Guard := ⟨0, false⟩
     let f : FieldsCT := ⟨0, 0, 254⟩
     let s := modCore s 0 fun c => { c with counters := Vector.replicate 256 ⟨0, false, false⟩ }
     let n : Nat := core.val
     let k : Counter := counterAt s n (BitVec.toNat f.ctr)
     decide (issues s n g (Isa.cread f) = true ∧ k.upset = false ∧ k.valid = false)) = true ∧
    (let s := Demo.run
     let core : CoreId := 0
     let g : Guard := ⟨0, false⟩
     let f : FieldsCT := ⟨0, 0, 254⟩
     let parity : Bool := true
     let n : Nat := core.val
     let k : Counter := counterAt s n (BitVec.toNat f.ctr)
     decide (issues s n g (Isa.cread f) = true ∧ (k.upset = true ∨ parity = true))) = true := by decide +kernel

/-- Hypotheses of DescriptorAndTransferInstructions, clause by clause. -/
theorem witness_DescriptorAndTransferInstructions :
    (let s := Demo.run
     let core : CoreId := 0
     let g : Guard := ⟨0, false⟩
     let f : FieldsI := ⟨3, 3, 0, 32⟩
     let a := getA (coreAt s core.val) f.a + f.imm
     decide (issues s core.val g (.tdld f) = true ∧ a.toNat % 64 ≠ 0)) = true ∧
    (let s := Demo.run
     let core : CoreId := 0
     let g : Guard := ⟨0, false⟩
     let f : FieldsI := ⟨3, 3, 0, 32⟩
     let a := getA (coreAt s core.val) f.a + f.imm
     decide (issues s core.val g (.tdst f) = true ∧ a.toNat % 64 ≠ 0)) = true ∧
    (let s := Demo.run
     let core : CoreId := 0
     let g : Guard := ⟨0, false⟩
     let f : FieldsI := ⟨3, 3, 0, 0x17FFFFC0⟩
     let a := getA (coreAt s core.val) f.a + f.imm
     decide (issues s core.val g (.tdst f) = true ∧ a.toNat % 64 = 0 ∧ cpStoreBad s core.val a.toNat 64 = true)) = true ∧
    (let s := Demo.run
     let core : CoreId := 0
     let g : Guard := ⟨0, false⟩
     let f : FieldsI := ⟨0, 0, 0, 0⟩
     let a := getA (coreAt s core.val) f.a + f.imm
     decide (issues s core.val g (.tdst f) = true ∧ a.toNat % 64 = 0 ∧ cpStoreBad s core.val a.toNat 64 = false)) = true ∧
    (let s := Demo.run
     let core : CoreId := 0
     let g : Guard := ⟨0, false⟩
     let f : FieldsI := ⟨3, 3, 0, 4⟩
     let a := getA (coreAt s core.val) f.a + f.imm
     decide (issues s core.val g (.tdbase f) = true ∧ a.toNat % 8 ≠ 0)) = true ∧
    (let s := Demo.run
     let core : CoreId := 0
     let g : Guard := ⟨0, false⟩
     let f : FieldsI := ⟨3, 3, 0, 8⟩
     let s := modCore s 0 fun c => { c with td := Vector.replicate 32 none }
     let a := getA (coreAt s core.val) f.a + f.imm
     decide (issues s core.val g (.tdbase f) = true ∧ a.toNat % 8 = 0 ∧ getTd (coreAt s core.val) f.d = none)) = true ∧
    (let s := Demo.run
     let core : CoreId := 0
     let g : Guard := ⟨0, false⟩
     let f : FieldsI := ⟨3, 3, 0, 8⟩
     let s := modCore s 0 fun c => { c with td := Vector.replicate 32 (some { Demo.td with view := true }) }
     let a := getA (coreAt s core.val) f.a + f.imm
     decide (issues s core.val g (.tdbase f) = true ∧ a.toNat % 8 = 0) &&
     (match getTd (coreAt s core.val) f.d with
      | some td =>
         decide (td.view = true ∧ a.toNat % tileBytes td.width ≠ 0)
      | _ => false)) = true ∧
    (let s := Demo.run
     let core : CoreId := 0
     let g : Guard := ⟨0, false⟩
     let f : FieldsI := ⟨0, 0, 0, 0⟩
     let a := getA (coreAt s core.val) f.a + f.imm
     decide (issues s core.val g (.tdbase f) = true ∧ a.toNat % 8 = 0) &&
     (match getTd (coreAt s core.val) f.d with
      | some td =>
         decide ((td.view = true → a.toNat % tileBytes td.width = 0))
      | _ => false)) = true ∧
    (let s := Demo.run
     let core : CoreId := 0
     let g : Guard := ⟨0, false⟩
     let f : FieldsMV := ⟨0, 3, false, 0, 8⟩
     decide (issues s core.val g (.move f) = true) &&
     (let a := getA (coreAt s core.val) f.a + f.imm
      decide (a.toNat % 32 ≠ 0))) = true ∧
    (let s := Demo.run
     let core : CoreId := 0
     let g : Guard := ⟨0, false⟩
     let p : FieldsPT := ⟨0, 3, 3, false, 0⟩
     let s := modCore s 0 fun c => { c with a := Vector.replicate 16 4, s := Vector.replicate 32 0 }
     decide (issues s core.val g (.put p) = true) &&
     (let a := getA (coreAt s core.val) p.a
      let b := getS (coreAt s core.val) p.b
      decide (a.toNat % 8 ≠ 0))) = true ∧
    (let s := Demo.run
     let core : CoreId := 0
     let g : Guard := ⟨0, false⟩
     let p : FieldsPT := ⟨0, 3, 3, false, 0⟩
     let s := modCore s 0 fun c => { c with a := Vector.replicate 16 0x18000000, s := Vector.replicate 32 0 }
     decide (issues s core.val g (.put p) = true) &&
     (let a := getA (coreAt s core.val) p.a
      let b := getS (coreAt s core.val) p.b
      decide (a.toNat % 8 = 0 ∧ chipBytes ≤ a.toNat))) = true ∧
    (let s := Demo.run
     let core : CoreId := 0
     let g : Guard := ⟨0, false⟩
     let p : FieldsPT := ⟨0, 0, 0, false, 0⟩
     decide (issues s core.val g (.put p) = true) &&
     (let a := getA (coreAt s core.val) p.a
      let b := getS (coreAt s core.val) p.b
      decide (a.toNat % 8 = 0 ∧ a.toNat < chipBytes ∧ b.toNat = ownCoord s ∧ cpStoreBad s core.val a.toNat 8 = false))) = true ∧
    (let s := Demo.run
     let core : CoreId := 0
     let g : Guard := ⟨0, false⟩
     let p : FieldsPT := ⟨0, 3, 3, false, 0⟩
     let s := modCore s 0 fun c => { c with a := Vector.replicate 16 0, s := Vector.replicate 32 32768 }
     decide (issues s core.val g (.put p) = true) &&
     (let a := getA (coreAt s core.val) p.a
      let b := getS (coreAt s core.val) p.b
      decide (a.toNat % 8 = 0 ∧ a.toNat < chipBytes ∧ 32768 ≤ b.toNat))) = true ∧
    (let s := Demo.run
     let core : CoreId := 0
     let g : Guard := ⟨0, false⟩
     let p : FieldsPT := ⟨0, 3, 3, false, 0⟩
     let s := modCore s 0 fun c => { c with a := Vector.replicate 16 0, s := Vector.replicate 32 32767 }
     decide (issues s core.val g (.put p) = true) &&
     (let a := getA (coreAt s core.val) p.a
      let b := getS (coreAt s core.val) p.b
      decide (a.toNat % 8 = 0 ∧ a.toNat < chipBytes ∧ b.toNat < 32768 ∧ b.toNat ≠ ownCoord s ∧ memberCoord s b.toNat = false))) = true ∧
    (let s := Demo.run
     let core : CoreId := 0
     let g : Guard := ⟨0, false⟩
     let p : FieldsPT := ⟨0, 3, 3, false, 0⟩
     let s := modCore s 0 fun c => { c with a := Vector.replicate 16 0, s := Vector.replicate 32 512 }
     decide (issues s core.val g (.put p) = true) &&
     (let a := getA (coreAt s core.val) p.a
      let b := getS (coreAt s core.val) p.b
      decide (a.toNat % 8 = 0 ∧ a.toNat < chipBytes ∧ b.toNat < 32768 ∧ b.toNat ≠ ownCoord s ∧ memberCoord s b.toNat = true))) = true ∧
    (let s := Demo.run
     let core : CoreId := 0
     let g : Guard := ⟨0, false⟩
     let f : FieldsI := ⟨3, 3, 0, 0x2000⟩
     let a : W32 := 0x2000
     let s := { s with fills := [0] }
     decide (a = getA (coreAt s core.val) f.a + f.imm ∧ issues s core.val g (Isa.tdld f) = true ∧ BitVec.toNat a % 64 = 0 ∧
       cpWaits s core.val (BitVec.toNat a) 64 = true)) = true ∧
    (let s := Demo.run
     let core : CoreId := 0
     let g : Guard := ⟨0, false⟩
     let f : FieldsI := ⟨3, 3, 0, 0x2000⟩
     let a : W32 := 0x2000
     let s := { s with mem := writeBytes [] 0x2000 (List.replicate 64 1) }
     let bs : List Byte := List.replicate 64 1
     decide (a = getA (coreAt s core.val) f.a + f.imm ∧ issues s core.val g (Isa.tdld f) = true ∧ BitVec.toNat a % 64 = 0 ∧
       cpWaits s core.val (BitVec.toNat a) 64 = false ∧
       (match cpRead s core.val (BitVec.toNat a) 64 with | (_, .ok y) => decide (y = bs) | _ => false) = true ∧
       parseTd bs = none)) = true ∧
    (let s := Demo.run
     let core : CoreId := 0
     let g : Guard := ⟨0, false⟩
     let f : FieldsI := ⟨3, 3, 0, 0x2000⟩
     let a : W32 := 0x2000
     let bs : List Byte := tdImage (some Demo.td)
     let s := { s with mem := writeBytes [] 0x2000 bs }
     let td : TD := Demo.td
     decide (a = getA (coreAt s core.val) f.a + f.imm ∧ issues s core.val g (Isa.tdld f) = true ∧ BitVec.toNat a % 64 = 0 ∧
       cpWaits s core.val (BitVec.toNat a) 64 = false ∧
       (match cpRead s core.val (BitVec.toNat a) 64 with | (_, .ok y) => decide (y = bs) | _ => false) = true ∧
       parseTd bs = some td)) = true ∧
    (let s := Demo.run
     let core : CoreId := 0
     let g : Guard := ⟨0, false⟩
     let f : FieldsI := ⟨3, 3, 0, 0x2000⟩
     let f := { f with imm := 0x17FFFFC0 }
     let a : W32 := 0x17FFFFC0
     let e : Nat × Nat × W32 := match (cpRead s core.val a.toNat 64).2 with | .error e => e | _ => (0, 0, 0)
     decide (a = getA (coreAt s core.val) f.a + f.imm ∧ issues s core.val g (Isa.tdld f) = true ∧ BitVec.toNat a % 64 = 0 ∧
       cpWaits s core.val (BitVec.toNat a) 64 = false ∧
       (match cpRead s core.val (BitVec.toNat a) 64 with | (_, .error y) => decide (y = e) | _ => false) = true)) = true ∧
    (let s := Demo.run
     let core : CoreId := 0
     let g : Guard := ⟨0, false⟩
     let a : W32 := 0x2000
     let f : FieldsMV := ⟨4, 3, false, 0, 0x2000⟩
     let s := { s with fills := [0] }
     decide (issues s core.val g (Isa.move f) = true ∧ a = getA (coreAt s core.val) f.a + f.imm ∧ BitVec.toNat a % 32 = 0 ∧
       cpWaits s core.val (BitVec.toNat a) 32 = true)) = true ∧
    (let s := Demo.run
     let core : CoreId := 0
     let g : Guard := ⟨0, false⟩
     let a : W32 := 0x2000
     let f : FieldsMV := ⟨4, 3, false, 0, 0x2000⟩
     let bs : List Byte := List.replicate 32 0
     decide (issues s core.val g (Isa.move f) = true ∧ a = getA (coreAt s core.val) f.a + f.imm ∧ BitVec.toNat a % 32 = 0 ∧
       cpWaits s core.val (BitVec.toNat a) 32 = false ∧
       (match cpRead s core.val (BitVec.toNat a) 32 with | (_, .ok y) => decide (y = bs) | _ => false) = true)) = true ∧
    (let s := Demo.run
     let core : CoreId := 0
     let g : Guard := ⟨0, false⟩
     let f : FieldsMV := ⟨3, 3, false, 0, 0x17FFFFC0⟩
     let a : W32 := 0x17FFFFC0
     let e : Nat × Nat × W32 := match (cpRead s core.val a.toNat 32).2 with | .error e => e | _ => (0, 0, 0)
     decide (issues s core.val g (Isa.move f) = true ∧ a = getA (coreAt s core.val) f.a + f.imm ∧ BitVec.toNat a % 32 = 0 ∧
       cpWaits s core.val (BitVec.toNat a) 32 = false ∧
       (match cpRead s core.val (BitVec.toNat a) 32 with | (_, .error y) => decide (y = e) | _ => false) = true)) = true := by decide +kernel

/-- Hypotheses of QueuedInstructionsEnterTheirUnit, clause by clause. -/
theorem witness_QueuedInstructionsEnterTheirUnit :
    (let s := Demo.run
     let core : CoreId := 0
     let g : Guard := ⟨0, false⟩
     let n : Nat := core.val
     let td : BitVec 5 → Option TD := getTd (coreAt s n)
     let p : (CoreId → Guard → FieldsTM → Instr) × TmOp := (Instr.tmul, TmOp.tmul)
     let f : FieldsTM := ⟨0, 0, 0, 0, 0, 0, 0, false, false, false, false, false, 0, false, 0, false, 0⟩
     let f := { f with aen := true, c := 31 }
     let s := modCore s 0 fun c => { c with td := vmod c.td 31 fun _ => none }
     let td := getTd (coreAt s n)
     let e : Nat × Nat × W32 := (5, 0, 0)
     let l : List (Option TD) := [td f.d, td f.a, td f.b] ++ if f.aen = true then [td f.c] else []
     decide (n = core.val ∧ issues s n g (Isa.tm p.snd f) = true ∧ List.findSome? (tdFault s n) l = some e)) = true ∧
    (let s := Demo.run
     let core : CoreId := 0
     let g : Guard := ⟨0, false⟩
     let n : Nat := core.val
     let td : BitVec 5 → Option TD := getTd (coreAt s n)
     let p : (CoreId → Guard → FieldsTM → Instr) × TmOp := (Instr.tmul, TmOp.tmul)
     let f : FieldsTM := ⟨0, 0, 0, 0, 0, 0, 0, false, false, false, false, false, 0, false, 0, false, 0⟩
     let s := modCore s 0 fun c => { c with td := vmod c.td 31 fun _ => none }
     let td := getTd (coreAt s n)
     let l : List (Option TD) := [td f.d, td f.a, td f.b] ++ if f.aen = true then [td f.c] else []
     decide (n = core.val ∧ issues s n g (Isa.tm p.snd f) = true ∧ (∀ (t : Option TD), t ∈ l → tdFault s n t = none))) = true ∧
    (let s := Demo.run
     let core : CoreId := 0
     let g : Guard := ⟨0, false⟩
     let n : Nat := core.val
     let td : BitVec 5 → Option TD := getTd (coreAt s n)
     let v : FieldsV := ⟨31, 0, 0, 0, 0, 0, 0, false, 0⟩
     let ua : Bool := (vecUses v.fn.toNat).1
     let ub : Bool := (vecUses v.fn.toNat).2.1
     let uc : Bool := (vecUses v.fn.toNat).2.2.1
     let us : Bool := (vecUses v.fn.toNat).2.2.2
     let s := modCore s 0 fun c => { c with td := vmod c.td 31 fun _ => some { Demo.td with ctx := 1 } }
     let td := getTd (coreAt s n)
     let e : Nat × Nat × W32 := (4, 0, 0)
     let l : List (Option TD) := (([td v.d] ++ if ua = true then [td v.a] else []) ++ if ub = true then [td v.b] else []) ++ if uc = true then [td v.c] else []
     decide (n = core.val ∧ issues s n g (Isa.vec v) = true ∧ vecUses v.fn.toNat = (ua, ub, uc, us) ∧
       List.findSome? (tdFault s n) l = some e)) = true ∧
    (let s := Demo.run
     let core : CoreId := 0
     let g : Guard := ⟨0, false⟩
     let n : Nat := core.val
     let td : BitVec 5 → Option TD := getTd (coreAt s n)
     let v : FieldsV := ⟨0, 0, 0, 0, 0, 7, 0, false, 0⟩
     let ua : Bool := (vecUses v.fn.toNat).1
     let ub : Bool := (vecUses v.fn.toNat).2.1
     let uc : Bool := (vecUses v.fn.toNat).2.2.1
     let us : Bool := (vecUses v.fn.toNat).2.2.2
     let s := modCore s 0 fun c => { c with td := vmod c.td 31 fun _ => none }
     let td := getTd (coreAt s n)
     let l : List (Option TD) := (([td v.d] ++ if ua = true then [td v.a] else []) ++ if ub = true then [td v.b] else []) ++ if uc = true then [td v.c] else []
     decide (n = core.val ∧ issues s n g (Isa.vec v) = true ∧ vecUses v.fn.toNat = (ua, ub, uc, us) ∧
       (∀ (t : Option TD), t ∈ l → tdFault s n t = none))) = true ∧
    (let s := Demo.run
     let core : CoreId := 0
     let g : Guard := ⟨0, false⟩
     let n : Nat := core.val
     let td : BitVec 5 → Option TD := getTd (coreAt s n)
     let i : (CoreId → Guard → FieldsCX → Instr) × (FieldsCX → Isa) := (Instr.tmulGather, Isa.gather)
     let f : FieldsCX := ⟨0, 0, 0, 0, 31, 0, 0, 0, false, false, false, 0, false, 0⟩
     let s := modCore s 0 fun c => { c with td := vmod c.td 31 fun _ => none }
     let td := getTd (coreAt s n)
     let e : Nat × Nat × W32 := (5, 0, 0)
     let l : List (Option TD) := ([td f.d, td f.a, td f.b] ++ if f.aen = true then [td f.c] else []) ++ [td f.e]
     decide (n = core.val ∧ issues s n g (i.snd f) = true ∧ List.findSome? (tdFault s n) l = some e)) = true ∧
    (let s := Demo.run
     let core : CoreId := 0
     let g : Guard := ⟨0, false⟩
     let n : Nat := core.val
     let td : BitVec 5 → Option TD := getTd (coreAt s n)
     let i : (CoreId → Guard → FieldsCX → Instr) × (FieldsCX → Isa) := (Instr.tmulScatter, Isa.scatter)
     let f : FieldsCX := ⟨0, 0, 0, 0, 0, 0, 0, 0, false, false, false, 0, false, 0⟩
     let s := modCore s 0 fun c => { c with td := vmod c.td 31 fun _ => none }
     let td := getTd (coreAt s n)
     let l : List (Option TD) := ([td f.d, td f.a, td f.b] ++ if f.aen = true then [td f.c] else []) ++ [td f.e]
     decide (n = core.val ∧ issues s n g (i.snd f) = true ∧ (∀ (t : Option TD), t ∈ l → tdFault s n t = none))) = true ∧
    (let s := Demo.run
     let core : CoreId := 0
     let g : Guard := ⟨0, false⟩
     let n : Nat := core.val
     let td : BitVec 5 → Option TD := getTd (coreAt s n)
     let l : FieldsCL := ⟨0, 31, 0, 0, 0, false, 0⟩
     let s := modCore s 0 fun c => { c with td := vmod c.td 31 fun _ => none }
     let td := getTd (coreAt s n)
     let e : Nat × Nat × W32 := (5, 0, 0)
     decide (n = core.val ∧ issues s n g (Isa.call l) = true ∧ List.findSome? (tdFault s n) [td l.d, td l.a] = some e)) = true ∧
    (let s := Demo.run
     let core : CoreId := 0
     let g : Guard := ⟨0, false⟩
     let n : Nat := core.val
     let td : BitVec 5 → Option TD := getTd (coreAt s n)
     let l : FieldsCL := ⟨0, 0, 0, 0, 0, false, 0⟩
     let p : FieldsCP := ⟨0, 0, 0, 0, 0, false, 0⟩
     decide (n = core.val ∧ issues s n g (Isa.call l) = true ∧ tdFault s n (td l.d) = none ∧ tdFault s n (td l.a) = none ∧
       issues s n g (Isa.cpri p) = true)) = true ∧
    (let s := Demo.run
     let core : CoreId := 0
     let g : Guard := ⟨0, false⟩
     let n : Nat := core.val
     let w : FieldsFL := ⟨1, 1⟩
     decide (n = core.val ∧ issues s n g (Isa.tflg w) = true ∧ w.place ≠ 0)) = true ∧
    (let s := Demo.run
     let core : CoreId := 0
     let g : Guard := ⟨0, false⟩
     let n : Nat := core.val
     let w : FieldsFL := ⟨1, 0⟩
     let s := modCore s 0 fun c => { c with cpriOut := 1 }
     decide (n = core.val ∧ issues s n g (Isa.tflg w) = true ∧ w.place = 0 ∧ (coreAt s n).cpriOut ≠ 0 ∧ (coreAt s n).tflgCp = [])) = true ∧
    (let s := Demo.run
     let core : CoreId := 0
     let g : Guard := ⟨0, false⟩
     let n : Nat := core.val
     let w : FieldsFL := ⟨1, 0⟩
     decide (n = core.val ∧ issues s n g (Isa.tflg w) = true ∧ w.place = 0 ∧ (coreAt s n).cpriOut = 0 ∧ (coreAt s n).tflgCp = [])) = true := by decide +kernel

/-- Hypotheses of IssueFetchesAndJudges, clause by clause. -/
theorem witness_IssueFetchesAndJudges :
    (let s := Demo.run
     let core : CoreId := 0
     let i : Isa := .ill
     let c := coreAt s core.val
     decide (mayIssue c = true ∧ firstBad s c.pc.toNat 8 (writableKind c.ctx.toNat) = none ∧ ueIn s c.pc.toNat 8 = none) &&
     (match fetchWord s core.val with
      | (u, w) =>
         decide (isaDecode w = some i))) = true ∧
    (let s := Demo.run
     let core : CoreId := 0
     let s := { s with mem := writeBytes [] 0x1000 (List.replicate 8 0xFF) }
     let c := coreAt s core.val
     decide (mayIssue c = true ∧ firstBad s c.pc.toNat 8 (writableKind c.ctx.toNat) = none ∧ ueIn s c.pc.toNat 8 = none) &&
     (match fetchWord s core.val with
      | (u, w) =>
         decide (isaDecode w = none))) = true ∧
    (let s := Demo.run
     let core : CoreId := 0
     let s := modCore s core.val fun z => { z with refetch := true }
     let c := coreAt s core.val
     decide (mayIssue c = true ∧ firstBad s c.pc.toNat 8 (writableKind c.ctx.toNat) = none ∧ ueIn s c.pc.toNat 8 = none) &&
     (match fetchWord s core.val with
      | (u, w) =>
         decide (c.refetch = true ∨ readLe c.imem c.pc.toNat 8 = readLe s.mem c.pc.toNat 8))) = true ∧
    (let s := Demo.run
     let core : CoreId := 0
     let i := Isa.nop
     let g : Guard := ⟨1, false⟩
     let c := coreAt s core.val
     decide (mayIssue c = true ∧ legal i = true ∧ bit c.pPend g.p.toNat = false ∧ guardOf c g = false)) = true ∧
    (let s := Demo.run
     let core : CoreId := 0
     let i : Isa := .ill
     let c := coreAt s core.val
     decide (mayIssue c = true ∧ legal i = false)) = true ∧
    (let s := Demo.on
     let core : CoreId := 0
     let c := coreAt s core.val
     decide (mayIssue c = false)) = true ∧
    (let s := Demo.run
     let core : CoreId := 0
     let c := coreAt s core.val
     decide (mayIssue c = true)) = true ∧
    (let s := Demo.on
     let core : CoreId := 0
     let m := 1
     let s := { s with ue := [] }
     decide (s.ue = [] ∧ m ≠ core.val)) = true ∧
    (let s := Demo.run
     let core : CoreId := 0
     let s := { s with fills := [0] }
     let c : Core := coreAt s core.val
     decide (c = coreAt s core.val ∧ mayIssue c = true ∧ firstBad s (BitVec.toNat c.pc) 8 (writableKind c.ctx.toNat) = none ∧
       filling s (BitVec.toNat c.pc) 8 = true)) = true ∧
    (let s := Demo.run
     let core : CoreId := 0
     let c : Core := coreAt s core.val
     let w : W64 := 0
     let i : Isa := .ill
     decide (c = coreAt s core.val ∧ mayIssue c = true ∧ firstBad s (BitVec.toNat c.pc) 8 (writableKind c.ctx.toNat) = none ∧
       filling s (BitVec.toNat c.pc) 8 = false ∧ cpUe s core.val (BitVec.toNat c.pc) 8 = none ∧
       (fetchWord (correctRead s (BitVec.toNat c.pc) 8) core.val).2 = w ∧ isaDecode w = some i)) = true ∧
    (let s := Demo.run
     let core : CoreId := 0
     let s := { s with mem := writeBytes [] 0x1000 (List.replicate 8 0xFF) }
     let c : Core := coreAt s core.val
     let w : W64 := 0xFFFFFFFFFFFFFFFF
     decide (c = coreAt s core.val ∧ mayIssue c = true ∧ firstBad s (BitVec.toNat c.pc) 8 (writableKind c.ctx.toNat) = none ∧
       filling s (BitVec.toNat c.pc) 8 = false ∧ cpUe s core.val (BitVec.toNat c.pc) 8 = none ∧
       (fetchWord (correctRead s (BitVec.toNat c.pc) 8) core.val).2 = w ∧ isaDecode w = none)) = true ∧
    (let s := Demo.run
     let core : CoreId := 0
     let c : Core := coreAt s core.val
     let w : W64 := 0
     decide (c = coreAt s core.val ∧ mayIssue c = true ∧ firstBad s (BitVec.toNat c.pc) 8 (writableKind c.ctx.toNat) = none ∧
       filling s (BitVec.toNat c.pc) 8 = false ∧ cpUe s core.val (BitVec.toNat c.pc) 8 = none ∧
       (fetchWord (correctRead s (BitVec.toNat c.pc) 8) core.val).2 = w ∧ c.ahead = [] ∧ c.refetch = true)) = true ∧
    (let s := Demo.run
     let core : CoreId := 0
     let c : Core := coreAt s core.val
     let s := modCore s 0 fun c => { c with refetch := false }
     let c := coreAt s core.val
     let w : W64 := 0
     decide (c = coreAt s core.val ∧ mayIssue c = true ∧ firstBad s (BitVec.toNat c.pc) 8 (writableKind c.ctx.toNat) = none ∧
       filling s (BitVec.toNat c.pc) 8 = false ∧ cpUe s core.val (BitVec.toNat c.pc) 8 = none ∧
       (fetchWord (correctRead s (BitVec.toNat c.pc) 8) core.val).2 = w ∧ c.ahead = [] ∧ c.refetch = false)) = true ∧
    (let s := Demo.run
     let core : CoreId := 0
     let c : Core := coreAt s core.val
     let s := modCore s 0 fun c => { c with pc := 0x18000000 }
     let c := coreAt s core.val
     decide (c = coreAt s core.val ∧ mayIssue c = true ∧ (firstBad s (BitVec.toNat c.pc) 8 (writableKind c.ctx.toNat)).isSome = true)) = true ∧
    (let s := Demo.run
     let core : CoreId := 0
     let c : Core := coreAt s core.val
     let s := { s with wrg.enable := false }
     let m : Nat := 15
     decide (c = coreAt s core.val ∧ s.ue = [] ∧ s.ce = [] ∧ s.wrg.enable = false ∧ m ≠ core.val)) = true := by decide +kernel

/-- Hypotheses of CoreControlCommands, clause by clause. -/
theorem witness_CoreControlCommands :
    (let s := Demo.member
     let core : CoreId := 0
     let via : Via := .pf
     let s := { s with pwr.on := -1 }
     let v : W32 := 0
     let s := modCore s core.val fun z => { z with state := 0 }
     let s := modCore s core.val fun z => { z with selfTested := true }
     decide (mayWrite s via = true ∧ domainOn s core.val = true) &&
     (let n := core.val
      let c := coreAt s n
      decide (bit v 1 = false ∧ bit v 2 = false ∧ bit v 3 = false ∧ c.state = 0 ∧ c.selfTested = true ∧ stopped s = false ∧
        ctxExists s (bits v 24 4) = true ∧ inSpace s (bits v 24 4) c.pc.toNat 8 = true))) = true ∧
    (let s := Demo.member
     let core : CoreId := 0
     let via : Via := .pf
     let s := { s with pwr.on := -1 }
     let v : W32 := 0
     let s := modCore s core.val fun z => { z with state := 0 }
     let s := modCore s core.val fun z => { z with selfTested := true }
     decide (mayWrite s via = true ∧ domainOn s core.val = true) &&
     (let n := core.val
      let c := coreAt s n
      decide (bit v 3 = false ∧ c.state = 0 ∧ c.selfTested = true ∧ stopped s = false ∧ ctxExists s (bits v 24 4) = true ∧
        inSpace s (bits v 24 4) c.pc.toNat 8 = true))) = true ∧
    (let s := Demo.run
     let core : CoreId := 0
     let via : Via := .pf
     let s := { s with pwr.on := -1 }
     let v : W32 := 0
     decide (mayWrite s via = true ∧ domainOn s core.val = true) &&
     (let n := core.val
      let c := coreAt s n
      decide (bit v 1 = false ∧ bit v 2 = false ∧ bit v 3 = false ∧ c.state ≠ 0))) = true ∧
    (let s := Demo.on
     let core : CoreId := 0
     let via : Via := .pf
     let s := { s with pwr.on := -1 }
     let v : W32 := 0
     let s := modCore s core.val fun z => { z with state := 1 }
     decide (mayWrite s via = true ∧ domainOn s core.val = true) &&
     (let n := core.val
      let c := coreAt s n
      decide (bits v 24 4 = c.ctx.toNat ∧ bit v 2 = false ∧ bit v 3 = false ∧ (c.state = 1 ∨ c.state = 2)))) = true ∧
    (let s := Demo.on
     let core : CoreId := 0
     let via : Via := .pf
     let s := { s with pwr.on := -1 }
     let v : W32 := 0
     decide (mayWrite s via = true ∧ domainOn s core.val = true) &&
     (let n := core.val
      let c := coreAt s n
      decide (bits v 24 4 = c.ctx.toNat ∧ bits v 0 4 = 0))) = true := by decide +kernel

/-- Hypotheses of CoresDrainCountAndAreTested, clause by clause. -/
theorem witness_CoresDrainCountAndAreTested :
    (let s := Demo.on
     let core : CoreId := 0
     let s := modCore s core.val fun z => { z with state := 3 }
     let n := core.val
     let c := coreAt s n
     decide ((c.state = 3 ∨ c.state = 4) ∧ idleCore c = true)) = true ∧
    (let s := Demo.on
     let core : CoreId := 0
     let s := modCore s 0 fun c => modUnit c 5 fun u => { u with
       queue := [mkEntry 0 (.tflg 0)] }
     let n := core.val
     let c := coreAt s n
     decide (idleCore c = false)) = true ∧
    (let s := Demo.on
     let core : CoreId := 0
     let s := { s with pwr.on := -1 }
     let n := core.val
     decide (domainOn s n = true)) = true ∧
    (let s := Demo.on
     let core : CoreId := 0
     let s := modCore s core.val fun z => { z with waitPosted := false }
     let s := modCore s core.val fun c => { c with
       wait := .waitc 0 true 3, waitPosted := false, waitLimit := 2, waitBeats := 5 }
     let n := core.val
     let c := coreAt s n
     (match c.wait with
      | .waitc ctr eq v =>
         decide (c.waitPosted = false ∧ waitReached c c.waitBeats c.waitClks = true)
      | _ => false)) = true ∧
    (let s := Demo.on
     let core : CoreId := 0
     let s := modCore s core.val fun z => { z with wait := .none }
     let n := core.val
     let c := coreAt s n
     decide (c.wait = .none)) = true ∧
    (let s := Demo.on
     let core : CoreId := 0
     let s := { s with glb.fuseDone := true, pwr.on := -1 }
     let s := modCore s core.val fun z => { z with selfTested := false }
     let n := core.val
     let c := coreAt s n
     decide (s.glb.fuseDone = true ∧ domainOn s n = true ∧ c.selfTested = false)) = true ∧
    (let s := Demo.on
     let core : CoreId := 0
     let s := modCore s core.val fun z => { z with selfTested := true }
     let n := core.val
     let c := coreAt s n
     decide (c.selfTested = true)) = true ∧
    (let s := Demo.on
     let core : CoreId := 0
     let via : Via := .pf
     let s := { s with pwr.on := -1 }
     let s := modCore s core.val fun z => { z with state := 0 }
     let s := modCore s core.val fun z => { z with selfTested := true }
     let n := core.val
     let c := coreAt s n
     decide (mayWrite s via = true ∧ domainOn s (16 + n / 4) = true ∧ c.state = 0 ∧ c.selfTested = true)) = true ∧
    (let s := Demo.run
     let core : CoreId := 0
     let via : Via := .pf
     let s := { s with pwr.on := -1 }
     let n := core.val
     let c := coreAt s n
     decide (mayWrite s via = true ∧ domainOn s (16 + n / 4) = true ∧ c.state ≠ 0)) = true ∧
    (let s := Demo.run
     let core : CoreId := 0
     let c : Core := coreAt s core.val
     let ctr : Byte := 3
     let eq : Bool := false
     let v : W32 := 1
     let s := modCore s 0 fun c => { c with wait := .waitc ctr eq v, waitLimit := 3, waitBeats := 8 }
     let c := coreAt s core.val
     let n : Nat := core.val
     decide (c = coreAt s n ∧ c.wait = CpWait.waitc ctr eq v ∧ c.waitPosted = false ∧ waitReached c c.waitBeats c.waitClks = true)) = true ∧
    (let s := Demo.run
     let core : CoreId := 0
     let c : Core := coreAt s core.val
     let via : Via := .pf
     let n : Nat := core.val
     decide (c = coreAt s n ∧ mayWrite s via = true ∧ domainOn s (16 + n / 4) = true ∧ (c.state ≠ 0 ∨ c.selfTested = false))) = true := by decide +kernel

/-- Hypotheses of CupboardModesCountersAndScrubbing, clause by clause. -/
theorem witness_CupboardModesCountersAndScrubbing :
    (let s := Demo.on
     let core : CoreId := 0
     let via : Via := .pf
     let v : W32 := 1
     let s := { s with pwr.on := -1, own.valid := false }
     decide (mayWrite s via = true) &&
     (let n := core.val
      let c := coreAt s n
      decide (domainOn s (16 + n / 4) = true ∧ bit v 0 ≠ c.cpb.mode ∧ formed s = false ∧ allHalted s = true ∧
        Memory.wf s.mem = true))) = true ∧
    (let s := Demo.member
     let core : CoreId := 0
     let via : Via := .pf
     let v : W32 := 1
     let s := { s with pwr.on := -1, own.valid := true }
     decide (mayWrite s via = true) &&
     (let n := core.val
      let c := coreAt s n
      decide (domainOn s (16 + n / 4) = true ∧ bit v 0 ≠ c.cpb.mode ∧ (formed s = true ∨ allHalted s = false)))) = true ∧
    (let s := Demo.on
     let core : CoreId := 0
     let via : Via := .pf
     let v : W32 := 0
     let s := { s with pwr.on := -1 }
     decide (mayWrite s via = true) &&
     (let n := core.val
      let c := coreAt s n
      decide (domainOn s (16 + n / 4) = true ∧ bit v 0 = c.cpb.mode))) = true ∧
    (let s := Demo.on
     let core : CoreId := 0
     let via : Via := .pf
     let ctr : Byte := 0
     let s := { s with pwr.on := -1 }
     let s := { s with pwr.on := -1 }
     let s := modCore s core.val fun z => { z with state := 0 }
     decide (mayWrite s via = true) &&
     (let n := core.val
      let c := coreAt s n
      decide (domainOn s n = true ∧ domainOn s (16 + n / 4) = true ∧ c.state = 0 ∧ ¬(s.wrg.enable = true ∧ 254 ≤ ctr.toNat)))) = true ∧
    (let s := Demo.run
     let core : CoreId := 0
     let via : Via := .pf
     let s := { s with pwr.on := -1 }
     let s := { s with pwr.on := -1 }
     decide (mayWrite s via = true) &&
     (let n := core.val
      let c := coreAt s n
      decide (domainOn s n = true ∧ domainOn s (16 + n / 4) = true ∧ c.state ≠ 0))) = true ∧
    (let s := Demo.on
     let core : CoreId := 0
     let s := modCore s core.val fun z => { z with cpb.scrub := true }
     let s := { s with pwr.on := -1 }
     let n := core.val
     let c := coreAt s n
     decide (c.cpb.scrub = true ∧ domainOn s (16 + n / 4) = true)) = true ∧
    (let s := Demo.on
     let core : CoreId := 0
     let c : Core := coreAt s core.val
     let s := modCore s 0 fun c => { c with cpb.scrub := false }
     let c := coreAt s core.val
     let n : Nat := core.val
     decide (c = coreAt s n ∧ (c.cpb.scrub = false ∨ domainOn s (16 + n / 4) = false))) = true := by decide +kernel

/-- Hypotheses of UnitsStartReleaseAndComplete, clause by clause. -/
theorem witness_UnitsStartReleaseAndComplete :
    (let s := Demo.run
     let core : CoreId := 0
     let d : Option TD := some Demo.td
     let a : Option TD := some { Demo.td with base := 0x3000 }
     let b : Option TD := some { Demo.td with base := 0x4000 }
     let c : Option TD := none
     let e : Option TD := none
     let v : W64 := 0
     let r : List QEntry := []
     let unit : Fin 6 := 3
     let t : Fin 4 := 3
     let i : Isa := .tm .tmul ⟨0, 1, 2, 0, 3, 0, 0, false, false, false, false, false, 0, false, 0, false, 0⟩
     let x : QEntry := mkEntry 0x1000 (.op i d a b c e v)
     let s := modCore s 0 fun k => { modUnit k 3 (fun y => { y with queue := [x] }) with trsDis := 8 }
     let n : Nat := core.val
     let u : Nat := unit.val
     let y : CUnit := (coreAt s n).units.toList.getD u CUnit.empty
     decide (x.work = QWork.op i d a b c e v ∧ isClassC i = false ∧ y.queue = x :: r ∧ x.started = false ∧
       offline (coreAt s n) u = true ∧ t.val = u)) = true ∧
    (let s := Demo.run
     let core : CoreId := 0
     let unit : Fin 6 := 5
     let i : Isa := .vec ⟨0, 1, 2, 0, 0, 0, 0, false, 0⟩
     let d : Option TD := some Demo.td
     let b : Option TD := some { Demo.td with base := 0x4000 }
     let c : Option TD := none
     let e : Option TD := none
     let v : W64 := 0
     let r : List QEntry := []
     let a : Option TD := some { Demo.td with format := 0 }
     let x : QEntry := mkEntry 0x1000 (.op i d a b c e v)
     let s := modCore s 0 fun k => modUnit k 5 fun y => { y with queue := [x] }
     let sub : Nat := 2
     let n : Nat := core.val
     let u : Nat := unit.val
     let y : CUnit := (coreAt s n).units.toList.getD u CUnit.empty
     let o : Ops := { d := d, a := a, b := b, c := c, e := e }
     decide (x.work = QWork.op i d a b c e v ∧ isClassC i = false ∧ y.queue = x :: r ∧ x.started = false ∧
       offline (coreAt s n) u = false ∧ unitCheck s n u i o v = some sub)) = true ∧
    (let s := Demo.run
     let core : CoreId := 0
     let unit : Fin 6 := 5
     let i : Isa := .vec ⟨0, 1, 2, 0, 0, 0, 0, false, 0⟩
     let d : Option TD := some Demo.td
     let a : Option TD := some { Demo.td with base := 0x3000 }
     let b : Option TD := some { Demo.td with base := 0x4000 }
     let c : Option TD := none
     let e : Option TD := none
     let v : W64 := 0
     let x : QEntry := mkEntry 0x1000 (.op i d a b c e v)
     let r : List QEntry := []
     let s := modCore s 0 fun k => modUnit k 5 fun y => { y with
       queue := [x], flight := [mkEntry 0x1000 (.op i a b b c e v)] }
     let n : Nat := core.val
     let u : Nat := unit.val
     let y : CUnit := (coreAt s n).units.toList.getD u CUnit.empty
     let o : Ops := { d := d, a := a, b := b, c := c, e := e }
     decide (x.work = QWork.op i d a b c e v ∧ isClassC i = false ∧ y.queue = x :: r ∧ x.started = false ∧
       offline (coreAt s n) u = false ∧ unitCheck s n u i o v = none ∧ interlocked y i o (shapeOf s i o v) = true)) = true ∧
    (let s := Demo.run
     let core : CoreId := 0
     let unit : Fin 6 := 5
     let i : Isa := .vec ⟨0, 1, 2, 0, 0, 0, 0, false, 0⟩
     let d : Option TD := some Demo.td
     let a : Option TD := some { Demo.td with base := 0x3000 }
     let b : Option TD := some { Demo.td with base := 0x4000 }
     let c : Option TD := none
     let e : Option TD := none
     let v : W64 := 0
     let x : QEntry := mkEntry 0x1000 (.op i d a b c e v)
     let r : List QEntry := []
     let s := modCore s 0 fun k => modUnit k 5 fun y => { y with queue := [x] }
     let n : Nat := core.val
     let u : Nat := unit.val
     let y : CUnit := (coreAt s n).units.toList.getD u CUnit.empty
     let o : Ops := { d := d, a := a, b := b, c := c, e := e }
     decide (x.work = QWork.op i d a b c e v ∧ isClassC i = false ∧ y.queue = x :: r ∧ x.started = false ∧
       offline (coreAt s n) u = false ∧ unitCheck s n u i o v = none ∧ interlocked y i o (shapeOf s i o v) = false)) = true ∧
    (let s := Demo.run
     let core : CoreId := 0
     let unit : Fin 6 := 5
     let i : Isa := .vec ⟨0, 1, 2, 0, 0, 0, 0, false, 0⟩
     let d : Option TD := some Demo.td
     let a : Option TD := some { Demo.td with base := 0x3000 }
     let b : Option TD := some { Demo.td with base := 0x4000 }
     let c : Option TD := none
     let e : Option TD := none
     let v : W64 := 0
     let r : List QEntry := []
     let x : QEntry := { mkEntry 0x1000 (.op i d a b c e v) with started := true }
     let s := { modCore s 0 (fun k => modUnit k 5 fun y => { y with queue := [x] }) with fills := [0] }
     let n : Nat := core.val
     let u : Nat := unit.val
     let y : CUnit := (coreAt s n).units.toList.getD u CUnit.empty
     decide (x.work = QWork.op i d a b c e v ∧ isClassC i = false ∧ y.queue = x :: r ∧ x.started = true ∧ entryFilling s x = true)) = true ∧
    (let s := Demo.run
     let core : CoreId := 0
     let unit : Fin 6 := 5
     let i : Isa := .vec ⟨0, 1, 2, 0, 0, 0, 0, false, 0⟩
     let d : Option TD := some Demo.td
     let a : Option TD := some { Demo.td with base := 0x3000 }
     let b : Option TD := some { Demo.td with base := 0x4000 }
     let c : Option TD := none
     let e : Option TD := none
     let v : W64 := 0
     let r : List QEntry := []
     let x : QEntry := { mkEntry 0x1000 (.op i d a b c e v) with started := true }
     let s := modCore s 0 fun k => modUnit k 5 fun y => { y with queue := [x] }
     let n : Nat := core.val
     let u : Nat := unit.val
     let y : CUnit := (coreAt s n).units.toList.getD u CUnit.empty
     let p : StepOut := finishEntry s n u x
     decide (x.work = QWork.op i d a b c e v ∧ isClassC i = false ∧ y.queue = x :: r ∧ x.started = true ∧ entryFilling s x = false ∧
       p.refused = false)) = true ∧
    (let s := Demo.run
     let core : CoreId := 0
     let unit : Fin 6 := 5
     let i : Isa := .vec ⟨0, 1, 2, 0, 0, 0, 0, false, 0⟩
     let d : Option TD := some Demo.td
     let b : Option TD := some { Demo.td with base := 0x4000 }
     let c : Option TD := none
     let e : Option TD := none
     let v : W64 := 0
     let r : List QEntry := []
     let a : Option TD := some { Demo.td with base := 0x1400000 }
     let x : QEntry := { mkEntry 0x1000 (.op i d a b c e v) with started := true }
     let s := { modCore s 0 (fun k => modUnit k 5 fun y => { y with queue := [x] }) with wrg.slots := [⟨0, false, 0, some 3, false⟩] }
     let n : Nat := core.val
     let u : Nat := unit.val
     let y : CUnit := (coreAt s n).units.toList.getD u CUnit.empty
     let p : StepOut := finishEntry s n u x
     decide (x.work = QWork.op i d a b c e v ∧ isClassC i = false ∧ y.queue = x :: r ∧ x.started = true ∧ entryFilling s x = false ∧
       p.refused = true)) = true ∧
    (let s := Demo.run
     let core : CoreId := 0
     let unit : Fin 6 := 5
     let i : Isa := .vec ⟨0, 1, 2, 0, 0, 0, 0, false, 0⟩
     let d : Option TD := some Demo.td
     let a : Option TD := some { Demo.td with base := 0x3000 }
     let b : Option TD := some { Demo.td with base := 0x4000 }
     let c : Option TD := none
     let e : Option TD := none
     let v : W64 := 0
     let r : List QEntry := []
     let x : QEntry := { mkEntry 0x1000 (.op i d a b c e v) with started := true }
     let s := modCore s 0 fun k => modUnit k 5 fun y => { y with flight := [x] }
     let n : Nat := core.val
     let u : Nat := unit.val
     let y : CUnit := (coreAt s n).units.toList.getD u CUnit.empty
     let w : State := modCore (s.drawn 1) n fun k ↦ modUnit k u fun z ↦ { queue := z.queue, flight := r, flags := z.flags, evtPosted := z.evtPosted }
     let p : StepOut := finishEntry w n u x
     decide (x.work = QWork.op i d a b c e v ∧ isClassC i = false ∧ y.flight = x :: r ∧ x.started = true ∧ x.coll = none ∧
       entryFilling s x = false ∧
       (∀ (z : QEntry), z ∈ r ++ List.take 1 y.queue → canComplete s false z = true → inOrder z = true) ∧ p.refused = false)) = true ∧
    (let s := Demo.run
     let core : CoreId := 0
     let unit : Fin 6 := 5
     let i : Isa := .vec ⟨0, 1, 2, 0, 0, 0, 0, false, 0⟩
     let d : Option TD := some Demo.td
     let b : Option TD := some { Demo.td with base := 0x4000 }
     let c : Option TD := none
     let e : Option TD := none
     let v : W64 := 0
     let r : List QEntry := []
     let a : Option TD := some { Demo.td with base := 0x1400000 }
     let x : QEntry := { mkEntry 0x1000 (.op i d a b c e v) with started := true }
     let s := { modCore s 0 (fun k => modUnit k 5 fun y => { y with flight := [x] }) with wrg.slots := [⟨0, false, 0, some 3, false⟩] }
     let n : Nat := core.val
     let u : Nat := unit.val
     let y : CUnit := (coreAt s n).units.toList.getD u CUnit.empty
     let w : State := modCore (s.drawn 1) n fun k ↦ modUnit k u fun z ↦ { queue := z.queue, flight := r, flags := z.flags, evtPosted := z.evtPosted }
     let p : StepOut := finishEntry w n u x
     decide (x.work = QWork.op i d a b c e v ∧ isClassC i = false ∧ y.flight = x :: r ∧ x.started = true ∧ x.coll = none ∧
       entryFilling s x = false ∧
       (∀ (z : QEntry), z ∈ r ++ List.take 1 y.queue → canComplete s false z = true → inOrder z = true) ∧ p.refused = true)) = true ∧
    (let s := Demo.run
     let core : CoreId := 0
     let unit : Fin 6 := 5
     let i : Isa := .vec ⟨0, 1, 2, 0, 0, 0, 0, false, 0⟩
     let d : Option TD := some Demo.td
     let a : Option TD := some { Demo.td with base := 0x3000 }
     let b : Option TD := some { Demo.td with base := 0x4000 }
     let c : Option TD := none
     let e : Option TD := none
     let v : W64 := 0
     let x : QEntry := mkEntry 0x1000 (.op i d a b c e v)
     let n : Nat := core.val
     let u : Nat := unit.val
     let y : CUnit := (coreAt s n).units.toList.getD u CUnit.empty
     decide (x.work = QWork.op i d a b c e v ∧ isClassC i = false ∧ y.queue = [] ∧ y.flight = [])) = true ∧
    (let s := Demo.run
     let core : CoreId := 0
     let unit : Fin 6 := 5
     let i : Isa := .vec ⟨0, 1, 2, 0, 0, 0, 0, false, 0⟩
     let d : Option TD := some Demo.td
     let a : Option TD := some { Demo.td with base := 0x3000 }
     let b : Option TD := some { Demo.td with base := 0x4000 }
     let c : Option TD := none
     let e : Option TD := none
     let v : W64 := 0
     let x : QEntry := mkEntry 0x1000 (.op i d a b c e v)
     let r : List QEntry := []
     let g : BitVec 5 := 3
     let w : QEntry := mkEntry 0x1000 (.tflg g)
     let s := modCore s 0 fun k => modUnit k 5 fun y => { y with queue := [w] }
     let n : Nat := core.val
     let u : Nat := unit.val
     let y : CUnit := (coreAt s n).units.toList.getD u CUnit.empty
     decide (x.work = QWork.op i d a b c e v ∧ isClassC i = false ∧ w.work = QWork.tflg g ∧ y.flight = [] ∧ y.queue = w :: r ∧
       offline (coreAt s n) u = false)) = true := by decide +kernel

/-- Hypotheses of MoversCopyRowByRow, clause by clause. -/
theorem witness_MoversCopyRowByRow :
    (let s := Demo.run
     let core : CoreId := 0
     let mover : Fin 4 := 3
     let x : Xfer := ⟨0, Demo.desc, 0x900, none, true, 5, 0, 0xC00, false, false, [], [], 0, false⟩
     let s := Demo.putX s 0 3 x
     let n : Nat := core.val
     let m : Nat := mover.val
     decide (List.find? (fun x ↦ !x.srcRead) (xfers s n m) = some x ∧ x.started = false ∧
       (x.put.isSome = true ∨ xdescOk x.desc = true ∧ rowsBad s x.srcAt x.rowLen x.rows (readableKind x.ctx.toNat) = none ∧ if x.desc.remote = true then memberCoord s x.desc.dest = true else rowsBad s x.dstAt x.rowLen x.rows (writableKind x.ctx.toNat) = none))) = true ∧
    (let s := Demo.run
     let core : CoreId := 0
     let mover : Fin 4 := 3
     let x : Xfer := ⟨0, Demo.desc, 0x900, none, true, 5, 0, 0xC00, false, false, [], [], 0, false⟩
     let x := { x with desc.rowLen := 12 }
     let s := Demo.putX s 0 3 x
     let n : Nat := core.val
     let m : Nat := mover.val
     decide (List.find? (fun x ↦ !x.srcRead) (xfers s n m) = some x ∧ x.started = false ∧ x.put = none ∧ xdescOk x.desc = false)) = true ∧
    (let s := Demo.run
     let core : CoreId := 0
     let mover : Fin 4 := 3
     let x : Xfer := ⟨0, Demo.desc, 0x900, none, true, 5, 0, 0xC00, false, false, [], [], 0, false⟩
     let x := { x with desc.src := 0x18000000 }
     let s := Demo.putX s 0 3 x
     let a : W32 := 0x18000000
     let n : Nat := core.val
     let m : Nat := mover.val
     decide (List.find? (fun x ↦ !x.srcRead) (xfers s n m) = some x ∧ x.started = false ∧ x.put = none ∧ xdescOk x.desc = true ∧
       rowsBad s x.srcAt x.rowLen x.rows (readableKind x.ctx.toNat) = some a)) = true ∧
    (let s := Demo.run
     let core : CoreId := 0
     let mover : Fin 4 := 3
     let x : Xfer := ⟨0, Demo.desc, 0x900, none, true, 5, 0, 0xC00, false, false, [], [], 0, false⟩
     let x := { x with desc.node := 0x80007FFF }
     let s := Demo.putX s 0 3 x
     let n : Nat := core.val
     let m : Nat := mover.val
     decide (List.find? (fun x ↦ !x.srcRead) (xfers s n m) = some x ∧ x.started = false ∧ x.put = none ∧ xdescOk x.desc = true ∧
       rowsBad s x.srcAt x.rowLen x.rows (readableKind x.ctx.toNat) = none ∧ x.desc.remote = true ∧
       memberCoord s x.desc.dest = false)) = true ∧
    (let s := Demo.run
     let core : CoreId := 0
     let mover : Fin 4 := 3
     let x : Xfer := ⟨0, Demo.desc, 0x900, none, true, 5, 0, 0xC00, false, false, [], [], 0, false⟩
     let x := { x with desc.dst := 0x800000 }
     let s := Demo.putX s 0 3 x
     let a : W32 := 0x800000
     let n : Nat := core.val
     let m : Nat := mover.val
     decide (List.find? (fun x ↦ !x.srcRead) (xfers s n m) = some x ∧ x.started = false ∧ x.put = none ∧ xdescOk x.desc = true ∧
       rowsBad s x.srcAt x.rowLen x.rows (readableKind x.ctx.toNat) = none ∧ x.desc.remote = false ∧
       rowsBad s x.dstAt x.rowLen x.rows (writableKind x.ctx.toNat) = some a)) = true ∧
    (let s := Demo.run
     let core : CoreId := 0
     let mover : Fin 4 := 3
     let x : Xfer := ⟨0, Demo.desc, 0x900, none, true, 5, 0, 0xC00, false, false, [], [], 0, false⟩
     let x := { x with started := true }
     let s := { Demo.putX s 0 3 x with fills := [0] }
     let n : Nat := core.val
     let m : Nat := mover.val
     decide (List.find? (fun x ↦ x.started && !x.desc.remote && decide (x.rowsLanded < x.rows)) (xfers s n m) = some x ∧
       rowWaits s x x.rowsLanded = true)) = true ∧
    (let s := Demo.run
     let core : CoreId := 0
     let mover : Fin 4 := 3
     let x : Xfer := ⟨0, Demo.desc, 0x900, none, true, 5, 0, 0xC00, false, false, [], [], 0, false⟩
     let x := { x with started := true, srcRead := true, rowsLanded := 1, lastRow := List.replicate 16 3 }
     let s := Demo.putX s 0 3 x
     let n : Nat := core.val
     let m : Nat := mover.val
     decide (List.find? (fun x ↦ x.started && !x.desc.remote && decide (x.rowsLanded < x.rows)) (xfers s n m) = some x ∧
       rowWaits s x x.rowsLanded = false ∧ x.rowsLanded + 1 = x.rows ∧ x.srcRead = true)) = true ∧
    (let s := Demo.run
     let core : CoreId := 0
     let mover : Fin 4 := 3
     let x : Xfer := ⟨0, Demo.desc, 0x900, none, true, 5, 0, 0xC00, false, false, [], [], 0, false⟩
     let x := { x with started := true, rowsLanded := 1 }
     let s := Demo.putX s 0 3 x
     let n : Nat := core.val
     let m : Nat := mover.val
     decide (List.find? (fun x ↦ x.started && !x.desc.remote && decide (x.rowsLanded < x.rows)) (xfers s n m) = some x ∧
       rowWaits s x x.rowsLanded = false ∧ x.rowsLanded + 1 = x.rows ∧ x.srcRead = false)) = true ∧
    (let s := Demo.run
     let core : CoreId := 0
     let mover : Fin 4 := 3
     let x : Xfer := ⟨0, Demo.desc, 0x900, none, true, 5, 0, 0xC00, false, false, [], [], 0, false⟩
     let x := { x with started := true, desc.src := 0x1400000 }
     let s := { Demo.putX s 0 3 x with wrg.slots := [⟨0, false, 0, some 3, false⟩] }
     let k : Nat := 0
     let n : Nat := core.val
     let m : Nat := mover.val
     let a : Nat := (x.srcAt x.rowsLanded).toNat
     decide (List.find? (fun x ↦ x.started && !x.desc.remote && decide (x.rowsLanded < x.rows)) (xfers s n m) = some x ∧
       rowWaits s x x.rowsLanded = false ∧ x.rowsLanded + 1 ≠ x.rows ∧ firstSealed s x.ctx.toNat a x.rowLen = some k)) = true ∧
    (let s := Demo.run
     let core : CoreId := 0
     let mover : Fin 4 := 3
     let x : Xfer := ⟨0, Demo.desc, 0x900, none, true, 5, 0, 0xC00, false, false, [], [], 0, false⟩
     let x := { x with started := true }
     let s := { Demo.putX s 0 3 x with wrg.enable := false }
     let n : Nat := core.val
     let m : Nat := mover.val
     let a : Nat := (x.srcAt x.rowsLanded).toNat
     decide (List.find? (fun x ↦ x.started && !x.desc.remote && decide (x.rowsLanded < x.rows)) (xfers s n m) = some x ∧
       rowWaits s x x.rowsLanded = false ∧ x.rowsLanded + 1 ≠ x.rows ∧ firstSealed s x.ctx.toNat a x.rowLen = none ∧
       x.rowLen % 8 = 0 ∧ s.wrg.enable = false ∧ s.ue = [] ∧ Memory.wf s.mem = true)) = true ∧
    (let s := Demo.run
     let core : CoreId := 0
     let mover : Fin 4 := 3
     let x : Xfer := ⟨0, Demo.desc, 0x900, none, true, 5, 0, 0xC00, false, false, [], [], 0, false⟩
     let x := { x with started := true }
     let s := { Demo.putX s 0 3 x with fills := [0] }
     let n : Nat := core.val
     let m : Nat := mover.val
     decide (List.find? (fun x ↦ x.started && !x.srcRead) (xfers s n m) = some x ∧ (List.range x.rows).any (rowWaits s x) = true)) = true ∧
    (let s := Demo.run
     let core : CoreId := 0
     let mover : Fin 4 := 3
     let x : Xfer := ⟨0, Demo.desc, 0x900, none, true, 5, 0, 0xC00, false, false, [], [], 0, false⟩
     let x := { x with started := true }
     let s := Demo.putX s 0 3 x
     let n : Nat := core.val
     let m : Nat := mover.val
     decide (List.find? (fun x ↦ x.started && !x.srcRead) (xfers s n m) = some x ∧ (List.range x.rows).any (rowWaits s x) = false ∧
       x.desc.remote = false ∧ x.rowsLanded + 1 ≠ x.rows)) = true ∧
    (let s := Demo.run
     let core : CoreId := 0
     let mover : Fin 4 := 3
     let x : Xfer := ⟨0, Demo.desc, 0x900, none, true, 5, 0, 0xC00, false, false, [], [], 0, false⟩
     let v : W64 := 7
     let x := { x with started := true, put := some 7, desc := putDesc 0x2000 false 0 false 0 }
     let s := Demo.putX s 0 3 x
     let n : Nat := core.val
     let m : Nat := mover.val
     decide (List.find? (fun x ↦ x.started && !x.srcRead) (xfers s n m) = some x ∧ (List.range x.rows).any (rowWaits s x) = false ∧
       x.desc.remote = false ∧ x.rowsLanded + 1 = x.rows ∧ x.put = some v)) = true ∧
    (let s := Demo.run
     let core : CoreId := 0
     let mover : Fin 4 := 3
     let x : Xfer := ⟨0, Demo.desc, 0x900, none, true, 5, 0, 0xC00, false, false, [], [], 0, false⟩
     let x := { x with started := true, desc.src := 0x1400000, rowsLanded := 1 }
     let s := { Demo.putX s 0 3 x with wrg.slots := [⟨0, false, 0, some 3, false⟩] }
     let k : Nat := 0
     let n : Nat := core.val
     let m : Nat := mover.val
     let a : Nat := (x.srcAt x.rowsLanded).toNat
     decide (List.find? (fun x ↦ x.started && !x.srcRead) (xfers s n m) = some x ∧ (List.range x.rows).any (rowWaits s x) = false ∧
       x.desc.remote = false ∧ x.rowsLanded + 1 = x.rows ∧ x.put = none ∧ firstSealed s x.ctx.toNat a x.rowLen = some k)) = true ∧
    (let s := Demo.run
     let core : CoreId := 0
     let mover : Fin 4 := 3
     let x : Xfer := ⟨0, Demo.desc, 0x900, none, true, 5, 0, 0xC00, false, false, [], [], 0, false⟩
     let x := { x with started := true, rowsLanded := 1 }
     let s := Demo.putX s 0 3 x
     let n : Nat := core.val
     let m : Nat := mover.val
     let a : Nat := (x.srcAt x.rowsLanded).toNat
     decide (List.find? (fun x ↦ x.started && !x.srcRead) (xfers s n m) = some x ∧ (List.range x.rows).any (rowWaits s x) = false ∧
       x.desc.remote = false ∧ x.rowsLanded + 1 = x.rows ∧ x.put = none ∧ firstSealed s x.ctx.toNat a x.rowLen = none)) = true ∧
    (let s := Demo.run
     let core : CoreId := 0
     let mover : Fin 4 := 3
     let x : Xfer := ⟨0, Demo.desc, 0x900, none, true, 5, 0, 0xC00, false, false, [], [], 0, false⟩
     let x := { x with started := true, desc.src := 0x1400000, desc.node := 0x80000201 }
     let s := { Demo.putX s 0 3 x with wrg.slots := [⟨0, false, 0, some 3, false⟩] }
     let n : Nat := core.val
     let m : Nat := mover.val
     decide (List.find? (fun x ↦ x.started && !x.srcRead) (xfers s n m) = some x ∧ (List.range x.rows).any (rowWaits s x) = false ∧
       x.desc.remote = true ∧ (sendRows x.rows 0 s n m x).2 = false)) = true ∧
    (let s := Demo.run
     let core : CoreId := 0
     let mover : Fin 4 := 3
     let x : Xfer := ⟨0, Demo.desc, 0x900, none, true, 5, 0, 0xC00, false, false, [], [], 0, false⟩
     let x := { x with started := true, desc.node := 0x80000201 }
     let s := Demo.putX s 0 3 x
     let n : Nat := core.val
     let m : Nat := mover.val
     decide (List.find? (fun x ↦ x.started && !x.srcRead) (xfers s n m) = some x ∧ (List.range x.rows).any (rowWaits s x) = false ∧
       x.desc.remote = true ∧ (sendRows x.rows 0 s n m x).2 = true)) = true ∧
    (let s := Demo.run
     let core : CoreId := 0
     let mover : Fin 4 := 3
     let x : Xfer := ⟨0, Demo.desc, 0x900, none, true, 5, 0, 0xC00, false, false, [], [], 0, false⟩
     let x := { x with started := true, rowsLanded := 2, refused := true }
     let s := Demo.putX s 0 3 x
     let n : Nat := core.val
     let m : Nat := mover.val
     decide (List.find? (fun x ↦ x.started && !x.desc.remote && x.rowsLanded == x.rows) (xfers s n m) = some x ∧
       (x.cen = false ∨ x.refused = true))) = true ∧
    (let s := Demo.run
     let core : CoreId := 0
     let mover : Fin 4 := 3
     let x : Xfer := ⟨0, Demo.desc, 0x900, none, true, 5, 0, 0xC00, false, false, [], [], 0, false⟩
     let x := { x with started := true, rowsLanded := 2 }
     let s := Demo.putX s 0 3 x
     let n : Nat := core.val
     let m : Nat := mover.val
     decide (List.find? (fun x ↦ x.started && !x.desc.remote && x.rowsLanded == x.rows) (xfers s n m) = some x ∧ x.cen = true ∧
       x.refused = false)) = true ∧
    (let s := Demo.run
     let core : CoreId := 0
     let mover : Fin 4 := 3
     let n : Nat := core.val
     let m : Nat := mover.val
     decide (xfers s n m = [])) = true := by decide +kernel

/-- Hypotheses of RemoteRowsLandOrAreRefused, clause by clause. -/
theorem witness_RemoteRowsLandOrAreRefused :
    (let s := Demo.on
     decide (formed s = false)) = true ∧
    (let s := Demo.run
     let src : Coord := unpackCoord 1
     let f : BulkData := { Demo.bulk with addr := 0x1000 }
     let s := { s with hut.records := [⟨src, f.tag⟩] }
     decide (formed s = true ∧ s.hut.records.any (sameRecord src f.tag) = true)) = true ∧
    (let s := Demo.run
     let src : Coord := unpackCoord 1
     let ctx : Ctx := 0
     let epoch : W16 := 1
     let f : BulkData := { Demo.bulk with addr := 0x1000 }
     decide (formed s = true ∧ s.hut.records.any (sameRecord src f.tag) = false ∧ epoch = BitVec.setWidth 16 s.own.epoch ∧
       inFrames s (BitVec.toNat f.addr) f.data.length (landKind ctx.val) = true ∧ f.rowEnd = false)) = true ∧
    (let s := Demo.run
     let src : Coord := unpackCoord 1
     let ctx : Ctx := 0
     let epoch : W16 := 1
     let f : BulkData := { Demo.bulk with addr := 0x1000 }
     let f := { f with rowEnd := true }
     decide (formed s = true ∧ s.hut.records.any (sameRecord src f.tag) = false ∧ epoch = BitVec.setWidth 16 s.own.epoch ∧
       inFrames s (BitVec.toNat f.addr) f.data.length (landKind ctx.val) = true ∧ f.rowEnd = true ∧ f.xferEnd = false ∧
       List.find? (sameXfer src f.tag) s.hut.landing = none ∧ Memory.wf s.mem = true)) = true ∧
    (let s := Demo.run
     let src : Coord := unpackCoord 1
     let ctx : Ctx := 0
     let epoch : W16 := 1
     let f : BulkData := { Demo.bulk with addr := 0x1000 }
     let f := { f with rowEnd := true, xferEnd := true, addr := 0x3FFF80 }
     decide (formed s = true ∧ s.hut.records.any (sameRecord src f.tag) = false ∧ epoch = BitVec.setWidth 16 s.own.epoch ∧
       inFrames s (BitVec.toNat f.addr) f.data.length (landKind ctx.val) = true ∧ f.rowEnd = true ∧ f.xferEnd = true)) = true ∧
    (let s := Demo.run
     let src : Coord := unpackCoord 1
     let ctx : Ctx := 0
     let f : BulkData := { Demo.bulk with addr := 0x1000 }
     let epoch : W16 := 2
     decide (formed s = true ∧ s.hut.records.any (sameRecord src f.tag) = false ∧
       (epoch ≠ BitVec.setWidth 16 s.own.epoch ∨ inFrames s (BitVec.toNat f.addr) f.data.length (landKind ctx.val) = false))) = true ∧
    (let s := Demo.run
     let src : Coord := unpackCoord 1
     let b : BulkCtl := ⟨0xC00, true, 0⟩
     decide (xferOf s src b.tag = none)) = true ∧
    (let s := Demo.run
     let src : Coord := unpackCoord 1
     let b : BulkCtl := ⟨0xC00, true, 0⟩
     let x : Xfer := ⟨0, { Demo.desc with node := 0x80000001 }, 0x900, none, true, 5, 0, 0xC00, true, true, [], [], 0, false⟩
     let s := Demo.putX s 0 3 x
     decide (xferOf s src b.tag = some x ∧ x.refused = false ∧ x.srcRead = true)) = true ∧
    (let s := Demo.run
     let src : Coord := unpackCoord 1
     let b : BulkCtl := ⟨0xC00, true, 0⟩
     let x : Xfer := ⟨0, { Demo.desc with node := 0x80000001 }, 0x900, none, true, 5, 0, 0xC00, true, true, [], [], 0, false⟩
     let x := { x with refused := true }
     let s := Demo.putX s 0 3 x
     let n : Nat := bits b.tag 12 4
     let m : Nat := bits b.tag 10 2
     decide (xferOf s src b.tag = some x ∧ n = bits b.tag 12 4 ∧ m = bits b.tag 10 2 ∧ (x.refused = true ∨ x.srcRead = false) ∧
       x.refused = true)) = true ∧
    (let s := Demo.run
     let src : Coord := unpackCoord 1
     let b : BulkCtl := ⟨0xC00, true, 0⟩
     let x : Xfer := ⟨0, { Demo.desc with node := 0x80000001 }, 0x900, none, true, 5, 0, 0xC00, true, true, [], [], 0, false⟩
     let x := { x with srcRead := false }
     let s := Demo.putX s 0 3 x
     let n : Nat := bits b.tag 12 4
     let m : Nat := bits b.tag 10 2
     let u : State := post (modXfer s n m x.tag fun z => { z with refused := true }) 0 5 (some ⟨x.ctx.toNat, x.ctx.isLt⟩) (.refused b)
     decide (xferOf s src b.tag = some x ∧ n = bits b.tag 12 4 ∧ m = bits b.tag 10 2 ∧ x.refused = false ∧
       (x.srcRead = false ∨ unsent u x.tag = true))) = true ∧
    (let s := Demo.run
     let src : Coord := unpackCoord 1
     let b : BulkCtl := ⟨0xC00, true, 0⟩
     let x : Xfer := ⟨0, { Demo.desc with node := 0x80000001 }, 0x900, none, true, 5, 0, 0xC00, true, true, [], [], 0, false⟩
     let s := Demo.putX s 0 3 x
     let n : Nat := bits b.tag 12 4
     let m : Nat := bits b.tag 10 2
     let u : State := post (modXfer s n m x.tag fun z => { z with refused := true }) 0 5 (some ⟨x.ctx.toNat, x.ctx.isLt⟩) (.refused b)
     decide (xferOf s src b.tag = some x ∧ n = bits b.tag 12 4 ∧ m = bits b.tag 10 2 ∧ x.refused = false ∧ x.srcRead = true ∧
       unsent u x.tag = false)) = true ∧
    (let s := Demo.run
     let src : Coord := unpackCoord 1
     let tag : W16 := 0xC00
     decide (List.find? (sameXfer src tag) s.hut.landing = none)) = true := by decide +kernel

/-- Hypotheses of UnpackerQueuesLanesAndClears, clause by clause. -/
theorem witness_UnpackerQueuesLanesAndClears :
    (let s := Demo.member
     let port : Fin 4 := 0
     let q : PortQueue := s.upk.queues.toList.getD port.val { spilled := [], queued := [], peak := 0 }
     decide (q.spilled = [])) = true ∧
    (let s := Demo.member
     let port : Fin 4 := 0
     let r : QRange := ⟨5, 256, 240⟩
     let rest : List QRange := []
     let s := { s with upk.queues := Vector.replicate 4 ⟨[r], [], 0⟩ }
     let q : PortQueue := s.upk.queues.toList.getD port.val { spilled := [], queued := [], peak := 0 }
     let b : Bool := decide (2 ≤ port.val)
     decide (q.spilled = r :: rest ∧ shelfAt s b r.beat = none)) = true ∧
    (let s := Demo.member
     let port : Fin 4 := 0
     let r : QRange := ⟨5, 256, 240⟩
     let rest : List QRange := []
     let x : Shelf := ⟨Demo.header, 5, 0, false, false, false, none, true, 0, 256, false, [], [], none⟩
     let a : Nat := encAddr false 1 256
     let s := { s with upk.queues := Vector.replicate 4 ⟨[r], [], 0⟩, wrg.arrE := some x, ue := [encAddr false 1 256 / 8] }
     let q : PortQueue := s.upk.queues.toList.getD port.val { spilled := [], queued := [], peak := 0 }
     let b : Bool := decide (2 ≤ port.val)
     decide (q.spilled = r :: rest ∧ shelfAt s b r.beat = some x ∧ encUe s b (BitVec.toNat r.beat % 2) r.off r.len = some a)) = true ∧
    (let s := Demo.member
     let port : Fin 4 := 0
     let r : QRange := ⟨5, 256, 240⟩
     let rest : List QRange := []
     let x : Shelf := ⟨Demo.header, 5, 0, false, false, false, none, true, 0, 256, false, [], [], none⟩
     let s := { s with upk.queues := Vector.replicate 4 ⟨[r], [⟨5, 496, 65400⟩], 0⟩, wrg.arrE := some x }
     let q : PortQueue := s.upk.queues.toList.getD port.val { spilled := [], queued := [], peak := 0 }
     let b : Bool := decide (2 ≤ port.val)
     decide (q.spilled = r :: rest ∧ shelfAt s b r.beat = some x ∧ encUe s b (BitVec.toNat r.beat % 2) r.off r.len = none ∧
       65536 < queueFill q + r.len)) = true ∧
    (let s := Demo.member
     let port : Fin 4 := 0
     let r : QRange := ⟨5, 256, 240⟩
     let rest : List QRange := []
     let x : Shelf := ⟨Demo.header, 5, 0, false, false, false, none, true, 0, 256, false, [], [], none⟩
     let s := { s with upk.queues := Vector.replicate 4 ⟨[r], [⟨5, 496, 65296⟩], 0⟩, wrg.arrE := some x }
     let q : PortQueue := s.upk.queues.toList.getD port.val { spilled := [], queued := [], peak := 0 }
     let b : Bool := decide (2 ≤ port.val)
     decide (q.spilled = r :: rest ∧ shelfAt s b r.beat = some x ∧ encUe s b (BitVec.toNat r.beat % 2) r.off r.len = none ∧
       queueFill q + r.len ≤ 65536 ∧ isRaw x.hdr = false)) = true ∧
    (let s := Demo.member
     let r : QRange := ⟨5, 256, 240⟩
     let rest : List QRange := []
     let x : Shelf := ⟨Demo.header, 5, 0, false, false, false, none, true, 0, 256, false, [], [], none⟩
     let port : Fin 4 := 3
     let x := { x with hdr := splice Demo.header 6 [2, 0] }
     let s := { s with upk.queues := Vector.replicate 4 ⟨[r], [], 0⟩, wrg.arrW := some x }
     let q : PortQueue := s.upk.queues.toList.getD port.val { spilled := [], queued := [], peak := 0 }
     let b : Bool := decide (2 ≤ port.val)
     decide (q.spilled = r :: rest ∧ shelfAt s b r.beat = some x ∧ encUe s b (BitVec.toNat r.beat % 2) r.off r.len = none ∧
       queueFill q + r.len ≤ 65536 ∧ isRaw x.hdr = true)) = true ∧
    (let s := Demo.member
     let west : Bool := false
     let x : Shelf := ⟨Demo.header, 5, 0, false, false, false, none, true, 0, 256, false, [], [], none⟩
     let x := { x with hdr := splice (splice Demo.header 6 [0x12, 0]) 28 (leBytes 4 300), beat := 4 }
     let s := { s with wrg.heldE := some x }
     let l : Nat := 0
     let n : Nat := (nextUnit s west x).getD 0
     decide (decoding s west = some x ∧ freeLane s west = some l ∧ nextUnit s west x = some n ∧ hdrFormat x.hdr / 16 = 1 ∧
       hdrIndexOff x.hdr < x.unitOff + n)) = true ∧
    (let s := Demo.member
     let west : Bool := false
     let x : Shelf := ⟨Demo.header, 5, 0, false, false, false, none, true, 0, 256, false, [], [], none⟩
     let x := { x with beat := 4 }
     let s := { s with wrg.heldE := some x, upk.queues := Vector.replicate 4 ⟨[⟨4, 352, 240⟩], [], 0⟩ }
     let l : Nat := 0
     let n : Nat := (nextUnit s west x).getD 0
     decide (decoding s west = some x ∧ freeLane s west = some l ∧ nextUnit s west x = some n ∧
       (hdrFormat x.hdr / 16 = 1 → x.unitOff + n ≤ hdrIndexOff x.hdr) ∧ inQueue s west x x.unitOff n = false)) = true ∧
    (let s := Demo.member
     let west : Bool := false
     let x : Shelf := ⟨Demo.header, 5, 0, false, false, false, none, true, 0, 256, false, [], [], none⟩
     let x := { x with beat := 4 }
     let s := { s with wrg.heldE := some x }
     let l : Nat := 0
     let n : Nat := (nextUnit s west x).getD 0
     decide (decoding s west = some x ∧ freeLane s west = some l ∧ nextUnit s west x = some n ∧
       (hdrFormat x.hdr / 16 = 1 → x.unitOff + n ≤ hdrIndexOff x.hdr) ∧ inQueue s west x x.unitOff n = true)) = true ∧
    (let s := Demo.member
     let west : Bool := false
     decide ((freeLane s west = none ∨ decoding s west = none))) = true ∧
    (let s := Demo.member
     let lane : Fin 128 := 5
     let y : Lane := ⟨.west, 5, 0, 256, 10⟩
     let s := { s with upk.lanes := vmod s.upk.lanes 5 fun _ => some y }
     let b : Bool := isWest y.stream
     decide (s.upk.lanes.toList.getD lane.val none = some y ∧ shelfAt s b y.beat = none)) = true ∧
    (let s := Demo.member
     let lane : Fin 128 := 5
     let x : Shelf := ⟨Demo.header, 5, 0, false, false, false, none, true, 0, 256, false, [], [], none⟩
     let y : Lane := ⟨.east, 5, 0, 256, 97⟩
     let c : Nat := 2
     let b : Bool := isWest y.stream
     let s := { s with upk.lanes := vmod s.upk.lanes 5 (fun _ => some y), wrg.arrE := some x }
     let w : State := { s with upk := { s.upk with
         lanes := vmod s.upk.lanes lane.val fun _ => none
         queues := Vector.ofFn fun i : Fin 4 =>
           if (2 ≤ i.val) == b then cutRange y.beat y.off y.len (s.upk.queues.get i) else s.upk.queues.get i } }
     let r : Except Nat (List Byte) := if hdrFormat x.hdr / 16 = 1 then decodeBlock x.hdr y.unit (payBytes w b x y.off y.len) else decodeGroup x.hdr (payBytes w b x y.off y.len)
     decide (s.upk.lanes.toList.getD lane.val none = some y ∧ b = isWest y.stream ∧ shelfAt s b y.beat = some x ∧
       (match r with | .error y => y == c | _ => false) = true)) = true ∧
    (let s := Demo.member
     let lane : Fin 128 := 5
     let x : Shelf := ⟨Demo.header, 5, 0, false, false, false, none, true, 0, 256, false, [], [], none⟩
     let y : Lane := ⟨.east, 5, 0, 256, 97⟩
     let b : Bool := isWest y.stream
     let s := { s with upk.lanes := vmod s.upk.lanes 5 (fun _ => some y), wrg.arrE := some x, mem := [(0x1740100, 1)] }
     let w : State := { s with upk := { s.upk with
         lanes := vmod s.upk.lanes lane.val fun _ => none
         queues := Vector.ofFn fun i : Fin 4 =>
           if (2 ≤ i.val) == b then cutRange y.beat y.off y.len (s.upk.queues.get i) else s.upk.queues.get i } }
     let r : Except Nat (List Byte) := if hdrFormat x.hdr / 16 = 1 then decodeBlock x.hdr y.unit (payBytes w b x y.off y.len) else decodeGroup x.hdr (payBytes w b x y.off y.len)
     decide (s.upk.lanes.toList.getD lane.val none = some y ∧ b = isWest y.stream ∧ shelfAt s b y.beat = some x ∧ r.isOk = true)) = true ∧
    (let s := Demo.member
     let via : Via := .pf
     let lane : Fin 128 := 5
     let v : W32 := 0xF00
     decide (s.upk.lanes.toList.getD lane.val none = none ∧ mayWrite s via = true ∧ domainOn s 31 = true ∧ bits v 8 7 < 16)) = true ∧
    (let s := Demo.member
     let via : Via := .pf
     let v : W32 := 0x7000
     decide (mayWrite s via = true ∧ domainOn s 31 = true ∧ 16 ≤ bits v 8 7 ∧ bits v 8 7 ≤ 112 ∧ bits v 8 7 % 8 = 0)) = true := by decide +kernel

/-- Hypotheses of PortsTrainStepByStep, clause by clause. -/
theorem witness_PortsTrainStepByStep :
    (let s := Demo.on
     let port : PortId := 0
     let s := modPort s port.val fun z => { z with state := 2 }
     let s := modPort s port.val fun z => { z with step := 2 }
     let p := port.val
     let q := portAt s p
     decide (q.state = 2 ∧ q.step = 2)) = true ∧
    (let s := Demo.on
     let port : PortId := 0
     let s := modPort s port.val fun z => { z with state := 2 }
     let s := modPort s port.val fun z => { z with step := 3 }
     let power : Vector (BitVec 8) 8 := Vector.replicate 8 0xA5
     let p := port.val
     let q := portAt s p
     decide (q.state = 2 ∧ q.step = 3 ∧ power.toList.any (fun x => decide (x.toInt < -90)) = true)) = true ∧
    (let s := Demo.on
     let port : PortId := 0
     let power : Vector (BitVec 8) 8 := (Vector.replicate 8 0)
     let s := modPort s port.val fun z => { z with state := 2 }
     let s := modPort s port.val fun z => { z with step := 3 }
     let p := port.val
     let q := portAt s p
     decide (q.state = 2 ∧ q.step = 3 ∧ power.toList.all (fun x => decide (-90 ≤ x.toInt ∧ x.toInt ≤ 30)) = true)) = true ∧
    (let s := Demo.on
     let port : PortId := 0
     let s := modPort s port.val fun z => { z with state := 2 }
     let s := modPort s port.val fun z => { z with step := 6 }
     let s := modPort s port.val fun z => { z with echoes := 64 }
     let s := modPort s 0 fun z => { z with echoSum := 0x100000 }
     let p := port.val
     let q := portAt s p
     decide (q.state = 2 ∧ q.step = 6 ∧ q.echoes = 64 ∧ delayLimit s p < (q.echoSum + 128) / 256)) = true ∧
    (let s := Demo.on
     let port : PortId := 0
     let s := modPort s port.val fun z => { z with state := 2 }
     let s := modPort s port.val fun z => { z with step := 6 }
     let s := modPort s port.val fun z => { z with echoes := 64 }
     let p := port.val
     let q := portAt s p
     decide (q.state = 2 ∧ q.step = 6 ∧ q.echoes = 64 ∧ (q.echoSum + 128) / 256 ≤ delayLimit s p)) = true ∧
    (let s := Demo.on
     let port : PortId := 0
     let b : Nat := 4
     let s := modPort s port.val fun z => { z with state := 2 }
     let s := modPort s port.val fun z => { z with step := 7 }
     let s := modPort s port.val fun z => { z with stateValid := true }
     let s := modPort s 0 fun z => { z with peer := some (4, 5, true) }
     let p := port.val
     let q := portAt s p
     decide (q.state = 2 ∧ q.step = 7 ∧ q.stateValid = true) &&
     (match q.peer with
      | some (b__, r, true) =>
         decide (b = b__)
      | _ => false)) = true ∧
    (let s := Demo.on
     let port : PortId := 0
     let s := modPort s port.val fun z => { z with state := 5 }
     let p := port.val
     let q := portAt s p
     decide (q.state = 5)) = true ∧
    (let s := Demo.on
     let port : PortId := 3
     let p : Nat := port.val
     let q : Port := portAt s p
     decide ((q.state ≠ 2 ∨ q.stepHere = true ∨ tableAnchored s = false))) = true ∧
    (let s := Demo.on
     let port : PortId := 3
     let s := modPort s 3 fun q => { q with state := 2, step := 3 }
     let power : Vector (BitVec 8) 8 := Vector.ofFn fun i => if i.val = 7 then -91 else 0
     let p : Nat := port.val
     let q : Port := portAt s p
     decide (q.state = 2 ∧ q.stepHere = false ∧ tableAnchored s = true ∧ q.step = 3 ∧
       (power.toList.any fun x ↦ decide (x.toInt < -90)) = true)) = true ∧
    (let s := Demo.on
     let port : PortId := 3
     let s := modPort s 3 fun q => { q with state := 2, step := 3 }
     let power : Vector (BitVec 8) 8 := Vector.ofFn fun i => if i.val = 7 then 31 else -90
     let p : Nat := port.val
     let q : Port := portAt s p
     decide (q.state = 2 ∧ q.stepHere = false ∧ tableAnchored s = true ∧ q.step = 3 ∧
       (power.toList.any fun x ↦ decide (x.toInt < -90)) = false ∧ (power.toList.any fun x ↦ decide (30 < x.toInt)) = true)) = true ∧
    (let s := Demo.on
     let port : PortId := 3
     let s := modPort s 3 fun q => { q with state := 2, step := 3 }
     let power : Vector (BitVec 8) 8 := Vector.ofFn fun i => if i.val = 7 then 30 else -90
     let p : Nat := port.val
     let q : Port := portAt s p
     decide (q.state = 2 ∧ q.stepHere = false ∧ tableAnchored s = true ∧
       (q.step = 2 ∨ q.step = 3 ∧ (power.toList.all fun x ↦ decide (-90 ≤ x.toInt ∧ x.toInt ≤ 30)) = true ∨ q.step = 4 ∨ q.step = 5 ∨ q.step = 6 ∧ q.echoes = 64 ∧ (q.echoSum + 128) / 256 ≤ delayLimit s p))) = true ∧
    (let s := Demo.on
     let port : PortId := 3
     let s := modPort s 3 fun q => { q with state := 2, step := 6, echoes := 63 }
     let p : Nat := port.val
     let q : Port := portAt s p
     decide (q.state = 2 ∧ q.stepHere = false ∧ tableAnchored s = true ∧ q.step = 6 ∧ q.echoes < 64)) = true ∧
    (let s := Demo.on
     let port : PortId := 3
     let s := modPort s 3 fun q => { q with state := 2, step := 6, echoes := 64, echoSum := 10000000 }
     let p : Nat := port.val
     let q : Port := portAt s p
     decide (q.state = 2 ∧ q.stepHere = false ∧ tableAnchored s = true ∧ q.step = 6 ∧ 64 ≤ q.echoes ∧
       delayLimit s p < (q.echoSum + 128) / 256)) = true ∧
    (let s := Demo.on
     let port : PortId := 3
     let s := modPort s 3 fun q => { q with state := 2, step := 7 }
     let p : Nat := port.val
     let q : Port := portAt s p
     decide (q.state = 2 ∧ q.stepHere = false ∧ tableAnchored s = true ∧ q.step = 7 ∧ q.peer = none)) = true ∧
    (let s := Demo.on
     let port : PortId := 3
     let b : Nat := 1
     let r : Nat := 2
     let v : Bool := true
     let s := modPort s 3 fun q => { q with state := 2, step := 7, peer := some (1, 2, true), peerStep := 6 }
     let p : Nat := port.val
     let q : Port := portAt s p
     decide (q.state = 2 ∧ q.stepHere = false ∧ tableAnchored s = true ∧ q.step = 7 ∧ q.peer = some (b, r, v) ∧ q.peerStep.toNat < 7)) = true ∧
    (let s := Demo.on
     let port : PortId := 3
     let b : Nat := 1
     let r : Nat := 2
     let v : Bool := true
     let s := modPort s 3 fun q => { q with state := 2, step := 7, peer := some (1, 2, true), peerStep := 7 }
     let p : Nat := port.val
     let q : Port := portAt s p
     decide (q.state = 2 ∧ q.stepHere = false ∧ tableAnchored s = true ∧ q.step = 7 ∧ q.peer = some (b, r, v) ∧ 7 ≤ q.peerStep.toNat)) = true ∧
    (let s := Demo.on
     let port : PortId := 3
     let s := modPort s 3 fun q => { q with state := 1, step := 1 }
     let p : Nat := port.val
     let q : Port := portAt s p
     decide (q.state = 1 ∧ q.step = 1 ∧ q.enable = true)) = true ∧
    (let s := Demo.on
     let port : PortId := 3
     let p : Nat := port.val
     let q : Port := portAt s p
     decide (q.state ≠ 1 ∧ q.state ≠ 2 ∧ q.state ≠ 5)) = true := by decide +kernel

/-- Hypotheses of ControlWordsAct, clause by clause. -/
theorem witness_ControlWordsAct :
    (let s := Demo.on
     let port : PortId := 0
     let s := modPort s port.val fun z => { z with inService := false }
     let s := modPort s port.val fun z => { z with state := 1 }
     let p := port.val
     let q := portAt s p
     decide (q.inService = false ∧ (q.state = 1 ∨ q.state = 2 ∨ q.state = 3 ∨ q.state = 4 ∨ q.state = 5))) = true ∧
    (let s := Demo.on
     let port : PortId := 0
     let s := modPort s port.val fun z => { z with inService := true }
     let p := port.val
     let q := portAt s p
     decide (q.inService = true ∨ q.state = 0 ∨ q.state = 7)) = true ∧
    (let s := Demo.on
     let port : PortId := 0
     let s := modPort s port.val fun z => { z with state := 6 }
     let p := port.val
     let q := portAt s p
     decide (q.state = 6)) = true ∧
    (let s := Demo.on
     let port : PortId := 0
     let p := port.val
     let q := portAt s p
     decide (q.state ≠ 6)) = true ∧
    (let s := Demo.on
     let port : PortId := 0
     let step : Nat := 0
     let s := modPort s port.val fun z => { z with state := 2 }
     let s := modPort s port.val fun z => { z with step := 6 }
     let p := port.val
     let q := portAt s p
     decide (q.state = 2 ∧ q.step = 6 ∧ q.echoes < 64)) = true ∧
    (let s := Demo.on
     let port : PortId := 0
     let s := modPort s port.val fun z => { z with state := 3 }
     let p := port.val
     let q := portAt s p
     decide (q.state = 3 ∨ q.state = 4)) = true ∧
    (let s := Demo.on
     let port : PortId := 0
     let s := modPort s port.val fun z => { z with state := 2 }
     let p := port.val
     let q := portAt s p
     decide (q.state = 2 ∨ q.state = 4)) = true ∧
    (let port : PortId := 3
     let s := modPort Demo.on 3 fun q => { q with state := 6 }
     let p : Nat := port.val
     let q : Port := portAt s p
     decide ((q.inService = true ∨ q.state = 0 ∨ q.state = 6 ∨ q.state = 7))) = true ∧
    (let port : PortId := 3
     let s := modPort Demo.on 3 fun q => { q with state := 5 }
     let p : Nat := port.val
     let q : Port := portAt s p
     decide (q.state ≠ 1 ∧ q.state ≠ 2 ∧ q.state ≠ 6 ∧ (q.state ≠ 2 ∨ q.step ≠ 6) ∧ q.state ≠ 3 ∧ q.state ≠ 4 ∧
       (q.state = 0 ∨ q.state = 1 ∨ q.state = 5 ∨ q.state = 7))) = true ∧
    (let port : PortId := 3
     let step : Nat := 5
     let s := modPort Demo.on 3 fun q => { q with state := 2, step := 3 }
     let p : Nat := port.val
     let q : Port := portAt s p
     decide ((q.state = 1 ∨ q.state = 2 ∧ q.stepHere = false))) = true ∧
    (let port : PortId := 3
     let step : Nat := 5
     let s := modPort Demo.on 3 fun q => { q with state := 2, step := 5, stepHere := true }
     let p : Nat := port.val
     let q : Port := portAt s p
     decide (q.state = 2 ∧ q.stepHere = true ∧ tableAnchored s = true ∧ 2 ≤ q.step.toNat ∧ q.step.toNat ≤ 6 ∧ q.step.toNat ≤ step % 16)) = true ∧
    (let port : PortId := 3
     let s := modPort Demo.on 3 fun q => { q with recoveries := [0, 1, 150000] }
     let s := { s with beat.ms := 200000 }
     let p : Nat := port.val
     let q : Port := portAt s p
     decide (q.state = 3 ∧ (List.filter (fun m ↦ decide (BitVec.toNat s.beat.ms < BitVec.toNat m + 100000)) q.recoveries).length < 3)) = true := by decide +kernel

/-- Hypotheses of RetransmissionAndRecovery, clause by clause. -/
theorem witness_RetransmissionAndRecovery :
    (let s := Demo.on
     let port : PortId := 0
     let s := modPort s port.val fun z => { z with state := 3 }
     let p := port.val
     let q := portAt s p
     decide (q.state = 3 ∨ q.state = 4)) = true ∧
    (let s := Demo.on
     let port : PortId := 0
     let prio : Bool := false
     let s := modPort s port.val fun z => { z with state := 3 }
     let p := port.val
     let q := portAt s p
     decide (q.state = 3 ∧ (∀ r ∈ (classOf q prio).retry, r.tries < 8))) = true ∧
    (let s := Demo.on
     let port : PortId := 0
     let prio : Bool := false
     let s := modPort s port.val fun z => { z with state := 3 }
     let r : TxRec := ⟨⟨false, 0, ⟨0,0,0,0⟩, ⟨0,0,0,0⟩, false, 0, false, false, false, 0, 0, .halt ⟨0⟩⟩, 1, false, 5, false⟩
     let s := modPort s 0 fun z => { z with bulk := { z.bulk with retry := [r] }, prio := { z.prio with retry := [r] } }
     let p := port.val
     let q := portAt s p
     decide (q.state = 3 ∧ (q.recoveries.filter fun m => s.beat.ms.toNat < m.toNat + 100000).length < 3 ∧
       (q.bulk.retry.any (timerRuns s p false) = true ∨ q.prio.retry.any (timerRuns s p true) = true))) = true ∧
    (let s := Demo.on
     let port : PortId := 0
     let prio : Bool := false
     let s := modPort s port.val fun z => { z with bulk.retry := [] }
     let s := modPort s port.val fun z => { z with prio.retry := [] }
     let p := port.val
     let q := portAt s p
     decide (q.bulk.retry = [] ∧ q.prio.retry = [])) = true ∧
    (let s := Demo.on
     let port : PortId := 0
     let s := modPort s port.val fun z => { z with state := 4 }
     let s := modPort s 0 fun z => { z with peer := some (4, 5, true) }
     let p := port.val
     let q := portAt s p
     decide (q.state = 4) &&
     (match q.peer with
      | some (b, r, v) =>
         true
      | _ => false)) = true ∧
    (let s := Demo.on
     let port : PortId := 0
     let s := modPort s port.val fun z => { z with state := 4 }
     let s := modPort s port.val fun z => { z with peer := none }
     let p := port.val
     let q := portAt s p
     decide (q.state = 4 ∧ q.peer = none)) = true ∧
    (let port : PortId := 3
     let s := modPort Demo.on 3 fun q => { q with state := 5 }
     let p : Nat := port.val
     let q : Port := portAt s p
     decide (q.state ≠ 3 ∧ q.state ≠ 4 ∧ q.state ≠ 6)) = true ∧
    (let port : PortId := 3
     let s := modPort Demo.on 3 fun q => { q with state := 2 }
     let p : Nat := port.val
     let q : Port := portAt s p
     decide ((q.state ≠ 4 ∨ q.peer = none) ∧ q.state ≠ 4)) = true ∧
    (let port : PortId := 3
     let first : Nat := 4095
     let last : Nat := 1
     let r : TxRec := ⟨{ Demo.frame with seq := 0 }, 8, false, 0, false⟩
     let s := modPort Demo.on 3 fun q => { q with bulk := { q.bulk with retry := [⟨{ Demo.frame with seq := 0 }, 8, false, 0, false⟩] } }
     let p : Nat := port.val
     let q : Port := portAt s p
     decide (q.state = 3 ∧ seqIn r.frame.seq first last = true ∧ r.again = false ∧ 8 ≤ r.tries ∧ isShelf r.frame.body = false)) = true ∧
    (let port : PortId := 3
     let prio : Bool := false
     let first : Nat := 4095
     let last : Nat := 1
     let r : TxRec := ⟨{ Demo.frame with seq := 0, body := .shelf (List.replicate 240 0) }, 8, false, 0, false⟩
     let s := modPort Demo.on 3 fun q => { q with bulk := { q.bulk with retry := [⟨{ Demo.frame with seq := 0, body := .shelf (List.replicate 240 0) }, 8, false, 0, false⟩] } }
     let p : Nat := port.val
     let q : Port := portAt s p
     decide (q.state = 3 ∧ seqIn r.frame.seq first last = true ∧ r.again = false ∧ 8 ≤ r.tries ∧
       (∀ (z : TxRec), z ∈ (classOf q prio).retry → isShelf z.frame.body = true))) = true ∧
    (let port : PortId := 3
     let s := modPort Demo.on 3 fun q => { q with recoveries := [999, 998, 997] }
     let p : Nat := port.val
     let q : Port := portAt s p
     decide (q.state = 3 ∧ 3 ≤ (List.filter (fun m ↦ decide (BitVec.toNat s.beat.ms < BitVec.toNat m + 100000)) q.recoveries).length)) = true ∧
    (let port : PortId := 3
     let b : Nat := 5
     let v : Bool := true
     let r : Nat := 4000
     let s := modPort Demo.on 3 fun q => { q with state := 4, peer := some (5, 4000, true) }
     let p : Nat := port.val
     let q : Port := portAt s p
     decide (q.state = 4 ∧ q.peer = some (b, r, v))) = true := by decide +kernel

/-- Hypotheses of FramesAreTakenInOrder, clause by clause. -/
theorem witness_FramesAreTakenInOrder :
    (let s := Demo.on
     let port : PortId := 0
     let f : Frame := ⟨false, 0, ⟨0, 0, 0, 0⟩, ⟨0, 0, 0, 0⟩, false, 0, false, false, false, 0, 0, (.shelf [])⟩
     let s := modPort s port.val fun z => { z with state := 3 }
     let p := port.val
     let q := portAt s p
     let prio := isPrio f.body
     let c := classOf q prio
     decide (q.state = 3 ∧ c.expected < 4096 ∧ c.held = [] ∧ f.seq = c.expected)) = true ∧
    (let s := Demo.on
     let port : PortId := 0
     let f : Frame := ⟨false, 0, ⟨0, 0, 0, 0⟩, ⟨0, 0, 0, 0⟩, false, 0, false, false, false, 0, 0, (.shelf [])⟩
     let seq : Nat := 0
     let s := modPort s port.val fun z => { z with state := 3 }
     let f := { f with seq := 4095 }
     let p := port.val
     let q := portAt s p
     let prio := isPrio f.body
     let c := classOf q prio
     decide (q.state = 3 ∧ c.expected < 4096 ∧ c.held = [] ∧ f.seq < 4096 ∧ 2048 ≤ seqAfter f.seq c.expected)) = true ∧
    (let s := Demo.on
     let wport : Fin 4 := 0
     let s := modPort s wport.val fun z => { z with state := 3 }
     let s := modPort s wport.val fun z => { z with bulk.held := [] }
     let p := wport.val
     let q := portAt s p
     decide (q.state = 3 ∧ q.bulk.held = [] ∧ q.bulk.expected < 4096) &&
     (let seq := q.bulk.expected
     true)) = true ∧
    (let s := Demo.on
     let wport : Fin 4 := 0
     let s := modPort s wport.val fun z => { z with state := 3 }
     let s := modPort s wport.val fun z => { z with bulk.held := [] }
     let p := wport.val
     let q := portAt s p
     decide (q.state = 3 ∧ q.bulk.held = [] ∧ q.bulk.expected < 4096) &&
     (let next := q.bulk.expected
     true)) = true ∧
    (let word : W64 := 1
     decide (ctlOk word = false)) = true ∧
    (let word : W64 := 0
     decide (ctlOk word = true)) = true ∧
    (let s := Demo.on
     let wport : Fin 4 := 0
     let next : Nat := 2
     let k : Nat := 2
     let p : Nat := wport.val
     let q : Port := portAt s p
     decide (q.state = 3 ∧ q.bulk.held = [] ∧ q.bulk.expected < 4096 ∧ 0 < k ∧ k < 2048 ∧ next = (q.bulk.expected + k) % 4096)) = true := by decide +kernel

/-- Hypotheses of LinkRegistersAct, clause by clause. -/
theorem witness_LinkRegistersAct :
    (let s := Demo.on
     let port : PortId := 0
     let via : Via := .pf
     let s := { s with pwr.on := -1 }
     let v : W32 := 1
     let s := modPort s port.val fun z => { z with enable := false }
     let p := port.val
     let q := portAt s p
     decide (mayWrite s via = true ∧ domainOn s (20 + p) = true ∧ -120 ≤ (v.extractLsb' 8 8).toInt ∧
       (v.extractLsb' 8 8).toInt ≤ 0 ∧ bit v 0 = true ∧ q.enable = false ∧ axisDead s p = false ∧ admittedPort s p = false ∧
       stopped s = false)) = true ∧
    (let s := Demo.on
     let port : PortId := 0
     let via : Via := .pf
     let s := { s with pwr.on := -1 }
     let v : W32 := 1
     let s := modPort s port.val fun z => { z with enable := false }
     let port : PortId := 8
     let s := modPort s port.val fun z => { z with enable := false }
     let p := port.val
     let q := portAt s p
     decide (mayWrite s via = true ∧ domainOn s (20 + p) = true ∧ -120 ≤ (v.extractLsb' 8 8).toInt ∧
       (v.extractLsb' 8 8).toInt ≤ 0 ∧ bit v 0 = true ∧ q.enable = false ∧ axisDead s p = true)) = true ∧
    (let s := Demo.on
     let port : PortId := 0
     let via : Via := .pf
     let s := { s with pwr.on := -1 }
     let v : W32 := 0
     let s := modPort s port.val fun z => { z with enable := true }
     let p := port.val
     let q := portAt s p
     decide (mayWrite s via = true ∧ domainOn s (20 + p) = true ∧ -120 ≤ (v.extractLsb' 8 8).toInt ∧
       (v.extractLsb' 8 8).toInt ≤ 0 ∧ bit v 0 = false ∧ q.enable = true ∧ admittedPort s p = false)) = true ∧
    (let s := Demo.member
     let port : PortId := 0
     let via : Via := .pf
     let s := { s with pwr.on := -1 }
     let v : W32 := 0
     let s := modPort s port.val fun z => { z with enable := true }
     let p := port.val
     let q := portAt s p
     decide (mayWrite s via = true ∧ domainOn s (20 + p) = true ∧ -120 ≤ (v.extractLsb' 8 8).toInt ∧
       (v.extractLsb' 8 8).toInt ≤ 0 ∧ bit v 0 = false ∧ q.enable = true ∧ admittedPort s p = true)) = true ∧
    (let s := Demo.on
     let port : PortId := 0
     let via : Via := .pf
     let s := { s with pwr.on := -1 }
     let v : W32 := 1
     let s := modPort s port.val fun z => { z with enable := true }
     let s := modPort s port.val fun z => { z with state := 3 }
     let p := port.val
     let q := portAt s p
     decide (mayWrite s via = true ∧ domainOn s (20 + p) = true ∧ -120 ≤ (v.extractLsb' 8 8).toInt ∧
       (v.extractLsb' 8 8).toInt ≤ 0 ∧ bit v 0 = true ∧ q.enable = true ∧ admittedPort s p = false ∧ (q.state = 3 ∨
       q.state = 4 ∨ q.state = 5))) = true ∧
    (let s := Demo.on
     let port : PortId := 0
     let via : Via := .pf
     let s := { s with pwr.on := -1 }
     let s := modPort s port.val fun z => { z with enable := true }
     let v : W32 := 1
     let p := port.val
     let q := portAt s p
     decide (mayWrite s via = true ∧ domainOn s (20 + p) = true ∧ -120 ≤ (v.extractLsb' 8 8).toInt ∧
       (v.extractLsb' 8 8).toInt ≤ 0 ∧ bit v 0 = true ∧ q.enable = true ∧ bit v 19 = false)) = true ∧
    (let s := Demo.on
     let port : PortId := 0
     let via : Via := .pf
     let s := { s with pwr.on := -1 }
     let s := modPort s port.val fun z => { z with inService := false }
     let s := modPort s port.val fun z => { z with enable := true }
     let v : W32 := 2
     let p := port.val
     let q := portAt s p
     decide (mayWrite s via = true ∧ domainOn s (20 + p) = true ∧ admittedPort s p = false ∧ q.inService = false ∧
       q.enable = true ∧ q.state ≠ 7 ∧ bits v 0 2 = 2)) = true ∧
    (let s := Demo.on
     let via : Via := .pf
     let s := { s with pwr.on := -1 }
     decide (mayWrite s via = true ∧ domainOn s 30 = true)) = true ∧
    (let s := Demo.on
     let port : PortId := 0
     let s := modPort s port.val fun z => { z with state := 3 }
     let p := port.val
     let q := portAt s p
     decide (q.state = 3 ∨ q.state = 4)) = true ∧
    (let s := Demo.member
     let port : PortId := 3
     let via : Via := .pf
     let v : W32 := 0x0000A001
     let p : Nat := port.val
     let q : Port := portAt s p
     decide (mayWrite s via = true ∧ domainOn s (20 + p) = true ∧ -120 ≤ (BitVec.extractLsb' 8 8 v).toInt ∧
       (BitVec.extractLsb' 8 8 v).toInt ≤ 0 ∧ bit v 0 = true ∧ q.enable = true ∧ admittedPort s p = true)) = true ∧
    (let port : PortId := 3
     let via : Via := .pf
     let v : W32 := 0x0000A001
     let s := { modPort Demo.on 3 fun q => { q with state := 2 } with own.state := 1 }
     let p : Nat := port.val
     let q : Port := portAt s p
     decide (mayWrite s via = true ∧ domainOn s (20 + p) = true ∧ -120 ≤ (BitVec.extractLsb' 8 8 v).toInt ∧
       (BitVec.extractLsb' 8 8 v).toInt ≤ 0 ∧ bit v 0 = true ∧ q.enable = true ∧ admittedPort s p = false ∧ q.state ≠ 3 ∧
       q.state ≠ 4 ∧ q.state ≠ 5)) = true ∧
    (let s := Demo.member
     let port : PortId := 3
     let via : Via := .pf
     let v : W32 := 0x00008701
     let p : Nat := port.val
     let q : Port := portAt s p
     decide (mayWrite s via = true ∧ domainOn s (20 + p) = true ∧ bit v 0 = true ∧ bit v 19 = false ∧ q.enable = true ∧
       ((BitVec.extractLsb' 8 8 v).toInt < -120 ∨ 0 < (BitVec.extractLsb' 8 8 v).toInt))) = true ∧
    (let port : PortId := 3
     let via : Via := .pf
     let s := modPort Demo.on 3 fun q => { q with state := 7 }
     let v : W32 := 0
     let p : Nat := port.val
     let q : Port := portAt s p
     decide (mayWrite s via = true ∧ domainOn s (20 + p) = true ∧ admittedPort s p = false ∧ q.state = 7 ∧ bits v 0 2 = 0)) = true ∧
    (let port : PortId := 3
     let s := modPort Demo.on 3 fun q => { q with state := 2 }
     let p : Nat := port.val
     let q : Port := portAt s p
     decide (q.state ≠ 3 ∧ q.state ≠ 4)) = true := by decide +kernel

/-- Hypotheses of BulkCollectivesMove, clause by clause. -/
theorem witness_BulkCollectivesMove :
    (let s := Demo.group Demo.run 3
     let core : CoreId := 0
     let unit : Fin 4 := 0
     let l : FieldsCL := ⟨0, 0, 3, 0, 0, false, 0⟩
     let i : Isa := .call l
     let td : Option TD := some Demo.td
     let ta : Option TD := some { Demo.td with base := 0x3000 }
     let tb : Option TD := none
     let tc : Option TD := none
     let te : Option TD := none
     let z : W64 := 0
     let r : List QEntry := []
     let x : QEntry := mkEntry 0x1000 (.op i td ta tb tc te z)
     let s := modCore s 0 fun k => modUnit k 0 fun y => { y with queue := [x] }
     decide (((coreAt s core.val).units.toList.getD unit.val CUnit.empty).queue = x :: r ∧ x.work = QWork.op i td ta tb tc te z ∧
       (x.started = false ∨ x.coll.isSome = true))) = true ∧
    (let s := Demo.group Demo.run 3
     let core : CoreId := 0
     let unit : Fin 4 := 0
     let td : Option TD := some Demo.td
     let ta : Option TD := some { Demo.td with base := 0x3000 }
     let tb : Option TD := none
     let tc : Option TD := none
     let te : Option TD := none
     let z : W64 := 0
     let r : List QEntry := []
     let i : Isa := .cpri ⟨0, 1, 3, 0, 0, false, 0⟩
     let x : QEntry := { mkEntry 0x1000 (.op i td ta tb tc te z) with started := true }
     let s := { modCore s 0 (fun k => modUnit k 0 fun y => { y with queue := [x] }) with hut.combines := [⟨3, 0, 0, 5, 0, false, false, some (1, 2), false⟩] }
     let k : GroupEntry := (groupOf s 3).getD ⟨0, false, 0, 0, [], [], 0, 0⟩
     decide (((coreAt s core.val).units.toList.getD unit.val CUnit.empty).queue = x :: r ∧ x.work = QWork.op i td ta tb tc te z ∧
       x.started = true ∧ x.coll = none ∧ (grpOf i).bind (groupOf s) = some k ∧ classBusy s k.id (isCpri x) = true)) = true ∧
    (let s := Demo.group Demo.run 3
     let core : CoreId := 0
     let unit : Fin 4 := 0
     let b : AbortFrame := ⟨3, 0, false, 0⟩
     let l : FieldsCL := ⟨0, 0, 3, 0, 0, false, 0⟩
     let i : Isa := .call l
     let td : Option TD := some Demo.td
     let tb : Option TD := none
     let tc : Option TD := none
     let te : Option TD := none
     let z : W64 := 0
     let r : List QEntry := []
     let ta : Option TD := some { Demo.td with base := 0x1400000 }
     let x : QEntry := { mkEntry 0x1000 (.op i td ta tb tc te z) with started := true }
     let s := { modCore s 0 (fun k => modUnit k 0 fun y => { y with queue := [x] }) with wrg.slots := [⟨0, false, 0, some 3, false⟩] }
     let k : GroupEntry := (groupOf s 3).getD ⟨0, false, 0, 0, [], [], 0, 0⟩
     decide (((coreAt s core.val).units.toList.getD unit.val CUnit.empty).queue = x :: r ∧ x.work = QWork.op i td ta tb tc te z ∧
       x.started = true ∧ x.coll = none ∧ (grpOf i).bind (groupOf s) = some k ∧ classBusy s k.id (isCpri x) = false ∧
       (readStep s core.val unit.val x (ownReads i { d := td, a := ta, b := tb, c := tc, e := te })).refused = true)) = true ∧
    (let s := Demo.group Demo.run 3
     let core : CoreId := 0
     let unit : Fin 4 := 0
     let b : AbortFrame := ⟨3, 0, false, 0⟩
     let l : FieldsCL := ⟨0, 0, 3, 0, 0, false, 0⟩
     let r : List QEntry := []
     let da : TD := Demo.td
     let ta : TD := { Demo.td with base := 0x3000 }
     let d : Option TD := some da
     let a : Option TD := some ta
     let c : Option TD := none
     let e : Option TD := none
     let w : Option TD := none
     let g : W64 := 0
     let x : QEntry := { mkEntry 0x1000 (.op (.call l) d a c e w g) with started := true }
     let s := modCore s 0 fun k => modUnit k 0 fun y => { y with queue := [x] }
     let s := { s with hut.groups := s.hut.groups.map fun y => { y with members := [⟨1, 0, 0, 0⟩] } }
     let k : GroupEntry := (groupOf s 3).getD ⟨0, false, 0, 0, [], [], 0, 0⟩
     decide (((coreAt s core.val).units.toList.getD unit.val CUnit.empty).queue = x :: r ∧
       x.work = QWork.op (Isa.call l) d a c e w g ∧ d = some da ∧ a = some ta ∧ x.started = true ∧ x.coll = none ∧
       (readStep s core.val unit.val x (ownReads (Isa.call l) { d := d, a := a, b := c, c := e, e := w })).refused = false ∧
       groupOf s l.grp.toNat = some k ∧ k.id = l.grp.toNat ∧ classBusy s k.id false = false ∧
       groupRings k.single k.members k.order (selfOf s) = [] ∧
       s.hut.abortsSeen.contains (k.id, (nextSeqs s k.id).fst, false) = false)) = true ∧
    (let s := Demo.group Demo.run 3
     let core : CoreId := 0
     let unit : Fin 4 := 0
     let f : CollFrame := ⟨3, 1, 0, false, false, false, 0, false, 0, 0, List.replicate 32 0⟩
     let engine : Fin 4 := 2
     let via : Via := .pf
     let v : W32 := 0
     decide (((coreAt s core.val).units.toList.getD unit.val CUnit.empty).queue = [] ∧ collAt s f.grp f.seq = none ∧
       s.hut.engines.toList.getD engine.val none = none ∧ mayWrite s via = true ∧ domainOn s 30 = true ∧
       bits (regValue s Via.pf 262160) 0 8 = bits v 0 8)) = true ∧
    (let f : CollFrame := ⟨3, 1, 0, false, false, false, 0, false, 0, 0, List.replicate 32 0⟩
     let b : AbortFrame := ⟨3, 0, false, 0⟩
     let s := Demo.run
     decide (groupOf s f.grp = none ∧ groupOf s b.grp = none)) = true ∧
    (let s := Demo.group Demo.run 3
     let f : CollFrame := ⟨3, 1, 0, false, false, false, 0, false, 0, 0, List.replicate 32 0⟩
     let b : AbortFrame := ⟨3, 0, false, 0⟩
     let k : GroupEntry := (groupOf s 3).getD ⟨0, false, 0, 0, [], [], 0, 0⟩
     let f := { f with seq := (nextSeqs s 3).1 }
     decide (groupOf s f.grp = some k ∧ collAt s f.grp f.seq = none ∧ (nextSeqs s f.grp).fst = f.seq ∧
       s.hut.abortsSeen.contains (f.grp, f.seq, false) = false ∧ groupOf s b.grp = some k)) = true ∧
    (let s := Demo.group Demo.run 3
     let f : CollFrame := ⟨3, 1, 0, false, false, false, 0, false, 0, 0, List.replicate 32 0⟩
     let r : List Phase := []
     let p : Phase := ⟨0, true, 1, 3, ⟨2, 0, 0, 0⟩, ⟨0, 0, 0, 0⟩, [16, 16, 16], 0, false⟩
     let c : Coll := ⟨0, 0, 3, 0, 1, 58, 0, 2, [], [p], List.replicate 48 ⟨0x3F80, false, false⟩, [], [], ⟨0, 1, 0, 0⟩, ⟨0, 1, 0, 0⟩, [], 1,
       none, none, 48, none, false, true, false, false, false, false⟩
     let f := { f with typ := 2, data := List.replicate 8 0 }
     let s := { s with hut.colls := [c] }
     let k : GroupEntry := (groupOf s 3).getD ⟨0, false, 0, 0, [], [], 0, 0⟩
     decide (groupOf s f.grp = some k ∧ collAt s f.grp f.seq = some c ∧ c.phases = p :: r ∧ f.phase = p.code)) = true ∧
    (let s := Demo.group Demo.run 3
     let f : CollFrame := ⟨3, 1, 0, false, false, false, 0, false, 0, 0, List.replicate 32 0⟩
     let z : W64 := 0
     let p : Phase := ⟨0, true, 1, 3, ⟨2, 0, 0, 0⟩, ⟨0, 0, 0, 0⟩, [16, 16, 16], 0, false⟩
     let r : List Phase := [{ p with code := 4, reduce := false }]
     let c : Coll := ⟨0, 0, 3, 0, 1, 58, 0, 2, [], p :: r, List.replicate 48 ⟨0x3F80, false, false⟩, [], [], ⟨0, 1, 0, 0⟩, ⟨0, 1, 0, 0⟩, [], 1,
       none, none, 48, none, false, true, false, false, false, false⟩
     let f := { f with typ := 2, phase := 4, data := List.replicate 8 0 }
     let s := { s with hut.colls := [c] }
     let k : GroupEntry := (groupOf s 3).getD ⟨0, false, 0, 0, [], [], 0, 0⟩
     decide (groupOf s f.grp = some k ∧ collAt s f.grp f.seq = some c ∧ c.phases = p :: r ∧ f.phase ≠ p.code ∧
       (∃ z, z ∈ r ∧ z.code = f.phase))) = true ∧
    (let s := Demo.group Demo.run 3
     let src : Coord := ⟨0, 0, 0, 0⟩
     let f : CollFrame := ⟨3, 1, 0, false, false, false, 0, false, 0, 0, List.replicate 32 0⟩
     let r : List Phase := []
     let p : Phase := ⟨0, true, 1, 3, ⟨2, 0, 0, 0⟩, ⟨0, 0, 0, 0⟩, [16, 16, 16], 0, false⟩
     let c : Coll := ⟨0, 0, 3, 0, 1, 58, 0, 2, [], [p], List.replicate 48 ⟨0x3F80, false, false⟩, [], [], ⟨0, 1, 0, 0⟩, ⟨0, 1, 0, 0⟩, [], 1,
       none, none, 48, none, false, true, false, false, false, false⟩
     let f := { f with phase := 5 }
     let s := { s with hut.colls := [c] }
     decide (collAt s f.grp f.seq = some c ∧ c.phases = p :: r ∧ (f.phase ≠ p.code ∨ src ≠ if f.minus = true then p.plus else p.minus))) = true ∧
    (let s := Demo.group Demo.run 3
     let f : CollFrame := ⟨3, 1, 0, false, false, false, 0, false, 0, 0, List.replicate 32 0⟩
     let r : List Phase := []
     let p : Phase := ⟨0, true, 1, 3, ⟨2, 0, 0, 0⟩, ⟨0, 0, 0, 0⟩, [16, 16, 16], 0, false⟩
     let c : Coll := ⟨0, 0, 3, 0, 1, 58, 0, 2, [], [p], List.replicate 48 ⟨0x3F80, false, false⟩, [], [], ⟨0, 1, 0, 0⟩, ⟨0, 1, 0, 0⟩, [], 1,
       none, none, 48, none, false, true, false, false, false, false⟩
     let s := { s with hut.colls := [c] }
     let src : Coord := if f.minus then p.plus else p.minus
     decide (collAt s f.grp f.seq = some c ∧ c.phases = p :: r ∧ f.phase = p.code ∧ dirOn p f.minus = true ∧
       f.typ = (if p.reduce = true then 0 else 1) ∧ src = (if f.minus = true then p.plus else p.minus) ∧ s.hut.waiting = [] ∧
       s.hut.engines.toList.getD 0 none = none)) = true ∧
    (let s := Demo.group Demo.run 3
     let f : CollFrame := ⟨3, 1, 0, false, false, false, 0, false, 0, 0, List.replicate 32 0⟩
     let l : FieldsCL := ⟨0, 0, 3, 0, 0, false, 0⟩
     let i : Isa := .call l
     let r : List Phase := []
     let p : Phase := ⟨0, true, 1, 3, ⟨2, 0, 0, 0⟩, ⟨0, 0, 0, 0⟩, [16, 16, 16], 0, false⟩
     let c : Coll := ⟨0, 0, 3, 0, 1, 58, 0, 2, [], [p], List.replicate 48 ⟨0x3F80, false, false⟩, [], [], ⟨0, 1, 0, 0⟩, ⟨0, 1, 0, 0⟩, [], 1,
       none, none, 48, none, false, true, false, false, false, false⟩
     let src : Coord := if f.minus then p.plus else p.minus
     let s := { s with hut.colls := [c], hut.engines := Vector.replicate 4 (some (src, f)) }
     decide (collAt s f.grp f.seq = some c ∧ c.phases = p :: r ∧ f.phase = p.code ∧ dirOn p f.minus = true ∧
       f.typ = (if p.reduce = true then 0 else 1) ∧ src = (if f.minus = true then p.plus else p.minus) ∧
       (∀ (i : Nat), i < 4 → (s.hut.engines.toList.getD i none).isSome = true))) = true ∧
    (let s := Demo.group Demo.run 3
     let src : Coord := ⟨0, 0, 0, 0⟩
     let f : CollFrame := ⟨3, 1, 0, false, false, false, 0, false, 0, 0, List.replicate 32 0⟩
     let engine : Fin 4 := 2
     let w : Coord × CollFrame := (src, f)
     let s := { s with hut.engines := Vector.replicate 4 (some (src, f)) }
     decide (s.hut.engines.toList.getD engine.val none = some w ∧ collAt s w.snd.grp w.snd.seq = none ∧ s.hut.waiting = [])) = true ∧
    (let s := Demo.group Demo.run 3
     let src : Coord := ⟨0, 0, 0, 0⟩
     let f : CollFrame := ⟨3, 1, 0, false, false, false, 0, false, 0, 0, List.replicate 32 0⟩
     let engine : Fin 4 := 2
     let r : List Phase := []
     let p : Phase := ⟨0, true, 1, 3, ⟨2, 0, 0, 0⟩, ⟨0, 0, 0, 0⟩, [16, 16, 16], 0, false⟩
     let c : Coll := ⟨0, 0, 3, 0, 1, 58, 0, 2, [], [p], List.replicate 48 ⟨0x3F80, false, false⟩, [], [], ⟨0, 1, 0, 0⟩, ⟨0, 1, 0, 0⟩, [], 1,
       none, none, 48, none, false, true, false, false, false, false⟩
     let w : Coord × CollFrame := (src, f)
     let s := { s with hut.colls := [c], hut.engines := Vector.replicate 4 (some (src, f)) }
     decide (s.hut.engines.toList.getD engine.val none = some w ∧ collAt s w.snd.grp w.snd.seq = some c ∧ c.phases = p :: r ∧
       w.snd.phase = p.code ∧ p.reduce = true)) = true ∧
    (let s := Demo.group Demo.run 3
     let l : List GroupEntry := []
     let s := { s with hut.copying := some [] }
     decide (s.hut.copying = some l)) = true ∧
    (let s := Demo.group Demo.run 3
     let via : Via := .pf
     let v : W32 := 0
     decide (mayWrite s via = true ∧ domainOn s 30 = true ∧ bits (regValue s Via.pf 262160) 0 8 = bits v 0 8)) = true := by decide +kernel

/-- Hypotheses of PriorityCollectivesCombine, clause by clause. -/
theorem witness_PriorityCollectivesCombine :
    (let f : CpriFrame := ⟨3, 7, 1, true, false, 0xFFFFFFFFFFFFFFF0⟩
     let s := Demo.run
     decide (groupOf s f.grp = none)) = true ∧
    (let s := { Demo.group Demo.run 3 with inst.table := some Demo.table, hut.seqs := [(3, 0, 7)] }
     let f : CpriFrame := ⟨3, 7, 1, true, false, 0xFFFFFFFFFFFFFFF0⟩
     let e : GroupEntry := (groupOf s 3).getD ⟨0, false, 0, 0, [], [], 0, 0⟩
     let src : Coord := ⟨3, 0, 0, 0⟩
     decide (groupOf s f.grp = some e ∧
       ((treeChildren e.single e.members e.order (selfOf s)).contains src = false ∨ s.hut.abortsSeen.contains (f.grp, f.seq, true) = true))) = true ∧
    (let s := { Demo.group Demo.run 3 with inst.table := some Demo.table, hut.seqs := [(3, 0, 7)] }
     let src : Coord := ⟨1, 0, 0, 0⟩
     let f : CpriFrame := ⟨3, 7, 1, true, false, 0xFFFFFFFFFFFFFFF0⟩
     let e : GroupEntry := (groupOf s 3).getD ⟨0, false, 0, 0, [], [], 0, 0⟩
     let f := { f with seq := 9 }
     decide (groupOf s f.grp = some e ∧ (treeChildren e.single e.members e.order (selfOf s)).contains src = true ∧
       s.hut.abortsSeen.contains (f.grp, f.seq, true) = false ∧ combineSlot s f.grp f.seq = none ∧
       2 ≤ BitVec.toNat (f.seq - (nextSeqs s f.grp).snd))) = true ∧
    (let s := { Demo.group Demo.run 3 with inst.table := some Demo.table, hut.seqs := [(3, 0, 7)] }
     let src : Coord := ⟨1, 0, 0, 0⟩
     let f : CpriFrame := ⟨3, 7, 1, true, false, 0xFFFFFFFFFFFFFFF0⟩
     let e : GroupEntry := (groupOf s 3).getD ⟨0, false, 0, 0, [], [], 0, 0⟩
     let f := { f with seq := 8 }
     decide (groupOf s f.grp = some e ∧ (treeChildren e.single e.members e.order (selfOf s)).contains src = true ∧
       s.hut.abortsSeen.contains (f.grp, f.seq, true) = false ∧ combineSlot s f.grp f.seq = none ∧
       BitVec.toNat (f.seq - (nextSeqs s f.grp).snd) ≤ 1)) = true ∧
    (let s := { Demo.group Demo.run 3 with inst.table := some Demo.table, hut.seqs := [(3, 0, 7)] }
     let src : Coord := ⟨1, 0, 0, 0⟩
     let f : CpriFrame := ⟨3, 7, 1, true, false, 0xFFFFFFFFFFFFFFF0⟩
     let e : GroupEntry := (groupOf s 3).getD ⟨0, false, 0, 0, [], [], 0, 0⟩
     let b : Combine := ⟨3, 5, 1, 32, 1, false, true, none, false⟩
     let s := { s with hut.combines := [b] }
     decide (groupOf s f.grp = some e ∧ (treeChildren e.single e.members e.order (selfOf s)).contains src = true ∧
       s.hut.abortsSeen.contains (f.grp, f.seq, true) = false ∧ combineSlot s f.grp f.seq = some b ∧
       (b.seq ≠ f.seq ∨ b.op ≠ f.op))) = true ∧
    (let s := { Demo.group Demo.run 3 with inst.table := some Demo.table, hut.seqs := [(3, 0, 7)] }
     let src : Coord := ⟨1, 0, 0, 0⟩
     let f : CpriFrame := ⟨3, 7, 1, true, false, 0xFFFFFFFFFFFFFFF0⟩
     let e : GroupEntry := (groupOf s 3).getD ⟨0, false, 0, 0, [], [], 0, 0⟩
     let b : Combine := ⟨3, 7, 1, 32, 1, false, true, none, false⟩
     let again : Bool := true
     let s := { s with hut.combines := [b] }
     decide (groupOf s f.grp = some e ∧ (treeChildren e.single e.members e.order (selfOf s)).contains src = true ∧
       s.hut.abortsSeen.contains (f.grp, f.seq, true) = false ∧ combineSlot s f.grp f.seq = some b ∧ b.seq = f.seq ∧
       b.op = f.op ∧ b.joined = none ∧ b.heard ≠ 0 ∧ f.op = 1 ∧ (s.hut.resRetry = false ∨ again = true))) = true ∧
    (let s := { Demo.group Demo.run 3 with inst.table := some Demo.table, hut.seqs := [(3, 0, 7)] }
     let src : Coord := ⟨1, 0, 0, 0⟩
     let f : CpriFrame := ⟨3, 7, 1, true, false, 0xFFFFFFFFFFFFFFF0⟩
     let e : GroupEntry := (groupOf s 3).getD ⟨0, false, 0, 0, [], [], 0, 0⟩
     decide (groupOf s f.grp = some e ∧ treeParent e.single e.members e.order (selfOf s) ≠ some src)) = true ∧
    (let s := { Demo.group Demo.run 3 with inst.table := some Demo.table, hut.seqs := [(3, 0, 7)] }
     let f : CpriFrame := ⟨3, 7, 1, true, false, 0xFFFFFFFFFFFFFFF0⟩
     let e : GroupEntry := (groupOf s 3).getD ⟨0, false, 0, 0, [], [], 0, 0⟩
     let b : Combine := ⟨3, 7, 1, 32, 1, false, true, none, false⟩
     let s := { s with inst.table := some { Demo.table with self := ⟨1, 0, 0, 0⟩ } }
     let src : Coord := ⟨0, 0, 0, 0⟩
     decide (groupOf s f.grp = some e ∧ treeParent e.single e.members e.order (selfOf s) = some src ∧
       List.find? (fun b ↦ b.grp == f.grp && b.seq == f.seq) s.hut.combines = none)) = true ∧
    (let s := { Demo.group Demo.run 3 with inst.table := some Demo.table, hut.seqs := [(3, 0, 7)] }
     let f : CpriFrame := ⟨3, 7, 1, true, false, 0xFFFFFFFFFFFFFFF0⟩
     let e : GroupEntry := (groupOf s 3).getD ⟨0, false, 0, 0, [], [], 0, 0⟩
     let b : Combine := ⟨3, 7, 1, 32, 1, false, true, none, false⟩
     let s := { s with inst.table := some { Demo.table with self := ⟨1, 0, 0, 0⟩ }, hut.combines := [b] }
     let src : Coord := ⟨0, 0, 0, 0⟩
     decide (groupOf s f.grp = some e ∧ treeParent e.single e.members e.order (selfOf s) = some src ∧
       List.find? (fun b ↦ b.grp == f.grp && b.seq == f.seq) s.hut.combines = some b ∧ b.joined = none)) = true ∧
    (let s := { Demo.group Demo.run 3 with inst.table := some Demo.table, hut.seqs := [(3, 0, 7)] }
     let f : CpriFrame := ⟨3, 7, 1, true, false, 0xFFFFFFFFFFFFFFF0⟩
     let e : GroupEntry := (groupOf s 3).getD ⟨0, false, 0, 0, [], [], 0, 0⟩
     let b : Combine := ⟨3, 7, 2, 32, 1, false, true, some (4, 2), true⟩
     let s := { s with inst.table := some { Demo.table with self := ⟨1, 0, 0, 0⟩ }, hut.combines := [b] }
     let src : Coord := ⟨0, 0, 0, 0⟩
     let n : Nat := 4
     let u : Nat := 2
     decide (groupOf s f.grp = some e ∧ treeParent e.single e.members e.order (selfOf s) = some src ∧
       List.find? (fun b ↦ b.grp == f.grp && b.seq == f.seq) s.hut.combines = some b ∧ b.joined = some (n, u) ∧ b.op ≠ f.op)) = true ∧
    (let s := { Demo.group Demo.run 3 with inst.table := some Demo.table, hut.seqs := [(3, 0, 7)] }
     let f : CpriFrame := ⟨3, 7, 1, true, false, 0xFFFFFFFFFFFFFFF0⟩
     let e : GroupEntry := (groupOf s 3).getD ⟨0, false, 0, 0, [], [], 0, 0⟩
     let b : Combine := ⟨3, 7, 1, 32, 1, false, true, some (4, 2), true⟩
     let s := { s with inst.table := some { Demo.table with self := ⟨1, 0, 0, 0⟩ }, hut.combines := [b] }
     let src : Coord := ⟨0, 0, 0, 0⟩
     let n : Nat := 4
     let u : Nat := 2
     decide (groupOf s f.grp = some e ∧ treeParent e.single e.members e.order (selfOf s) = some src ∧
       List.find? (fun b ↦ b.grp == f.grp && b.seq == f.seq) s.hut.combines = some b ∧ b.joined = some (n, u) ∧ b.op = f.op)) = true := by decide +kernel

/-- Hypotheses of OwnershipCommandsBindOrAsk, clause by clause. -/
theorem witness_OwnershipCommandsBindOrAsk :
    (let via : Via := .pf
     decide (via = .pf)) = true ∧
    (let via : Via := .i3c
     decide (via = .i3c)) = true ∧
    (let s := Demo.on
     let s := { s with own.valid := false }
     decide (formed s = false)) = true ∧
    (let s := Demo.on
     let via : Via := .pf
     let s := { s with own.valid := true }
     decide (formed s = true ∧ agentOf s via = none)) = true ∧
    (let s := Demo.member
     let via : Via := .pf
     let s := { s with own.valid := true }
     decide (formed s = true) &&
     (match agentOf s via with
      | some g =>
         true
      | _ => false)) = true ∧
    (let s := Demo.on
     let path : PathKind := .pf
     let s := { s with own.awaiting := [⟨.pf, 1, 7⟩] }
     decide (s.own.awaiting.any (fun x => x.path == path) = true)) = true ∧
    (let s := Demo.on
     let path : PathKind := .pf
     decide (s.own.awaiting.any (fun x => x.path == path) = false)) = true := by decide +kernel

/-- Hypotheses of ServiceRootDecides, clause by clause. -/
theorem witness_ServiceRootDecides :
    (let s := Demo.on
     decide (formed s = false)) = true ∧
    (let s := Demo.member
     let p : Coord := ⟨1, 0, 0, 0⟩
     let s := { s with own.serviceRoot := some ⟨1, 0, 0, 0⟩, own.parent := some ⟨1, 0, 0, 0⟩ }
     decide (formed s = true ∧ isRoot s = false ∧ s.own.parent = some p)) = true ∧
    (let s := Demo.member
     let s := { s with glb.confirmed := false }
     decide (formed s = true ∧ isRoot s = true ∧ s.glb.confirmed = false)) = true ∧
    (let s := Demo.member
     let f : ReqFrame := ⟨1, 2, 0, 7, 0, 1000, ⟨0, 0, 0, 0⟩⟩
     let s := { s with own.root.state := 1 }
     let r : RootView := s.own.root
     let e : W64 := effectiveBeat s
     decide (formed s = true ∧ isRoot s = true ∧ s.glb.confirmed = true ∧ r = s.own.root ∧ e = effectiveBeat s ∧ f.kind = 1 ∧
       r.state = 1)) = true ∧
    (let s := Demo.member
     let f : ReqFrame := ⟨1, 2, 0, 7, 0, 1000, ⟨0, 0, 0, 0⟩⟩
     let s := { s with own.root.state := 2, own.root.electEnd := 1000 }
     let r : RootView := s.own.root
     let e : W64 := effectiveBeat s
     decide (formed s = true ∧ isRoot s = true ∧ s.glb.confirmed = true ∧ r = s.own.root ∧ e = effectiveBeat s ∧ f.kind = 1 ∧
       r.state = 2 ∧ BitVec.toNat s.beat.ms ≤ BitVec.toNat r.electEnd)) = true ∧
    (let s := Demo.member
     let f : ReqFrame := ⟨1, 2, 0, 7, 0, 1000, ⟨0, 0, 0, 0⟩⟩
     let s := { s with own.root.state := 2, own.root.electEnd := 999 }
     let r : RootView := s.own.root
     let e : W64 := effectiveBeat s
     decide (formed s = true ∧ isRoot s = true ∧ s.glb.confirmed = true ∧ r = s.own.root ∧ e = effectiveBeat s ∧ f.kind = 1 ∧
       r.state = 2 ∧ BitVec.toNat r.electEnd < BitVec.toNat s.beat.ms)) = true ∧
    (let s := Demo.member
     let f : ReqFrame := ⟨1, 2, 0, 7, 0, 1000, ⟨0, 0, 0, 0⟩⟩
     let f := { f with agent := 8 }
     let r : RootView := s.own.root
     let e : W64 := effectiveBeat s
     decide (formed s = true ∧ isRoot s = true ∧ s.glb.confirmed = true ∧ r = s.own.root ∧ e = effectiveBeat s ∧ f.kind = 1 ∧
       hasOwner r.state = true ∧ r.owner ≠ f.agent)) = true ∧
    (let s := Demo.member
     let f : ReqFrame := ⟨1, 2, 0, 7, 0, 1000, ⟨0, 0, 0, 0⟩⟩
     let r : RootView := s.own.root
     let e : W64 := effectiveBeat s
     let mine : Bool := (hasOwner r.state && r.owner == f.agent)
     decide (formed s = true ∧ isRoot s = true ∧ s.glb.confirmed = true ∧ r = s.own.root ∧ e = effectiveBeat s ∧
       (f.kind = 2 ∨ f.kind = 1) ∧ mine = true ∧ startOfBeat s (BitVec.toNat e) ≤ BitVec.toNat r.leaseX)) = true ∧
    (let s := Demo.member
     let f : ReqFrame := ⟨1, 2, 0, 7, 0, 1000, ⟨0, 0, 0, 0⟩⟩
     let f := { f with kind := 2 }
     let s := { s with own.root.leaseX := 1000 }
     let r : RootView := s.own.root
     let e : W64 := effectiveBeat s
     let mine : Bool := (hasOwner r.state && r.owner == f.agent)
     decide (formed s = true ∧ isRoot s = true ∧ s.glb.confirmed = true ∧ r = s.own.root ∧ e = effectiveBeat s ∧
       (f.kind = 2 ∨ f.kind = 1) ∧ mine = true ∧ BitVec.toNat r.leaseX < startOfBeat s (BitVec.toNat e))) = true ∧
    (let s := Demo.member
     let f : ReqFrame := ⟨1, 2, 0, 7, 0, 1000, ⟨0, 0, 0, 0⟩⟩
     let f := { f with kind := 4, agent := 8 }
     let r : RootView := s.own.root
     let e : W64 := effectiveBeat s
     let mine : Bool := (hasOwner r.state && r.owner == f.agent)
     decide (formed s = true ∧ isRoot s = true ∧ s.glb.confirmed = true ∧ r = s.own.root ∧ e = effectiveBeat s ∧
       (f.kind = 2 ∨ f.kind = 3 ∨ f.kind = 4) ∧ mine = false)) = true ∧
    (let s := Demo.member
     let f : ReqFrame := ⟨1, 2, 0, 7, 0, 1000, ⟨0, 0, 0, 0⟩⟩
     let f := { f with kind := 3 }
     let r : RootView := s.own.root
     let e : W64 := effectiveBeat s
     let mine : Bool := (hasOwner r.state && r.owner == f.agent)
     decide (formed s = true ∧ isRoot s = true ∧ s.glb.confirmed = true ∧ r = s.own.root ∧ e = effectiveBeat s ∧ f.kind = 3 ∧
       mine = true)) = true ∧
    (let s := Demo.member
     let f : ReqFrame := ⟨1, 2, 0, 7, 0, 1000, ⟨0, 0, 0, 0⟩⟩
     let f := { f with kind := 4, arg := 0x5000007 }
     let r : RootView := s.own.root
     let e : W64 := effectiveBeat s
     let a : Agent := f.arg.setWidth 24
     let mine : Bool := (hasOwner r.state && r.owner == f.agent)
     decide (formed s = true ∧ isRoot s = true ∧ s.glb.confirmed = true ∧ r = s.own.root ∧ e = effectiveBeat s ∧ f.kind = 4 ∧
       mine = true ∧ a = BitVec.setWidth 24 f.arg ∧ (a = 0 ∨ a = r.owner ∨ a = 16777215))) = true ∧
    (let s := Demo.member
     let f : ReqFrame := ⟨1, 2, 0, 7, 0, 1000, ⟨0, 0, 0, 0⟩⟩
     let f := { f with kind := 4, arg := 0x5000008 }
     let r : RootView := s.own.root
     let e : W64 := effectiveBeat s
     let a : Agent := f.arg.setWidth 24
     let mine : Bool := (hasOwner r.state && r.owner == f.agent)
     decide (formed s = true ∧ isRoot s = true ∧ s.glb.confirmed = true ∧ r = s.own.root ∧ e = effectiveBeat s ∧ f.kind = 4 ∧
       mine = true ∧ a = BitVec.setWidth 24 f.arg ∧ a ≠ 0 ∧ a ≠ r.owner ∧ a ≠ 16777215)) = true ∧
    (let s := Demo.member
     let f : ReqFrame := ⟨1, 2, 0, 7, 0, 1000, ⟨0, 0, 0, 0⟩⟩
     let f := { f with kind := 5 }
     let s := { s with own.root.state := 2 }
     let r : RootView := s.own.root
     let e : W64 := effectiveBeat s
     decide (formed s = true ∧ isRoot s = true ∧ s.glb.confirmed = true ∧ r = s.own.root ∧ e = effectiveBeat s ∧ f.kind = 5 ∧
       hasOwner r.state = false)) = true ∧
    (let s := Demo.member
     let f : ReqFrame := ⟨1, 2, 0, 7, 0, 1000, ⟨0, 0, 0, 0⟩⟩
     let f := { f with kind := 5 }
     let s := { s with own.root.force := some (9, 500) }
     let r : RootView := s.own.root
     let e : W64 := effectiveBeat s
     decide (formed s = true ∧ isRoot s = true ∧ s.glb.confirmed = true ∧ r = s.own.root ∧ e = effectiveBeat s ∧ f.kind = 5 ∧
       hasOwner r.state = true ∧ r.force.isSome = true)) = true ∧
    (let s := Demo.member
     let f : ReqFrame := ⟨1, 2, 0, 7, 0, 1000, ⟨0, 0, 0, 0⟩⟩
     let f := { f with kind := 5 }
     let r : RootView := s.own.root
     let e : W64 := effectiveBeat s
     decide (formed s = true ∧ isRoot s = true ∧ s.glb.confirmed = true ∧ r = s.own.root ∧ e = effectiveBeat s ∧ f.kind = 5 ∧
       hasOwner r.state = true ∧ r.force = none)) = true ∧
    (let s := Demo.member
     let f : ReqFrame := ⟨1, 2, 0, 7, 0, 1000, ⟨0, 0, 0, 0⟩⟩
     let f := { f with kind := 6 }
     let r : RootView := s.own.root
     let e : W64 := effectiveBeat s
     decide (formed s = true ∧ isRoot s = true ∧ s.glb.confirmed = true ∧ r = s.own.root ∧ e = effectiveBeat s ∧ f.kind = 6 ∧
       r.force = none)) = true ∧
    (let s := Demo.member
     let f : ReqFrame := ⟨1, 2, 0, 7, 0, 1000, ⟨0, 0, 0, 0⟩⟩
     let a : Agent := 9
     let m : W64 := 500
     let f := { f with kind := 6, ms := 30000501 }
     let s := { s with own.root.force := some (9, 500), own.root.state := 4 }
     let r : RootView := s.own.root
     let e : W64 := effectiveBeat s
     decide (formed s = true ∧ isRoot s = true ∧ s.glb.confirmed = true ∧ r = s.own.root ∧ e = effectiveBeat s ∧ f.kind = 6 ∧
       r.force = some (a, m) ∧ BitVec.toNat m + 30000000 < BitVec.toNat f.ms)) = true ∧
    (let s := Demo.member
     let f : ReqFrame := ⟨1, 2, 0, 7, 0, 1000, ⟨0, 0, 0, 0⟩⟩
     let a : Agent := 9
     let m : W64 := 500
     let f := { f with kind := 6, ms := 30000500 }
     let s := { s with own.root.force := some (9, 500), own.root.state := 4 }
     let r : RootView := s.own.root
     let e : W64 := effectiveBeat s
     decide (formed s = true ∧ isRoot s = true ∧ s.glb.confirmed = true ∧ r = s.own.root ∧ e = effectiveBeat s ∧ f.kind = 6 ∧
       r.force = some (a, m) ∧ BitVec.toNat f.ms ≤ BitVec.toNat m + 30000000)) = true ∧
    (let s := Demo.member
     let f : ReqFrame := ⟨1, 2, 0, 7, 0, 1000, ⟨0, 0, 0, 0⟩⟩
     let c : Nat × List Nat × BitVec 4 := (8, [1], 2)
     let f := { f with kind := 8 }
     let s := { s with own.root.stage := 1 }
     let r : RootView := s.own.root
     let e : W64 := effectiveBeat s
     let mine : Bool := (hasOwner r.state && r.owner == f.agent)
     decide (formed s = true ∧ isRoot s = true ∧ s.glb.confirmed = true ∧ r = s.own.root ∧ e = effectiveBeat s ∧ f.kind = c.fst ∧
       mine = true ∧ r.stage.toNat ∈ c.snd.fst)) = true ∧
    (let s := Demo.member
     let f : ReqFrame := ⟨1, 2, 0, 7, 0, 1000, ⟨0, 0, 0, 0⟩⟩
     let c : Nat × List Nat × BitVec 4 := (10, [1, 2, 3], 0)
     let f := { f with kind := 10 }
     let s := { s with own.root.stage := 4 }
     let r : RootView := s.own.root
     let e : W64 := effectiveBeat s
     let mine : Bool := (hasOwner r.state && r.owner == f.agent)
     decide (formed s = true ∧ isRoot s = true ∧ s.glb.confirmed = true ∧ r = s.own.root ∧ e = effectiveBeat s ∧ f.kind = c.fst ∧
       (mine = false ∨ ¬r.stage.toNat ∈ c.snd.fst))) = true ∧
    (let s := Demo.member
     let f : ReqFrame := ⟨1, 2, 0, 7, 0, 1000, ⟨0, 0, 0, 0⟩⟩
     let f := { f with kind := 9, arg := 5000 }
     let b : Nat := startOfBeat s f.arg.toNat
     let r : RootView := s.own.root
     let e : W64 := effectiveBeat s
     decide (formed s = true ∧ isRoot s = true ∧ s.glb.confirmed = true ∧ r = s.own.root ∧ e = effectiveBeat s ∧ f.kind = 9 ∧
       b = startOfBeat s (BitVec.toNat f.arg) ∧ r.stage ≠ 3)) = true ∧
    (let s := Demo.member
     let f : ReqFrame := ⟨1, 2, 0, 7, 0, 1000, ⟨0, 0, 0, 0⟩⟩
     let f := { f with kind := 9, arg := 5 }
     let s := { s with own.root.stage := 3, own.svcLat := 10 }
     let b : Nat := startOfBeat s f.arg.toNat
     let r : RootView := s.own.root
     let e : W64 := effectiveBeat s
     decide (formed s = true ∧ isRoot s = true ∧ s.glb.confirmed = true ∧ r = s.own.root ∧ e = effectiveBeat s ∧ f.kind = 9 ∧
       b = startOfBeat s (BitVec.toNat f.arg) ∧ r.stage = 3 ∧ b < BitVec.toNat s.beat.ms + BitVec.toNat s.own.svcLat)) = true ∧
    (let s := Demo.member
     let f : ReqFrame := ⟨1, 2, 0, 7, 0, 1000, ⟨0, 0, 0, 0⟩⟩
     let f := { f with kind := 9, arg := 1100000 }
     let s := { s with own.root.stage := 3 }
     let b : Nat := startOfBeat s f.arg.toNat
     let r : RootView := s.own.root
     let e : W64 := effectiveBeat s
     decide (formed s = true ∧ isRoot s = true ∧ s.glb.confirmed = true ∧ r = s.own.root ∧ e = effectiveBeat s ∧ f.kind = 9 ∧
       b = startOfBeat s (BitVec.toNat f.arg) ∧ r.stage = 3 ∧ BitVec.toNat s.beat.ms + BitVec.toNat s.own.svcLat ≤ b ∧
       BitVec.toNat s.beat.ms + 1000000 < b)) = true ∧
    (let s := Demo.member
     let f : ReqFrame := ⟨1, 2, 0, 7, 0, 1000, ⟨0, 0, 0, 0⟩⟩
     let f := { f with kind := 9, arg := 1000 }
     let s := { s with own.root.stage := 3 }
     let b : Nat := startOfBeat s f.arg.toNat
     let r : RootView := s.own.root
     let e : W64 := effectiveBeat s
     decide (formed s = true ∧ isRoot s = true ∧ s.glb.confirmed = true ∧ r = s.own.root ∧ e = effectiveBeat s ∧ f.kind = 9 ∧
       b = startOfBeat s (BitVec.toNat f.arg) ∧ r.stage = 3 ∧ BitVec.toNat s.beat.ms + BitVec.toNat s.own.svcLat ≤ b ∧
       b ≤ BitVec.toNat s.beat.ms + 1000000)) = true := by decide +kernel

/-- Hypotheses of OrdersElectionsAndLeases, clause by clause. -/
theorem witness_OrdersElectionsAndLeases :
    (let s := Demo.on
     let f : OrderFrame := ⟨0, 0, 0, 0, 0, 0, ⟨0, 0, 0, 0⟩⟩
     let s := { s with own.valid := true }
     let f := { f with seq := s.own.nextSeq }
     let s := { s with own.orders := [] }
     decide (formed s = true ∧ isRefusal f = false ∧ f.seq = s.own.nextSeq ∧ s.own.orders = [])) = true ∧
    (let s := Demo.member
     let f : OrderFrame := ⟨0, 0, 0, 0, 0, 0, ⟨0, 0, 0, 0⟩⟩
     let s := { s with own.valid := true }
     decide (formed s = true ∧ isRefusal f = false ∧ 2 ^ 15 ≤ (f.seq - s.own.nextSeq).toNat)) = true ∧
    (let s := Demo.on
     let f : OrderFrame := ⟨0, 0, 0, 0, 0, 0, ⟨0, 0, 0, 0⟩⟩
     let s := { s with own.valid := true, own.orders := [f], own.nextSeq := f.seq + 1, beat.count := f.effective }
     let f := { f with kind := 3 }
     let s := { s with own.orders := [f] }
     decide (formed s = true ∧ s.own.orders = [f] ∧ s.own.nextSeq = f.seq + 1 ∧ s.beat.count = f.effective ∧ f.kind = 3)) = true ∧
    (let s := Demo.on
     let f : OrderFrame := ⟨0, 0, 0, 0, 0, 0, ⟨0, 0, 0, 0⟩⟩
     let s := { s with own.valid := true, own.orders := [f], own.nextSeq := f.seq + 1, beat.count := f.effective }
     let f := { f with kind := 12 }
     let s := { s with own.orders := [f] }
     decide (formed s = true ∧ s.own.orders = [f] ∧ s.own.nextSeq = f.seq + 1 ∧ s.beat.count = f.effective ∧ f.kind = 12)) = true ∧
    (let s := Demo.on
     let s := { s with own.valid := true, own.orders := [] }
     decide (formed s = true ∧ s.own.orders = [])) = true ∧
    (let s := Demo.on
     let s := { s with own.valid := true, own.root.state := 2 }
     let s := { s with
       own.serviceRoot := some (selfOf s), own.root := { s.own.root with state := 2, claims := [(7, 2), (5, 2), (9, 1)].drop 0, electEnd := 0 } }
     let ap : Agent × Nat := s.own.root.claims.foldl (fun b c => if b.2 < c.2 || (b.2 == c.2 &&
       c.1.toNat < b.1.toNat) then c else b) (0, 0)
     let a := ap.1
     let p := ap.2
     let s := { s with own.serviceRoot := some (selfOf s) }
     decide (formed s = true ∧ isRoot s = true ∧ s.own.root.state = 2 ∧ s.own.root.electEnd.toNat ≤ s.beat.ms.toNat ∧ (a,
       p) ∈ s.own.root.claims ∧ (∀ c ∈ s.own.root.claims, c = (a, p) ∨ c.2 < p ∨ (c.2 = p ∧ a.toNat < c.1.toNat)))) = true ∧
    (let s := Demo.member
     let s := { s with own.valid := true, own.leaseX := some 1000 }
     decide (formed s = true ∧ hasOwner s.own.state = true) &&
     (match s.own.leaseX with
      | some x =>
         decide (x.toNat ≤ s.beat.startMs.toNat)
      | _ => false)) = true ∧
    (let s := Demo.member
     let s := { s with own.valid := true }
     decide (formed s = true ∧ hasOwner s.own.state = true) &&
     (match s.own.leaseX with
      | some x =>
         decide (s.beat.startMs.toNat < x.toNat)
      | _ => false)) = true ∧
    (let s := Demo.on
     decide (formed s = false)) = true ∧
    (let s := Demo.member
     let f : OrderFrame := ⟨2, 0, 4, 7, 0, 5, ⟨0, 0, 0, 0⟩⟩
     let f := { f with result := 3, effective := 0 }
     decide (formed s = true ∧ isRefusal f = true ∧ f.entry = selfOf s)) = true ∧
    (let s := Demo.member
     let f : OrderFrame := ⟨2, 0, 4, 7, 0, 5, ⟨0, 0, 0, 0⟩⟩
     let f := { f with result := 3, effective := 0, entry := ⟨1, 0, 0, 0⟩ }
     decide (formed s = true ∧ isRefusal f = true ∧ f.entry ≠ selfOf s)) = true ∧
    (let s := Demo.member
     let f : OrderFrame := ⟨2, 0, 4, 7, 0, 5, ⟨0, 0, 0, 0⟩⟩
     let f := { f with effective := 6 }
     let s := { s with own.orders := [f], own.nextSeq := f.seq + 1 }
     decide (formed s = true ∧ s.own.orders = [f] ∧ s.own.nextSeq = f.seq + 1 ∧ BitVec.toNat s.beat.count < BitVec.toNat f.effective)) = true ∧
    (let s := Demo.member
     let f : OrderFrame := ⟨2, 0, 4, 7, 0, 5, ⟨0, 0, 0, 0⟩⟩
     let f := { f with kind := 4 }
     let s := { s with own.orders := [f], own.nextSeq := f.seq + 1 }
     decide (formed s = true ∧ s.own.orders = [f] ∧ s.own.nextSeq = f.seq + 1 ∧ s.beat.count = f.effective ∧
       (f.kind = 11 ∨ f.kind = 4) ∧ s.own.stage.commitAt = none)) = true ∧
    (let s := Demo.member
     let f : OrderFrame := ⟨2, 0, 4, 7, 0, 5, ⟨0, 0, 0, 0⟩⟩
     let s := { s with own.orders := [f], own.nextSeq := f.seq + 1 }
     decide (formed s = true ∧ s.own.orders = [f] ∧ s.own.nextSeq = f.seq + 1 ∧ s.beat.count = f.effective ∧ f.kind = 2 ∧
       hasOwner s.own.state = true)) = true ∧
    (let s := Demo.member
     let f : OrderFrame := ⟨2, 0, 4, 7, 0, 5, ⟨0, 0, 0, 0⟩⟩
     let f := { f with kind := 5, arg := 900 }
     let s := { s with own.orders := [f], own.nextSeq := f.seq + 1 }
     decide (formed s = true ∧ s.own.orders = [f] ∧ s.own.nextSeq = f.seq + 1 ∧ s.beat.count = f.effective ∧ f.kind = 5)) = true ∧
    (let s := Demo.member
     let f : OrderFrame := ⟨2, 0, 4, 7, 0, 5, ⟨0, 0, 0, 0⟩⟩
     let f := { f with kind := 7 }
     let s := { s with own.orders := [f], own.nextSeq := f.seq + 1 }
     decide (formed s = true ∧ s.own.orders = [f] ∧ s.own.nextSeq = f.seq + 1 ∧ s.beat.count = f.effective ∧ f.kind = 7)) = true ∧
    (let s := Demo.member
     let f : OrderFrame := ⟨2, 0, 4, 7, 0, 5, ⟨0, 0, 0, 0⟩⟩
     let f := { f with kind := 9, arg := 50 }
     let s := { s with own.orders := [f], own.nextSeq := f.seq + 1, own.stage.state := 3 }
     decide (formed s = true ∧ s.own.orders = [f] ∧ s.own.nextSeq = f.seq + 1 ∧ s.beat.count = f.effective ∧ f.kind = 9 ∧
       s.own.stage.state = 3)) = true ∧
    (let s := Demo.member
     let f : OrderFrame := ⟨2, 0, 4, 7, 0, 5, ⟨0, 0, 0, 0⟩⟩
     let f := { f with kind := 10 }
     let s := { s with own.orders := [f], own.nextSeq := f.seq + 1, own.stage.state := 2 }
     decide (formed s = true ∧ s.own.orders = [f] ∧ s.own.nextSeq = f.seq + 1 ∧ s.beat.count = f.effective ∧ f.kind = 10 ∧
       s.own.stage.state ≠ 4)) = true ∧
    (let s := Demo.member
     let s := { s with own.root.state := 2, own.root.electEnd := 1001 }
     decide (formed s = true ∧ (isRoot s = false ∨ s.own.root.state ≠ 2 ∨ BitVec.toNat s.beat.ms < BitVec.toNat s.own.root.electEnd))) = true ∧
    (let s := Demo.member
     let s := { s with own.leaseX := none }
     decide (formed s = true ∧ s.own.leaseX = none)) = true ∧
    (let s := Demo.member
     decide (formed s = true ∧ s.own.force = none ∧ s.own.root.force = none)) = true := by decide +kernel

/-- Hypotheses of ButtonAndSealPlug, clause by clause. -/
theorem witness_ButtonAndSealPlug :
    (let s := Demo.on
     let s := { s with own.sealing.button := false }
     decide (s.own.sealing.button = false)) = true ∧
    (let s := Demo.on
     let s := { s with own.sealing.button := true, own.sealing.counted := false, own.valid := false }
     decide (s.own.sealing.button = true ∧ s.own.sealing.counted = false ∧ (formed s = false ∨ slotZero s = false))) = true ∧
    (let s := Demo.on
     let s := { s with own.sealing.button := true, own.sealing.counted := false, own.valid := true }
     decide (s.own.sealing.button = true ∧ s.own.sealing.counted = false ∧ formed s = true ∧ slotZero s = true)) = true ∧
    (let s := Demo.on
     let s := { s with own.sealing.counted := true }
     decide (s.own.sealing.counted = true)) = true ∧
    (let s := Demo.on
     let s := { s with own.sealing.plug := true }
     decide (s.own.sealing.plug = true)) = true ∧
    (let s := Demo.on
     let s := { s with own.sealing.removing := true }
     decide (s.own.sealing.removing = true)) = true ∧
    (let s := Demo.on
     let s := { s with own.sealing.removing := false }
     decide (s.own.sealing.removing = false)) = true ∧
    (let s := Demo.on
     let s := { s with own.sealing.plug := false }
     decide (s.own.sealing.plug = false)) = true := by decide +kernel

/-- Hypotheses of StagedChanges, clause by clause. -/
theorem witness_StagedChanges :
    (let s := Demo.on
     let via : Via := .pf
     let v : W32 := 0
     let s := { s with own.valid := false }
     let v := Demo.put (Demo.put v 16 9 (bits (regValue s .pf 0x20020) 16 9)) 4 1 (bit (regValue s .pf 0x20020) 4).toNat
     decide (mayWrite s via = true ∧ bits (regValue s .pf 0x20020) 16 9 = bits v 16 9 ∧
       bit (regValue s .pf 0x20020) 4 = bit v 4 ∧ formed s = false)) = true ∧
    (let s := Demo.member
     let via : Via := .pf
     let v : W32 := 0
     let s := { s with own.valid := true }
     let v := Demo.put (Demo.put v 16 9 (bits (regValue s .pf 0x20020) 16 9)) 4 1 (bit (regValue s .pf 0x20020) 4).toNat
     decide (mayWrite s via = true ∧ bits (regValue s .pf 0x20020) 16 9 = bits v 16 9 ∧
       bit (regValue s .pf 0x20020) 4 = bit v 4 ∧ formed s = true) &&
     (let c := (Instr.openChange via v, 7, [0])
      decide (s.own.stage.state.toNat ∈ c.2.2))) = true ∧
    (let s := Demo.on
     let via : Via := .pf
     let v : W32 := 0
     let s := { s with own.valid := true }
     let s := { s with own.valid := true }
     let v := Demo.put (Demo.put v 16 9 (bits (regValue s .pf 0x20020) 16 9)) 4 1 (bit (regValue s .pf 0x20020) 4).toNat
     let s : State := { Demo.member with own.stage.state := 4 }
     decide (mayWrite s via = true ∧ bits (regValue s .pf 0x20020) 16 9 = bits v 16 9 ∧
       bit (regValue s .pf 0x20020) 4 = bit v 4 ∧ formed s = true) &&
     (let c := (Instr.openChange via v, 7, [0])
      decide (s.own.stage.state.toNat ∉ c.2.2))) = true ∧
    (let s := Demo.member
     let via : Via := .pf
     let v : W32 := 0x2000
     let s := { s with own.valid := true, own.stage.state := 1 }
     decide (mayWrite s via = true ∧ formed s = true ∧ (v.extractLsb' 8 8 : Byte) ≠ nextM1 s ∧ s.own.stage.state = 1 ∧
       minM1 s ≤ (v.extractLsb' 8 8).toNat)) = true ∧
    (let s := Demo.member
     let via : Via := .pf
     let v : W32 := 0
     let s := { s with own.valid := true, own.stage.state := 3 }
     decide (mayWrite s via = true ∧ formed s = true ∧ (v.extractLsb' 8 8 : Byte) ≠ nextM1 s ∧ s.own.stage.state = 3)) = true ∧
    (let s := Demo.member
     let f : VoteFrame := ⟨0, 0, ⟨0, 0, 0, 0⟩, 0, 0, 0⟩
     let s := { s with own.valid := true }
     let f := { f with change := s.own.stage.change.setWidth 16 }
     decide (formed s = true ∧ f.change = s.own.stage.change.setWidth 16 ∧ s.own.stage.votes + 1 < s.own.children.length)) = true ∧
    (let s := Demo.member
     let s := { s with own.stage.checking := true, own.stage.state := 2 }
     decide (s.own.stage.checking = true ∧ s.own.stage.state = 2 ∧ s.own.stage.votes < s.own.children.length)) = true ∧
    (let s := Demo.on
     let s := { s with own.stage.state := 4, own.stage.commitAt := some 6 }
     (match s.own.stage.commitAt with
      | some b =>
         decide (s.own.stage.state = 4 ∧ s.beat.count.toNat < b.toNat)
      | _ => false)) = true ∧
    (let s := Demo.on
     let s := { s with own.stage.state := 4 }
     let s := { s with
       own.stage := { s.own.stage with state := 4, commitAt := some 3, staged := { Staged.none with nextM1 := some 0, scale := some 0, version := .none } },
       beat.count := 4 }
     (match s.own.stage.commitAt with
      | some b =>
         decide (s.own.stage.state = 4 ∧ b.toNat ≤ s.beat.count.toNat) &&
         (let g := s.own.stage.staged
          (match g.nextM1 with
           | some m =>
              (match g.scale with
               | some x =>
                  decide (g.image = none ∧ g.groups = none ∧ g.version = none ∧ g.restart = none ∧ g.reform = none ∧
                    epochAfter s g = s.own.epoch)
               | _ => false)
           | _ => false))
      | _ => false)) = true ∧
    (let s := Demo.member
     let via : Via := .pf
     let v : W32 := 0x00080001
     let moves : Bool := bits (regValue s Via.pf 131104) 16 9 != bits v 16 9 || bit (regValue s Via.pf 131104) 4 != bit v 4
     decide (mayWrite s via = true ∧
       moves = (bits (regValue s Via.pf 131104) 16 9 != bits v 16 9 || bit (regValue s Via.pf 131104) 4 != bit v 4) ∧
       moves = true ∧ s.own.stage.state ≠ 1)) = true ∧
    (let s := Demo.member
     let f : VoteFrame := ⟨0, 1, ⟨1, 0, 0, 0⟩, 3, 4, 2⟩
     let f := { f with change := 1 }
     decide ((formed s = false ∨ f.change ≠ BitVec.setWidth 16 s.own.stage.change))) = true ∧
    (let s := Demo.member
     decide ((s.own.stage.checking = false ∨ s.own.stage.state ≠ 2) ∧
       (s.own.stage.checking = true ∨ s.own.stage.state ≠ 2 ∨ s.own.stage.votes < s.own.children.length))) = true ∧
    (let s := Demo.member
     let f : VoteFrame := ⟨0, 1, ⟨1, 0, 0, 0⟩, 3, 4, 2⟩
     let o : VoteFrame := f
     let s := { s with own.stage := { s.own.stage with state := 2, vote := some o, votes := 2 }, own.parent := some ⟨1, 0, 0, 0⟩ }
     let p : Coord := ⟨1, 0, 0, 0⟩
     decide (s.own.stage.checking = false ∧ s.own.stage.state = 2 ∧ s.own.children.length ≤ s.own.stage.votes ∧
       s.own.stage.vote = some o ∧ s.own.parent = some p)) = true ∧
    (let s := Demo.member
     let f : VoteFrame := ⟨0, 1, ⟨1, 0, 0, 0⟩, 3, 4, 2⟩
     let o : VoteFrame := f
     let s := { s with own.stage := { s.own.stage with state := 2, vote := some o, votes := 2 }, own.root.stage := 2 }
     decide (s.own.stage.checking = false ∧ s.own.stage.state = 2 ∧ s.own.children.length ≤ s.own.stage.votes ∧
       s.own.stage.vote = some o ∧ s.own.parent = none ∧ isRoot s = true ∧ s.own.root.stage = 2)) = true ∧
    (let s := Demo.member
     let s := { s with own.stage := { s.own.stage with state := 4, commitAt := some 4, staged.reform := some 2 } }
     let b : W64 := 4
     decide (s.own.stage.commitAt = some b ∧ s.own.stage.state = 4 ∧ BitVec.toNat b ≤ BitVec.toNat s.beat.count ∧
       s.own.stage.staged.reform = some 2)) = true ∧
    (let s := Demo.member
     decide ((s.own.stage.commitAt = none ∨ s.own.stage.state ≠ 4))) = true := by decide +kernel

/-- Hypotheses of HostWindowsResetsAndQueues, clause by clause. -/
theorem witness_HostWindowsResetsAndQueues :
    (let s := Demo.on
     let addr : Nat := 1
     let len : Nat := 1
     decide (hostReadOk s none addr len = false)) = true ∧
    (let s := Demo.on
     let addr : Nat := 0xFFFFFFFF
     let bs : List Byte := []
     decide (mayWrite s .pf = true ∧ hostWriteOk s none addr bs.length = false)) = true ∧
    (let s := Demo.on
     let s := { s with own.valid := true, own.state := 1 }
     decide (mayWrite s .pf = false)) = true ∧
    (let s := Demo.on
     let s := { s with hst.pfQueue.enable := false, hst.pfQueue.lost := 0 }
     decide (mayWrite s .pf = true ∧ s.hst.pfQueue.enable = false ∧ s.hst.pfQueue.lost = 0)) = true ∧
    (let s := Demo.on
     let s := { s with hst.pfQueue.enable := true, hst.pfQueue.lost := 0 }
     let v : W32 := 0x80000000
     decide (mayWrite s .pf = true ∧ s.hst.pfQueue.enable = true ∧ s.hst.pfQueue.lost = 0 ∧ bit v 31 = true ∧
       s.hst.pfQueue.head.toNat ≤ bits v 0 16 ∧ bits v 0 16 ≤ s.hst.pfQueue.tail.toNat ∧
       s.hst.pfQueue.tail.toNat < queueLen s.hst.pfQueue)) = true ∧
    (let s := { Demo.member with wrg.enable := false }
     let len : Nat := 8
     let addr : Nat := 0xD00000
     decide (s.ue = [] ∧ s.ce = [] ∧ s.wrg.enable = false ∧ (∀ q : Fin 4, domainOn s (16 + q.val) = true) ∧
       hostReadOk s none addr len = true)) = true ∧
    (let s := { Demo.member with wrg.enable := false }
     let vf : Ctx := 0
     let addr : Nat := 0x1000
     let len : Nat := 8
     decide (s.ue = [] ∧ s.ce = [] ∧ s.wrg.enable = false ∧ (∀ q : Fin 4, domainOn s (16 + q.val) = true) ∧
       hostReadOk s (some vf.val) addr len = true)) = true ∧
    (let s := { Demo.member with wrg.enable := false }
     let vf : Ctx := 0
     let addr : Nat := 0x1000
     let bs : List Byte := [1, 2, 3, 4]
     decide (s.ue = [] ∧ s.ce = [] ∧ s.wrg.enable = false ∧ (∀ q : Fin 4, domainOn s (16 + q.val) = true) ∧
       hostWriteOk s (some vf.val) addr bs.length = true ∧ Memory.wf s.mem = true)) = true := by decide +kernel

/-- Hypotheses of I3cCommandsAndMessages, clause by clause. -/
theorem witness_I3cCommandsAndMessages :
    (let s := Demo.on
     let s := { s with hst.i3c.valid := false }
     decide (s.hst.i3c.valid = false)) = true ∧
    (let s := Demo.on
     let s := { s with hst.i3c.valid := true }
     decide (s.hst.i3c.valid = true)) = true ∧
    (let s := Demo.on
     let off : Nat := 0
     let s := { s with hst.i3c.valid := true }
     let data : List Byte := [1, 2, 3, 4]
     decide (s.hst.i3c.valid = true ∧ data ≠ [] ∧ data.length ≤ 256 ∧ off + data.length ≤ 0x80040 ∧ mayWrite s .i3c = true)) = true ∧
    (let s := Demo.on
     let off : Nat := 0
     let s := { s with hst.i3c.valid := true, own.valid := true, own.state := 1 }
     let data : List Byte := [1, 2, 3, 4]
     decide (s.hst.i3c.valid = true ∧ data ≠ [] ∧ data.length ≤ 256 ∧ off + data.length ≤ 0x80040 ∧ mayWrite s .i3c = false)) = true ∧
    (let s := Demo.on
     let off : Nat := 0
     let data : List Byte := []
     let s := { s with hst.i3c.valid := true }
     decide (s.hst.i3c.valid = true ∧ mayWrite s .pf = true ∧ off + data.length ≤ 0x80040)) = true ∧
    (let s := Demo.on
     let off : Nat := 1
     let n : Byte := 1
     let s := { s with hst.i3c.valid := true }
     decide (s.hst.i3c.valid = true ∧ n ≠ 0 ∧ off + n.toNat ≤ 0x100000)) = true ∧
    (let s := Demo.on
     let addr : Nat := 1
     let s := { s with hst.i3c.valid := true }
     decide (s.hst.i3c.valid = true ∧ addr % 4 ≠ 0)) = true ∧
    (let s := Demo.on
     let len : Nat := 1
     let s := { s with hst.i3c.valid := true }
     decide (s.hst.i3c.valid = true ∧ len ≠ 0)) = true ∧
    (let s := Demo.on
     let addr : Nat := 0
     let s := { s with hst.i3c.valid := true }
     decide (s.hst.i3c.valid = true ∧ addr % 4 = 0 ∧ addr < 0x200000 ∧ writeRefused s .i3c addr = false ∧ addr ≠ 0x20008)) = true ∧
    (let s := Demo.on
     let len : Nat := 0
     let s := { s with hst.i3c.valid := true }
     decide (s.hst.i3c.valid = true ∧ len ≠ 4)) = true := by decide +kernel

/-- Hypotheses of EthernetAndPtpAnswer, clause by clause. -/
theorem witness_EthernetAndPtpAnswer :
    (let s := Demo.on
     let via : Via := .pf
     decide (mayWrite s via = true ∧ readNet s = none)) = true ∧
    (let s := Demo.on
     let via : Via := .pf
     let v : W32 := 1
     let s := Demo.net s
     decide (mayWrite s via = true) &&
     (match readNet s with
      | some r =>
         decide (bit v 0 = true)
      | _ => false)) = true ∧
    (let s := Demo.on
     let via : Via := .pf
     let v : W32 := 0
     decide (mayWrite s via = true ∧ bit v 0 = false ∧ bit v 1 = false)) = true ∧
    (let s := Demo.on
     let domain : Byte := 0
     let a4 : W32 := 0
     let a6 : BitVec 128 := 0
     let s := { s with hst.ethEnable := true }
     let nr : NetRec := ⟨false, true, true, 1, 4000, a4, 24, domain, 4, a6, 64, 7⟩
     let s := { s with hst.net := some nr }
     (match s.hst.net with
      | some r =>
         decide (s.hst.ethEnable = true ∧ r.ipv4On = true ∧ r.ipv4 = a4)
      | _ => false)) = true ∧
    (let s := Demo.on
     let domain : Byte := 0
     let a4 : W32 := 0
     let a6 : BitVec 128 := 0
     let s := { s with hst.ethEnable := true }
     let nr : NetRec := ⟨false, true, true, 1, 4000, a4 + 1, 24, domain, 4, a6, 64, 7⟩
     let s := { s with hst.net := some nr }
     (match s.hst.net with
      | some r =>
         decide (s.hst.ethEnable = true ∧ r.ipv4 ≠ a4)
      | _ => false)) = true ∧
    (let s := Demo.on
     let domain : Byte := 0
     let a4 : W32 := 0
     let a6 : BitVec 128 := 0
     let s := { s with hst.ethEnable := true }
     let nr : NetRec := ⟨false, true, true, 1, 4000, a4, 24, domain, 4, a6, 64, 7⟩
     let s := { s with hst.net := some nr }
     (match s.hst.net with
      | some r =>
         decide (s.hst.ethEnable = true ∧ r.ipv6On = true ∧ r.ipv6 = a6)
      | _ => false)) = true ∧
    (let s := Demo.on
     let domain : Byte := 0
     let a4 : W32 := 0
     let a6 : BitVec 128 := 0
     let s := { s with hst.ethEnable := true, hst.ptpState := 1 }
     let nr : NetRec := ⟨false, true, true, 1, 4000, a4, 24, domain, 4, a6, 64, 7⟩
     let s := { s with hst.net := some nr }
     (match s.hst.net with
      | some r =>
         decide (s.hst.ethEnable = true ∧ r.ptpDomain = domain ∧ s.hst.ptpState = 1)
      | _ => false)) = true ∧
    (let s := Demo.on
     let domain : Byte := 0
     let a4 : W32 := 0
     let a6 : BitVec 128 := 0
     let s := { s with hst.ethEnable := true, hst.ptpState := 2 }
     let nr : NetRec := ⟨false, true, true, 1, 4000, a4, 24, domain, 4, a6, 64, 7⟩
     let s := { s with hst.net := some nr }
     (match s.hst.net with
      | some r =>
         decide (s.hst.ethEnable = true ∧ r.ptpDomain = domain ∧ s.hst.ptpState = 2)
      | _ => false)) = true ∧
    (let s := Demo.on
     let domain : Byte := 0
     let a4 : W32 := 0
     let a6 : BitVec 128 := 0
     let s := { s with hst.ethEnable := true, hst.ptpRun := 15 }
     let nr : NetRec := ⟨false, true, true, 1, 4000, a4, 24, domain, 4, a6, 64, 7⟩
     let s := { s with hst.net := some nr, hst.ptpState := 2 }
     let offset : Int := 100
     (match s.hst.net with
      | some r =>
         decide (s.hst.ethEnable = true ∧ r.ptpDomain = domain ∧ s.hst.ptpState ≠ 0 ∧ offset.natAbs ≤ 100 ∧ s.hst.ptpRun = 15)
      | _ => false)) = true ∧
    (let s := Demo.on
     let domain : Byte := 0
     let a4 : W32 := 0
     let a6 : BitVec 128 := 0
     let s := { s with hst.ethEnable := true, hst.ptpTwoStep := true }
     let nr : NetRec := ⟨false, true, true, 1, 4000, a4, 24, domain, 4, a6, 64, 7⟩
     let s := { s with hst.net := some nr, hst.ptpState := 2 }
     let offset : Int := -1001
     (match s.hst.net with
      | some r =>
         decide (s.hst.ethEnable = true ∧ r.ptpDomain = domain ∧ s.hst.ptpState ≠ 0 ∧ s.hst.ptpTwoStep = true ∧
           1000 < offset.natAbs)
      | _ => false)) = true := by decide +kernel

/-- Hypotheses of KbtMessagesAndTimers, clause by clause. -/
theorem witness_KbtMessagesAndTimers :
    (let s := Demo.on
     let s := { s with hst.kbtEn := false }
     decide (kbtOn s = false)) = true ∧
    (let s := Demo.on
     let m : KbtMsg := ⟨0, ⟨0, 0, 0, 0, 0, 0, 0, 0, 0⟩, []⟩
     let x : Session := ⟨0, 0, [], 0, [], 0, 0, 0, 0, 0⟩
     let s := Demo.session s m { x with held := [], sinceAck := 3 }
     let m := { m with
       hdr := { m.hdr with seq := x.nextRx, addr := BitVec.ofNat 32 (8 * 0 + 0x800000 * 0), ctx := 0xFF, len := BitVec.ofNat 32 m.payload.length } }
     let s := { s with frames := Demo.on.frames, ue := [] }
     decide (kbtOn s = true) &&
     (match sessionOf s m.hdr.session with
      | some x =>
         let u := kbtTouch s x m.hdr
         decide (m.hdr.seq = x.nextRx ∧ x.held = [] ∧ x.sinceAck < 15) &&
         (let w := modSession u m.hdr.session (fun y => { y with nextRx := y.nextRx + 1, sinceAck := y.sinceAck + 1 })
          decide (csrAddr m.hdr.addr = true ∧ writeRefused w (.kbt m.hdr.session m.hdr.agent) m.hdr.addr.toNat = false))
      | _ => false)) = true ∧
    (let s := Demo.on
     let m : KbtMsg := ⟨0, ⟨0, 0, 0, 0, 0, 0, 0, 0, 0⟩, []⟩
     let m := { m with hdr.ctx := 0xFF }
     let x : Session := ⟨0, 0, [], 0, [], 0, 0, 0, 0, 0⟩
     let s := Demo.session s m { x with held := [], sinceAck := 3 }
     let m := { m with
       hdr := { m.hdr with seq := x.nextRx, addr := BitVec.ofNat 32 (8 * 0 + 0x800000 * 0), ctx := 0xFF, len := BitVec.ofNat 32 m.payload.length } }
     let s := { s with frames := Demo.on.frames, ue := [] }
     let m : KbtMsg := { m with hdr := { m.hdr with addr := 0x800000, ctx := 0xFF, len := 8 }, payload := List.replicate 8 1 }
     decide (kbtOn s = true) &&
     (match sessionOf s m.hdr.session with
      | some x =>
         let u := kbtTouch s x m.hdr
         decide (m.hdr.seq = x.nextRx ∧ x.held = [] ∧ x.sinceAck < 15) &&
         (let w := modSession u m.hdr.session (fun y => { y with nextRx := y.nextRx + 1, sinceAck := y.sinceAck + 1 })
          decide (m.hdr.addr.toNat % 8 = 0 ∧ m.payload.length % 8 = 0 ∧ m.hdr.len.toNat = m.payload.length ∧
            mayWrite w (.kbt m.hdr.session m.hdr.agent) = true ∧ m.hdr.ctx = 0xFF ∧
            hostWriteOk w none m.hdr.addr.toNat m.payload.length = true))
      | _ => false)) = true ∧
    (let s := Demo.on
     let m : KbtMsg := ⟨0, ⟨0, 0, 0, 0, 0, 0, 0, 0, 0⟩, []⟩
     let x : Session := ⟨0, 0, [], 0, [], 0, 0, 0, 0, 0⟩
     let s := Demo.session s m { x with held := [], sinceAck := 3 }
     let m := { m with
       hdr := { m.hdr with seq := x.nextRx, addr := BitVec.ofNat 32 (8 * 0 + 0x800000 * 0), ctx := 0xFF, len := BitVec.ofNat 32 m.payload.length } }
     let s := { s with frames := Demo.on.frames, ue := [] }
     let m : KbtMsg := { m with hdr := { m.hdr with addr := 0x800000, ctx := 15, len := 8 }, payload := List.replicate 8 1 }
     decide (kbtOn s = true) &&
     (match sessionOf s m.hdr.session with
      | some x =>
         let u := kbtTouch s x m.hdr
         decide (m.hdr.seq = x.nextRx ∧ x.held = [] ∧ x.sinceAck < 15) &&
         (let w := modSession u m.hdr.session (fun y => { y with nextRx := y.nextRx + 1, sinceAck := y.sinceAck + 1 })
          decide (8 ≤ m.payload.length ∧ m.hdr.len.toNat = m.payload.length ∧ m.hdr.ctx.toNat < 16))
      | _ => false)) = true ∧
    (let s := Demo.on
     let m : KbtMsg := ⟨0, ⟨0, 0, 0, 0, 0, 0, 0, 0, 0⟩, []⟩
     let m := { m with hdr.ctx := 0xFF }
     let x : Session := ⟨0, 0, [], 0, [], 0, 0, 0, 0, 0⟩
     let s := Demo.session s m { x with held := [], sinceAck := 3 }
     let m := { m with
       hdr := { m.hdr with seq := x.nextRx, addr := BitVec.ofNat 32 (8 * 0 + 0x800000 * 0), ctx := 0xFF, len := BitVec.ofNat 32 m.payload.length } }
     let s := { s with frames := Demo.on.frames, ue := [] }
     let m := { m with hdr := { m.hdr with len := 64, ctx := 0xFF } }
     let m : KbtMsg := { m with hdr := { m.hdr with addr := 0x800000, ctx := 0xFF, len := 64 }, payload := [] }
     decide (kbtOn s = true) &&
     (match sessionOf s m.hdr.session with
      | some x =>
         let u := kbtTouch s x m.hdr
         decide (m.hdr.seq = x.nextRx ∧ x.held = [] ∧ x.sinceAck < 15) &&
         (let w := modSession u m.hdr.session (fun y => { y with nextRx := y.nextRx + 1, sinceAck := y.sinceAck + 1 })
          decide (m.hdr.addr.toNat % 8 = 0 ∧ m.hdr.len.toNat = 64 ∧ m.hdr.ctx = 0xFF ∧
            hostReadOk w none m.hdr.addr.toNat 64 = true))
      | _ => false)) = true ∧
    (let s := Demo.on
     let m : KbtMsg := ⟨0, ⟨0, 0, 0, 0, 0, 0, 0, 0, 0⟩, []⟩
     let x : Session := ⟨0, 0, [], 0, [], 0, 0, 0, 0, 0⟩
     let s := Demo.session s m { x with held := [], sinceAck := 3 }
     let m := { m with
       hdr := { m.hdr with seq := x.nextRx, addr := BitVec.ofNat 32 (8 * 0 + 0x800000 * 0), ctx := 0xFF, len := BitVec.ofNat 32 m.payload.length } }
     let s := { s with frames := Demo.on.frames, ue := [] }
     let m := { m with hdr := { m.hdr with seq := x.nextRx - 1 - 0 } }
     decide (kbtOn s = true) &&
     (match sessionOf s m.hdr.session with
      | some x =>
         let u := kbtTouch s x m.hdr
         decide (2 ^ 31 ≤ (m.hdr.seq - x.nextRx).toNat)
      | _ => false)) = true ∧
    (let s := Demo.on
     let id : W32 := 0
     let s := { s with hst.link := true }
     let x : Session := ⟨0, 0, [], 0, [], 0, 0, 0, 0, 0⟩
     let s := { s with hst.sessions := [{ x with id := id, tries := 0, sinceAck := 0, unacked := [] }] }
     let s := { s with hst.sessions := [{ x with id := id, tries := 7, unacked := [⟨0, ⟨0, 0, 0, 0, 0, 0, 0, 0, 0⟩, []⟩] }] }
     (match sessionOf s id with
      | some x =>
         decide (x.unacked ≠ [] ∧ s.hst.link = true ∧ x.tries < 8)
      | _ => false)) = true ∧
    (let s := Demo.on
     let id : W32 := 0
     let s := { s with hst.link := true }
     let x : Session := ⟨0, 0, [], 0, [], 0, 0, 0, 0, 0⟩
     let s := { s with hst.sessions := [{ x with id := id, tries := 0, sinceAck := 0, unacked := [] }] }
     let s := { s with hst.sessions := [{ x with id := id, tries := 8, unacked := [⟨0, ⟨0, 0, 0, 0, 0, 0, 0, 0, 0⟩, []⟩] }] }
     (match sessionOf s id with
      | some x =>
         decide (x.unacked ≠ [] ∧ s.hst.link = true ∧ 8 ≤ x.tries)
      | _ => false)) = true ∧
    (let s := Demo.on
     let id : W32 := 0
     let x : Session := ⟨0, 0, [], 0, [], 0, 0, 0, 0, 0⟩
     let s := { s with hst.sessions := [{ x with id := id, tries := 0, sinceAck := 0, unacked := [] }] }
     (match sessionOf s id with
      | some x =>
         decide (x.unacked = [])
      | _ => false)) = true ∧
    (let s := Demo.on
     let id : W32 := 0
     let x : Session := ⟨0, 0, [], 0, [], 0, 0, 0, 0, 0⟩
     let s := { s with hst.sessions := [{ x with id := id, tries := 0, sinceAck := 0, unacked := [] }] }
     (match sessionOf s id with
      | some x =>
         decide (x.sinceAck = 0)
      | _ => false)) = true ∧
    (let s := Demo.on
     let id : W32 := 0
     let x : Session := ⟨0, 0, [], 0, [], 0, 0, 0, 0, 0⟩
     let s := { s with hst.sessions := [{ x with id := id, tries := 0, sinceAck := 1, unacked := [] }] }
     (match sessionOf s id with
      | some x =>
         decide (x.sinceAck ≠ 0)
      | _ => false)) = true := by decide +kernel

/-- Hypotheses of IntakeQueuesDecideRequests, clause by clause. -/
theorem witness_IntakeQueuesDecideRequests :
    (let s := Demo.on
     let ctx : Ctx := 0
     let via : Via := .pf
     let s := modIntake s ctx.val fun z => { z with enable := false }
     let v : W32 := 0
     let s := { s with hst.vsel := BitVec.ofNat 4 ctx.val }
     let i := intakeAt s ctx.val
     decide (mayWrite s via = true ∧ s.hst.vsel.toNat = ctx.val ∧ i.enable = false ∧ bits v 15 8 = 0)) = true ∧
    (let s := Demo.on
     let ctx : Ctx := 0
     let via : Via := .pf
     let v : W32 := 0xFFFFFFFF
     let s := modIntake s ctx.val fun z => { z with enable := true }
     let i := intakeAt s ctx.val
     decide (mayWrite s via = true ∧ s.hst.vsel.toNat = ctx.val ∧ i.enable = true ∧ v.extractLsb' 15 8 ≠ i.depth)) = true ∧
    (let s := Demo.on
     let ctx : Ctx := 0
     let via : Via := .pf
     let s := modIntake s ctx.val fun z => { z with enable := false }
     let s := { s with hst.vsel := BitVec.ofNat 4 ctx.val }
     let v := Demo.put (Demo.put 0 15 8 4) 7 8 4
     let i := intakeAt s ctx.val
     decide (mayWrite s via = true ∧ s.hst.vsel.toNat = ctx.val ∧ i.enable = false ∧ bits v 15 8 ≠ 0 ∧ bits v 7 8 ≠ 0 ∧
       bits v 7 8 ≤ bits v 15 8 ∧ bits v 23 9 ≤ 383)) = true ∧
    (let s := Demo.member
     let ctx : Ctx := 0
     let f := s.hst.vfs.toList.getD ctx.val Vf.reset
     decide (ctxExists s ctx.val = true ∧ f.result ≠ 7)) = true ∧
    (let s := Demo.member
     let ctx : Ctx := 0
     let s := { s with hst.vfs := Vector.replicate 16 { Vf.reset with result := 7 } }
     let f := s.hst.vfs.toList.getD ctx.val Vf.reset
     decide (ctxExists s ctx.val = true ∧ f.result = 7)) = true ∧
    (let s := Demo.member
     let ctx : Ctx := 0
     let off : Nat := 0x800001
     decide (ctxExists s ctx.val = true ∧ 0x10000 ≤ off)) = true ∧
    (let s := Demo.on
     let r : IntakeReq := ⟨0, false, 0, [], []⟩
     let rest : List IntakeReq := []
     let s := { s with hst.requests := r :: rest }
     let r := { r with pcie := true }
     let s := { s with hst.requests := r :: rest }
     decide (s.hst.requests = r :: rest ∧ r.pcie = true ∧ (intakeAt s r.ctx.val).enable = false)) = true ∧
    (let s := Demo.member
     let r : IntakeReq := ⟨0, false, 0, [], []⟩
     let rest : List IntakeReq := []
     let s := { s with hst.requests := r :: rest }
     let r := { r with pcie := true }
     let s := modIntake s r.ctx.val fun z => { z with enable := true }
     let s := modIntake s r.ctx.val fun z => { z with hold := false }
     let s := modIntake s 0 fun z => { z with enable := true, hold := false, depth := 4, hwm := 4 }
     let s := { s with hst.requests := r :: rest }
     decide (s.hst.requests = r :: rest ∧ r.pcie = true) &&
     (let j := intakeAt s r.ctx.val
      decide (ctxExists s r.ctx.val = true ∧ j.enable = true ∧ j.hold = false ∧ r.payload.length + 64 ≤ slotBytes j ∧
        (j.w - consumedNow s j).toNat < j.hwm.toNat ∧ j.hwm.toNat ≤ j.depth.toNat))) = true ∧
    (let s := Demo.on
     let s := { s with hst.requests := [] }
     decide (s.hst.requests = [])) = true ∧
    (let s := Demo.on
     let ctx : Ctx := 0
     let s := modIntake s ctx.val fun z => { z with enable := true }
     let i := intakeAt s ctx.val
     decide (i.enable = true ∧ i.consumed = consumedNow s i ∧ (i.w - consumedNow s i).toNat ≤ i.depth.toNat)) = true ∧
    (let s := Demo.on
     let ctx : Ctx := 0
     let s := modIntake s ctx.val fun z => { z with enable := true }
     let s := modIntake s 0 fun z => { z with depth := 4, consumed := consumedNow s z - 1, w := consumedNow s z + 1 }
     let i := intakeAt s ctx.val
     decide (i.enable = true ∧ (i.w - consumedNow s i).toNat ≤ i.depth.toNat ∧ consumedNow s i = i.consumed + 1 ∧
       (i.w - i.consumed).toNat ≠ 0)) = true := by decide +kernel

/-- Hypotheses of DomainsSwitchInOrder, clause by clause. -/
theorem witness_DomainsSwitchInOrder :
    (let s := Demo.on
     let via : Via := .pf
     let v : W32 := 0xFFFFFFFF
     decide (mayWrite s via = true ∧ reqRefusal s { s.pwr with req := v } = none)) = true ∧
    (let s := Demo.on
     let via : Via := .pf
     let v : W32 := 1
     decide (mayWrite s via = true ∧ reqRefusal s { s.pwr with telReq := bit v 0 } = none)) = true ∧
    (let s := Demo.run
     let via : Via := .pf
     let v : W32 := 0
     decide (mayWrite s via = true ∧ bit s.pwr.req 0 = true ∧ bit v 0 = false ∧ bit s.pwr.heldOff 0 = false ∧
       (coreAt s 0).state ≠ 0)) = true ∧
    (let s := Demo.on
     let via : Via := .pf
     let v : W32 := 0x6400000
     decide (mayWrite s via = true ∧ 100 ≤ bits v 18 10 ∧ bits v 18 10 ≤ 400)) = true ∧
    (let s := Demo.on
     let via : Via := .pf
     let v : W32 := 0xC000000
     decide (mayWrite s via = true ∧ 400 < bits v 18 10)) = true ∧
    (let s := Demo.on
     let s := { s with pwr.busy := none }
     decide (s.pwr.busy = none)) = true ∧
    (let s := Demo.on
     let domain : Fin 36 := 0
     let s := { s with pwr.on := -1 }
     decide (domain.val < 16 ∧ domainOn s domain.val = true ∧ (∀ x ∈ s.pwr.busy, x.1 ≠ domain.val))) = true ∧
    (let s := State.reset
     let domain : Fin 36 := 0
     decide (domainOn s domain.val = false ∧ (∀ x ∈ s.pwr.busy, x.1 ≠ domain.val))) = true ∧
    (let s := Demo.on
     let core : CoreId := 0
     let s := { s with pwr.on := -1 }
     let s := { s with pwr.on := -1, pwr.loopEn := true, pwr.gateOpen := true, pwr.droop := Vector.replicate 16 ⟨7, 128, []⟩ }
     decide (domainOn s core.val = true ∧ domainOn s 32 = true ∧ s.pwr.loopEn = true ∧ s.pwr.gateOpen = true) &&
     (let d := s.pwr.droop.toList.getD core.val Droop.reset
      decide (8 * (s.pwr.release.toNat + 1) ≤ d.release ∧ d.level.toNat < 8))) = true ∧
    (let s := Demo.on
     let s := { s with pwr.busy := some (3, true) }
     let d : Nat := 3
     decide (s.pwr.busy = some (d, true) ∧ d < 16)) = true := by decide +kernel

/-- Hypotheses of TelemetryWindowsAndMains, clause by clause. -/
theorem witness_TelemetryWindowsAndMains :
    (let s := Demo.on
     let s := { s with pwr.on := -1, tel.mode := 0 }
     decide (domainOn s 32 = true ∧ s.tel.mode ≠ 1)) = true ∧
    (let s := Demo.on
     let ch : Fin 20 := 0
     let s := { s with pwr.on := -1, tel.mode := 1, tel.qdiv := 0, tel.sel := 1 }
     decide (domainOn s 32 = true ∧ s.tel.mode = 1 ∧ bit s.tel.sel ch.val = true ∧ s.tel.qdiv = 0 ∧ s.tel.queue.length < 512)) = true ∧
    (let s := Demo.on
     let ch : Fin 20 := 0
     let s := { s with pwr.on := -1, tel.mode := 1, tel.qdiv := 0, tel.queue := List.replicate 512 ⟨1, 2⟩, tel.sel := -1 }
     decide (domainOn s 32 = true ∧ s.tel.mode = 1 ∧ bit s.tel.sel ch.val = true ∧ s.tel.qdiv = 0 ∧ 512 ≤ s.tel.queue.length)) = true ∧
    (let s := Demo.on
     let range : Fin 4 := 0
     let s := { s with
       pwr.on := -1, tel.mode := 1, tel.ranges := Vector.replicate 4 { Range.reset with due := some true, auto := true } }
     decide (domainOn s 32 = true) &&
     (let r := s.tel.ranges.toList.getD range.val Range.reset
      decide (s.tel.mode = 1) &&
      (match r.due with
       | some up =>
          decide (r.auto = true)
       | _ => false))) = true ∧
    (let s := Demo.on
     let s := { s with pwr.on := -1, tel.soft := false }
     decide (domainOn s 32 = true ∧ s.tel.soft = false)) = true ∧
    (let s := Demo.on
     let s := { s with pwr.on := -1, tel.soft := true }
     decide (domainOn s 32 = true ∧ s.tel.soft = true)) = true ∧
    (let s := Demo.on
     let via : Via := .pf
     let s := { s with pwr.on := -1, tel.queue := [] }
     decide (domainOn s 32 = true ∧ s.tel.queue = [] ∧ (latchOf s via).telHi = none)) = true ∧
    (let s := Demo.on
     let via : Via := .pf
     let s := { s with pwr.on := -1 }
     let v : W32 := 0x8000000
     let s := { s with pwr.loopEn := false, tel.soft := false }
     decide (domainOn s 32 = true ∧ mayWrite s via = true ∧ bits v 26 2 = 2 ∧ s.pwr.loopEn = false ∧ s.tel.soft = false)) = true ∧
    (let s := Demo.on
     let via : Via := .pf
     let s := { s with pwr.on := -1 }
     let v : W32 := 0x4000000
     decide (domainOn s 32 = true ∧ mayWrite s via = true ∧ bits v 26 2 = 1)) = true ∧
    (let s := Demo.on
     let via : Via := .pf
     let s := { s with pwr.on := -1, tel.mode := 1 }
     decide (domainOn s 32 = true ∧ mayWrite s via = true ∧ s.tel.mode = 1)) = true ∧
    (let s := Demo.on
     let via : Via := .pf
     let s := { s with pwr.on := -1, tel.mode := 0 }
     decide (domainOn s 32 = true ∧ mayWrite s via = true ∧ s.tel.mode ≠ 1)) = true ∧
    (let s := Demo.on
     let s := { s with pwr.on := -1 }
     let p := 151500 + 0
     let s := { s with tel.periods := if true then [p, p, p] else s.tel.periods }
     decide (domainOn s 32 = true ∧ 151500 ≤ p ∧ p ≤ 222200)) = true ∧
    (let s := Demo.on
     let p : Nat := 0
     let s := { s with pwr.on := -1, tel.locked := true }
     decide (domainOn s 32 = true ∧ (p < 151500 ∨ 222200 < p) ∧ s.tel.locked = true)) = true ∧
    (let s := Demo.on
     let s := { s with pwr.on := -1, tel.locked := true }
     decide (domainOn s 32 = true ∧ s.tel.locked = true)) = true ∧
    (let s := Demo.on
     let s := { s with pwr.on := -1, tel.locked := false }
     decide (domainOn s 32 = true ∧ s.tel.locked = false)) = true ∧
    (let s := Demo.on
     let s := { s with pwr.on := -1, tel.en := true, tel.accMb := 0x1FF }
     decide (domainOn s 32 = true ∧ s.tel.en = true ∧ s.tel.accMb = 0x1FF ∧ s.tel.queue.length ≤ 508)) = true ∧
    (let s := Demo.on
     let s := { s with pwr.on := -1, tel.en := false }
     decide (domainOn s 32 = true ∧ s.tel.en = false)) = true ∧
    (let s := { Demo.on with tel.en := true }
     decide (domainOn s 32 = true ∧ s.tel.en = true ∧ Memory.wf s.mem = true)) = true := by decide +kernel

/-- Hypotheses of StartUpAndChipFaults, clause by clause. -/
theorem witness_StartUpAndChipFaults :
    (let s := Demo.on
     let s := { s with glb.state := 0, glb.resetHeld := false }
     decide (s.glb.state = 0 ∧ s.glb.resetHeld = false)) = true ∧
    (let s := Demo.on
     let s := { s with glb.state := 3, fw.current1 := false }
     decide (s.glb.state = 3 ∧ s.fw.current1 = false) &&
     (match s.fw.slot0 with
      | some i =>
         decide (i.wellFormed = true ∧ s.fw.floor.toNat ≤ i.version.toNat)
      | _ => false)) = true ∧
    (let s := Demo.on
     let s := { s with glb.state := 3, fw.current1 := false, fw.slot0 := none, fw.slot1 := none }
     decide (s.glb.state = 3 ∧ s.fw.current1 = false ∧ s.fw.slot0 = none ∧ s.fw.slot1 = none)) = true ∧
    (let s := Demo.on
     let s := { s with glb.state := 4, glb.join := false }
     decide (s.glb.state = 4 ∧ waitCode s = 0 ∧ s.glb.join = false)) = true ∧
    (let s := State.reset
     decide (waitCode s ≠ 0)) = true ∧
    (let s := Demo.on
     decide (3 ≤ s.glb.state.toNat ∧ stopped s = false)) = true := by decide +kernel

/-- Hypotheses of PartitionsFormAtTheirInstant, clause by clause. -/
theorem witness_PartitionsFormAtTheirInstant :
    (let s := { Demo.on with
       glb.state := 6, beat := { Demo.on.beat with ms := 0x100000, curM1 := 27 }, glb.join := true,
       ports := Vector.replicate 10 { Port.reset with state := 3, enable := true, inService := true } }
     decide (s.glb.state = 6 ∧ s.glb.instant = none ∧ s.beat.ms.toNat ≠ 0 ∧ s.beat.ms.toNat % 2 ^ 20 = 0 ∧ waitCode s = 0) &&
     (match table? s with
      | some t =>
         (match partOf t t.self with
          | some b =>
             decide ((planesNow s t b).contains t.self.w = true)
          | _ => false)
      | _ => false)) = true ∧
    (let s := Demo.on
     decide (s.beat.ms.toNat % 2 ^ 20 ≠ 0)) = true ∧
    (let s := Demo.on
     let f : FormDownFrame := ⟨0, 0, 0⟩
     let m : W64 := 0
     let s := { s with glb.state := 6, glb.instant := some m }
     let f := { f with m := m }
     let s := { s with glb.confirmed := false }
     let f := { f with result := 0 }
     decide (s.glb.state = 6 ∧ s.glb.instant = some m ∧ f.m = m ∧ s.glb.confirmed = false ∧ f.result = 0 ∧
       s.beat.ms.toNat ≤ m.toNat + 8000 ∧ isRoot s = false)) = true ∧
    (let s := Demo.on
     let u : FormUpFrame := ⟨0, 0, 0, 0, 0, 0⟩
     let src : Coord := ⟨0, 0, 0, 0⟩
     let s := { s with glb.state := 6, glb.instant := some u.m }
     let s := { s with own.children := [src, ⟨1,2,3,3⟩], glb.formUps := 0, glb.formUp := some u, glb.instant := some u.m }
     decide (s.glb.state = 6 ∧ s.glb.instant = some u.m) &&
     (match s.glb.formUp with
      | some w =>
         decide (s.own.children.contains src = true ∧ s.glb.formUps + 1 < s.own.children.length)
      | _ => false)) = true ∧
    (let s := Demo.member
     let u : FormUpFrame := ⟨0, 0, 0, 0, 0, 0⟩
     let m : W64 := 0
     let s := { s with
       glb.instant := some m, glb.confirmed := false, glb.state := 6, beat.ms := m + 4000, glb.formUp := some u }
     decide (s.glb.instant = some m ∧ isRoot s = true ∧ s.glb.formUp.isSome = true ∧ s.glb.confirmed = false ∧
       s.glb.state = 6 ∧ m.toNat + 4000 ≤ s.beat.ms.toNat)) = true ∧
    (let s := Demo.on
     let m : W64 := 0
     let s := { s with glb.instant := some m }
     decide (s.glb.instant = some m ∧ s.beat.ms.toNat < m.toNat + 4000)) = true ∧
    (let s := Demo.on
     let m : W64 := 0
     let s := { s with glb.instant := some m, glb.state := 6, beat.startMs := m + 8001 }
     decide (s.glb.instant = some m ∧ s.glb.state = 6 ∧ m.toNat + 8000 < s.beat.startMs.toNat)) = true ∧
    (let s := Demo.on
     let via : Via := .pf
     let v : W32 := 0
     decide (mayWrite s via = true ∧ bits (regValue s .pf 0x8) 8 2 = bits v 8 2 ∧ bits v 8 2 ≠ 3)) = true ∧
    (let s := { Demo.member with glb.state := 6, glb.confirmed := false }
     let f : FormDownFrame := ⟨0, 20, 0⟩
     let m : W64 := 0
     decide (s.glb.state = 6 ∧ s.glb.instant = some m ∧ f.m = m ∧ s.glb.confirmed = false ∧ f.result = 0 ∧
       BitVec.toNat s.beat.ms ≤ BitVec.toNat m + 8000 ∧ isRoot s = true)) = true ∧
    (let s := { Demo.member with glb.state := 6, glb.confirmed := false }
     let f : FormDownFrame := ⟨0, 20, 0⟩
     let m : W64 := 0
     let f := { f with result := 2 }
     decide (s.glb.state = 6 ∧ s.glb.instant = some m ∧ f.m = m ∧ s.glb.confirmed = false ∧
       (f.result ≠ 0 ∨ BitVec.toNat m + 8000 < BitVec.toNat s.beat.ms))) = true ∧
    (let s := { Demo.member with glb.state := 6, glb.confirmed := false }
     let f : FormDownFrame := ⟨0, 20, 0⟩
     let m : W64 := 0
     let f := { f with m := 1 }
     decide (s.glb.instant ≠ some f.m)) = true ∧
    (let s := { Demo.member with glb.state := 6, glb.confirmed := false }
     let u : FormUpFrame := ⟨1, 6, 6, 0, 0, 0⟩
     let src : Coord := ⟨1, 0, 0, 0⟩
     decide ((s.glb.formUp = none ∨ s.glb.instant ≠ some u.m ∨ s.own.children.contains src = false) ∧ s.glb.formUp = none)) = true := by decide +kernel

/-- Hypotheses of FencesAreDecidedAndApplied, clause by clause. -/
theorem witness_FencesAreDecidedAndApplied :
    (let s := Demo.member
     let port : PortId := 0
     let s := { s with glb.state := 7 }
     (match table? s with
      | some t =>
         (match s.glb.part with
          | some v =>
             (match linkFar t v t.self port.val with
              | some (far, p) =>
                 decide (s.glb.state = 7 ∧ bit s.beat.admitted port.val = true ∧ bit s.glb.darkSent port.val = false ∧
                   far ≠ t.self)
              | _ => false)
          | _ => false)
      | _ => false)) = true ∧
    (let s := Demo.on
     let port : PortId := 0
     let s := { s with glb.darkSent := 1 }
     decide (bit s.glb.darkSent port.val = true)) = true ∧
    (let s := Demo.member
     let s := { s with glb.state := 7 }
     let d : DarkFrame := ⟨⟨0, 0, 0, 0⟩, ⟨2, 0, 0, 0⟩, 0, 0⟩
     decide (s.glb.state = 7 ∧ decides s (trayNo s d.named) = true ∧ fenceKnown s (trayNo s d.named) = false ∧
       s.glb.reports.contains (d.named, d.reporter) = false ∧ (∀ r ∈ s.glb.reports, r.1 ≠ d.named))) = true ∧
    (let s := Demo.on
     let d : DarkFrame := ⟨⟨0, 0, 0, 0⟩, ⟨0, 0, 0, 0⟩, 0, 0⟩
     let s := { s with glb.state := 7 }
     let s := { s with
       inst.state := 6, inst.table := some Demo.table, own.serviceRoot := some ⟨0,0,0,0⟩, own.serviceStandby := some ⟨1,0,0,0⟩,
       glb := { s.glb with fences := [], fenced := [], state := 7, reports := [(d.named, ⟨5,5,5,5⟩)] } }
     let d : DarkFrame := ⟨⟨0, 0, 0, 0⟩, ⟨2, 0, 0, 0⟩, 0, 0⟩
     let s := { s with glb.reports := [(⟨2, 0, 0, 0⟩, ⟨2, 1, 0, 0⟩)] }
     decide (s.glb.state = 7 ∧ decides s (trayNo s d.named) = true ∧ fenceKnown s (trayNo s d.named) = false ∧
       s.glb.reports.contains (d.named, d.reporter) = false ∧ (∃ r ∈ s.glb.reports, r.1 = d.named))) = true ∧
    (let s := Demo.member
     let s := { s with glb.state := 7 }
     let q : FenceReqFrame := ⟨2, 3, ⟨2, 0, 0, 0⟩⟩
     decide (s.glb.state = 7 ∧ decides s q.tray = true)) = true ∧
    (let s := Demo.on
     decide (s.glb.state ≠ 7)) = true ∧
    (let s := Demo.on
     let f : FenceFrame := ⟨0, 0, ⟨0, 0, 0, 0⟩, 0, ⟨0, 0, 0, 0⟩⟩
     let s := { s with own.valid := true }
     decide (formed s = true ∧ stopped s = false ∧ fenceKnown s f.tray = false)) = true ∧
    (let s := Demo.on
     let f : FenceFrame := ⟨0, 0, ⟨0, 0, 0, 0⟩, 0, ⟨0, 0, 0, 0⟩⟩
     let s := { s with glb.fenced := [0] }
     decide (fenceKnown s f.tray = true)) = true ∧
    (let s := Demo.on
     let s := { s with own.valid := true }
     let s := { s with
       inst.state := 6, inst.table := some { Demo.table with tray := 0 }, glb := { s.glb with part := some Demo.view, fences := [⟨0, 3, 0, ⟨1,0,0,0⟩, ⟨2,0,0,0⟩⟩], state := 7 },
       beat := { s.beat with count := 3 } }
     let s := { s with inst.table := some Demo.table, glb := { s.glb with fences := [⟨1, 3, 4, ⟨0, 0, 0, 0⟩, ⟨2, 0, 0, 0⟩⟩] } }
     decide (formed s = true ∧ stopped s = false) &&
     (match s.glb.fences with
      | [x] =>
         (match trayOfPart s x.tray with
          | some (t, v, r) =>
             decide (s.beat.count.toNat < x.effective.toNat)
          | _ => false)
      | _ => false)) = true ∧
    (let s := Demo.on
     let s := { s with own.valid := true }
     let s := { s with
       inst.state := 6, inst.table := some { Demo.table with tray := 0 }, glb := { s.glb with part := some Demo.view, fences := [⟨0, 3, 0, ⟨1,0,0,0⟩, ⟨2,0,0,0⟩⟩], state := 7 },
       beat := { s.beat with count := 3 } }
     let s := { s with beat.count := 6, glb.fences := s.glb.fences.map fun x => { x with tray := 0 } }
     decide (formed s = true ∧ stopped s = false) &&
     (match s.glb.fences with
      | [x] =>
         (match trayOfPart s x.tray with
          | some (t, v, r) =>
             decide (x.effective.toNat ≤ s.beat.count.toNat ∧ x.tray = t.tray)
          | _ => false)
      | _ => false)) = true := by decide +kernel

/-- Hypotheses of ResetsAndFirmware, clause by clause. -/
theorem witness_ResetsAndFirmware :
    (let s := Demo.on
     let via : Via := .pf
     let v : W32 := 0
     decide (mayWrite s via = true ∧ bits v 24 8 ≠ 0xA5)) = true ∧
    (let s := Demo.on
     let via : Via := .pf
     let v : W32 := 0
     let v := Demo.put v 24 8 (0xA5)
     let v := Demo.put v 11 1 0
     let v := Demo.put v 10 1 0
     decide (mayWrite s via = true ∧ bits v 24 8 = 0xA5 ∧ bit v 11 = false ∧ bit v 10 = false)) = true ∧
    (let s := Demo.on
     let via : Via := .pf
     let v : W32 := 0
     let v := Demo.put v 24 8 (0xA5)
     let v := Demo.put v 12 1 0
     let v := Demo.put v 10 1 0
     decide (mayWrite s via = true ∧ bits v 24 8 = 0xA5 ∧ bit v 12 = false ∧ bit v 10 = false ∧ s.glb.state ≠ 7)) = true ∧
    (let s := Demo.member
     let via : Via := .pf
     let v : W32 := 0
     let v := Demo.put v 24 8 (0xA5)
     let v := Demo.put v 12 1 0
     let v := Demo.put v 10 1 0
     let s := { s with glb.state := 7 }
     decide (mayWrite s via = true ∧ bits v 24 8 = 0xA5 ∧ bit v 12 = false ∧ bit v 10 = false ∧ s.glb.state = 7 ∧
       (trayOfPart s (bits v 13 11)).isSome = true)) = true ∧
    (let s := Demo.on
     let via : Via := .pf
     let v : W32 := 0
     let v := Demo.put v 24 8 (0xA5)
     let v := Demo.put v 12 1 0
     let v := Demo.put v 11 1 0
     let s := { s with glb.fwLoad := none }
     decide (mayWrite s via = true ∧ bits v 24 8 = 0xA5 ∧ bit v 12 = false ∧ bit v 11 = false ∧ s.glb.fwLoad = none ∧
       fwFrame s (bits v 0 9) = true)) = true ∧
    (let s := Demo.member
     let via : Via := .pf
     let v : W32 := 8
     let v := Demo.put v 24 8 (0xA5)
     let v := Demo.put v 12 1 0
     let v := Demo.put v 11 1 0
     let s := { s with glb.fwLoad := none }
     decide (mayWrite s via = true ∧ bits v 24 8 = 0xA5 ∧ bit v 12 = false ∧ bit v 11 = false ∧ s.glb.fwLoad = none ∧
       fwFrame s (bits v 0 9) = false)) = true ∧
    (let s := Demo.on
     let via : Via := .pf
     let s := { s with glb.fwLoad := some 8 }
     decide (mayWrite s via = true) &&
     (match s.glb.fwLoad with
      | some mb =>
         let i := fwImageAt s mb.toNat
         true
      | _ => false)) = true ∧
    (let s := Demo.on
     let via : Via := .pf
     let s := { s with glb.resetHeld := true }
     decide (mayWrite s via = true ∧ s.glb.resetHeld = true)) = true := by decide +kernel
end

section
/-! PROOFS. Posting an event changes the free-value counter, the log of things sent and the host block alone (R480 to R483). -/

namespace Sys2Proof.Machine

/-- `t` is `s` after events were posted: the free-value counter, the log and the host block may differ. -/
def EventsOnly (s t : State) : Prop := ∃ d o h, t = { s with draw := d, outs := o, hst := h }

theorem EventsOnly.refl (s : State) : EventsOnly s s := ⟨_, _, _, rfl⟩

theorem EventsOnly.trans {s t u : State} : EventsOnly s t → EventsOnly t u → EventsOnly s u := by
  rintro ⟨_, _, _, rfl⟩ ⟨_, _, _, rfl⟩
  exact ⟨_, _, _, rfl⟩

theorem EventsOnly.ite {s t u : State} {c : Prop} [Decidable c] (ht : EventsOnly s t) (hu : EventsOnly s u) :
    EventsOnly s (if c then t else u) := by
  split
  · exact ht
  · exact hu

theorem emit_eventsOnly (s : State) (o : Out) : EventsOnly s (s.emit o) := ⟨_, _, _, rfl⟩

theorem drawn_eventsOnly (s : State) (n : Nat) : EventsOnly s (s.drawn n) := ⟨_, _, _, rfl⟩

theorem setQueue_eventsOnly (s : State) (fn : Nat) (q : EvtQueue) : EventsOnly s (setQueue s fn q) :=
  .ite ⟨_, _, _, rfl⟩ ⟨_, _, _, rfl⟩

theorem writeRecord_eventsOnly (s : State) (fn : Nat) (r : EvtRec) : EventsOnly s (writeRecord s fn r) :=
  .trans (.trans (emit_eventsOnly s _) (.ite (.refl _) (emit_eventsOnly _ _))) (setQueue_eventsOnly _ _ _)

theorem raiseIbi_eventsOnly (s : State) : EventsOnly s (raiseIbi s) := .ite ⟨_, _, _, rfl⟩ (.refl s)

theorem reportLost_eventsOnly (s : State) (fn : Nat) : EventsOnly s (reportLost s fn) :=
  .ite (.trans (writeRecord_eventsOnly s fn _) (setQueue_eventsOnly _ _ _)) (.refl s)

theorem offer_eventsOnly (s : State) (fn : Nat) (r : EvtRec) : EventsOnly s (offer s fn r) :=
  .ite (.refl s) (.trans (reportLost_eventsOnly s fn)
    (.ite (writeRecord_eventsOnly _ _ _)
      (.ite (.trans (setQueue_eventsOnly _ _ _) (raiseIbi_eventsOnly _)) (setQueue_eventsOnly _ _ _))))

theorem post_eventsOnly (s : State) (cls kind : Nat) (ctx : Option Ctx) (b : EvtBody) :
    EventsOnly s (post s cls kind ctx b) := by
  have first := (drawn_eventsOnly s 1).trans (offer_eventsOnly _ 0 (mkRecord s cls kind ctx b))
  cases ctx with
  | none => exact first
  | some t => exact .ite (first.trans (offer_eventsOnly _ _ _)) first

theorem postReg_eventsOnly (s : State) (cls : Nat) (ctx : Option Ctx) (off bitNo : Nat) (detail : W64) :
    EventsOnly s (postReg s cls ctx off bitNo detail) := post_eventsOnly s cls 0 ctx _

section
variable (s : State) (cls : Nat) (ctx : Option Ctx) (off bitNo : Nat) (detail : W64)

@[simp] theorem postReg_inst : (postReg s cls ctx off bitNo detail).inst = s.inst := by
  obtain ⟨_, _, _, e⟩ := postReg_eventsOnly s cls ctx off bitNo detail; rw [e]

@[simp] theorem postReg_ports : (postReg s cls ctx off bitNo detail).ports = s.ports := by
  obtain ⟨_, _, _, e⟩ := postReg_eventsOnly s cls ctx off bitNo detail; rw [e]

@[simp] theorem postReg_cores : (postReg s cls ctx off bitNo detail).cores = s.cores := by
  obtain ⟨_, _, _, e⟩ := postReg_eventsOnly s cls ctx off bitNo detail; rw [e]

@[simp] theorem portAt_postReg (p : Nat) : portAt (postReg s cls ctx off bitNo detail) p = portAt s p := by
  simp only [portAt, postReg_ports]

end

end Sys2Proof.Machine
end

section
/-! PROOFS. INST_CTL, the end of parsing and the end of an anchor write (R33 to R45). -/

namespace Sys2Proof.Machine

/-! ### Commands of INST_CTL -/

@[simp] theorem bit_or {n : Nat} (v w : BitVec n) (i : Nat) : bit (v ||| w) i = (bit v i || bit w i) := by simp [bit]

/-- INST_CTL lies in no gated domain (R610). -/
theorem instCtl_reachable (s : State) : regReachable s 0x30000 = true := rfl

section
variable {s : State} {via : Via} (hw : mayWrite s via = true) (v : W32)
include hw

theorem exec_load : exec (.load via v) s = .next (instLoad s) := by
  have accepted : exec (.load via v) s = .next (instWrite s (v ||| 1)) :=
    congrArg Host.Outcome.next (guarded_accepted _ hw (instCtl_reachable s))
  have load : bit (v ||| 1) 0 = true := by simp [bit]
  rw [accepted, instWrite, if_pos load]

theorem exec_anchor : exec (.anchor via v) s = .next (instWrite s (v ||| 4)) :=
  congrArg Host.Outcome.next (guarded_accepted _ hw (instCtl_reachable s))

theorem exec_verify : exec (.verify via v) s = .next (instWrite s (v ||| 2)) :=
  congrArg Host.Outcome.next (guarded_accepted _ hw (instCtl_reachable s))

end

/-- What a write of INST_CTL does by its three command bits (R43). -/
theorem instWrite_eq (s : State) (v : W32) : instWrite s v =
    match bit v 0, bit v 1, bit v 2 with
    | true, _, _ => instLoad s
    | false, true, true => s
    | false, false, true => instAnchor s
    | false, true, false => instVerify s
    | false, false, false => s := by
  unfold instWrite
  cases bit v 0 <;> cases bit v 1 <;> cases bit v 2 <;> rfl

@[simp] theorem leaveReady_inst (s : State) : (leaveReady s).inst = s.inst := by unfold leaveReady; split <;> rfl
@[simp] theorem leaveReady_anchor (s : State) : (leaveReady s).anchor = s.anchor := by unfold leaveReady; split <;> rfl
@[simp] theorem leaveReady_cores (s : State) : (leaveReady s).cores = s.cores := by unfold leaveReady; split <;> rfl
@[simp] theorem leaveReady_ports (s : State) : (leaveReady s).ports = s.ports := by unfold leaveReady; split <;> rfl

theorem instLoad_busy {s : State} (h : s.own.valid = true) : instLoad s = instErr s 9 := if_pos h

/-- LOAD outside a formed partition (R38, R43, R45). -/
theorem instLoad_free {s : State} (h : s.own.valid = false) :
    (instLoad s).inst.state = 1 ∧ (instLoad s).inst.err = 0 ∧ (instLoad s).inst.table = none ∧
      (s.inst.state = 5 → (instLoad s).inst.nbrOk = 0 ∧ (instLoad s).inst.nbrFail = 0) ∧
      (instLoad s).anchor = s.anchor ∧ (instLoad s).cores = s.cores ∧
      (instLoad s).ports = s.ports.map (fun q => if q.state = 2 then toIdent q else q) := by
  have ports : s.ports.map stopTraining = s.ports.map (fun q => if q.state = 2 then toIdent q else q) := by
    simp [stopTraining]
  have free : ¬ instBusy s = true := by simp [instBusy, h]
  rw [instLoad, if_neg free]
  by_cases h5 : s.inst.state = 5#4 <;> simp [h5, ports]

theorem instAnchor_busy {s : State} (h : s.own.valid = true) : instAnchor s = instErr s 9 := if_pos h

theorem instAnchor_otherState {s : State} (h : s.own.valid = false) (h3 : s.inst.state ≠ 3) :
    instAnchor s = instErr s 10 := by
  rw [instAnchor, if_neg (by simp [instBusy, h]), if_pos (by simpa using h3)]

theorem instAnchor_sealed {s : State} (h : s.own.valid = false) (h3 : s.inst.state = 3)
    (hs : s.own.sealing.windowOpen = false) : instAnchor s = instErr s 8 := by
  simp [instAnchor, instBusy, h, h3, hs]

theorem instAnchor_starts {s : State} {tab : Table} (h : s.own.valid = false) (h3 : s.inst.state = 3)
    (hs : s.own.sealing.windowOpen = true) (ht : s.inst.table = some tab) :
    instAnchor s = { s with inst := { s.inst with anchorWrite := some ⟨tab.anchored, tab.sequence⟩ } } := by
  simp [instAnchor, instBusy, h, h3, hs, ht]

theorem instVerify_starts {s : State} (h : s.inst.state = 6 ∨ s.inst.state = 7) :
    instVerify s = leaveReady (startCheck s) := if_pos (by simpa using h)

theorem instVerify_otherState {s : State} (h6 : s.inst.state ≠ 6) (h7 : s.inst.state ≠ 7) :
    instVerify s = instErr s 10 := by
  rw [instVerify, if_neg (by simpa using ⟨h6, h7⟩)]

/-- Settles O10: each command bit of INST_CTL leads to its own operation (`instWrite_eq`), and each operation has one lemma for
each of its outcomes. -/
theorem installCommandsStart : Obligations.InstallCommandsStart := by
  intro s via v hw
  simp only [exec_load hw, exec_anchor hw, exec_verify hw, instWrite_eq]
  have b4 : bit (4 : W32) 0 = false ∧ bit (4 : W32) 1 = false ∧ bit (4 : W32) 2 = true := by decide
  have b2 : bit (2 : W32) 0 = false ∧ bit (2 : W32) 1 = true ∧ bit (2 : W32) 2 = false := by decide
  simp only [bit_or, b4, b2, Bool.or_false, Bool.or_true]
  refine ⟨fun free => ?load, fun busy => congrArg _ (instLoad_busy busy),
    fun h0 h1 => ⟨fun busy => ?_, fun free => ?anchor⟩,
    fun h0 h2 => ⟨fun checked => ?verify, fun h6 h7 => ?_⟩, fun h0 => ?_, fun h0 => ⟨fun h1 => ?_, fun h2 => ?_⟩⟩
  case load =>
    obtain ⟨hstate, herr, htable, hnbr, hanchor, hcores, hports⟩ := instLoad_free free
    exact ⟨_, rfl, hstate, herr, htable, hnbr, hanchor, (instLoad_frame s).2, hcores, hports⟩
  case anchor =>
    rw [h0, h1]
    exact ⟨fun h3 => congrArg _ (instAnchor_otherState free h3),
      fun h3 hs => congrArg _ (instAnchor_sealed free h3 hs),
      fun tab h3 hs ht => congrArg _ (instAnchor_starts free h3 hs ht)⟩
  case verify =>
    rw [h0, h2, instVerify_starts checked]
    exact ⟨_, rfl, by simp [startCheck]⟩
  · rw [h0, h1]; exact congrArg _ (instAnchor_busy busy)
  · rw [h0, h2]; exact congrArg _ (instVerify_otherState h6 h7)
  · simp [h0]
  · simp [h0, h1]
  · simp [h0, h2]

/-! ### The end of parsing and of an anchor write (R33, R35, R38) -/

@[simp] theorem enterLoaded_anchor (s : State) (t : Table) : (enterLoaded s t).anchor = s.anchor := rfl
@[simp] theorem enterLoaded_own (s : State) (t : Table) : (enterLoaded s t).own = s.own := rfl
@[simp] theorem enterLoaded_state (s : State) (t : Table) : (enterLoaded s t).inst.state = 5 := rfl
@[simp] theorem enterLoaded_table (s : State) (t : Table) : (enterLoaded s t).inst.table = s.inst.table := rfl
@[simp] theorem enterLoaded_nbrOk (s : State) (t : Table) : (enterLoaded s t).inst.nbrOk = 0 := rfl
@[simp] theorem enterLoaded_nbrFail (s : State) (t : Table) : (enterLoaded s t).inst.nbrFail = 0 := rfl
@[simp] theorem enterLoaded_anchorWrite (s : State) (t : Table) :
    (enterLoaded s t).inst.anchorWrite = s.inst.anchorWrite := rfl

theorem AnchorStore.now_write (a : AnchorStore) (x : Anchor) : (a.write x).now = some x := by
  cases h : a.current1 <;> simp [AnchorStore.write, AnchorStore.now, h]

theorem AnchorStore.accepted_write (a : AnchorStore) (x : Anchor) :
    (a.write x).accepted.toNat = max a.accepted.toNat x.sequence.toNat := by
  have rises : (a.write x).accepted = if a.accepted.toNat < x.sequence.toNat then x.sequence else a.accepted := by
    cases h : a.current1 <;> simp [AnchorStore.write, h]
  rw [rises]
  split <;> omega

/-- A table that breaks a condition of R33 leaves INVALID. -/
theorem parseEnd_invalid {s : State} (h1 : s.inst.state = 1) (he : tableErr s (imageTable s) ≠ 0) :
    parseEnd s = { s with inst := { s.inst with state := 2, err := tableErr s (imageTable s), table := none } } := by
  rw [parseEnd, if_neg (by simp [h1])]
  exact if_pos (bne_iff_ne.mpr he)

/-- A valid table is held; the neighbour check starts where the anchor in force holds its digest. -/
theorem parseEnd_valid {s : State} (h1 : s.inst.state = 1) (he : tableErr s (imageTable s) = 0) :
    (parseEnd s).mem = s.mem ∧ (parseEnd s).own = s.own ∧ (parseEnd s).inst.table = some (imageTable s) ∧
      (parseEnd s).inst.state = if s.anchor.now.map (·.digest) = some (imageTable s).anchored then 5 else 3 := by
  cases hn : s.anchor.now with
  | none => simp [parseEnd, h1, he, hn]
  | some a =>
    by_cases hd : a.digest = (imageTable s).anchored
    · by_cases hs : a.sequence.toNat < (imageTable s).sequence.toNat <;> simp [parseEnd, h1, he, hn, hd, hs]
    · simp [parseEnd, h1, he, hn, hd]

/-- The state in which an anchor write has ended and nothing more has happened. -/
def anchorWritten (s : State) (a : Anchor) : State :=
  { s with anchor := s.anchor.write a, inst := { s.inst with anchorWrite := none } }

/-- An anchor write ends with the anchor written, and with the neighbour check of an UNANCHORED chip whose table it names. -/
theorem exec_anchorWriteEnd {s : State} {a : Anchor} (ha : s.inst.anchorWrite = some a) :
    exec .anchorWriteEnd s = .next (match s.inst.table with
      | some t => if s.inst.state = 3 ∧ t.anchored = a.digest then enterLoaded (anchorWritten s a) t else anchorWritten s a
      | none => anchorWritten s a) := by
  have unfolded : exec .anchorWriteEnd s = execAnchorWriteEnd s := rfl
  rw [unfolded, execAnchorWriteEnd, ha]
  cases ht : s.inst.table with
  | none => simp [anchorWritten, ht]
  | some t => simp [anchorWritten, ht]

/-- Settles O11: the end of parsing by whether a check of R33 fails, the end of the anchor write by what `AnchorStore.write`
stores. -/
theorem parsingAndAnchoring : Obligations.ParsingAndAnchoring := by
  refine ⟨fun s h1 r e hr he => ⟨parseEnd s, rfl, ?parse⟩, fun s a ha => ⟨?write, fun tab h3 ht hd => ?check⟩⟩
  case parse =>
    subst hr he
    by_cases he : tableErr s (imageTable s) = 0
    · obtain ⟨hmem, hown, htable, hstate⟩ := parseEnd_valid h1 he
      exact ⟨hmem, hown, by simp [he, htable], fun h => absurd he h, by simp [he, hstate]⟩
    · rw [parseEnd_invalid h1 he]
      exact ⟨rfl, rfl, (if_neg he).symm, fun _ => rfl, (if_pos he).symm⟩
  case write =>
    refine ⟨_, exec_anchorWriteEnd ha, ?_⟩
    have written : (anchorWritten s a).anchor.now = some a ∧ (anchorWritten s a).inst.anchorWrite = none ∧
        (anchorWritten s a).anchor.accepted.toNat = max s.anchor.accepted.toNat a.sequence.toNat ∧
        (anchorWritten s a).mem = s.mem ∧ (anchorWritten s a).own = s.own :=
      ⟨AnchorStore.now_write _ _, rfl, AnchorStore.accepted_write _ _, rfl, rfl⟩
    cases s.inst.table with
    | none => exact written
    | some t =>
      dsimp only
      split
      · simpa using written
      · exact written
  case check =>
    rw [exec_anchorWriteEnd ha, ht]
    exact ⟨_, rfl, by simp [h3, hd]⟩

end Sys2Proof.Machine
end

section
/-! PROOFS. The identification exchange and the neighbour check (R39 to R41, R44, R370, R371). -/

namespace Sys2Proof.Machine

/-! ### Registers of the ports -/

@[simp] theorem vmod_getD_same {α : Type} {n : Nat} (v : Vector α n) (i : Fin n) (f : α → α) (d : α) :
    (vmod v i.val f).toList.getD i.val d = f (v.toList.getD i.val d) := by
  rw [vmod_getD, if_pos ⟨rfl, i.isLt⟩]

/-- A port enters IDENT with its runs of agreeing frames at 0. -/
theorem portAt_enterIdent (s : State) (p : PortId) (f : Port → Port) :
    portAt (enterIdent s p.val f) p.val = toIdent (f (portAt s p.val)) :=
  portAt_modPort_same s p fun q => toIdent (f q)

@[simp] theorem enterIdent_agree (s : State) (p : PortId) (f : Port → Port) :
    (enterIdent s p.val f).inst.agree.toList.getD p.val 0 = 0 := vmod_getD_same s.inst.agree p _ 0

@[simp] theorem enterIdent_agreeByp (s : State) (p : PortId) (f : Port → Port) :
    (enterIdent s p.val f).inst.agreeByp.toList.getD p.val 0 = 0 := vmod_getD_same s.inst.agreeByp p _ 0

@[simp] theorem enterIdent_cores (s : State) (p : Nat) (f : Port → Port) : (enterIdent s p f).cores = s.cores := rfl

/-! ### Sending identification frames (R39, R370) -/

/-- The things that a port sends with its identification frame. -/
def idOuts (s : State) (p : Nat) : List Out := .idFrame p (idFrameOf s p) :: (idWords (idFrameOf s p)).map (Out.word p)

/-- The log after the ports of a list that exchange have sent their frames. -/
def idLog (s : State) (os : List Out) (ps : List Nat) : List Out :=
  ps.foldl (fun os p => if exchanging (portAt s p) then idOuts s p ++ os else os) os

theorem foldl_sendId (s : State) (os : List Out) (ps : List Nat) :
    ps.foldl (fun st p => if exchanging (portAt s p) then sendId st p else st) { s with outs := os } =
      { s with outs := idLog s os ps } := by
  induction ps generalizing os with
  | nil => rfl
  | cons p ps ih =>
    rw [List.foldl_cons, idLog, List.foldl_cons]
    by_cases h : exchanging (portAt s p) = true
    · simp only [h, if_true]; exact ih _
    · simp only [h]; exact ih _

theorem exec_idFrameSend (s : State) : exec .idFrameSend s = .next { s with outs := idLog s s.outs (List.range 10) } :=
  congrArg _ (foldl_sendId s s.outs (List.range 10))

/-- What is in the log stays in it. -/
theorem mem_idLog_of_mem {s : State} {o : Out} (ps : List Nat) {os : List Out} (h : o ∈ os) : o ∈ idLog s os ps := by
  induction ps generalizing os with
  | nil => exact h
  | cons p ps ih =>
    apply ih
    dsimp only
    split
    · exact List.mem_append_right _ h
    · exact h

theorem mem_idLog {s : State} {o : Out} {p : Nat} {ps : List Nat} (hp : p ∈ ps) (he : exchanging (portAt s p) = true)
    (ho : o ∈ idOuts s p) (os : List Out) : o ∈ idLog s os ps := by
  induction ps generalizing os with
  | nil => cases hp
  | cons r ps ih =>
    rcases List.mem_cons.mp hp with rfl | hp
    · rw [idLog, List.foldl_cons, if_pos he]
      exact mem_idLog_of_mem ps (List.mem_append_left os ho)
    · exact ih hp _

/-! ### A port passes or fails (R39 to R41, R44) -/

theorem portPass_cores (s : State) (p : Nat) (byp : Bool) : (portPass s p byp).cores = s.cores := by
  unfold portPass; dsimp only; split <;> rfl

theorem portPass_inst (s : State) (p : Nat) (byp : Bool) : (portPass s p byp).inst = { s.inst with
    nbrOk := setBit s.inst.nbrOk p true, nbrFail := setBit s.inst.nbrFail p false, held := setBit s.inst.held p false,
    bypassed := setBit s.inst.bypassed p byp, bypSeen := s.inst.bypSeen || byp } := by
  unfold portPass; dsimp only; split <;> rfl

/-- A port passes: NBR_OK is set, NBR_FAIL and the hold of its link are cleared. -/
theorem portPass_bits (s : State) (p : PortId) (byp : Bool) :
    bit (portPass s p.val byp).inst.nbrOk p.val = true ∧ bit (portPass s p.val byp).inst.nbrFail p.val = false ∧
      bit (portPass s p.val byp).inst.held p.val = false := by
  rw [portPass_inst]
  exact ⟨bit_setBit_same _ _ _ p.isLt, bit_setBit_same _ _ _ p.isLt, bit_setBit_same _ _ _ p.isLt⟩

theorem portFail_cores (s : State) (p : Nat) : (portFail s p).cores = s.cores := by simp [portFail]

theorem portFail_nbrFail (s : State) (p : Nat) : (portFail s p).inst.nbrFail = setBit s.inst.nbrFail p true := by
  simp [portFail]

theorem portFail_nbrOk (s : State) (p : Nat) : (portFail s p).inst.nbrOk = setBit s.inst.nbrOk p false := by
  simp [portFail]

theorem portFail_state (s : State) (p : Nat) : (portFail s p).inst.state = s.inst.state := by simp [portFail]

theorem portFail_table (s : State) (p : Nat) : table? (portFail s p) = table? s := by
  simp [table?, tableShown, portFail]

/-- A port fails: NBR_FAIL is set and NBR_OK cleared. -/
theorem portFail_bits (s : State) (p : PortId) :
    bit (portFail s p.val).inst.nbrFail p.val = true ∧ bit (portFail s p.val).inst.nbrOk p.val = false := by
  rw [portFail_nbrFail, portFail_nbrOk]
  exact ⟨bit_setBit_same _ _ _ p.isLt, bit_setBit_same _ _ _ p.isLt⟩

/-- A port that fails in IDENT stays in IDENT. -/
theorem portAt_portFail_ident {s : State} {p : PortId} (h : (portAt s p.val).state = 1) :
    portAt (portFail s p.val) p.val = portAt s p.val := by
  have failed : portAt (portFail s p.val) p.val =
      (fun q : Port => if q.state == 3 || q.state == 2 || q.state == 4 then { toIdent q with cause := 1 } else q)
        (portAt s p.val) := by
    unfold portFail
    dsimp only
    rw [portAt_postReg]
    exact portAt_modPort_same s p _
  rw [failed]
  simp [h]

/-! ### A received frame -/

/-- The state with the runs of agreeing frames of a port set: those from its neighbour, and those from across a bypass. -/
def setRuns (s : State) (p direct byp : Nat) : State :=
  { s with inst := { s.inst with
      agree := vmod s.inst.agree p fun _ => direct, agreeByp := vmod s.inst.agreeByp p fun _ => byp } }

@[simp] theorem setRuns_agree (s : State) (p : PortId) (direct byp : Nat) :
    (setRuns s p.val direct byp).inst.agree.toList.getD p.val 0 = direct := vmod_getD_same s.inst.agree p _ 0

/-- A port takes notice of identification frames: a table is in use and past LOADED, the port exists and exchanges. -/
structure Judges (s : State) (tab : Table) (p : Nat) : Prop where
  table : table? s = some tab
  exchanges : exchanging (portAt s p) = true
  present : portExists tab p = true
  loaded : 5 ≤ s.inst.state.toNat

/-- The frame is the one that the port expects (R39). -/
def isDirect (s : State) (tab : Table) (p : Nat) (f : IdFrame) : Bool :=
  frameAgrees tab f (expected tab (portAt s p).inService p).1 (expected tab (portAt s p).inService p).2

section
variable {s : State} {tab : Table} {p : Nat} {f : IdFrame}

/-- A port either takes no notice of a frame or judges it by the table in use. -/
theorem idFrame_eq_self_or_judges (s : State) (p : Nat) (f : IdFrame) : idFrame s p f = s ∨ ∃ tab, Judges s tab p := by
  unfold idFrame
  split
  · exact .inl rfl
  · next tab ht =>
    dsimp only
    split
    · exact .inl rfl
    · next notice =>
      simp only [Bool.or_eq_true, Bool.not_eq_true', decide_eq_true_eq, not_or, Bool.not_eq_false, Nat.not_lt] at notice
      obtain ⟨⟨exchanges, present⟩, loaded⟩ := notice
      exact .inr ⟨tab, ht, exchanges, present, loaded⟩

theorem idFrame_ignored (h : exchanging (portAt s p) = false) : idFrame s p f = s := by
  unfold idFrame
  cases table? s with
  | none => rfl
  | some t => simp [h]

variable (j : Judges s tab p)
include j

/-- What a frame does to a port that takes notice of it, by whom it names. -/
theorem idFrame_eq : idFrame s p f =
    if isDirect s tab p f then
      let n := s.inst.agree.toList.getD p 0 + 1
      if 3 ≤ n then portPass (setRuns s p n 0) p false else setRuns s p n 0
    else if frameBypass tab f p then
      let n := s.inst.agreeByp.toList.getD p 0 + 1
      if 3 ≤ n then portPass (setRuns s p 0 n) p true else setRuns s p 0 n
    else if bit s.inst.nbrFail p then setRuns s p 0 0
    else portFail s p := by
  have notice : ¬ ((!exchanging (portAt s p) || !portExists tab p || decide (s.inst.state.toNat < 5)) = true) := by
    simpa [j.exchanges, j.present] using j.loaded
  simp only [idFrame, j.table]
  rw [if_neg notice]
  rfl

theorem idFrame_direct_passes (hd : isDirect s tab p f = true) (hn : 2 ≤ s.inst.agree.toList.getD p 0) :
    idFrame s p f = portPass (setRuns s p (s.inst.agree.toList.getD p 0 + 1) 0) p false := by
  rw [idFrame_eq j, if_pos hd]; exact if_pos (by omega)

theorem idFrame_direct_counts (hd : isDirect s tab p f = true) (hn : s.inst.agree.toList.getD p 0 < 2) :
    idFrame s p f = setRuns s p (s.inst.agree.toList.getD p 0 + 1) 0 := by
  rw [idFrame_eq j, if_pos hd]; exact if_neg (by omega)

theorem idFrame_bypass_passes (hd : isDirect s tab p f = false) (hb : frameBypass tab f p = true)
    (hn : 2 ≤ s.inst.agreeByp.toList.getD p 0) :
    idFrame s p f = portPass (setRuns s p 0 (s.inst.agreeByp.toList.getD p 0 + 1)) p true := by
  rw [idFrame_eq j, if_neg (by simp [hd]), if_pos hb]; exact if_pos (by omega)

theorem idFrame_bypass_counts (hd : isDirect s tab p f = false) (hb : frameBypass tab f p = true)
    (hn : s.inst.agreeByp.toList.getD p 0 < 2) :
    idFrame s p f = setRuns s p 0 (s.inst.agreeByp.toList.getD p 0 + 1) := by
  rw [idFrame_eq j, if_neg (by simp [hd]), if_pos hb]; exact if_neg (by omega)

theorem idFrame_contradicts (hd : isDirect s tab p f = false) (hb : frameBypass tab f p = false) :
    idFrame s p f = if bit s.inst.nbrFail p then setRuns s p 0 0 else portFail s p := by
  rw [idFrame_eq j, if_neg (by simp [hd]), if_neg (by simp [hb])]

end

/-- A frame that leaves a PARKED port in IDENT, with its runs at 0, does not take it further. -/
theorem portAt_idFrame_fresh {s : State} {p : PortId} (f : IdFrame) (h1 : (portAt s p.val).state = 1)
    (ha : s.inst.agree.toList.getD p.val 0 = 0) (hb : s.inst.agreeByp.toList.getD p.val 0 = 0) :
    portAt (idFrame s p.val f) p.val = portAt s p.val := by
  rcases idFrame_eq_self_or_judges s p.val f with ignored | ⟨tab, j⟩
  · rw [ignored]
  · cases hd : isDirect s tab p.val f with
    | true => rw [idFrame_direct_counts j hd (by omega)]; rfl
    | false =>
      cases hp : frameBypass tab f p.val with
      | true => rw [idFrame_bypass_counts j hd hp (by omega)]; rfl
      | false =>
        rw [idFrame_contradicts j hd hp]
        split
        · rfl
        · exact portAt_portFail_ident h1

theorem idFrame_cores (s : State) (p : Nat) (f : IdFrame) : (idFrame s p f).cores = s.cores := by
  rcases idFrame_eq_self_or_judges s p f with ignored | ⟨tab, j⟩
  · rw [ignored]
  · have runs (direct byp : Nat) : (setRuns s p direct byp).cores = s.cores := rfl
    rw [idFrame_eq j]
    dsimp only
    split
    · split
      · rw [portPass_cores, runs]
      · exact runs _ _
    · split
      · split
        · rw [portPass_cores, runs]
        · exact runs _ _
      · split
        · exact runs _ _
        · exact portFail_cores s p

/-- A port that is not PARKED hands its frame to the check. -/
theorem exec_identificationFrame {s : State} {port : PortId} (f : IdFrame) (h : (portAt s port.val).state ≠ 6) :
    exec (.identificationFrame port f) s = .next (idFrame s port.val f) := by
  have lit : ¬ ((portAt s port.val).state == 6) = true := by simpa using h
  exact congrArg (fun u => Host.Outcome.next (idFrame u port.val f)) (if_neg lit)

theorem exec_identificationFrame_parked {s : State} {port : PortId} (f : IdFrame) (h : (portAt s port.val).state = 6) :
    exec (.identificationFrame port f) s = .next (idFrame (enterIdent s port.val id) port.val f) :=
  congrArg (fun u => Host.Outcome.next (idFrame u port.val f)) (if_pos (by simp [h]))

/-- A PARKED port is in no state in which ports exchange frames. -/
theorem exchanging_not_parked {q : Port} (h : exchanging q = true) : q.state ≠ 6 := by
  intro parked
  simp [exchanging, parked] at h

theorem frameAgrees_machineId {t : Table} {f : IdFrame} {c : Coord} {p : Nat} (h : frameAgrees t f c p = true) :
    f.machineId = t.machineId := by
  simp only [frameAgrees, Bool.and_eq_true, beq_iff_eq] at h
  obtain ⟨⟨⟨⟨hm, -⟩, -⟩, -⟩, -⟩ := h
  exact hm

/-! ### The end of the neighbour check (R41) -/

/-- A port of a check that is undecided at its timeout fails. -/
def failUndecided (s : State) (p : Nat) : State := if undecided s p then portFail s p else s

theorem failUndecided_decided {s : State} {p : Nat} (h : undecided s p = false) : failUndecided s p = s :=
  if_neg (by simp [h])

theorem failUndecided_undecided {s : State} {p : Nat} (h : undecided s p = true) : failUndecided s p = portFail s p := if_pos h

theorem exec_neighbourTimeout (s : State) (port : PortId) :
    exec (.neighbourTimeout port) s = .next (failUndecided s port.val) := rfl

theorem failUndecided_cores (s : State) (p : Nat) : (failUndecided s p).cores = s.cores := by
  unfold failUndecided; split
  · exact portFail_cores s p
  · rfl

theorem undecided_eq (s : State) (p : Nat) : undecided s p = ((table? s).any fun t =>
    s.inst.state == 5 && portExists t p && !bit s.inst.nbrOk p && !bit s.inst.nbrFail p) := by
  unfold undecided; cases table? s <;> rfl

/-- A port that has failed, or will fail when it is judged. -/
def failsCheck (s : State) (p : Nat) : Bool := bit s.inst.nbrFail p || undecided s p

theorem failsCheck_portFail {s : State} {p r : Nat} (hp : p < 10) (h : failsCheck s p = true) :
    failsCheck (portFail s r) p = true := by
  by_cases hr : p = r
  · subst hr
    simp [failsCheck, (portFail_bits s ⟨p, hp⟩).1]
  · have kept : failsCheck (portFail s r) p = failsCheck s p := by
      rw [failsCheck, failsCheck, undecided_eq, undecided_eq, portFail_table, portFail_state, portFail_nbrOk, portFail_nbrFail,
        bit_setBit_other _ _ hp hr, bit_setBit_other _ _ hp hr]
    rw [kept, h]

theorem failsCheck_failUndecided {s : State} {p : Nat} (r : Nat) (hp : p < 10) (h : failsCheck s p = true) :
    failsCheck (failUndecided s r) p = true := by
  unfold failUndecided; split
  · exact failsCheck_portFail hp h
  · exact h

theorem bit_failUndecided_same {s : State} {p : Nat} (hp : p < 10) (h : failsCheck s p = true) :
    bit (failUndecided s p).inst.nbrFail p = true := by
  unfold failUndecided; split
  · exact (portFail_bits s ⟨p, hp⟩).1
  · next decided =>
    simpa [failsCheck, decided] using h

theorem bit_failUndecided {s : State} {p : Nat} (r : Nat) (hp : p < 10) (h : bit s.inst.nbrFail p = true) :
    bit (failUndecided s r).inst.nbrFail p = true := by
  unfold failUndecided; split
  · rw [portFail_nbrFail, bit_setBit _ _ _ _ hp]
    split
    · rfl
    · exact h
  · exact h

theorem bit_foldl_failUndecided {s : State} {p : Nat} (rs : List Nat) (hp : p < 10) (h : bit s.inst.nbrFail p = true) :
    bit (rs.foldl failUndecided s).inst.nbrFail p = true := by
  induction rs generalizing s with
  | nil => exact h
  | cons r rs ih => exact ih (bit_failUndecided r hp h)

/-- A port that fails the check has its bit of NBR_FAIL once every port of a list with it has been judged. -/
theorem bit_foldl_of_failsCheck {s : State} {p : Nat} {rs : List Nat} (hp : p < 10) (hr : p ∈ rs)
    (h : failsCheck s p = true) : bit (rs.foldl failUndecided s).inst.nbrFail p = true := by
  induction rs generalizing s with
  | nil => cases hr
  | cons r rs ih =>
    rcases List.mem_cons.mp hr with rfl | hr
    · exact bit_foldl_failUndecided rs hp (bit_failUndecided_same hp h)
    · exact ih hr (failsCheck_failUndecided r hp h)

theorem foldl_failUndecided_decided {s : State} {rs : List Nat} (h : ∀ p ∈ rs, undecided s p = false) :
    rs.foldl failUndecided s = s := by
  induction rs with
  | nil => rfl
  | cons r rs ih =>
    rw [List.foldl_cons, failUndecided_decided (h r List.mem_cons_self)]
    exact ih fun p hp => h p (List.mem_cons_of_mem r hp)

theorem foldl_failUndecided_cores (s : State) (rs : List Nat) : (rs.foldl failUndecided s).cores = s.cores := by
  induction rs generalizing s with
  | nil => rfl
  | cons r rs ih => rw [List.foldl_cons, ih, failUndecided_cores]

/-- Every port has been judged. -/
def judged (s : State) : State := (List.range 10).foldl failUndecided s

/-- The check ends CHECKED where no port has failed, MISCABLED where one has. -/
theorem checkEnd_outcome {s : State} (h5 : s.inst.state = 5) :
    (checkEnd s).inst.state = (if (judged s).inst.nbrFail = 0 then 6 else 7) ∧ (checkEnd s).cores = s.cores := by
  have judgedAll : (List.range 10).foldl (fun st p => if undecided st p then portFail st p else st) s = judged s := rfl
  have cores : (judged s).cores = s.cores := foldl_failUndecided_cores s (List.range 10)
  have inst (u : State) (c : Prop) [Decidable c] : (if c then startBeat u else u).inst = u.inst := by split <;> rfl
  have kept (u : State) (c : Prop) [Decidable c] : (if c then startBeat u else u).cores = u.cores := by split <;> rfl
  rw [checkEnd, if_neg (by simp [h5]), judgedAll]
  clear judgedAll
  generalize judged s = u at cores ⊢
  dsimp only
  rw [inst, kept]
  exact ⟨by simp, cores⟩

theorem exists_bit_of_ne_zero {n : Nat} {v : BitVec n} (h : v ≠ 0) : ∃ i, i < n ∧ bit v i = true := by
  refine Classical.byContradiction fun clear => h (BitVec.eq_of_getLsbD_eq fun i hi => ?_)
  have off : v.getLsbD i = false := Bool.eq_false_iff.mpr fun on => clear ⟨i, hi, on⟩
  rw [off, BitVec.ofNat_eq_ofNat, BitVec.getLsbD_zero]

theorem ne_zero_of_bit {n : Nat} {v : BitVec n} {i : Nat} (h : bit v i = true) : v ≠ 0 := by
  rintro rfl
  simp [bit] at h

theorem judged_nbrFail_of_failsCheck {s : State} {p : Nat} (hp : p < 10) (h : failsCheck s p = true) :
    (judged s).inst.nbrFail ≠ 0 := by
  rw [judged]
  exact ne_zero_of_bit (bit_foldl_of_failsCheck hp (List.mem_range.mpr hp) h)

/-- Some port fails: one that is undecided, or one that has failed before. -/
theorem exists_failsCheck {s : State} {p : PortId} (h : undecided s p.val = true ∨ s.inst.nbrFail ≠ 0) :
    ∃ r, r < 10 ∧ failsCheck s r = true := by
  rcases h with undec | failed
  · exact ⟨p.val, p.isLt, by simp [failsCheck, undec]⟩
  · obtain ⟨r, hr, hb⟩ := exists_bit_of_ne_zero failed
    exact ⟨r, hr, by simp [failsCheck, hb]⟩

/-- Settles O12: frames by the outcomes of `idFrame_eq`, the end of the check by what judging every port leaves of NBR_FAIL. -/
theorem neighbourCheckJudgesPorts : Obligations.NeighbourCheckJudgesPorts := by
  refine ⟨fun s port f tab => ⟨?sends, fun parked => ?parked, fun quiet h6 => ?quiet,
    fun direct byp ht he hp hl hdirect hbyp => ?judges, fun h0 hm c p => ?zero⟩,
    fun s port => ⟨fun undec => ?timeout, fun decided => ?_, fun h5 noneFailed decided => ?checked,
      fun h5 fails => ?miscabled, fun h5 => congrArg _ (if_pos (by simpa using h5))⟩⟩
  case sends =>
    refine ⟨_, exec_idFrameSend s, rfl, fun he => ?_⟩
    have sent (o : Out) (ho : o ∈ idOuts s port.val) : o ∈ idLog s s.outs (List.range 10) :=
      mem_idLog (List.mem_range.mpr port.isLt) he ho s.outs
    exact ⟨sent _ List.mem_cons_self,
      fun w hw => sent _ (List.mem_cons_of_mem _ (List.mem_map_of_mem hw))⟩
  case parked =>
    refine ⟨_, exec_identificationFrame_parked f parked, ?_, by simp, by rw [idFrame_cores]; rfl⟩
    have ident : (portAt (enterIdent s port.val id) port.val).state = 1 := by rw [portAt_enterIdent]; rfl
    rw [portAt_idFrame_fresh f ident (enterIdent_agree s port id) (enterIdent_agreeByp s port id), ident]
  case quiet => rw [exec_identificationFrame f h6, idFrame_ignored quiet]
  case judges =>
    subst hdirect hbyp
    have j : Judges s tab port.val := ⟨ht, he, hp, hl⟩
    have runs := exec_identificationFrame f (exchanging_not_parked he)
    have mem := (idFrame_frame s port.val f).2
    have cores := idFrame_cores s port.val f
    refine ⟨fun hd hn => ⟨_, runs, ?_⟩, fun hd hn => ⟨_, runs, ?_⟩, fun hd hb hn => ⟨_, runs, ?_⟩,
      fun hd hb hn => ⟨_, runs, ?_⟩, fun hd hb hf => ⟨_, runs, ?_⟩, fun hd hb hf => ⟨_, runs, ?_⟩⟩
    · rw [idFrame_direct_passes j hd hn] at mem cores ⊢
      obtain ⟨hok, hfail, hheld⟩ :=
        portPass_bits (setRuns s port.val (s.inst.agree.toList.getD port.val 0 + 1) 0) port false
      exact ⟨hok, hfail, hheld, mem, cores⟩
    · rw [idFrame_direct_counts j hd hn]
      exact ⟨rfl, setRuns_agree s port _ _, rfl, rfl⟩
    · rw [idFrame_bypass_passes j hd hb hn] at mem cores ⊢
      obtain ⟨hok, hfail, -⟩ :=
        portPass_bits (setRuns s port.val 0 (s.inst.agreeByp.toList.getD port.val 0 + 1)) port true
      exact ⟨hok, hfail, by rw [portPass_inst]; exact Bool.or_true _, mem, cores⟩
    · rw [idFrame_bypass_counts j hd hb hn]
      exact ⟨rfl, setRuns_agree s port _ _, rfl, rfl⟩
    · rw [idFrame_contradicts j hd hb, if_neg (by simp [hf])] at mem cores ⊢
      obtain ⟨hfail, hok⟩ := portFail_bits s port
      exact ⟨hfail, hok, mem, cores⟩
    · rw [idFrame_contradicts j hd hb, if_pos hf]
      exact ⟨rfl, setRuns_agree s port _ _, rfl⟩
  case zero =>
    cases agrees : frameAgrees tab f c p with
    | false => rfl
    | true => exact absurd (h0 ▸ frameAgrees_machineId agrees).symm hm
  case timeout =>
    obtain ⟨hfail, hok⟩ := portFail_bits s port
    rw [exec_neighbourTimeout, failUndecided_undecided undec]
    exact ⟨_, rfl, hfail, hok, (portFail_frame s port.val).2, portFail_cores s port.val⟩
  · rw [exec_neighbourTimeout, failUndecided_decided decided]
  case checked =>
    have all : judged s = s := by
      rw [judged]
      exact foldl_failUndecided_decided fun p hp => decided p (List.mem_range.mp hp)
    obtain ⟨hstate, hcores⟩ := checkEnd_outcome h5
    refine ⟨checkEnd s, rfl, ?_, (checkEnd_frame s).2, hcores⟩
    rw [hstate, all, if_pos noneFailed]
  case miscabled =>
    obtain ⟨r, hr, hfails⟩ := exists_failsCheck fails
    obtain ⟨hstate, hcores⟩ := checkEnd_outcome h5
    refine ⟨checkEnd s, rfl, ?_, (checkEnd_frame s).2, hcores⟩
    rw [hstate, if_neg (judged_nbrFail_of_failsCheck hr hfails)]

end Sys2Proof.Machine
end

section
/-! PROOFS. Training of a port (R45, R366, R371 to R375, R386). -/

namespace Sys2Proof.Machine

/-! ### What a port's training leaves alone -/

/-- `t` differs from `s` in ports and in the log alone. -/
def LinkOnly (s t : State) : Prop := ∃ ps os, t = { s with ports := ps, outs := os }

theorem LinkOnly.refl (s : State) : LinkOnly s s := ⟨_, _, rfl⟩

theorem LinkOnly.trans {s t u : State} : LinkOnly s t → LinkOnly t u → LinkOnly s u := by
  rintro ⟨_, _, rfl⟩ ⟨_, _, rfl⟩
  exact ⟨_, _, rfl⟩

theorem LinkOnly.eq {s t : State} : LinkOnly s t → t = { s with ports := t.ports, outs := t.outs } := by
  rintro ⟨_, _, rfl⟩
  rfl

theorem modPort_linkOnly (s : State) (p : Nat) (f : Port → Port) : LinkOnly s (modPort s p f) := ⟨_, _, rfl⟩

theorem emit_linkOnly (s : State) (o : Out) : LinkOnly s (s.emit o) := ⟨_, _, rfl⟩

theorem sendTiming_linkOnly (s : State) (p : Nat) : LinkOnly s (sendTiming s p) := ⟨_, _, rfl⟩

@[simp] theorem portAt_emit (s : State) (o : Out) (p : Nat) : portAt (s.emit o) p = portAt s p := rfl

/-- Two states of a port in the same port state, with the same locks, powers and delay. -/
structure SameMeasures (q r : Port) : Prop where
  state : r.state = q.state
  wlLock : r.wlLock = q.wlLock
  rxPower : r.rxPower = q.rxPower
  delay : r.delay = q.delay

theorem SameMeasures.trans {q r u : Port} (h : SameMeasures q r) (k : SameMeasures r u) : SameMeasures q u :=
  ⟨k.state.trans h.state, k.wlLock.trans h.wlLock, k.rxPower.trans h.rxPower, k.delay.trans h.delay⟩

/-! ### A port goes DOWN (R372, R373) -/

theorem portAt_enterDown (s : State) (p : PortId) (cause step : BitVec 4) :
    let q := portAt (enterDown s p.val cause step) p.val
    q.state = 5 ∧ q.cause = cause ∧ q.step = step ∧ q.wlLock = 0 := by
  unfold enterDown
  dsimp only
  split <;> simp

/-! ### A step completed (R372) -/

/-- The next step begins, unless it is the end of SEQ: the log and the ports change, and the port's step. -/
theorem nextStep_spec (s : State) (p : PortId) (h7 : (portAt s p.val).step ≠ 7) :
    LinkOnly s (nextStep s p.val) ∧ (∀ o ∈ s.outs, o ∈ (nextStep s p.val).outs) ∧
      SameMeasures (portAt s p.val) (portAt (nextStep s p.val) p.val) ∧
      (portAt (nextStep s p.val) p.val).step = (portAt s p.val).step + 1 ∧
      (portAt (nextStep s p.val) p.val).stepHere = false := by
  have moved := modPort_linkOnly s p.val fun q => { q with step := q.step + 1, stepHere := false }
  unfold nextStep
  dsimp only
  split
  · refine ⟨moved.trans ((modPort_linkOnly _ _ _).trans (sendTiming_linkOnly _ _)),
      fun o ho => List.mem_cons_of_mem _ ho, ?_⟩
    simp only [sendTiming, portAt_emit, portAt_modPort_same]
    exact ⟨⟨rfl, rfl, rfl, rfl⟩, trivial, trivial⟩
  · refine ⟨moved.trans (emit_linkOnly _ _), fun o ho => List.mem_cons_of_mem _ ho, ?_⟩
    simp only [portAt_emit, portAt_modPort_same]
    exact ⟨⟨rfl, rfl, rfl, rfl⟩, trivial, trivial⟩
  · next h => exact absurd (BitVec.eq_of_toNat_eq h) h7
  · refine ⟨moved, fun o ho => ho, ?_⟩
    simp only [portAt_modPort_same]
    exact ⟨⟨rfl, rfl, rfl, rfl⟩, trivial, trivial⟩

/-- The port that has completed its step and said so. -/
def saidDone (s : State) (p : Nat) : State :=
  (modPort s p fun q => { q with stepHere := true }).emit (.word p (.train (portAt s p).step.toNat))

theorem saidDone_linkOnly (s : State) (p : Nat) : LinkOnly s (saidDone s p) := ⟨_, _, rfl⟩

theorem portAt_saidDone (s : State) (p : PortId) :
    portAt (saidDone s p.val) p.val = { portAt s p.val with stepHere := true } := portAt_modPort_same s p _

theorem train_mem_saidDone (s : State) (p : Nat) : Out.word p (.train (portAt s p).step.toNat) ∈ (saidDone s p).outs :=
  List.mem_cons_self

theorem stepComplete_waits {s : State} {p : Nat} (h : (portAt s p).peerStep.toNat < (portAt s p).step.toNat) :
    stepComplete s p = saidDone s p := if_neg (Nat.not_le.mpr h)

theorem stepComplete_goesOn {s : State} {p : Nat} (h : (portAt s p).step.toNat ≤ (portAt s p).peerStep.toNat) :
    stepComplete s p = nextStep (saidDone s p) p := if_pos h

/-- What the completion of a step before SEQ leaves of `s`, where `q` is the port with the step's measure taken: TRAIN goes
out, and the port waits or goes on by what the far end has completed. -/
structure StepTaken (s t : State) (p : Nat) (q : Port) : Prop where
  link : LinkOnly s t
  train : Out.word p (.train q.step.toNat) ∈ t.outs
  same : SameMeasures q (portAt t p)
  goesOn : q.step.toNat ≤ q.peerStep.toNat → (portAt t p).step = q.step + 1 ∧ (portAt t p).stepHere = false
  waits : q.peerStep.toNat < q.step.toNat → (portAt t p).step = q.step ∧ (portAt t p).stepHere = true

theorem stepComplete_taken (s : State) (p : PortId) (h7 : (portAt s p.val).step ≠ 7) :
    StepTaken s (stepComplete s p.val) p.val (portAt s p.val) := by
  have said := portAt_saidDone s p
  by_cases h : (portAt s p.val).step.toNat ≤ (portAt s p.val).peerStep.toNat
  · rw [stepComplete_goesOn h]
    obtain ⟨link, kept, same, step, here⟩ := nextStep_spec (saidDone s p.val) p (by rw [said]; exact h7)
    rw [said] at same step
    have unsaid : SameMeasures (portAt s p.val) { portAt s p.val with stepHere := true } := ⟨rfl, rfl, rfl, rfl⟩
    exact ⟨(saidDone_linkOnly s p.val).trans link, kept _ (train_mem_saidDone s p.val), unsaid.trans same,
      fun _ => ⟨step, here⟩, fun hlt => absurd hlt (Nat.not_lt.mpr h)⟩
  · rw [stepComplete_waits (Nat.not_le.mp h)]
    refine ⟨saidDone_linkOnly s p.val, train_mem_saidDone s p.val, ?_, fun hle => absurd hle h, fun _ => ?_⟩
    · rw [said]; exact ⟨rfl, rfl, rfl, rfl⟩
    · rw [said]; exact ⟨rfl, rfl⟩

/-- The step's measure is taken, and the step completed. -/
theorem stepComplete_measured (s : State) (p : PortId) (m : Port → Port) (h7 : (m (portAt s p.val)).step ≠ 7) :
    StepTaken s (stepComplete (modPort s p.val m) p.val) p.val (m (portAt s p.val)) := by
  have port := portAt_modPort_same s p m
  obtain ⟨link, train, same, goesOn, waits⟩ := stepComplete_taken (modPort s p.val m) p (port ▸ h7)
  rw [port] at train same goesOn waits
  exact ⟨(modPort_linkOnly s p.val m).trans link, train, same, goesOn, waits⟩

/-! ### The end of SEQ (R386) -/

/-- Two states of a port that hold the same sequence state, in the same place of its training. -/
structure SameLink (q r : Port) : Prop where
  state : r.state = q.state
  step : r.step = q.step
  bulk : r.bulk = q.bulk
  prio : r.prio = q.prio

theorem SameLink.refl (q : Port) : SameLink q q := ⟨rfl, rfl, rfl, rfl⟩

theorem SameLink.trans {q r u : Port} (h : SameLink q r) (k : SameLink r u) : SameLink q u :=
  ⟨k.state.trans h.state, k.step.trans h.step, k.bulk.trans h.bulk, k.prio.trans h.prio⟩

/-- A change of one port that keeps its sequence state keeps that of every port. -/
theorem portAt_modPort_sameLink (s : State) (p r : Nat) {f : Port → Port} (hf : ∀ q, SameLink q (f q)) :
    SameLink (portAt s r) (portAt (modPort s p f) r) := by
  rw [portAt_modPort]
  split
  · exact hf _
  · exact .refl _

theorem freeInput_sameLink (s : State) (o : OutFrame) (r : Nat) : SameLink (portAt s r) (portAt (freeInput s o) r) := by
  unfold freeInput
  split
  · exact portAt_modPort_sameLink s _ r fun q => ⟨rfl, rfl, rfl, rfl⟩
  · exact .refl _

theorem foldl_freeInput_sameLink (os : List OutFrame) (s : State) (r : Nat) :
    SameLink (portAt s r) (portAt (os.foldl freeInput s) r) := by
  induction os generalizing s with
  | nil => exact .refl _
  | cons o os ih => exact (freeInput_sameLink s o r).trans (ih _)

theorem portAt_countDiscard (s : State) (r : Nat) : portAt (countDiscard s) r = portAt s r := by
  unfold countDiscard; split <;> rfl

theorem dropStale_sameLink (s : State) (p r : Nat) : SameLink (portAt s r) (portAt (dropStale s p) r) := by
  have filtered (f g : OutFrame → Bool) := portAt_modPort_sameLink s p r (f := fun q => { q with
    bulkOut := q.bulkOut.filter f, prioOut := q.prioOut.filter g }) fun q => ⟨rfl, rfl, rfl, rfl⟩
  unfold dropStale
  dsimp only
  split
  · rw [portAt_countDiscard]
    exact (filtered _ _).trans (foldl_freeInput_sameLink _ _ r)
  · exact (filtered _ _).trans (foldl_freeInput_sameLink _ _ r)

/-- A port that returns to UP resends from the far end's in-order points. -/
theorem resume_port (s : State) (p : PortId) (bulk prio : Nat) :
    (portAt (resume s p.val bulk prio) p.val).state = 3 ∧ (portAt (resume s p.val bulk prio) p.val).step = 0 ∧
      (portAt (resume s p.val bulk prio) p.val).bulk = resend (portAt s p.val).bulk bulk ∧
      (portAt (resume s p.val bulk prio) p.val).prio = resend (portAt s p.val).prio prio := by
  unfold resume
  obtain ⟨hstate, hstep, hbulk, hprio⟩ := dropStale_sameLink (modPort s p.val fun q => { q with
    state := 3, step := 0, peer := none, stateValid := true, beenUp := true
    bulk := resend q.bulk bulk, prio := resend q.prio prio }) p.val p.val
  rw [portAt_modPort_same] at hstate hstep hbulk hprio
  exact ⟨hstate, hstep, hbulk, hprio⟩

/-- A link that restarts has nothing kept and both sequence spaces at 0. -/
theorem restartLink_port (s : State) (p : PortId) :
    (portAt (restartLink s p.val) p.val).bulk = .empty ∧ (portAt (restartLink s p.val) p.val).prio = .empty := by
  have freed (os : List OutFrame) := foldl_freeInput_sameLink os (modPort s p.val fun q => { q with
    bulk := .empty, prio := .empty, bulkOut := [], prioOut := [], sent := q.freed, peerReset := true }) p.val
  have discarded (c : Prop) [Decidable c] (u : State) (h : Hut) :
      portAt (if c then { u with hut := h } else u) p.val = portAt u p.val := by split <;> rfl
  unfold restartLink
  dsimp only
  rw [portAt_postReg, discarded, (freed _).bulk, (freed _).prio, portAt_modPort_same]
  exact ⟨rfl, rfl⟩

theorem resend_empty (point : Nat) : resend .empty point = .empty := rfl

/-- SEQ ends in UP: with the sequence state that both ends hold, or with both spaces at 0. -/
theorem finishSeq_port {s : State} {p : PortId} {b r : Nat} {v : Bool} (hp : (portAt s p.val).peer = some (b, r, v)) :
    (portAt (finishSeq s p.val) p.val).state = 3 ∧ (portAt (finishSeq s p.val) p.val).step = 0 ∧
      ((portAt s p.val).stateValid = true → v = true →
        (portAt (finishSeq s p.val) p.val).bulk = resend (portAt s p.val).bulk b) ∧
      ((portAt s p.val).stateValid = false ∨ v = false →
        (portAt (finishSeq s p.val) p.val).bulk = .empty ∧ (portAt (finishSeq s p.val) p.val).prio = .empty) := by
  have finished : finishSeq s p.val = if (portAt s p.val).stateValid && v
      then resume (modPort s p.val fun q => { q with peerReset := false }) p.val b r
      else resume (restartLink s p.val) p.val 0 0 := by
    unfold finishSeq
    dsimp only
    rw [hp]
  rw [finished]
  by_cases held : ((portAt s p.val).stateValid && v) = true
  · rw [if_pos held]
    obtain ⟨hstate, hstep, hbulk, -⟩ := resume_port (modPort s p.val fun q => { q with peerReset := false }) p b r
    rw [portAt_modPort_same] at hbulk
    refine ⟨hstate, hstep, fun _ _ => hbulk, fun lost => ?_⟩
    rcases lost with lost | lost <;> simp [lost] at held
  · rw [if_neg held]
    obtain ⟨hstate, hstep, hbulk, hprio⟩ := resume_port (restartLink s p.val) p 0 0
    obtain ⟨rbulk, rprio⟩ := restartLink_port s p
    rw [rbulk, resend_empty] at hbulk
    rw [rprio, resend_empty] at hprio
    exact ⟨hstate, hstep, fun hv hw => absurd (by simp [hv, hw]) held, fun _ => ⟨hbulk, hprio⟩⟩

/-! ### A training step on this end -/

/-- A port that trains and has not completed its step. -/
structure Trains (s : State) (p : Nat) : Prop where
  training : (portAt s p).state = 2
  working : (portAt s p).stepHere = false
  anchored : tableAnchored s = true

theorem trainStepDone_ignored {s : State} {p : Nat} (power : Vector (BitVec 8) 8)
    (h : (portAt s p).state ≠ 2 ∨ (portAt s p).stepHere = true ∨ tableAnchored s = false) : trainStepDone s p power = s :=
  if_pos (by simpa [or_assoc] using h)

section
variable {s : State} {p : Nat} (power : Vector (BitVec 8) 8) (h : Trains s p)
include h

theorem trainStepDone_lock (h2 : (portAt s p).step = 2) :
    trainStepDone s p power = stepComplete (modPort s p fun q => { q with wlLock := 0xFF }) p := by
  simp [trainStepDone, h.training, h.working, h.anchored, h2]

theorem trainStepDone_power (h3 : (portAt s p).step = 3) :
    trainStepDone s p power =
      let u := modPort s p fun q => { q with rxPower := power }
      if power.toList.any fun x => x.toInt < -90 then enterDown u p 2 3
      else if power.toList.any fun x => 30 < x.toInt then enterDown u p 3 3
      else stepComplete u p := by
  simp [trainStepDone, h.training, h.working, h.anchored, h3]

theorem trainStepDone_plain (h45 : (portAt s p).step = 4 ∨ (portAt s p).step = 5) :
    trainStepDone s p power = stepComplete s p := by
  rcases h45 with h4 | h5
  · simp [trainStepDone, h.training, h.working, h.anchored, h4]
  · simp [trainStepDone, h.training, h.working, h.anchored, h5]

theorem trainStepDone_delay (h6 : (portAt s p).step = 6) :
    trainStepDone s p power =
      if (portAt s p).echoes < 64 then s
      else if delayLimit s p < meanDelay (portAt s p) then enterDown s p 7 6
      else stepComplete (modPort s p fun q => { q with delay := BitVec.ofNat 12 (meanDelay q) }) p := by
  simp [trainStepDone, h.training, h.working, h.anchored, h6]

theorem trainStepDone_seq_waits (h7 : (portAt s p).step = 7) (hp : (portAt s p).peer = none) :
    trainStepDone s p power = s := by
  simp [trainStepDone, h.training, h.working, h.anchored, h7, hp]

theorem trainStepDone_seq {x : Nat × Nat × Bool} (h7 : (portAt s p).step = 7) (hp : (portAt s p).peer = some x) :
    trainStepDone s p power = stepComplete s p := by
  simp [trainStepDone, h.training, h.working, h.anchored, h7, hp]

end

/-- Readings within −45 to +15 dBm are neither too low nor too high. -/
theorem power_inRange {xs : List (BitVec 8)} (h : xs.all (fun x => decide (-90 ≤ x.toInt ∧ x.toInt ≤ 30)) = true) :
    xs.any (fun x => decide (x.toInt < -90)) = false ∧ xs.any (fun x => decide (30 < x.toInt)) = false := by
  simp only [List.all_eq_true, decide_eq_true_eq] at h
  simp only [List.any_eq_false, decide_eq_true_eq]
  exact ⟨fun x hx => Int.not_lt.mpr (h x hx).1, fun x hx => Int.not_lt.mpr (h x hx).2⟩

/-- A port with the measure of its step taken: the locks of step 2, the powers of step 3, the delay of step 6. -/
def measured (power : Vector (BitVec 8) 8) (q : Port) : Port :=
  { q with
    wlLock := if q.step = 2 then 0xFF else q.wlLock
    rxPower := if q.step = 3 then power else q.rxPower
    delay := if q.step = 6 then BitVec.ofNat 12 (meanDelay q) else q.delay }

/-- Steps 4 and 5 have no measure. -/
theorem measured_plain (power : Vector (BitVec 8) 8) {q : Port} (h : q.step = 4 ∨ q.step = 5) : measured power q = q := by
  have others : q.step ≠ 2 ∧ q.step ≠ 3 ∧ q.step ≠ 6 := by
    rcases h with h | h <;> rw [h] <;> decide
  obtain ⟨h2, h3, h6⟩ := others
  rw [measured, if_neg h2, if_neg h3, if_neg h6]

/-- A step before SEQ whose measures are within their limits is completed. -/
theorem trainStepDone_taken {s : State} {p : PortId} (power : Vector (BitVec 8) 8) (h : Trains s p.val)
    (done : (portAt s p.val).step = 2 ∨
      (portAt s p.val).step = 3 ∧ power.toList.all (fun x => decide (-90 ≤ x.toInt ∧ x.toInt ≤ 30)) = true ∨
      (portAt s p.val).step = 4 ∨ (portAt s p.val).step = 5 ∨
      (portAt s p.val).step = 6 ∧ (portAt s p.val).echoes = 64 ∧ meanDelay (portAt s p.val) ≤ delayLimit s p.val) :
    StepTaken s (trainStepDone s p.val power) p.val (measured power (portAt s p.val)) := by
  rcases done with h2 | ⟨h3, inRange⟩ | h4 | h5 | ⟨h6, all, inTime⟩
  · have taken := stepComplete_measured s p (fun q => { q with wlLock := 0xFF }) (by simp [h2])
    rw [trainStepDone_lock power h h2]
    simpa [measured, h2] using taken
  · have taken := stepComplete_measured s p (fun q => { q with rxPower := power }) (by simp [h3])
    obtain ⟨notLow, notHigh⟩ := power_inRange inRange
    rw [trainStepDone_power power h h3, if_neg (by simp [notLow]), if_neg (by simp [notHigh])]
    simpa [measured, h3] using taken
  · rw [trainStepDone_plain power h (.inl h4)]
    rw [measured_plain power (.inl h4)]
    exact stepComplete_taken s p (by simp [h4])
  · rw [trainStepDone_plain power h (.inr h5)]
    rw [measured_plain power (.inr h5)]
    exact stepComplete_taken s p (by simp [h5])
  · have taken := stepComplete_measured s p (fun q => { q with delay := BitVec.ofNat 12 (meanDelay q) }) (by simp [h6])
    rw [trainStepDone_delay power h h6, if_neg (by simp [all]), if_neg (Nat.not_lt.mpr inTime)]
    simpa [measured, h6] using taken

/-- SEQ completed on both ends: the port ends its training (R386). -/
theorem nextStep_seq {s : State} {p : Nat} (h7 : (portAt s p).step = 7) :
    nextStep s p = finishSeq (modPort s p fun q => { q with step := q.step + 1, stepHere := false }) p := by
  simp [nextStep, h7]

/-- A port that completes SEQ after the far end is UP. -/
theorem stepComplete_seq {s : State} {p : PortId} {b r : Nat} {v : Bool} (h7 : (portAt s p.val).step = 7)
    (hpeer : (portAt s p.val).peer = some (b, r, v)) (hle : 7 ≤ (portAt s p.val).peerStep.toNat) :
    let u := portAt (stepComplete s p.val) p.val
    u.state = 3 ∧ u.step = 0 ∧
      ((portAt s p.val).stateValid = true → v = true → u.bulk = resend (portAt s p.val).bulk b) ∧
      ((portAt s p.val).stateValid = false ∨ v = false → u.bulk = .empty ∧ u.prio = .empty) := by
  have said := portAt_saidDone s p
  have ended := portAt_modPort_same (saidDone s p.val) p fun q => { q with step := q.step + 1, stepHere := false }
  rw [said] at ended
  rw [stepComplete_goesOn (by rw [h7]; exact hle), nextStep_seq (by rw [said]; exact h7)]
  have up := finishSeq_port (p := p) (b := b) (r := r) (v := v) (by rw [ended]; exact hpeer)
  rw [ended] at up
  exact up

/-! ### Limits and retries (R371, R373) -/

theorem trainStepTimeout_training {s : State} {p : Nat} (cause : Nat) (h : (portAt s p).state = 2) :
    trainStepTimeout s p cause = enterDown s p (BitVec.ofNat 4 cause) (portAt s p).step := by
  simp [trainStepTimeout, h]

theorem trainStepTimeout_ident {s : State} {p : Nat} (cause : Nat) (h1 : (portAt s p).state = 1) (hs : (portAt s p).step = 1)
    (he : (portAt s p).enable = true) : trainStepTimeout s p cause = enterDown s p 1 1 := by
  simp [trainStepTimeout, h1, hs, he]

theorem trainStepTimeout_ignored {s : State} {p : Nat} (cause : Nat) (h1 : (portAt s p).state ≠ 1)
    (h2 : (portAt s p).state ≠ 2) : trainStepTimeout s p cause = s := by
  rw [trainStepTimeout, if_neg (by simpa using fun h => absurd h h1), if_neg (by simpa using h2)]

theorem exec_trainStepDone (s : State) (port : PortId) (power : Vector (BitVec 8) 8) :
    exec (.trainStepDone port power) s = .next (trainStepDone s port.val power) := rfl

theorem exec_trainStepTimeout (s : State) (port : PortId) (cause : Nat) :
    exec (.trainStepTimeout port cause) s = .next (trainStepTimeout s port.val cause) := rfl

theorem exec_downRetry (s : State) (port : PortId) :
    exec (.downRetry port) s = .next (if (portAt s port.val).state == 5 then enterIdent s port.val id else s) := rfl

/-- Settles O38: a step completed by `StepTaken`, its measures by the equations of `trainStepDone` for each step, the end of
SEQ by `stepComplete_seq`, a port that goes DOWN by `portAt_enterDown`. -/
theorem portsTrainStepByStep : Obligations.PortsTrainStepByStep := by
  intro s port power cause p q hp hq
  subst hp hq
  simp only [exec_trainStepDone, exec_trainStepTimeout, exec_downRetry]
  refine ⟨fun h => congrArg _ (trainStepDone_ignored power h), fun h2 hh ht => ?trains, fun h2 => ?timeout,
    fun h1 hs he => ?ident, fun h1 h2 => congrArg _ (trainStepTimeout_ignored cause h1 h2), fun h5 => ?retry,
    fun h5 => congrArg _ (if_neg (by simpa using h5))⟩
  case timeout =>
    rw [trainStepTimeout_training cause h2]
    obtain ⟨hstate, hcause, hstep, -⟩ := portAt_enterDown s port (BitVec.ofNat 4 cause) (portAt s port.val).step
    exact ⟨_, rfl, hstate, hcause, hstep, (enterDown_frame _ _ _ _).2⟩
  case ident =>
    rw [trainStepTimeout_ident cause h1 hs he]
    obtain ⟨hstate, hcause, hstep, -⟩ := portAt_enterDown s port 1 1
    exact ⟨_, rfl, hstate, hcause, hstep, (enterDown_frame _ _ _ _).2⟩
  case retry =>
    have port' := portAt_enterIdent s port id
    rw [if_pos (by simp [h5])]
    refine ⟨_, rfl, rfl, ?_, ?_, ?_, ?_, enterIdent_agree s port id⟩ <;> rw [port'] <;> rfl
  case trains =>
    have h : Trains s port.val := ⟨h2, hh, ht⟩
    refine ⟨fun h3 low => ?low, fun h3 low high => ?high, fun done => ?done, fun h6 few => ?few, fun h6 all long => ?long,
      fun h7 silent => ?silent, fun b r v h7 hpeer => ⟨fun ahead => ?ahead, fun behind => ?behind⟩⟩
    case low =>
      rw [trainStepDone_power power h h3]
      dsimp only
      rw [if_pos low]
      obtain ⟨hstate, hcause, hstep, hlock⟩ := portAt_enterDown (modPort s port.val _) port 2 3
      exact ⟨_, rfl, hstate, hcause, hstep, hlock, (enterDown_frame _ _ _ _).2⟩
    case high =>
      rw [trainStepDone_power power h h3]
      dsimp only
      rw [if_neg (by simp [low]), if_pos high]
      obtain ⟨hstate, hcause, hstep, -⟩ := portAt_enterDown (modPort s port.val _) port 3 3
      exact ⟨_, rfl, hstate, hcause, hstep, (enterDown_frame _ _ _ _).2⟩
    case done =>
      have taken := trainStepDone_taken power h done
      exact ⟨_, rfl, taken.link.eq, taken.train, taken.same.state.trans h2,
        fun h2 => taken.same.wlLock.trans (if_pos h2), fun h3 => taken.same.rxPower.trans (if_pos h3),
        fun h6 => taken.same.delay.trans (if_pos h6), taken.goesOn, taken.waits⟩
    case few => rw [trainStepDone_delay power h h6, if_pos few]
    case long =>
      have late : delayLimit s port.val < meanDelay (portAt s port.val) := long
      rw [trainStepDone_delay power h h6, if_neg (Nat.not_lt.mpr all), if_pos late]
      obtain ⟨hstate, hcause, -, -⟩ := portAt_enterDown s port 7 6
      exact ⟨_, rfl, hstate, hcause⟩
    case silent => rw [trainStepDone_seq_waits power h h7 silent]
    case ahead =>
      rw [trainStepDone_seq power h h7 hpeer, stepComplete_waits (by rw [h7]; exact ahead)]
      have said := portAt_saidDone s port
      exact ⟨_, rfl, (saidDone_linkOnly s port.val).eq, by rw [said], by rw [said]; exact h2⟩
    case behind =>
      rw [trainStepDone_seq power h h7 hpeer]
      obtain ⟨hstate, hstep, hheld, hlost⟩ := stepComplete_seq h7 hpeer behind
      refine ⟨_, rfl, hstate, hstep, (stepComplete_frame s port.val).2, fun hv hw => ?_, hlost⟩
      rw [hheld hv hw]
      exact ⟨rfl, rfl⟩

end Sys2Proof.Machine
end

section
/-! PROOFS. What reset leaves (R65, R132, R163, R314, R371, R447, R516, R549). -/

namespace Sys2Proof.Machine

theorem vector_getD_replicate {α : Type} (n i : Nat) (d : α) : (Vector.replicate n d).toList.getD i d = d := by
  simp [List.getD_eq_getElem?_getD, List.getElem?_replicate]
  split <;> rfl

@[simp] theorem coreAt_reset (n : Nat) : coreAt State.reset n = .reset := vector_getD_replicate 16 n Core.reset

@[simp] theorem portAt_reset (p : Nat) : portAt State.reset p = .reset := vector_getD_replicate 10 p Port.reset

theorem getS_reset (r : BitVec 5) : getS .reset r = 0 := vector_getD_replicate 32 r.toNat 0

/-- Every arrival counter is valid and 0 (R314). -/
theorem counterAt_reset (n k : Nat) : counterAt State.reset n k = ⟨0, true, false⟩ := by
  rw [counterAt, coreAt_reset]
  exact vector_getD_replicate 256 k (⟨0, true, false⟩ : Counter)

/-- Settles O2: the registers of cores, ports and counters are copies of one reset value, and every other field holds the value
that the reset state gives it. -/
theorem resetStateIsAsStated : Obligations.ResetStateIsAsStated := by
  refine ⟨rfl, rfl, rfl, rfl, rfl, rfl, rfl, rfl, rfl, rfl, rfl, rfl, rfl, rfl, fun p => ?port, fun n => ?core⟩
  case port => rw [portAt_reset]; exact ⟨rfl, rfl⟩
  case core =>
    rw [coreAt_reset]
    exact ⟨rfl, getS_reset, rfl, fun k => counterAt_reset n.val k.toNat⟩

end Sys2Proof.Machine
end

section
/-! PROOFS. Writes of registers that have no command of their own (R601, R603, R607, R610). -/

namespace Sys2Proof.Machine

theorem exec_registerWrite (off : Nat) (via : Via) (v : W32) (s : State) :
    exec (.registerWrite off via v) s = .next (registerWrite s via off v) := rfl

/-! ### What becomes of a write (R601, R610) -/

theorem registerWrite_reserved {s : State} {via : Via} {off : Nat} (v : W32) (h : isRegister off = false) :
    registerWrite s via off v = s := by
  simp [registerWrite, h]

/-- A write of a register, but OWN_CLAIM, is judged by `guarded`. -/
theorem registerWrite_guarded {s : State} {via : Via} {off : Nat} (v : W32) (h : isRegister off = true)
    (hc : off ≠ 0x20008) : registerWrite s via off v = guarded s via off fun s => blockWrite s via off v := by
  simp [registerWrite, h, hc]

theorem registerWrite_dark {s : State} {via : Via} {off : Nat} (v : W32) (hw : mayWrite s via = true) (hc : off ≠ 0x20008)
    (hd : regReachable s off = false) : registerWrite s via off v = s := by
  cases h : isRegister off with
  | false => exact registerWrite_reserved v h
  | true => simp [registerWrite_guarded v h hc, guarded, hw, hd]

theorem registerWrite_accepted {s : State} {via : Via} {off : Nat} (v : W32) (h : isRegister off = true)
    (hc : off ≠ 0x20008) (hw : mayWrite s via = true) (hr : regReachable s off = true) :
    registerWrite s via off v = blockWrite s via off v := by
  rw [registerWrite_guarded v h hc, guarded_accepted _ hw hr]

/-! ### Registers of the cores (Table 18-4) -/

section
variable (n : CoreId) {o : Nat} (ho : o < 0x10000)
include ho

theorem corReg_core : (corReg n.val o - 0x100000) / 0x10000 = n.val := by
  unfold corReg; omega

theorem corReg_offset : corReg n.val o % 0x10000 = o := by
  unfold corReg; omega

theorem corReg_range : 0x100000 ≤ corReg n.val o ∧ corReg n.val o < 0x200000 := by
  have := n.isLt
  unfold corReg; omega

theorem blockWrite_corReg (s : State) (via : Via) (v : W32) :
    blockWrite s via (corReg n.val o) v = corWrite s n.val o v := by
  rw [blockWrite, if_pos (corReg_range n ho).1, corReg_core n ho, corReg_offset n ho]

end

theorem regDomain_corReg (n : CoreId) {o : Nat} (ho : o < 0x10000) : regDomain (corReg n.val o) = none := by
  obtain ⟨low, -⟩ := corReg_range n ho
  have above (b : Nat) (hb : b ≤ 0x100000) : ¬ corReg n.val o < b := Nat.not_lt.mpr (Nat.le_trans hb low)
  simp [regDomain, above]

/-- COR_PC_LO lies in its core's domain (Table 18-1). -/
theorem corPc_reachable (s : State) (n : CoreId) : regReachable s (corReg n.val 8) = domainOn s n.val := by
  have ho : 8 < 0x10000 := by decide
  simp [regReachable, regDomain_corReg n ho, corReg_range n ho, corReg_core n ho, corReg_offset n ho]

theorem corPc_isRegister (n : CoreId) : isRegister (corReg n.val 8) = true := by
  have ho : 8 < 0x10000 := by decide
  simp [isRegister, corReg_range n ho, corReg_offset n ho]

/-- A write of COR_PC_LO whose authority is given, of a core whose domain is on (R133). -/
theorem registerWrite_corPc {s : State} {via : Via} {n : CoreId} (v : W32) (hw : mayWrite s via = true)
    (on : domainOn s n.val = true) : registerWrite s via (corReg n.val 8) v = corPcWrite s n.val v := by
  have notClaim : corReg n.val 8 ≠ 0x20008 := by unfold corReg; omega
  rw [registerWrite_accepted v (corPc_isRegister n) notClaim hw ((corPc_reachable s n).trans on),
    blockWrite_corReg n (by decide)]
  rfl

theorem corPcWrite_halted {s : State} {n : Nat} (v : W32) (h : (coreAt s n).state = 0) :
    corPcWrite s n v = modCore s n fun c => { c with pc := v &&& 0xFFFFFFF8 } := by
  simp [corPcWrite, h]

theorem corPcWrite_runs {s : State} {n : Nat} (v : W32) (h : (coreAt s n).state ≠ 0) : corPcWrite s n v = corErr s n 1 := by
  rw [corPcWrite, if_pos (by simpa using h)]

/-! ### BEAT_PERIOD outside a partition (R53) -/

/-- A new period outside a partition is taken, or refused below its minimum. -/
theorem beatPeriodWrite_free {s : State} {v : W32} (free : formed s = false) (new : (v.extractLsb' 8 8 : Byte) ≠ nextM1 s) :
    beatPeriodWrite s v = if (v.extractLsb' 8 8).toNat < minM1 s then beatErr s 1
      else { s with beat := { s.beat with nextM1 := v.extractLsb' 8 8 } } := by
  rw [beatPeriodWrite, if_neg (by simpa using new), if_neg (by simp [free]), if_neg (c := formed s = true) (by simp [free])]

/-! ### PWR_RAMP (R517 to R523) -/

theorem setWidth_eq_lowByte (v : W32) : (v.setWidth 8 : Byte) = v.extractLsb' 0 8 := BitVec.setWidth_eq_extractLsb' (by decide)

/-- A field of a written PWR_RAMP lies out of its range. -/
def rampBad (v : W32) : Prop := bits v 24 4 = 15 ∨ bits v 20 3 = 0 ∨ bits v 0 8 = 0 ∨ bits v 8 8 ≤ bits v 0 8

theorem rampBad_iff (v : W32) : rampBad v ↔
    ((v.extractLsb' 24 4 : BitVec 4) == 15 || (v.extractLsb' 20 3 : BitVec 3) == 0 || (v.setWidth 8 : Byte) == 0 ||
      decide ((v.extractLsb' 8 8 : Byte).toNat ≤ (v.setWidth 8 : Byte).toNat)) = true := by
  rw [setWidth_eq_lowByte]
  simp only [rampBad, bits, Bool.or_eq_true, beq_iff_eq, decide_eq_true_eq, BitVec.toNat_eq, or_assoc]
  rfl

/-- The settings that a write of PWR_RAMP with LOOP_EN = 0 leaves (R520 to R523). -/
def rampOpen (v : W32) (p : Pwr) : Pwr :=
  { p with
    rho := v.extractLsb' 24 4, loopEn := false, lMin := v.extractLsb' 20 3, release := v.extractLsb' 16 4
    tripHi := v.extractLsb' 8 8, tripLo := v.setWidth 8
    droop := p.droop.map fun d => { d with level := 8, release := 0 } }

section
variable {s : State} {v : W32} (h : bit v 23 = false)
include h

theorem rampWrite_refused (bad : rampBad v) : rampWrite s v = modPwr s fun p => { p with rampErr := 5 } := by
  rw [rampWrite, if_neg (by simp [h]), if_pos ((rampBad_iff v).mp bad)]

theorem rampWrite_taken (ok : ¬ rampBad v) : rampWrite s v = modPwr s (rampOpen v) := by
  rw [rampWrite, if_neg (by simp [h]), if_neg fun bad => ok ((rampBad_iff v).mpr bad), h]
  rfl

end

/-- Settles O9: a write by what becomes of it (`registerWrite_reserved`, `registerWrite_dark`, `registerWrite_accepted`), then by
its register. -/
theorem registerWritesReachTheirRegister : Obligations.RegisterWritesReachTheirRegister := by
  intro s off via v
  simp only [exec_registerWrite]
  refine ⟨fun reserved => congrArg _ (registerWrite_reserved v reserved),
    fun hw hc dark => congrArg _ (registerWrite_dark v hw hc dark), fun hw => ?_⟩
  have fixed (o : Nat) (hr : isRegister o = true) (hc : o ≠ 0x20008) (on : regReachable s o = true) :
      registerWrite s via o v = blockWrite s via o v := registerWrite_accepted v hr hc hw on
  have period : registerWrite s via 0x10004 v = beatPeriodWrite s v := fixed 0x10004 rfl (by decide) rfl
  have ramp : registerWrite s via 0x90010 v = rampWrite s v := fixed 0x90010 rfl (by decide) rfl
  rw [period, ramp]
  refine ⟨fun n on => ?core, fun free new => ?period, fun hl hr hm ht hlt => ?taken,
    fun hl bad => congrArg _ (rampWrite_refused hl bad), congrArg _ (fixed 0xB0010 rfl (by decide) rfl),
    congrArg _ (fixed 0x9000C rfl (by decide) rfl)⟩
  case core =>
    rw [registerWrite_corPc v hw on]
    exact ⟨fun halted => congrArg _ (corPcWrite_halted v halted), fun runs => congrArg _ (corPcWrite_runs v runs)⟩
  case period =>
    rw [beatPeriodWrite_free free new]
    exact ⟨fun long => congrArg _ (if_neg (Nat.not_lt.mpr long)), fun short => congrArg _ (if_pos short)⟩
  case taken =>
    have ok : ¬ rampBad v := by
      simp [rampBad, hr, hm, ht, Nat.not_le.mpr hlt]
    rw [rampWrite_taken hl ok]
    exact ⟨_, rfl, rfl, rfl, rfl, rfl, rfl, congrArg BitVec.toNat (setWidth_eq_lowByte v), rfl⟩

end Sys2Proof.Machine
end

section
/-! PROOFS. The beat unit's registers (R65, R75 to R78, R82, R88). -/

namespace Sys2Proof.Machine

/-! ### A write of BEAT_CTL (Table 2-6) -/

/-- The fields of BEAT_CTL that a write sets whatever its ENABLE. -/
def beatFields (s : State) (v : W32) : State :=
  { s with beat := { s.beat with
      gain := v.extractLsb' 6 2, evtEdge := bit v 5
      phasePeak := if bit v 2 then 0 else s.beat.phasePeak
      edgeCnt := if bit v 1 then 0 else s.beat.edgeCnt } }

/-- BEAT_CTL is refused, or its fields are set and ENABLE acts by the unit's state. -/
theorem beatCtlWrite_eq (s : State) (v : W32) : beatCtlWrite s v =
    if bit v 0 && (s.beat.state == 0 || s.beat.state == 5) && s.inst.state != 6 then beatErr s 2
    else if !bit v 0 && formed s then beatErr s 3
    else if s.beat.state == 5 then beatFields s v
    else if bit v 0 then (if s.beat.state == 0 && !stopped s then startBeat (beatFields s v) else beatFields s v)
    else stopBeat (beatFields s v) := rfl

section
variable {s : State} {v : W32}

theorem beatCtlWrite_noTable (on : bit v 0 = true) (off : s.beat.state = 0 ∨ s.beat.state = 5) (h6 : s.inst.state ≠ 6) :
    beatCtlWrite s v = beatErr s 2 := by
  rw [beatCtlWrite_eq, if_pos]
  simpa [on] using And.intro off h6

theorem beatCtlWrite_live (clear : bit v 0 = false) (live : formed s = true) : beatCtlWrite s v = beatErr s 3 := by
  rw [beatCtlWrite_eq, if_neg (by simp [clear]), if_pos (by simp [clear, live])]

theorem beatCtlWrite_starts (on : bit v 0 = true) (off : s.beat.state = 0) (h6 : s.inst.state = 6)
    (runs : stopped s = false) : beatCtlWrite s v = startBeat (beatFields s v) := by
  rw [beatCtlWrite_eq, if_neg (by simp [h6]), if_neg (by simp [on]), if_neg (by simp [off]), if_pos on,
    if_pos (by simp [off, runs])]

theorem beatCtlWrite_stops (clear : bit v 0 = false) (free : formed s = false) (h5 : s.beat.state ≠ 5) :
    beatCtlWrite s v = stopBeat (beatFields s v) := by
  rw [beatCtlWrite_eq, if_neg (by simp [clear]), if_neg (by simp [free]), if_neg (by simpa using h5), if_neg (by simp [clear])]

/-- ENABLE written as 1 to a unit that is on changes no more than the other fields. -/
theorem beatCtlWrite_on (on : bit v 0 = true) (h0 : s.beat.state ≠ 0) (table : s.beat.state ≠ 5 ∨ s.inst.state = 6) :
    beatCtlWrite s v = beatFields s v := by
  have n0 : (s.beat.state == 0) = false := beq_eq_false_iff_ne.mpr h0
  have accepted : ¬ (bit v 0 && (s.beat.state == 0 || s.beat.state == 5) && s.inst.state != 6) = true := by
    rcases table with h5 | h6
    · rw [n0, beq_eq_false_iff_ne.mpr h5]; simp
    · simp [h6]
  rw [beatCtlWrite_eq, if_neg accepted, if_neg (by simp [on]), if_pos on, n0, Bool.false_and, if_neg Bool.false_ne_true]
  exact ite_self _

end

/-! ### The registers of the beat unit lie in no gated domain (R610) -/

theorem beatCtl_reachable (s : State) : regReachable s 0x10000 = true := rfl

theorem beatGuard_reachable (s : State) : regReachable s 0x10014 = true := rfl

section
variable {s : State} {via : Via} (hw : mayWrite s via = true) (v : W32)
include hw

theorem exec_beatEnable : exec (.beatEnable via v) s = .next (beatCtlWrite s v) :=
  congrArg Host.Outcome.next (guarded_accepted _ hw (beatCtl_reachable s))

theorem exec_beatPeakClr : exec (.beatPeakClr via v) s = .next (beatCtlWrite s (v ||| 4)) :=
  congrArg Host.Outcome.next (guarded_accepted _ hw (beatCtl_reachable s))

theorem exec_beatCntClr : exec (.beatCntClr via v) s = .next (beatCtlWrite s (v ||| 2)) :=
  congrArg Host.Outcome.next (guarded_accepted _ hw (beatCtl_reachable s))

theorem exec_beatGuardWrite : exec (.beatGuardWrite via v) s = .next (beatGuardWrite s v) :=
  congrArg Host.Outcome.next (guarded_accepted _ hw (beatGuard_reachable s))

end

/-! ### The beat count (R78) -/

theorem sameLatch_self (via : Via) : sameLatch via via = true := by
  cases via <;> simp [sameLatch]

/-- A path's latches are those of a path with the same latch. -/
theorem sameLatch_latchOf (s : State) (via : Via) : sameLatch (latchOf s via).via via = true := by
  unfold latchOf
  split
  · next found => exact List.find?_some (p := fun l : Latch => sameLatch l.via via) found
  · exact sameLatch_self via

theorem latchOf_setLatch {s : State} {via : Via} {l : Latch} (h : sameLatch l.via via = true) :
    latchOf (setLatch s l) via = l := by
  simp [latchOf, setLatch, h]

theorem exec_beatCountLoRead (s : State) (via : Via) : exec (.beatCountLoRead via) s =
    .next ((setLatch s { latchOf s via with beatHi := some (s.beat.count.extractLsb' 32 32) }).emit
      (.readData via 0x10008 (s.beat.count.setWidth 32))) := rfl

theorem exec_beatCountHiRead (s : State) (via : Via) : exec (.beatCountHiRead via) s =
    .next ((setLatch s { latchOf s via with beatHi := none }).emit
      (.readData via 0x1000C ((latchOf s via).beatHi.getD (s.beat.count.extractLsb' 32 32)))) := rfl

/-- Settles O13: a write of BEAT_CTL by the outcomes of `beatCtlWrite_eq`, a read of the count by the latch it leaves. -/
theorem beatRegistersAct : Obligations.BeatRegistersAct := by
  intro s via v hw
  rw [exec_beatEnable hw, exec_beatPeakClr hw, exec_beatCntClr hw, exec_beatGuardWrite hw]
  refine ⟨fun on off h6 runs => ⟨_, rfl, ?starts⟩, fun on off h6 => congrArg _ (beatCtlWrite_noTable on off h6),
    fun clear free h5 => ⟨_, rfl, ?stops⟩, fun clear live => congrArg _ (beatCtlWrite_live clear live),
    fun on h0 table => ⟨⟨_, rfl, ?peak⟩, ⟨_, rfl, ?count⟩⟩, rfl, ⟨_, exec_beatCountLoRead s via, rfl, rfl, rfl, ?latch⟩,
    fun hi latched => ⟨_, exec_beatCountHiRead s via, ?_, rfl, rfl⟩⟩
  case starts => rw [beatCtlWrite_starts on off h6 runs]; exact ⟨rfl, rfl, rfl, rfl⟩
  case stops => rw [beatCtlWrite_stops clear free h5]; exact ⟨rfl, rfl, rfl⟩
  case peak =>
    rw [beatCtlWrite_on (by simp [on]) h0 table]
    exact ⟨rfl, if_pos (by rw [bit_or, Bool.or_eq_true]; exact .inr rfl), rfl, rfl⟩
  case count =>
    rw [beatCtlWrite_on (by simp [on]) h0 table]
    exact ⟨rfl, if_pos (by rw [bit_or, Bool.or_eq_true]; exact .inr rfl), rfl, rfl⟩
  case latch =>
    have kept := latchOf_setLatch (s := s)
      (l := { latchOf s via with beatHi := some (s.beat.count.extractLsb' 32 32) }) (sameLatch_latchOf s via)
    exact congrArg Latch.beatHi kept
  · rw [latched]; rfl

end Sys2Proof.Machine
end

section
/-! PROOFS. What the work of cores, links, the Hutch and the cupboard leaves alone: the beat unit and the pin FENCE_N. -/

namespace Sys2Proof.Machine

@[simp] theorem ite_beat (c : Prop) [Decidable c] (a b : State) :
    (if c then a else b).beat = if c then a.beat else b.beat := apply_ite State.beat c a b

@[simp] theorem ite_fenceN (c : Prop) [Decidable c] (a b : State) :
    (if c then a else b).fenceN = if c then a.fenceN else b.fenceN := apply_ite State.fenceN c a b

@[simp] theorem foldl_apart {α : Type} (f : State → α → State) (l : List α) (s : State)
    (h : ∀ s x, (f s x).beat = s.beat ∧ (f s x).fenceN = s.fenceN) :
    (l.foldl f s).beat = s.beat ∧ (l.foldl f s).fenceN = s.fenceN :=
  ⟨foldl_keeps State.beat f (fun s x => (h s x).1) l s, foldl_keeps State.fenceN f (fun s x => (h s x).2) l s⟩

/-! ### Events -/

theorem EventsOnly.apart {s t : State} : EventsOnly s t → t.beat = s.beat ∧ t.fenceN = s.fenceN := by
  rintro ⟨_, _, _, rfl⟩
  exact ⟨rfl, rfl⟩

@[simp] theorem post_apart (s : State) (cls kind : Nat) (ctx : Option Ctx) (b : EvtBody) :
    (post s cls kind ctx b).beat = s.beat ∧ (post s cls kind ctx b).fenceN = s.fenceN :=
  (post_eventsOnly s cls kind ctx b).apart

@[simp] theorem postReg_apart (s : State) (cls : Nat) (ctx : Option Ctx) (off bitNo : Nat) (detail : W64) :
    (postReg s cls ctx off bitNo detail).beat = s.beat ∧ (postReg s cls ctx off bitNo detail).fenceN = s.fenceN :=
  post_apart s cls 0 ctx _

@[simp] theorem postNone_apart (s : State) (cls : Nat) (ctx : Option Ctx) (detail : W64) :
    (postNone s cls ctx detail).beat = s.beat ∧ (postNone s cls ctx detail).fenceN = s.fenceN := post_apart s cls 0 ctx _

@[simp] theorem postCore_apart (s : State) (n kind : Nat) (b : EvtBody) :
    (postCore s n kind b).beat = s.beat ∧ (postCore s n kind b).fenceN = s.fenceN := post_apart s 0 kind _ b

/-! ### The cupboard -/

@[simp] theorem noteUe_apart (s : State) (a : Nat) (core : Option Nat) (reader : Nat) :
    (noteUe s a core reader).beat = s.beat ∧ (noteUe s a core reader).fenceN = s.fenceN := by
  simp [noteUe]

@[simp] theorem correctRead_apart (s : State) (a n : Nat) :
    (correctRead s a n).beat = s.beat ∧ (correctRead s a n).fenceN = s.fenceN :=
  foldl_apart _ _ _ fun _ _ => ⟨rfl, rfl⟩

@[simp] theorem noteRead_apart (s : State) (a n : Nat) (core : Option Nat) (reader : Nat) :
    (noteRead s a n core reader).beat = s.beat ∧ (noteRead s a n core reader).fenceN = s.fenceN := by
  simp [noteRead]

@[simp] theorem poisonWord_apart (s : State) (w : Nat) :
    (poisonWord s w).beat = s.beat ∧ (poisonWord s w).fenceN = s.fenceN := ⟨rfl, rfl⟩

@[simp] theorem writeWord_apart (s : State) (a : Nat) (bs : List Byte) (core : Option Nat) :
    (writeWord s a bs core).beat = s.beat ∧ (writeWord s a bs core).fenceN = s.fenceN := by
  simp [writeWord]

@[simp] theorem writeSpan_apart (k : Nat) (s : State) (a : Nat) (bs : List Byte) (core : Option Nat) :
    (writeSpan k s a bs core).beat = s.beat ∧ (writeSpan k s a bs core).fenceN = s.fenceN := by
  induction k generalizing s a bs with
  | zero => exact ⟨rfl, rfl⟩
  | succ k ih => simp [writeSpan, ih]

@[simp] theorem cupWrite_apart (s : State) (a : Nat) (bs : List Byte) (core : Option Nat) :
    (cupWrite s a bs core).beat = s.beat ∧ (cupWrite s a bs core).fenceN = s.fenceN := writeSpan_apart _ s a bs core

@[simp] theorem cupWriteRow_apart (s : State) (a : Nat) (bs : List Byte) (bad : List Nat) :
    (cupWriteRow s a bs bad).beat = s.beat ∧ (cupWriteRow s a bs bad).fenceN = s.fenceN := by
  simp [cupWriteRow]

@[simp] theorem counterParity_apart (s : State) (n ctr : Nat) :
    (counterParity s n ctr).beat = s.beat ∧ (counterParity s n ctr).fenceN = s.fenceN := by
  simp [counterParity]

@[simp] theorem bumpCounter_apart (s : State) (core ctr : Nat) :
    (bumpCounter s core ctr).beat = s.beat ∧ (bumpCounter s core ctr).fenceN = s.fenceN := by
  simp [bumpCounter, touchCounter]

@[simp] theorem advanceIntake_apart (s : State) (t : Nat) :
    (advanceIntake s t).beat = s.beat ∧ (advanceIntake s t).fenceN = s.fenceN := by
  simp [advanceIntake]

@[simp] theorem releaseHeld_apart (s : State) :
    (releaseHeld s).beat = s.beat ∧ (releaseHeld s).fenceN = s.fenceN := by
  simp [releaseHeld]

/-! ### Frames -/

@[simp] theorem misroute_apart (s : State) (ev : Bool) :
    (misroute s ev).beat = s.beat ∧ (misroute s ev).fenceN = s.fenceN := by
  simp [misroute]

@[simp] theorem forward_apart (s : State) (input : Nat) (f : Frame) :
    (forward s input f).beat = s.beat ∧ (forward s input f).fenceN = s.fenceN := by
  unfold forward
  split
  · exact ⟨rfl, rfl⟩
  · split
    · exact ⟨rfl, rfl⟩
    · exact ⟨rfl, rfl⟩
    · exact misroute_apart s true

@[simp] theorem inject_apart (s : State) (dest : Coord) (ctx : Nat) (b : Body) :
    (inject s dest ctx b).beat = s.beat ∧ (inject s dest ctx b).fenceN = s.fenceN := by
  unfold inject
  split
  · exact forward_apart s 10 _
  · exact ⟨rfl, rfl⟩

@[simp] theorem sendAll_apart (s : State) (ds : List Coord) (b : Body) :
    (sendAll s ds b).beat = s.beat ∧ (sendAll s ds b).fenceN = s.fenceN :=
  foldl_apart _ _ _ fun s d => inject_apart s d 0 b

@[simp] theorem sendFrame_apart (s : State) (p : Nat) (prio : Bool) (f : Frame) (bad : Bool) :
    (sendFrame s p prio f bad).beat = s.beat ∧ (sendFrame s p prio f bad).fenceN = s.fenceN := by
  simp [sendFrame, hasSent]

@[simp] theorem sendAgain_apart (s : State) (p : Nat) (prio : Bool) (r : TxRec) :
    (sendAgain s p prio r).beat = s.beat ∧ (sendAgain s p prio r).fenceN = s.fenceN := by
  simp [sendAgain, hasSent, modLink]

@[simp] theorem freeInput_apart (s : State) (o : OutFrame) :
    (freeInput s o).beat = s.beat ∧ (freeInput s o).fenceN = s.fenceN := by
  simp [freeInput, giveCredit]

@[simp] theorem prioWindow_apart (k : Nat) (s : State) (p sent : Nat) :
    (prioWindow k s p sent).1.beat = s.beat ∧ (prioWindow k s p sent).1.fenceN = s.fenceN := by
  induction k generalizing s sent with
  | zero => exact ⟨rfl, rfl⟩
  | succ k ih =>
    unfold prioWindow
    dsimp only
    split
    · simp [ih]
    · split
      · exact ⟨rfl, rfl⟩
      · split
        · simp [ih]
        · exact ⟨rfl, rfl⟩

@[simp] theorem openPrio_apart (s : State) (p : Nat) :
    (openPrio s p).beat = s.beat ∧ (openPrio s p).fenceN = s.fenceN := by
  simp [openPrio]

@[simp] theorem lastPrio_apart (s : State) (p : Nat) :
    (lastPrio s p).beat = s.beat ∧ (lastPrio s p).fenceN = s.fenceN := by
  simp [lastPrio]

/-! ### Instructions of the units -/

@[simp] theorem modArray_apart (s : State) (n u : Nat) (f : TrsArray → TrsArray) :
    (modArray s n u f).beat = s.beat ∧ (modArray s n u f).fenceN = s.fenceN := ⟨rfl, rfl⟩

@[simp] theorem loadTile_apart (s : State) (n u : Nat) (v : TmView) (bits : List Nat) (cells : List Num)
    (f : TrsArray → TrsArray) :
    (loadTile s n u v bits cells f).beat = s.beat ∧ (loadTile s n u v bits cells f).fenceN = s.fenceN := ⟨rfl, rfl⟩

@[simp] theorem settled_apart (s : State) (fmt : Nat) (invalid : Bool) (es : List Elem) :
    (settled s fmt invalid es).1.beat = s.beat ∧ (settled s fmt invalid es).1.fenceN = s.fenceN := by
  cases invalid <;> exact ⟨rfl, rfl⟩

@[simp] theorem settledBits_apart (s : State) (invalid : Bool) (width : Nat) (bits : List Nat) :
    (settledBits s invalid width bits).1.beat = s.beat ∧ (settledBits s invalid width bits).1.fenceN = s.fenceN := by
  cases invalid <;> exact ⟨rfl, rfl⟩

@[simp] theorem pushPiece_apart (s : State) (x : QEntry) (d : TD) (piece : List ((Nat × Nat) × Elem)) :
    (pushPiece s x d piece).1.beat = s.beat ∧ (pushPiece s x d piece).1.fenceN = s.fenceN := settled_apart _ _ _ _

@[simp] theorem pushPieces_apart (s : State) (x : QEntry) (d : TD) (ps : List (List ((Nat × Nat) × Elem))) :
    (pushPieces s x d ps).1.beat = s.beat ∧ (pushPieces s x d ps).1.fenceN = s.fenceN :=
  ⟨foldl_keeps (fun r : State × QEntry => r.1.beat) _ (fun r p => (pushPiece_apart r.1 r.2 d p).1) ps (s, x),
    foldl_keeps (fun r : State × QEntry => r.1.fenceN) _ (fun r p => (pushPiece_apart r.1 r.2 d p).2) ps (s, x)⟩

@[simp] theorem ringOverrun_apart (s : State) (core : Nat) :
    (ringOverrun s core).beat = s.beat ∧ (ringOverrun s core).fenceN = s.fenceN := by
  simp [ringOverrun]

@[simp] theorem readStep_apart (s : State) (n u : Nat) (x : QEntry) (reads : List (Nat × Nat)) :
    (readStep s n u x reads).state.beat = s.beat ∧ (readStep s n u x reads).state.fenceN = s.fenceN := by
  unfold readStep
  split <;> simp

@[simp] theorem stageTile_apart (s : State) (n u : Nat) (x : QEntry) (v : TmView) (o : Ops) (t : Tile) :
    (stageTile s n u x v o t).state.beat = s.beat ∧ (stageTile s n u x v o t).state.fenceN = s.fenceN := by
  unfold stageTile
  dsimp only
  split <;> simp

@[simp] theorem loadStep_apart (s : State) (n u : Nat) (x : QEntry) (v : TmView) (o : Ops) (sh : Nat × Nat × Nat) (t : Tile)
    (total : Nat) :
    (loadStep s n u x v o sh t total).state.beat = s.beat ∧ (loadStep s n u x v o sh t total).state.fenceN = s.fenceN := by
  unfold loadStep
  dsimp only
  split
  · exact ⟨rfl, rfl⟩
  · split <;> simp

@[simp] theorem streamStep_apart (s : State) (n u : Nat) (x : QEntry) (v : TmView) (o : Ops) (t : Tile) (total : Nat) :
    (streamStep s n u x v o t total).state.beat = s.beat ∧ (streamStep s n u x v o t total).state.fenceN = s.fenceN := by
  unfold streamStep
  dsimp only
  split
  · exact readStep_apart s n u x _
  · split
    · simp
    · split <;> simp

@[simp] theorem elemStep_apart (s : State) (n u : Nat) (x : QEntry) (i : Isa) (o : Ops) (scalar : W64) (sh : Nat × Nat × Nat) :
    (elemStep s n u x i o scalar sh).state.beat = s.beat ∧ (elemStep s n u x i o scalar sh).state.fenceN = s.fenceN := by
  unfold elemStep
  dsimp only
  split
  · exact ⟨rfl, rfl⟩
  · split
    · exact ⟨rfl, rfl⟩
    · split <;> simp

@[simp] theorem stepEntry_apart (s : State) (n u : Nat) (x : QEntry) :
    (stepEntry s n u x).state.beat = s.beat ∧ (stepEntry s n u x).state.fenceN = s.fenceN := by
  unfold stepEntry
  dsimp only
  split
  · split
    · exact elemStep_apart s n u x _ _ _ _
    · exact elemStep_apart s n u x _ _ _ _
    · split
      · split
        · split
          · exact streamStep_apart s n u x _ _ _ _
          · exact loadStep_apart s n u x _ _ _ _ _
        · exact ⟨rfl, rfl⟩
      · exact ⟨rfl, rfl⟩
    · exact ⟨rfl, rfl⟩
  · exact ⟨rfl, rfl⟩

@[simp] theorem runEntry_apart (k : Nat) (s : State) (n u : Nat) (x : QEntry) :
    (runEntry k s n u x).state.beat = s.beat ∧ (runEntry k s n u x).state.fenceN = s.fenceN := by
  induction k generalizing s x with
  | zero => exact ⟨rfl, rfl⟩
  | succ k ih =>
    unfold runEntry
    dsimp only
    split
    · exact ⟨rfl, rfl⟩
    · split <;> simp [ih]

@[simp] theorem finishEntry_apart (s : State) (n u : Nat) (x : QEntry) :
    (finishEntry s n u x).state.beat = s.beat ∧ (finishEntry s n u x).state.fenceN = s.fenceN := runEntry_apart _ s n u x

/-! ### Work abandoned by a core reset (R136) -/

@[simp] theorem mixBytes_apart (k : Nat) (s : State) (n a : Nat) (bs : List Byte) :
    (mixBytes k s n a bs).beat = s.beat ∧ (mixBytes k s n a bs).fenceN = s.fenceN := by
  induction k generalizing s a bs with
  | zero => exact ⟨rfl, rfl⟩
  | succ k ih => simp [mixBytes, ih]

@[simp] theorem spreadAbort_apart (s : State) (e : GroupEntry) (q : W16) (prio : Bool) (cause : Nat) :
    (spreadAbort s e q prio cause).beat = s.beat ∧ (spreadAbort s e q prio cause).fenceN = s.fenceN := by
  simp [spreadAbort]

@[simp] theorem dropColl_apart (s : State) (g : Nat) (q : W16) :
    (dropColl s g q).beat = s.beat ∧ (dropColl s g q).fenceN = s.fenceN := ⟨rfl, rfl⟩

@[simp] theorem abandonOp_apart (s : State) (n u : Nat) (x : QEntry) :
    (abandonOp s n u x).beat = s.beat ∧ (abandonOp s n u x).fenceN = s.fenceN := by
  unfold abandonOp
  dsimp only
  split
  · exact ⟨rfl, rfl⟩
  · split
    · split
      · simp
      · split
        · exact ⟨rfl, rfl⟩
        · split
          · split <;> simp
          · split <;> simp
    · exact ⟨rfl, rfl⟩

@[simp] theorem moverFault_apart (s : State) (n m code sub : Nat) (x : Xfer) (detail : W32) :
    (moverFault s n m code sub x detail).beat = s.beat ∧ (moverFault s n m code sub x detail).fenceN = s.fenceN := by
  simp [moverFault, dropXfer, setXfers, postFault]

@[simp] theorem rowNotes_apart (s : State) (n a len : Nat) :
    (rowNotes s n a len).beat = s.beat ∧ (rowNotes s n a len).fenceN = s.fenceN := by
  simp [rowNotes]

@[simp] theorem sendRows_apart (k r : Nat) (s : State) (n m : Nat) (x : Xfer) :
    (sendRows k r s n m x).1.beat = s.beat ∧ (sendRows k r s n m x).1.fenceN = s.fenceN := by
  induction k generalizing s r with
  | zero => exact ⟨rfl, rfl⟩
  | succ k ih =>
    unfold sendRows
    dsimp only
    split
    · simp
    · split <;> simp [ih]

@[simp] theorem abandonRemote_apart (s : State) (n m : Nat) (x : Xfer) :
    (abandonRemote s n m x).beat = s.beat ∧ (abandonRemote s n m x).fenceN = s.fenceN := by
  simp [abandonRemote, dropUnsent]

@[simp] theorem copyWords_apart (k : Nat) (s : State) (n a d : Nat) :
    (copyWords k s n a d).beat = s.beat ∧ (copyWords k s n a d).fenceN = s.fenceN := by
  induction k generalizing s a d with
  | zero => exact ⟨rfl, rfl⟩
  | succ k ih => simp [copyWords, ih]

@[simp] theorem abandonXfer_apart (s : State) (n m : Nat) (x : Xfer) :
    (abandonXfer s n m x).beat = s.beat ∧ (abandonXfer s n m x).fenceN = s.fenceN := by
  simp [abandonXfer]

@[simp] theorem creset_apart (s : State) (n : Nat) : (creset s n).beat = s.beat ∧ (creset s n).fenceN = s.fenceN := by
  simp [creset]

end Sys2Proof.Machine
end

section
/-! PROOFS. Headers judged by their band, missing headers, and RELOCK (R66 to R72, R79, R85). -/

namespace Sys2Proof.Machine

/-! ### What of a port's record an operation keeps -/

/-- A change of one record keeps what `f` keeps. -/
theorem modBeatPort_keeps {β : Type} (g : BeatPort → β) {f : BeatPort → BeatPort} (h : ∀ b, g (f b) = g b)
    (s : State) (p q : Nat) : g (beatPort (modBeatPort s p f) q) = g (beatPort s q) := by
  rw [beatPort_modBeatPort]
  split
  · exact h _
  · rfl

theorem beatPort_map (s : State) (f : BeatPort → BeatPort) (q : Nat) :
    (s.beat.ports.map f).toList.getD q BeatPort.reset = if q < 10 then f (beatPort s q) else BeatPort.reset := by
  rw [beatPort, Vector.toList_map, List.getD_eq_getElem?_getD, List.getElem?_map]
  split
  · next hq => simp [List.getD, hq]
  · next hq => simp [hq]

/-- A correction marks headers as used and changes no more of a port's record. -/
theorem correct_keeps {β : Type} (g : BeatPort → β) (h : ∀ b : BeatPort, g { b with eFresh := false } = g b)
    (s : State) (beat : Bool) (q : Nat) : g (beatPort (correct s beat) q) = g (beatPort s q) := by
  unfold correct
  dsimp only
  split
  · rfl
  · exact foldl_keeps (fun s => g (beatPort s q)) _ (fun s p => modBeatPort_keeps g h s p q) _ _

/-! ### What a header leaves of the time, the edge count and the links out of step -/

/-- `t` has the MS, the edge count, the guard and the links out of step of `s`. -/
structure StepKept (s t : State) : Prop where
  ms : t.beat.ms = s.beat.ms
  edgeCnt : t.beat.edgeCnt = s.beat.edgeCnt
  guard : t.beat.guard = s.beat.guard
  oos : ∀ q, (beatPort t q).oos = (beatPort s q).oos

theorem StepKept.refl (s : State) : StepKept s s := ⟨rfl, rfl, rfl, fun _ => rfl⟩

theorem StepKept.trans {s t u : State} (h : StepKept s t) (k : StepKept t u) : StepKept s u :=
  ⟨k.ms.trans h.ms, k.edgeCnt.trans h.edgeCnt, k.guard.trans h.guard, fun q => (k.oos q).trans (h.oos q)⟩

/-- `trans` with the later step first. -/
theorem StepKept.after {s t u : State} (k : StepKept t u) (h : StepKept s t) : StepKept s u := h.trans k

theorem StepKept.ite {s t u : State} {c : Prop} [Decidable c] (ht : StepKept s t) (hu : StepKept s u) :
    StepKept s (if c then t else u) := by
  split
  · exact ht
  · exact hu

theorem stepKept_of_beat {s t : State} (h : t.beat = s.beat) : StepKept s t :=
  ⟨by rw [h], by rw [h], by rw [h], fun q => by rw [beatPort, beatPort, h]⟩

theorem modBeatPort_stepKept {s : State} {p : Nat} {f : BeatPort → BeatPort} (h : ∀ b, (f b).oos = b.oos) :
    StepKept s (modBeatPort s p f) :=
  ⟨rfl, rfl, rfl, modBeatPort_keeps (·.oos) h s p⟩

theorem postReg_stepKept (s : State) (cls : Nat) (ctx : Option Ctx) (off bitNo : Nat) (detail : W64) :
    StepKept s (postReg s cls ctx off bitNo detail) := stepKept_of_beat (postReg_apart s cls ctx off bitNo detail).1

theorem setDist_stepKept (s : State) : StepKept s (setDist s) := by
  unfold setDist
  split
  · exact .refl s
  · exact ⟨rfl, rfl, rfl, fun _ => rfl⟩

theorem enterHoldover_stepKept (s : State) : StepKept s (enterHoldover s) :=
  (postReg_stepKept _ _ _ _ _ _).after ⟨rfl, rfl, rfl, fun _ => rfl⟩

theorem enterRelock_stepKept (s : State) : StepKept s (enterRelock s) := by
  refine ⟨rfl, rfl, rfl, fun q => ?_⟩
  have record : beatPort (enterRelock s) q = if q < 10 then { beatPort s q with inGuard := 0 } else BeatPort.reset :=
    beatPort_map s _ q
  rw [record]
  split
  · rfl
  · next hq => simp [beatPort, hq]

theorem recordHeader_stepKept (s : State) (p : Nat) (h : BeatHdr) (e : Int) : StepKept s (recordHeader s p h e) :=
  modBeatPort_stepKept fun _ => rfl

theorem adopt_stepKept (s : State) (p : Nat) (h : BeatHdr) : StepKept s (adopt s p h) := by
  unfold adopt
  dsimp only
  split
  · exact .ite ((enterRelock_stepKept _).after ⟨rfl, rfl, rfl, fun _ => rfl⟩) ⟨rfl, rfl, rfl, fun _ => rfl⟩
  · exact .refl s

theorem takeLive_stepKept (s : State) (p : Nat) (h : BeatHdr) : StepKept s (takeLive s p h) := by
  unfold takeLive
  dsimp only
  split
  · exact .ite ((setDist_stepKept _).after ⟨rfl, rfl, rfl, fun _ => rfl⟩) ⟨rfl, rfl, rfl, fun _ => rfl⟩
  · exact .refl s

theorem judgeHold_stepKept (s : State) (p : Nat) (h : BeatHdr) : StepKept s (judgeHold s p h) := by
  have held : StepKept s (modBeatPort s p fun b => { b with hold := true, holdAgree := 0 }) :=
    modBeatPort_stepKept fun _ => rfl
  unfold judgeHold
  dsimp only
  split
  · exact .ite held (held.trans (postReg_stepKept _ _ _ _ _ _))
  · exact .ite (.ite (modBeatPort_stepKept fun _ => rfl) (modBeatPort_stepKept fun _ => rfl)) (.refl s)

theorem notDark_stepKept (s : State) (p : Nat) (h : BeatHdr) : StepKept s (notDark s p h) :=
  .ite ⟨rfl, rfl, rfl, fun _ => rfl⟩ (.refl s)

theorem afterHeader_stepKept (s : State) (p : Nat) : StepKept s (afterHeader s p) := by
  have locked (u : State) (k : StepKept s u) : StepKept s { u with beat := { u.beat with state := 2 } } :=
    k.trans ⟨rfl, rfl, rfl, fun _ => rfl⟩
  unfold afterHeader
  split
  · exact .refl s
  · split
    · exact .ite (locked _ (setDist_stepKept s)) (setDist_stepKept s)
    · exact .ite (enterHoldover_stepKept s) (setDist_stepKept s)
    · exact .ite ((locked s (.refl s)).trans (setDist_stepKept _)) (.refl s)
    · exact .refl s

/-- A correction moves neither MS nor the edge count; it sets what the following beat or grid frame spreads (R61). -/
theorem correct_stepKept (s : State) (beat : Bool) : StepKept s (correct s beat) := by
  have used (u : State) (gs : List Nat) : StepKept u (modPorts u gs) := by
    induction gs generalizing u with
    | nil => exact .refl u
    | cons p gs ih => exact (ih _).after (modBeatPort_stepKept fun _ => rfl)
  unfold correct
  dsimp only
  split
  · exact .refl s
  · exact (used _ _).after ⟨rfl, rfl, rfl, fun _ => rfl⟩

theorem standbyBack_stepKept (s : State) (p : Nat) : StepKept s (standbyBack s p) :=
  .ite ⟨rfl, rfl, rfl, fun _ => rfl⟩ (.refl s)

theorem standbyBack_corr (s : State) (p : Nat) : (standbyBack s p).beat.corr = s.beat.corr := by
  unfold standbyBack; split <;> rfl

theorem noteStandby_stepKept (s : State) (p : Nat) : StepKept s (noteStandby s p) :=
  .ite ((stepKept_of_beat (postNone_apart _ _ _ _).1).after ⟨rfl, rfl, rfl, fun _ => rfl⟩) (.refl s)

/-! ### The edge band (R66) -/

/-- The header's place noted: in the guard or in the edge band. -/
def edgeNoted (s : State) (p : Nat) (e : Int) : State :=
  modBeatPort s p fun b => { b with edge := decide (s.beat.guard.toNat < e.natAbs), eFresh := true }

/-- The header counted in the edge band. -/
def edgeCounted (s : State) (p : Nat) : State :=
  { s with
    beat := { s.beat with edgeCnt := satInc s.beat.edgeCnt }
    ports := vmod s.ports p fun q => { q with edge := satInc q.edge } }

theorem edgeNoted_stepKept (s : State) (p : Nat) (e : Int) : StepKept s (edgeNoted s p e) := modBeatPort_stepKept fun _ => rfl

theorem countEdge_eq (s : State) (p : Nat) (e : Int) : countEdge s p e =
    if s.beat.guard.toNat < e.natAbs then
      let u := edgeCounted (edgeNoted s p e) p
      if u.beat.evtEdge && u.beat.edgeCnt.toNat % 256 == 0 then postReg u 1 none 0x10018 0 0 else u
    else edgeNoted s p e := rfl

/-- A header is counted where it lies outside the guard, and MS and the links out of step stay. -/
theorem countEdge_spec (s : State) (p : Nat) (e : Int) :
    (countEdge s p e).beat.ms = s.beat.ms ∧ (∀ q, (beatPort (countEdge s p e) q).oos = (beatPort s q).oos) ∧
      (countEdge s p e).beat.edgeCnt =
        if s.beat.guard.toNat < e.natAbs then satInc s.beat.edgeCnt else s.beat.edgeCnt := by
  have noted := edgeNoted_stepKept s p e
  rw [countEdge_eq]
  split
  · have kept (u : State) (c : Prop) [Decidable c] : StepKept u (if c then postReg u 1 none 0x10018 0 0 else u) :=
      .ite (postReg_stepKept u _ _ _ _ _) (.refl u)
    have counted := kept (edgeCounted (edgeNoted s p e) p)
    exact ⟨(counted _).ms, fun q => ((counted _).oos q).trans (noted.oos q), (counted _).edgeCnt⟩
  · exact ⟨noted.ms, noted.oos, noted.edgeCnt⟩

/-! ### A link enters out of step (R68, R71) -/

/-- The link out of step, with its event. -/
def linkOos (s : State) (p : Nat) : State :=
  postReg (modBeatPort s p fun b => { b with oos := true, agree := 0, eFresh := false }) 1 none 0x1001C (16 + p)
    (BitVec.ofNat 64 p)

theorem enterOos_eq (s : State) (p : Nat) : enterOos s p =
    if (beatPort s p).oos then modBeatPort s p fun b => { b with agree := 0 }
    else if parentLink s p && s.beat.state == 2 then
      (if (parents (linkOos s p)).isEmpty then enterRelock (linkOos s p) else linkOos s p)
    else linkOos s p := rfl

/-- `t` is `s` with the link of port `p` out of step: MS, the edge count and the correction stand. -/
structure OutOfStep (s t : State) (p : Nat) : Prop where
  oos : (beatPort t p).oos = true
  ms : t.beat.ms = s.beat.ms
  edgeCnt : t.beat.edgeCnt = s.beat.edgeCnt
  corr : t.beat.corr = s.beat.corr

theorem linkOos_outOfStep (s : State) (p : PortId) : OutOfStep s (linkOos s p.val) p.val := by
  have kept := (postReg_apart (modBeatPort s p.val fun b => { b with oos := true, agree := 0, eFresh := false }) 1 none 0x1001C
    (16 + p.val) (BitVec.ofNat 64 p.val)).1
  have record : beatPort (linkOos s p.val) p.val = { beatPort s p.val with oos := true, agree := 0, eFresh := false } := by
    rw [beatPort, linkOos, kept]
    exact beatPort_modBeatPort_same s p _
  exact ⟨by rw [record], by rw [linkOos, kept]; rfl, by rw [linkOos, kept]; rfl, by rw [linkOos, kept]; rfl⟩

theorem enterOos_outOfStep (s : State) (p : PortId) : OutOfStep s (enterOos s p.val) p.val := by
  have entered := linkOos_outOfStep s p
  have relocked := enterRelock_stepKept (linkOos s p.val)
  rw [enterOos_eq]
  split
  · next already =>
    have kept : StepKept s (modBeatPort s p.val fun b => { b with agree := 0 }) := modBeatPort_stepKept fun _ => rfl
    exact ⟨(kept.oos p.val).trans already, rfl, rfl, rfl⟩
  · split
    · split
      · exact ⟨(relocked.oos p.val).trans entered.oos, relocked.ms.trans entered.ms,
          relocked.edgeCnt.trans entered.edgeCnt, entered.corr⟩
      · exact entered
    · exact entered

/-! ### A header judged against the grid (R66 to R68) -/

/-- The run of headers in the guard with a header more. -/
def guardRun (s : State) (p : Nat) (e : Int) : State :=
  modBeatPort s p fun b => { b with inGuard := if e.natAbs ≤ 150 then b.inGuard + 1 else 0 }

/-- The header's arrival kept for a link that it puts out of step. -/
def farHeader (s : State) (p : Nat) (h : BeatHdr) (e : Int) : State :=
  modBeatPort (guardRun s p e) p fun b => { b with
    missing := 0, fresh := true, e := e, msDelta := (h.ms.toNat : Int) - (ownStart (guardRun s p e) p).toNat }

/-- The header's values taken, and a newer generation adopted. -/
def headerTaken (s : State) (p : Nat) (h : BeatHdr) (e : Int) : State :=
  adopt (recordHeader (guardRun s p e) p h e) p h

theorem guardRun_stepKept (s : State) (p : Nat) (e : Int) : StepKept s (guardRun s p e) := modBeatPort_stepKept fun _ => rfl

theorem farHeader_stepKept (s : State) (p : Nat) (h : BeatHdr) (e : Int) : StepKept s (farHeader s p h e) :=
  (guardRun_stepKept s p e).trans (modBeatPort_stepKept fun _ => rfl)

theorem headerTaken_stepKept (s : State) (p : Nat) (h : BeatHdr) (e : Int) : StepKept s (headerTaken s p h e) :=
  ((guardRun_stepKept s p e).trans (recordHeader_stepKept _ p h e)).trans (adopt_stepKept _ p h)

/-- The hold of a partition link judged by a header that agrees (R72). -/
def holdJudged (s : State) (p : Nat) (h : BeatHdr) : State := if admittedPort s p then judgeHold s p h else s

theorem holdJudged_stepKept (s : State) (p : Nat) (h : BeatHdr) : StepKept s (holdJudged s p h) :=
  .ite (judgeHold_stepKept s p h) (.refl s)

/-- What a header that agrees within 400 ns brings, before the state of the unit follows. -/
def headerAgreed (s : State) (p : Nat) (h : BeatHdr) (e : Int) : State :=
  takeLive (notDark (holdJudged (countEdge (headerTaken s p h e) p e) p h) p h) p h

theorem headerAgreed_stepKept (s : State) (p : Nat) (h : BeatHdr) (e : Int) :
    StepKept (countEdge (headerTaken s p h e) p e) (headerAgreed s p h e) :=
  ((holdJudged_stepKept _ p h).trans (notDark_stepKept _ p h)).trans (takeLive_stepKept _ p h)

section
variable {s : State} {p : Nat} {h : BeatHdr} {e : Int} (inStep : (beatPort s p).oos = false)
include inStep

theorem judgeHeader_far (far : 400 < e.natAbs) : judgeHeader s p h e = enterOos (farHeader s p h e) p := by
  have cond : (!(beatPort s p).oos && decide (400 < e.natAbs)) = true := by simp [inStep, far]
  exact if_pos cond

theorem judgeHeader_near (near : e.natAbs ≤ 400) : judgeHeader s p h e =
    if valuesAgree s p h then correct (afterHeader (headerAgreed s p h e) p) (admittedPort (headerAgreed s p h e) p)
    else afterHeader (enterOos (countEdge (headerTaken s p h e) p e) p) p := by
  have notFar : ¬ (!(beatPort s p).oos && decide (400 < e.natAbs)) = true := by
    simp [Nat.not_lt.mpr near]
  have unfolded : judgeHeader s p h e = if (beatPort s p).oos then _ else _ := if_neg notFar
  rw [unfolded, if_neg (by simp [inStep])]
  cases agrees : valuesAgree s p h with
  | false =>
    rw [if_neg Bool.false_ne_true]
    exact if_pos (congrArg Bool.not agrees)
  | true =>
    rw [if_pos rfl]
    exact if_neg fun wrong => Bool.false_ne_true ((congrArg Bool.not agrees).symm.trans wrong)

end

theorem judgeHeader_far_outOfStep {s : State} {p : PortId} {h : BeatHdr} {e : Int} (inStep : (beatPort s p.val).oos = false)
    (far : 400 < e.natAbs) : OutOfStep s (judgeHeader s p.val h e) p.val := by
  have came := farHeader_stepKept s p.val h e
  obtain ⟨oos, ms, edgeCnt, corr⟩ := enterOos_outOfStep (farHeader s p.val h e) p
  rw [judgeHeader_far inStep far]
  exact ⟨oos, ms.trans came.ms, edgeCnt.trans came.edgeCnt, corr⟩

/-- A header within 400 ns puts the link out of step where its values differ, and is counted outside the guard whatever they
are. -/
theorem judgeHeader_near_counts {s : State} {p : PortId} {h : BeatHdr} {e : Int} (inStep : (beatPort s p.val).oos = false)
    (near : e.natAbs ≤ 400) :
    (beatPort (judgeHeader s p.val h e) p.val).oos = !valuesAgree s p.val h ∧
      (judgeHeader s p.val h e).beat.ms = s.beat.ms ∧
      (judgeHeader s p.val h e).beat.edgeCnt =
        if s.beat.guard.toNat < e.natAbs then satInc s.beat.edgeCnt else s.beat.edgeCnt := by
  have came := headerTaken_stepKept s p.val h e
  obtain ⟨ms, oos, count⟩ := countEdge_spec (headerTaken s p.val h e) p.val e
  rw [came.ms] at ms
  rw [came.guard, came.edgeCnt] at count
  rw [judgeHeader_near inStep near]
  cases valuesAgree s p.val h with
  | false =>
    have entered := enterOos_outOfStep (countEdge (headerTaken s p.val h e) p.val e) p
    have after := afterHeader_stepKept (enterOos (countEdge (headerTaken s p.val h e) p.val e) p.val) p.val
    rw [if_neg Bool.false_ne_true]
    exact ⟨(after.oos _).trans entered.oos, after.ms.trans (entered.ms.trans ms),
      after.edgeCnt.trans (entered.edgeCnt.trans count)⟩
  | true =>
    have kept := headerAgreed_stepKept s p.val h e
    have after := (afterHeader_stepKept (headerAgreed s p.val h e) p.val).trans
      (correct_stepKept _ (admittedPort (headerAgreed s p.val h e) p.val))
    rw [if_pos rfl]
    exact ⟨(after.oos _).trans ((kept.oos _).trans ((oos _).trans ((came.oos _).trans inStep))),
      after.ms.trans (kept.ms.trans ms), after.edgeCnt.trans (kept.edgeCnt.trans count)⟩

/-! ### A received header (R58, R66 to R68) -/

theorem exec_beatHeader_some {port : PortId} {bytes : List Byte} {h : BeatHdr} (e : Int) (s : State)
    (hd : hdrOf bytes = some h) :
    exec (.beatHeader port bytes e) s = .next (standbyBack (beatHeaderIn s port.val h e) port.val) := by
  have unfolded : exec (.beatHeader port bytes e) s = execBeatHeader port bytes e s := rfl
  rw [unfolded, execBeatHeader, hd]

theorem exec_beatHeader_none {port : PortId} {bytes : List Byte} (e : Int) (s : State) (hd : hdrOf bytes = none) :
    exec (.beatHeader port bytes e) s =
      .next (modBeatPort (missHeader s port.val) port.val fun b => { b with fresh := true }) := by
  have unfolded : exec (.beatHeader port bytes e) s = execBeatHeader port bytes e s := rfl
  rw [unfolded, execBeatHeader, hd]

/-- A chip whose grid is set and whose beat unit is neither OFF nor FENCED. -/
structure HasGrid (s : State) : Prop where
  on : s.beat.state ≠ 0
  free : s.beat.state ≠ 5
  grid : s.beat.gridSet = true

theorem beatHeaderIn_grid {s : State} (g : HasGrid s) {p : Nat} (link : beatLink s p = true) (h : BeatHdr) (e : Int) :
    beatHeaderIn s p h e = judgeHeader s p h e := by
  have runs : ¬ (s.beat.state == 0 || s.beat.state == 5 || !beatLink s p) = true := by
    rw [beq_eq_false_iff_ne.mpr g.on, beq_eq_false_iff_ne.mpr g.free, link]
    exact Bool.false_ne_true
  rw [beatHeaderIn, if_neg runs, if_pos g.grid]

/-! ### A missing header (R79) -/

/-- The port's record with one more header missed. -/
def missedOnce (s : State) (p : Nat) : State :=
  modBeatPort s p fun b => { b with missing := (beatPort s p).missing + 1, inGuard := 0, agree := 0, eFresh := false }

/-- The third miss in a row posts. -/
def missPosted (s : State) (p : Nat) : State :=
  if (beatPort s p).missing + 1 = 3 then postReg (missedOnce s p) 1 none 0x1001C (16 + p) (BitVec.ofNat 64 p)
  else missedOnce s p

theorem missHeader_eq {s : State} (g : HasGrid s) {p : Nat} (ok : bit s.inst.nbrOk p = true)
    (missed : (beatPort s p).fresh = false) : missHeader s p =
      let u := if 4 ≤ (beatPort s p).missing + 1 then noteStandby (enterOos (missPosted s p) p) p else missPosted s p
      correct u (admittedPort u p) := by
  have awaited : ¬ (!s.beat.gridSet || s.beat.state == 0 || s.beat.state == 5 || !bit s.inst.nbrOk p ||
      (beatPort s p).fresh) = true := by
    rw [beq_eq_false_iff_ne.mpr g.on, beq_eq_false_iff_ne.mpr g.free, g.grid, ok, missed]
    exact Bool.false_ne_true
  exact if_neg awaited

theorem missHeader_arrived {s : State} {p : Nat} (h : (beatPort s p).fresh = true) : missHeader s p = s :=
  if_pos (by simp [h])

theorem missPosted_port (s : State) (p : PortId) :
    (beatPort (missPosted s p.val) p.val).missing = (beatPort s p.val).missing + 1 ∧
      (beatPort (missPosted s p.val) p.val).oos = (beatPort s p.val).oos := by
  have record : beatPort (missPosted s p.val) p.val = beatPort (missedOnce s p.val) p.val := by
    have kept : (missPosted s p.val).beat = (missedOnce s p.val).beat := by simp [missPosted]
    rw [beatPort, beatPort, kept]
  have once := beatPort_modBeatPort_same s p fun b =>
    { b with missing := (beatPort s p.val).missing + 1, inGuard := 0, agree := 0, eFresh := false }
  rw [record, missedOnce, once]
  exact ⟨rfl, rfl⟩

section
variable {s : State} {p : PortId} (g : HasGrid s) (ok : bit s.inst.nbrOk p.val = true)
  (missed : (beatPort s p.val).fresh = false)
include g ok missed

theorem missHeader_counts (few : (beatPort s p.val).missing < 3) :
    (beatPort (missHeader s p.val) p.val).missing = (beatPort s p.val).missing + 1 ∧
      (beatPort (missHeader s p.val) p.val).oos = (beatPort s p.val).oos := by
  obtain ⟨missing, oos⟩ := missPosted_port s p
  rw [missHeader_eq g ok missed, if_neg (by omega)]
  exact ⟨(correct_keeps (·.missing) (fun _ => rfl) _ _ _).trans missing,
    (correct_keeps (·.oos) (fun _ => rfl) _ _ _).trans oos⟩

theorem missHeader_fourth (many : 3 ≤ (beatPort s p.val).missing) : (beatPort (missHeader s p.val) p.val).oos = true := by
  rw [missHeader_eq g ok missed, if_pos (by omega)]
  refine (correct_keeps (·.oos) (fun _ => rfl) _ _ _).trans ?_
  rw [(noteStandby_stepKept _ p.val).oos]
  exact (enterOos_outOfStep _ p).oos

/-- What a missed header does, whether or not it came: `u` differs in the mark that it has been dealt with. -/
theorem missed_cases {u : State} {x : Bool} (hu : beatPort u p.val = { beatPort (missHeader s p.val) p.val with fresh := x }) :
    ((beatPort s p.val).missing < 3 → (beatPort u p.val).missing = (beatPort s p.val).missing + 1 ∧
      (beatPort u p.val).oos = (beatPort s p.val).oos) ∧
    (3 ≤ (beatPort s p.val).missing → (beatPort u p.val).oos = true) := by
  rw [hu]
  exact ⟨missHeader_counts g ok missed, missHeader_fourth g ok missed⟩

end

/-! ### RELOCK (R71) -/

/-- A mean in whole units lies within one unit of the sum's share. -/
theorem meanFree_near (draw : Nat) (sum : Int) {n : Nat} (hn : 0 < n) :
    sum - n < meanFree draw sum n * n ∧ meanFree draw sum n * n < sum + n := by
  have split := Int.mul_ediv_add_emod sum n
  have low := Int.emod_nonneg sum (b := (n : Int)) (by omega)
  have high := Int.emod_lt_of_pos sum (b := (n : Int)) (by omega)
  have down : sum / n * (n : Int) = n * (sum / n) := Int.mul_comm _ _
  have up : (sum / n + 1) * (n : Int) = n * (sum / n) + n := by rw [Int.add_mul, Int.one_mul, down]
  unfold meanFree
  split
  · omega
  · split
    · omega
    · omega

/-- The parents of a chip in RELOCK whose links are up. -/
def relockParents (s : State) : List Nat := (List.range 10).filter fun p => parentLink s p && beatLink s p

/-- The sum of the places of their latest headers, in ps from the chip's own. -/
def relockSum (s : State) : Int :=
  (relockParents s).foldl (fun a p => a + 1000000 * (beatPort s p).msDelta + 1000 * (beatPort s p).e) 0

/-- The chip moved by `m` ps, in RELOCK with its step behind it. -/
def relocked (s : State) (m : Int) : State :=
  let d := (m + 500000) / 1000000
  let mv (v : W64) : W64 := BitVec.ofInt 64 (v.toNat + d)
  { s.drawn 1 with beat := { s.beat with
      relockStep := false, ms := mv s.beat.ms, startMs := mv s.beat.startMs, gridMs := mv s.beat.gridMs
      phase := s.beat.phase + m - 1000000 * d, corr := 0, corrGrid := 0, liveAt := mv s.beat.liveAt
      ports := s.beat.ports.map fun b => { b with inGuard := 0, agree := 0, eFresh := false } } }

theorem exec_relockStep {s : State} (h4 : s.beat.state = 4) (due : s.beat.relockStep = true) (nonempty : relockParents s ≠ []) :
    exec .relockStep s = .next (relocked s (meanFree s.draw (relockSum s) (relockParents s).length)) := by
  have moves : ¬ (s.beat.state != 4 || !s.beat.relockStep || (relockParents s).isEmpty) = true := by
    simp [h4, due, nonempty]
  exact congrArg Host.Outcome.next (if_neg moves)

theorem exec_relockStep_done {s : State} (h : s.beat.relockStep = false) : exec .relockStep s = .next s :=
  congrArg Host.Outcome.next (if_pos (by simp [h]))

theorem exec_relockLimit {s : State} (h4 : s.beat.state = 4) (age : 64 ≤ s.beat.relockAge) :
    exec .relockLimit s = .next (chipFault s 8 5) :=
  congrArg Host.Outcome.next (if_pos (by simp [h4, age]))

/-- A chip that runs and is fenced or faulted: its state and cause, and FENCE_N where it is a member (R551, R566). -/
theorem chipFault_runs {s : State} (st cause : BitVec 4) (h : stopped s = false) :
    (chipFault s st cause).glb.state = st ∧ (chipFault s st cause).glb.cause = cause ∧
      (chipFault s st cause).fenceN = (s.fenceN || s.glb.state == 7) := by
  unfold chipFault
  dsimp only
  rw [if_neg (by simp [h])]
  refine ⟨rfl, rfl, ?_⟩
  simp [stopBeat]

/-- Settles O14: a header by its band (`judgeHeader_far_outOfStep`, `judgeHeader_near_counts`), a missing one by how many were
missed before, RELOCK by the mean that `meanFree_near` bounds. -/
theorem headersAndRelock : Obligations.HeadersAndRelock := by
  refine ⟨fun s port bytes e on free grid => ?headers,
    fun s h4 => ⟨fun ps sum hps hsum due nonempty => ?relock, fun age runs => ?limit⟩⟩
  case headers =>
    have g : HasGrid s := ⟨on, free, grid⟩
    refine ⟨fun h hd link inStep => ?judged, fun ok missed c hc why => ?missed,
      fun arrived => congrArg _ (missHeader_arrived arrived)⟩
    case judged =>
      have runs := exec_beatHeader_some (port := port) e s hd
      rw [beatHeaderIn_grid g link] at runs
      have back := standbyBack_stepKept (judgeHeader s port.val h e) port.val
      have mem : (standbyBack (judgeHeader s port.val h e) port.val).mem = s.mem := by simp
      refine ⟨fun far => ?far, fun near differs => ?differs, fun near agrees => ?agrees⟩
      case far =>
        obtain ⟨oos, ms, edgeCnt, corr⟩ := judgeHeader_far_outOfStep (h := h) inStep far
        exact ⟨_, runs, (back.oos _).trans oos, back.edgeCnt.trans edgeCnt, mem, back.ms.trans ms,
          (standbyBack_corr _ _).trans corr⟩
      case differs =>
        obtain ⟨oos, ms, count⟩ := judgeHeader_near_counts (h := h) inStep near
        rw [differs] at oos
        exact ⟨_, runs, (back.oos _).trans oos, mem, back.ms.trans ms, back.edgeCnt.trans count⟩
      case agrees =>
        obtain ⟨oos, ms, count⟩ := judgeHeader_near_counts (h := h) inStep near
        rw [agrees] at oos
        exact ⟨_, runs, (back.oos _).trans oos, mem, back.ms.trans ms, back.edgeCnt.trans count⟩
    case missed =>
      have dealt : ∃ t x, exec c s = .next t ∧ t.mem = s.mem ∧
          beatPort t port.val = { beatPort (missHeader s port.val) port.val with fresh := x } := by
        have two : c = .headerMissing port ∨ c = .beatHeader port bytes e := by
          simpa only [List.mem_cons, List.not_mem_nil, or_false] using hc
        rcases two with rfl | rfl
        · exact ⟨_, _, rfl, (missHeader_frame s port.val).2, rfl⟩
        · have bad : hdrOf bytes = none := why.resolve_left (by simp)
          exact ⟨_, true, exec_beatHeader_none e s bad, (missHeader_frame s port.val).2, beatPort_modBeatPort_same _ port _⟩
      obtain ⟨t, x, runs, mem, port'⟩ := dealt
      obtain ⟨few, many⟩ := missed_cases g ok missed port'
      exact ⟨fun h => ⟨t, runs, (few h).1, (few h).2, mem⟩, fun h => ⟨t, runs, many h, mem⟩⟩
  case relock =>
    subst hps hsum
    obtain ⟨low, high⟩ := meanFree_near s.draw (relockSum s) (List.length_pos_iff.mpr nonempty)
    exact ⟨_, _, _, exec_relockStep h4 due nonempty, rfl, low, high, rfl, rfl, rfl, h4, rfl, rfl, rfl, rfl,
      exec_relockStep_done rfl⟩
  case limit =>
    obtain ⟨state, cause, pin⟩ := chipFault_runs 8 5 runs
    exact ⟨_, exec_relockLimit h4 age, state, cause, pin⟩

end Sys2Proof.Machine
end

section
/-! PROOFS. Headers sent, the end of ACQUIRE and the live timeout (R54, R55, R57 to R59, R62 to R64). -/

namespace Sys2Proof.Machine

/-! ### A header sent -/

/-- The microslot of the beat, or of the grid frame, that a link follows (R54, R57). -/
def linkSlot (s : State) (p : Nat) : Nat := (s.beat.ms - if admittedPort s p then s.beat.startMs else s.beat.gridMs).toNat

theorem headerDue_iff (s : State) (p : Nat) : headerDue s p = true ↔ gridRuns s = true ∧ beatLink s p = true ∧
    (beatPort s p).sentHeader = false ∧ linkSlot s p < linkWindow s (admittedPort s p) p := by
  simp [headerDue, linkSlot, and_assoc]

theorem exec_beatHeaderSend_due {s : State} {port : PortId} (h : headerDue s port.val = true) :
    exec (.beatHeaderSend port) s = .next (modBeatPort (s.emit (.beatHeader port.val (headerFor s port.val))) port.val
      fun b => { b with sentHeader := true }) :=
  congrArg Host.Outcome.next (if_pos h)

theorem exec_beatHeaderSend_undue {s : State} {port : PortId} (h : ¬ headerDue s port.val = true) :
    exec (.beatHeaderSend port) s = .next s :=
  congrArg Host.Outcome.next (if_neg h)

/-- A header is not due where the grid does not run, the link is not in use, one has been sent or the window has closed. -/
theorem not_headerDue {s : State} {p : Nat}
    (h : gridRuns s = false ∨ beatLink s p = false ∨ (beatPort s p).sentHeader = true ∨
      linkWindow s (admittedPort s p) p ≤ linkSlot s p) : ¬ headerDue s p = true := by
  rw [headerDue_iff]
  rintro ⟨runs, link, unsent, window⟩
  rcases h with h | h | h | h
  · simp [runs] at h
  · simp [link] at h
  · simp [unsent] at h
  · exact absurd window (Nat.not_lt.mpr h)

/-! ### The values of a header (Table 2-3) -/

theorem headerFor_partition {s : State} {p : Nat} (h : admittedPort s p = true) :
    (headerFor s p).beat = s.beat.count ∧ (headerFor s p).ms = s.beat.startMs ∧ (headerFor s p).epoch = s.own.epoch ∧
      (headerFor s p).periodM1 = s.beat.curM1 ∧ (headerFor s p).manifest = manifest s := by
  simp [headerFor, h]

theorem headerFor_gridFrame {s : State} {p : Nat} (h : admittedPort s p = false) :
    (headerFor s p).ms = s.beat.gridMs ∧ (headerFor s p).epoch = 0 ∧ (headerFor s p).manifest = 0 := by
  simp [headerFor, h]

/-! ### The end of ACQUIRE (R63) -/

/-- The chip acts as root, its generation and MS from 0. -/
def rootFromZero (s : State) : State :=
  { s with beat := { s.beat with
      acting := true, gen := 0, ms := 0, startMs := 0, gridMs := 0, gridSet := true, phase := 0, corr := 0, corrGrid := 0
      rootDist := 0, live := 0, liveAt := 0, state := 2 } }

theorem exec_acquireEnd {s : State} (h1 : s.beat.state = 1) (still : s.beat.advanced = false) (role : hasRole s false = true) :
    exec .acquireEnd s = .next (rootFromZero s) :=
  congrArg Host.Outcome.next (if_pos (by simp [h1, still, role]))

/-! ### The live timeout (R62, R64) -/

/-- The standby takes the root role with the next generation, on its own grid. -/
def rootTaken (s : State) : State :=
  { s with beat := { s.beat with
      acting := true, gen := s.beat.gen + 1, rootDist := 0, live := s.beat.ms.setWidth 32, liveAt := s.beat.ms } }

theorem enterHoldover_beat (s : State) : (enterHoldover s).beat = { s.beat with state := 3, rootDist := 0x3F } :=
  (postReg_apart _ _ _ _ _ _).1

/-- A link to a parent is out of step (R62). -/
def parentLost (s : State) : Bool := (List.range 10).any fun p => parentLink s p && (beatPort s p).oos

theorem parentLost_iff (s : State) :
    parentLost s = true ↔ ∃ p, p < 10 ∧ parentLink s p = true ∧ (beatPort s p).oos = true := by
  simp [parentLost]

theorem parentLost_eq_false {s : State} (h : ∀ p, p < 10 → parentLink s p = true → (beatPort s p).oos = false) :
    parentLost s = false := by
  rw [Bool.eq_false_iff, Ne, parentLost_iff]
  rintro ⟨p, hp, link, oos⟩
  simp [h p hp link] at oos

section
variable {s : State} (h2 : s.beat.state = 2) (other : s.beat.acting = false)
  (still : s.beat.liveAt.toNat + 1024 ≤ s.beat.ms.toNat)
include h2 other still

theorem exec_liveTimeout : exec .liveTimeout s =
    .next (if hasRole s true && !parentLost s then rootTaken s else enterHoldover s) := by
  have due : ¬ (s.beat.state != 2 || s.beat.acting || decide (s.beat.ms.toNat < s.beat.liveAt.toNat + 1024)) = true := by
    simp [h2, other, still]
  exact congrArg Host.Outcome.next (if_neg due)

end

/-- Settles O15: a header by `headerDue_iff`, the root role by the outcomes of the end of ACQUIRE and of the live timeout. -/
theorem rootRoleTaken : Obligations.RootRoleTaken := by
  intro s port
  refine ⟨fun p part h hp hpart hh => ?header, fun h1 still role => ?acquire, fun h2 other still => ?live⟩
  case header =>
    subst hp hpart hh
    exact ⟨fun runs link unsent window => exec_beatHeaderSend_due ((headerDue_iff s _).mpr ⟨runs, link, unsent, window⟩),
      fun undue => exec_beatHeaderSend_undue (not_headerDue undue), headerFor_partition, headerFor_gridFrame,
      rfl, rfl, rfl, rfl, rfl, rfl⟩
  case acquire => exact ⟨_, exec_acquireEnd h1 still role, rfl, rfl, rfl, rfl, rfl, rfl⟩
  case live =>
    rw [exec_liveTimeout h2 other still]
    refine ⟨fun role found => ?taken, fun lost => ?holdover⟩
    case taken =>
      rw [role, parentLost_eq_false found]
      exact ⟨_, rfl, rfl, rfl, rfl, rfl, rfl, rfl, rfl⟩
    case holdover =>
      have holds : ¬ (hasRole s true && !parentLost s) = true := by
        rw [← parentLost_iff] at lost
        rcases lost with noRole | lost
        · simp [noRole]
        · simp [lost]
      have beat := enterHoldover_beat s
      rw [if_neg holds]
      exact ⟨_, rfl, by rw [beat], by rw [beat], by rw [beat]; exact other, by rw [beat], (enterHoldover_frame s).2⟩

end Sys2Proof.Machine
end

section
/-! PROOFS. Microslots, beats and grid frames (R48, R54, R57, R61). -/

namespace Sys2Proof.Machine

theorem exec_microslotStart (s : State) : exec .microslotStart s = .next (microslotStart s) := rfl

theorem exec_beatStart (s : State) : exec .beatStart s = .next (beatStart s) := rfl

theorem exec_gridFrameStart (s : State) : exec .gridFrameStart s = .next (gridFrameStart s) := rfl

/-- A chip whose grid does not run takes no notice of microslots, beats and grid frames. -/
theorem starts_noGrid {s : State} (h : gridRuns s = false) :
    microslotStart s = s ∧ beatStart s = s ∧ gridFrameStart s = s :=
  ⟨if_pos (by simp [h]), if_pos (by simp [h]), if_pos (by simp [h])⟩

/-! ### Microslots (R54) -/

/-- MS is one higher. -/
def nextMicroslot (s : State) : State := { s with beat := { s.beat with ms := s.beat.ms + 1 } }

/-- The place in the beat of the present microslot. -/
def beatSlot (s : State) : Nat := (s.beat.ms - s.beat.startMs).toNat

theorem microslotStart_runs {s : State} (h : gridRuns s = true) : microslotStart s =
    if formed s && decide (beatSlot (nextMicroslot s) < period (nextMicroslot s)) then
      openWindows (nextMicroslot s) (beatSlot (nextMicroslot s))
    else nextMicroslot s :=
  if_neg (by simp [h])

theorem microslotStart_opens {s : State} (h : gridRuns s = true) (member : formed s = true)
    (inside : beatSlot (nextMicroslot s) < period (nextMicroslot s)) :
    microslotStart s = openWindows (nextMicroslot s) (beatSlot (nextMicroslot s)) := by
  rw [microslotStart_runs h, if_pos (by simp only [member, inside, decide_true, Bool.and_self])]

/-- Outside a formed partition, or past the end of the beat, no window opens. -/
theorem microslotStart_shut {s : State} (h : gridRuns s = true)
    (shut : formed s = false ∨ period (nextMicroslot s) ≤ beatSlot (nextMicroslot s)) :
    microslotStart s = nextMicroslot s := by
  rw [microslotStart_runs h, if_neg]
  rw [Bool.and_eq_true, decide_eq_true_eq]
  rintro ⟨member, inside⟩
  rcases shut with free | past
  · exact Bool.false_ne_true (free.symm.trans member)
  · exact Nat.not_lt.mpr past inside

/-! ### Beats (R48) -/

/-- The beat count, the beat's start and the waits counted in beats, as a beat starts. -/
def beatCounted (s : State) : State :=
  { s with
    beat := { s.beat with count := s.beat.count + 1, startMs := s.beat.ms, startClock := s.clock }
    cores := s.cores.map fun c => growWaits s c 1 0 }

/-- The grid and the ring as a beat starts. -/
def beatTurned (s : State) : State := turnGrid (ageRelock (beatCounted s)) true

theorem beatStart_runs {s : State} (runs : gridRuns s = true) (member : formed s = true) : beatStart s =
    if decide (beatSlot s < period s) then s
    else openWindows (awaitHeaders (newBeat ((List.range 10).foldl portBeat (ringBeat (beatTurned s)))) true) 0 := by
  have due : (!gridRuns s || !formed s || decide ((s.beat.ms - s.beat.startMs).toNat < period s)) =
      decide (beatSlot s < period s) := by
    rw [runs, member]; rfl
  rw [beatStart, due]
  rfl

theorem beatStart_short {s : State} (runs : gridRuns s = true) (member : formed s = true) (short : beatSlot s < period s) :
    beatStart s = s := by
  rw [beatStart_runs runs member, if_pos (decide_eq_true short)]

/-- A beat whose period has run out is followed by the next. -/
theorem beatStart_turns {s : State} (runs : gridRuns s = true) (member : formed s = true) (ended : period s ≤ beatSlot s) :
    beatStart s =
      openWindows (awaitHeaders (newBeat ((List.range 10).foldl portBeat (ringBeat (beatTurned s)))) true) 0 := by
  rw [beatStart_runs runs member, if_neg (by simpa using ended)]

/-! ### Grid frames (R57) -/

/-- A grid frame starts at the present MS, and the grid takes its correction. -/
def gridFramed (s : State) : State := turnGrid { s with beat := { s.beat with gridMs := s.beat.ms } } false

theorem gridFrameStart_idle {s : State} (h : s.beat.ms.toNat % 8 ≠ 0 ∨ s.beat.ms = s.beat.gridMs) : gridFrameStart s = s := by
  refine if_pos ?_
  rcases h with h | h <;> simp [h]

theorem gridFrameStart_runs {s : State} (runs : gridRuns s = true) (h8 : s.beat.ms.toNat % 8 = 0)
    (h : s.beat.ms ≠ s.beat.gridMs) : gridFrameStart s =
      joinChanged (awaitHeaders (if formed s then gridFramed s else newBeat (ageRelock (gridFramed s))) false) :=
  if_neg (by simp [runs, h8, h])

/-- MS, the grid frame's start and the phase are those of `s`. -/
structure GridKept (s t : State) : Prop where
  ms : t.beat.ms = s.beat.ms
  gridMs : t.beat.gridMs = s.beat.gridMs
  phase : t.beat.phase = s.beat.phase

theorem GridKept.trans {s t u : State} (h : GridKept s t) (k : GridKept t u) : GridKept s u :=
  ⟨k.ms.trans h.ms, k.gridMs.trans h.gridMs, k.phase.trans h.phase⟩

theorem ageRelock_gridKept (s : State) : GridKept s (ageRelock s) := ⟨rfl, rfl, rfl⟩

theorem newBeat_gridKept (s : State) : GridKept s (newBeat s) := by
  have beat : (newBeat s).beat = s.beat := (releaseHeld_apart _).1
  exact ⟨by rw [beat], by rw [beat], by rw [beat]⟩

theorem awaitHeaders_gridKept (s : State) (beat : Bool) : GridKept s (awaitHeaders s beat) := by
  have kept {β : Type} (g : State → β) (hg : ∀ u p f, g (modBeatPort u p f) = g u) : g (awaitHeaders s beat) = g s := by
    refine foldl_keeps g _ (fun u p => ?_) _ s
    split
    · exact hg u p _
    · rfl
  exact ⟨kept (·.beat.ms) fun _ _ _ => rfl, kept (·.beat.gridMs) fun _ _ _ => rfl, kept (·.beat.phase) fun _ _ _ => rfl⟩

theorem joinChanged_beat (s : State) : (joinChanged s).beat = s.beat := by
  simp [joinChanged]

/-- A grid frame outside a formed partition starts at the present MS, the grid corrected. -/
theorem gridFrame_free (s : State) :
    let t := joinChanged (awaitHeaders (newBeat (ageRelock (gridFramed s))) false)
    t.beat.gridMs = s.beat.ms ∧ t.beat.ms = s.beat.ms ∧ t.beat.phase = s.beat.phase + s.beat.corrGrid := by
  have kept := ((ageRelock_gridKept (gridFramed s)).trans (newBeat_gridKept _)).trans (awaitHeaders_gridKept _ false)
  dsimp only
  rw [joinChanged_beat]
  exact ⟨kept.gridMs, kept.ms, kept.phase⟩

/-- Settles O16: each cadence by what it does where the grid runs, and by `starts_noGrid` where it does not. -/
theorem timeAdvancesByMicroslotBeatAndGridFrame : Obligations.TimeAdvancesByMicroslotBeatAndGridFrame := by
  intro s
  rw [exec_microslotStart, exec_beatStart, exec_gridFrameStart]
  refine ⟨fun runs u hu => ?microslot, fun runs member => ⟨fun ended u hu => ?beat, fun short => ?_⟩,
    fun runs h8 new => ⟨fun member => ?member, fun free => ⟨_, rfl, ?free⟩⟩,
    fun idle => congrArg _ (gridFrameStart_idle idle), fun still => ?still⟩
  case microslot =>
    subst hu
    exact ⟨fun shut => congrArg _ (microslotStart_shut runs shut),
      fun member inside => congrArg _ (microslotStart_opens runs member inside)⟩
  case beat =>
    subst hu
    exact ⟨rfl, rfl, rfl, congrArg _ (beatStart_turns runs member ended)⟩
  · exact congrArg _ (beatStart_short runs member short)
  case member =>
    rw [gridFrameStart_runs runs h8 new, if_pos member]
    rfl
  case free =>
    rw [gridFrameStart_runs runs h8 new, if_neg (by simp [free])]
    exact gridFrame_free s
  case still =>
    obtain ⟨microslot, beat, gridFrame⟩ := starts_noGrid still
    exact ⟨congrArg _ microslot, congrArg _ beat, congrArg _ gridFrame⟩

end Sys2Proof.Machine
end

section
/-! PROOFS. What sending a frame and working on the cupboard leave alone. -/

namespace Sys2Proof.Machine

/-! ### Frames sent -/

/-- `t` is `s` after frames were sent: the ports, the Hutch and what events change may differ. -/
def SentOnly (s t : State) : Prop := ∃ d o h u p, t = { s with draw := d, outs := o, hst := h, hut := u, ports := p }

theorem SentOnly.refl (s : State) : SentOnly s s := ⟨_, _, _, _, _, rfl⟩

theorem SentOnly.trans {s t u : State} : SentOnly s t → SentOnly t u → SentOnly s u := by
  rintro ⟨_, _, _, _, _, rfl⟩ ⟨_, _, _, _, _, rfl⟩
  exact ⟨_, _, _, _, _, rfl⟩

theorem EventsOnly.sent {s t : State} : EventsOnly s t → SentOnly s t := by
  rintro ⟨_, _, _, rfl⟩
  exact ⟨_, _, _, _, _, rfl⟩

theorem forward_sentOnly (s : State) (input : Nat) (f : Frame) : SentOnly s (forward s input f) := by
  unfold forward
  split
  · exact .refl s
  · split
    · exact ⟨_, _, _, _, _, rfl⟩
    · exact (emit_eventsOnly s _).sent
    · exact .trans ⟨_, _, _, _, _, rfl⟩ (postReg_eventsOnly _ 5 none 0x40004 8 0).sent

theorem inject_sentOnly (s : State) (dest : Coord) (ctx : Nat) (b : Body) : SentOnly s (inject s dest ctx b) := by
  unfold inject
  split
  · exact forward_sentOnly s 10 _
  · exact .refl s

theorem sendAll_sentOnly (s : State) (ds : List Coord) (b : Body) : SentOnly s (sendAll s ds b) := by
  induction ds generalizing s with
  | nil => exact .refl s
  | cons d ds ih => exact (inject_sentOnly s d 0 b).trans (ih _)

@[simp] theorem sendAll_wrg (s : State) (ds : List Coord) (b : Body) : (sendAll s ds b).wrg = s.wrg := by
  obtain ⟨_, _, _, _, _, e⟩ := sendAll_sentOnly s ds b; rw [e]

/-! ### The cupboard -/

/-- `t` is `s` after work on the cupboard: its bytes and their marks, the cores' records and what events change may
differ. -/
def CupboardOnly (s t : State) : Prop :=
  ∃ d o h c m u e, t = { s with draw := d, outs := o, hst := h, cores := c, mem := m, ue := u, ce := e }

theorem CupboardOnly.refl (s : State) : CupboardOnly s s := ⟨_, _, _, _, _, _, _, rfl⟩

theorem CupboardOnly.trans {s t u : State} : CupboardOnly s t → CupboardOnly t u → CupboardOnly s u := by
  rintro ⟨_, _, _, _, _, _, _, rfl⟩ ⟨_, _, _, _, _, _, _, rfl⟩
  exact ⟨_, _, _, _, _, _, _, rfl⟩

theorem CupboardOnly.ite {s t u : State} {c : Prop} [Decidable c] (ht : CupboardOnly s t) (hu : CupboardOnly s u) :
    CupboardOnly s (if c then t else u) := by
  split
  · exact ht
  · exact hu

theorem CupboardOnly.foldl {α : Type} {f : State → α → State} (h : ∀ s x, CupboardOnly s (f s x)) (l : List α) (s : State) :
    CupboardOnly s (l.foldl f s) := by
  induction l generalizing s with
  | nil => exact .refl s
  | cons x l ih => exact (h s x).trans (ih _)

theorem EventsOnly.cupboard {s t : State} : EventsOnly s t → CupboardOnly s t := by
  rintro ⟨_, _, _, rfl⟩
  exact ⟨_, _, _, _, _, _, _, rfl⟩

theorem modCore_cupboardOnly (s : State) (n : Nat) (f : Core → Core) : CupboardOnly s (modCore s n f) :=
  ⟨_, _, _, _, _, _, _, rfl⟩

theorem noteUe_cupboardOnly (s : State) (a : Nat) (core : Option Nat) (reader : Nat) :
    CupboardOnly s (noteUe s a core reader) :=
  .ite (modCore_cupboardOnly s _ _) ((modCore_cupboardOnly s _ _).trans (postReg_eventsOnly _ 4 none _ 23 _).cupboard)

theorem correctRead_cupboardOnly (s : State) (a n : Nat) : CupboardOnly s (correctRead s a n) :=
  .trans ⟨_, _, _, _, _, _, _, rfl⟩ (.foldl (fun s _ => modCore_cupboardOnly s _ _) _ _)

theorem noteRead_cupboardOnly (s : State) (a n : Nat) (core : Option Nat) (reader : Nat) :
    CupboardOnly s (noteRead s a n core reader) :=
  (correctRead_cupboardOnly s a n).trans (.foldl (fun s _ => noteUe_cupboardOnly s _ core reader) _ _)

theorem writeWord_cupboardOnly (s : State) (a : Nat) (bs : List Byte) (core : Option Nat) :
    CupboardOnly s (writeWord s a bs core) :=
  .ite ⟨_, _, _, _, _, _, _, rfl⟩ (.ite (noteUe_cupboardOnly s _ core _)
    ((correctRead_cupboardOnly s _ 8).trans ⟨_, _, _, _, _, _, _, rfl⟩))

theorem writeSpan_cupboardOnly (k : Nat) (s : State) (a : Nat) (bs : List Byte) (core : Option Nat) :
    CupboardOnly s (writeSpan k s a bs core) := by
  induction k generalizing s a bs with
  | zero => exact .refl s
  | succ k ih => exact .ite (.refl s) ((writeWord_cupboardOnly s a _ core).trans (ih _ _ _))

theorem cupWrite_cupboardOnly (s : State) (a : Nat) (bs : List Byte) (core : Option Nat) :
    CupboardOnly s (cupWrite s a bs core) := writeSpan_cupboardOnly _ s a bs core

theorem touchCounter_cupboardOnly (s : State) (n ctr : Nat) : CupboardOnly s (touchCounter s n ctr) :=
  .ite ((modCore_cupboardOnly s n _).trans (post_eventsOnly _ 4 0 none _).cupboard) (.refl s)

theorem bumpCounter_cupboardOnly (s : State) (core ctr : Nat) : CupboardOnly s (bumpCounter s core ctr) :=
  .ite ((touchCounter_cupboardOnly s core ctr).trans (modCore_cupboardOnly _ core _)) (.refl s)

theorem advanceIntake_cupboardOnly (s : State) (t : Nat) : CupboardOnly s (advanceIntake s t) :=
  .ite (.refl s) (((cupWrite_cupboardOnly s _ _ none).trans (.foldl (fun s _ => bumpCounter_cupboardOnly s _ _) _ _)).trans
    ⟨_, _, _, _, _, _, _, rfl⟩)

theorem releaseHeld_cupboardOnly (s : State) : CupboardOnly s (releaseHeld s) :=
  .ite (.refl s) (.foldl advanceIntake_cupboardOnly _ s)

theorem CupboardOnly.wrg {s t : State} : CupboardOnly s t → t.wrg = s.wrg := by rintro ⟨_, _, _, _, _, _, _, rfl⟩; rfl

theorem CupboardOnly.glb {s t : State} : CupboardOnly s t → t.glb = s.glb := by rintro ⟨_, _, _, _, _, _, _, rfl⟩; rfl

theorem CupboardOnly.pwr {s t : State} : CupboardOnly s t → t.pwr = s.pwr := by rintro ⟨_, _, _, _, _, _, _, rfl⟩; rfl

end Sys2Proof.Machine
end

section
/-! PROOFS. What a write of the cupboard does to its bytes, and what accesses leave of the arrival counters (R312,
R314, R325). -/

namespace Sys2Proof.Machine

/-! ### Bytes -/

theorem writeBytes_append (m : List Host.Cell) (a : Nat) (bs cs : List Byte) :
    writeBytes m a (bs ++ cs) = writeBytes (writeBytes m a bs) (a + bs.length) cs := by
  induction bs generalizing m a with
  | nil => rfl
  | cons b bs ih => rw [List.cons_append, writeBytes, ih, writeBytes, List.length_cons, Nat.add_assoc, Nat.add_comm 1]

/-- A write of up to a word keeps the memory where the word is uncorrectable, and else puts the bytes. -/
theorem writeWord_mem_cases (s : State) (a : Nat) (bs : List Byte) (core : Option Nat) :
    (writeWord s a bs core).mem = s.mem ∨ (writeWord s a bs core).mem = writeBytes s.mem a bs := by
  unfold writeWord
  split
  · exact .inr rfl
  · split
    · exact .inl (noteUe_frame s _ core readerPartial).2
    · exact .inr rfl

theorem writeWord_other {s : State} (wf : Memory.wf s.mem = true) {a x : Nat} {bs : List Byte} (core : Option Nat)
    (hx : x < a ∨ a + bs.length ≤ x) : readByte (writeWord s a bs core).mem x = readByte s.mem x := by
  rcases writeWord_mem_cases s a bs core with e | e
  · rw [e]
  · rw [e, readByte_writeBytes_other wf hx]

theorem writeSpan_other (k : Nat) {s : State} (wf : Memory.wf s.mem = true) {a x : Nat} {bs : List Byte} (core : Option Nat)
    (hx : x < a ∨ a + bs.length ≤ x) : readByte (writeSpan k s a bs core).mem x = readByte s.mem x := by
  induction k generalizing s a bs with
  | zero => rfl
  | succ k ih =>
    rw [writeSpan]
    split
    · rfl
    · dsimp only
      rw [ih (writeWord_wf s a _ core wf) (by rw [List.length_drop]; omega),
        writeWord_other wf core (by rw [List.length_take]; omega)]

/-- A write leaves every byte outside its range alone. -/
theorem cupWrite_other {s : State} (wf : Memory.wf s.mem = true) {a x : Nat} {bs : List Byte} (core : Option Nat)
    (hx : x < a ∨ a + bs.length ≤ x) : readByte (cupWrite s a bs core).mem x = readByte s.mem x :=
  writeSpan_other _ wf core hx

@[simp] theorem correctRead_ue (s : State) (a n : Nat) : (correctRead s a n).ue = s.ue := by
  unfold correctRead
  exact foldl_keeps State.ue _ (fun s _ => modCore_ue s _ _) _ _

/-- Where no word is uncorrectable, a write of up to a word puts its bytes and makes no word uncorrectable. -/
theorem writeWord_sound {s : State} (sound : s.ue = []) (a : Nat) (bs : List Byte) (core : Option Nat) :
    (writeWord s a bs core).ue = [] ∧ (writeWord s a bs core).mem = writeBytes s.mem a bs := by
  unfold writeWord
  split
  · exact ⟨by simp [sound], rfl⟩
  · rw [if_neg (by simp [sound])]
    exact ⟨(correctRead_ue s _ 8).trans sound, rfl⟩

theorem writeSpan_sound (k : Nat) {s : State} (sound : s.ue = []) (a : Nat) {bs : List Byte} (core : Option Nat)
    (fuel : bs.length ≤ k) : (writeSpan k s a bs core).mem = writeBytes s.mem a bs := by
  induction k generalizing s a bs with
  | zero =>
    rw [List.eq_nil_of_length_eq_zero (Nat.le_zero.mp fuel)]
    rfl
  | succ k ih =>
    rw [writeSpan]
    split
    · next empty =>
      rw [List.isEmpty_iff.mp empty]
      rfl
    · obtain ⟨ue, mem⟩ := writeWord_sound sound a (bs.take (8 - a % 8)) core
      dsimp only
      rw [ih ue _ (by rw [List.length_drop]; omega), mem]
      rcases Nat.lt_or_ge bs.length (8 - a % 8) with short | long
      · have all : bs.length ≤ 8 - a % 8 := Nat.le_of_lt short
        rw [List.drop_eq_nil_of_le all, List.take_of_length_le all]
        rfl
      · have parts := writeBytes_append s.mem a (bs.take (8 - a % 8)) (bs.drop (8 - a % 8))
        rw [List.take_append_drop, List.length_take_of_le long] at parts
        exact parts.symm

/-- Where no word is uncorrectable, a write puts its bytes. -/
theorem cupWrite_sound {s : State} (sound : s.ue = []) (a : Nat) (bs : List Byte) (core : Option Nat) :
    (cupWrite s a bs core).mem = writeBytes s.mem a bs := writeSpan_sound _ sound a core (Nat.le_succ _)

/-! ### Arrival counters -/

theorem counterAt_congr {s t : State} (h : t.cores = s.cores) (m k : Nat) : counterAt t m k = counterAt s m k := by
  rw [counterAt, coreAt, h, counterAt, coreAt]

/-- A change of a core that leaves its counters alone leaves every counter alone. -/
theorem counterAt_modCore_kept (s : State) (n m k : Nat) {f : Core → Core} (h : ∀ c, (f c).counters = c.counters) :
    counterAt (modCore s n f) m k = counterAt s m k := by
  rw [counterAt, coreAt_modCore]
  split
  · rw [h]; rfl
  · rfl

@[simp] theorem counterAt_noteUe (s : State) (a : Nat) (core : Option Nat) (reader m k : Nat) :
    counterAt (noteUe s a core reader) m k = counterAt s m k := by
  have marked :
      counterAt (modCore s (sliceOf a) fun c => { c with cpb := { c.cpb with ue := true, evtPosted := true } }) m k =
        counterAt s m k := counterAt_modCore_kept s _ m k fun _ => rfl
  unfold noteUe
  dsimp only
  split
  · exact marked
  · rw [counterAt_congr (postReg_cores _ _ _ _ _ _), marked]

@[simp] theorem counterAt_correctRead (s : State) (a n m k : Nat) : counterAt (correctRead s a n) m k = counterAt s m k := by
  unfold correctRead
  refine (foldl_keeps (fun s => counterAt s m k) _ (fun s w => ?_) _ _).trans (counterAt_congr rfl m k)
  exact counterAt_modCore_kept s (sliceOf (8 * w)) m k fun _ => rfl

@[simp] theorem counterAt_writeWord (s : State) (a : Nat) (bs : List Byte) (core : Option Nat) (m k : Nat) :
    counterAt (writeWord s a bs core) m k = counterAt s m k := by
  unfold writeWord
  split
  · rfl
  · split
    · exact counterAt_noteUe s _ core _ m k
    · exact counterAt_correctRead s _ 8 m k

@[simp] theorem counterAt_writeSpan (i : Nat) (s : State) (a : Nat) (bs : List Byte) (core : Option Nat) (m k : Nat) :
    counterAt (writeSpan i s a bs core) m k = counterAt s m k := by
  induction i generalizing s a bs with
  | zero => rfl
  | succ i ih =>
    rw [writeSpan]
    split
    · rfl
    · exact (ih _ _ _).trans (counterAt_writeWord s a _ core m k)

@[simp] theorem counterAt_cupWrite (s : State) (a : Nat) (bs : List Byte) (core : Option Nat) (m k : Nat) :
    counterAt (cupWrite s a bs core) m k = counterAt s m k := counterAt_writeSpan _ s a bs core m k

/-- A valid counter of a core that is on, with no parity error, rises by one (R314, R317). -/
theorem counterAt_bumpCounter {s : State} {core : CoreId} {ctr : Nat} (hctr : ctr < 256) (on : domainOn s core.val = true)
    (valid : (counterAt s core.val ctr).valid = true) (sound : (counterAt s core.val ctr).upset = false) :
    counterAt (bumpCounter s core.val ctr) core.val ctr =
      { counterAt s core.val ctr with value := (counterAt s core.val ctr).value + 1 } := by
  have touched : touchCounter s core.val ctr = s := if_neg (by simp [sound])
  rw [bumpCounter, if_pos on, touched, counterAt, coreAt_modCore_same, vmod_getD, if_pos ⟨rfl, hctr⟩]
  exact if_pos valid

end Sys2Proof.Machine
end

section
/-! PROOFS. Formation of the weight ring (R111, R128). -/

namespace Sys2Proof.Machine

/-! ### Writes of WRG_CTL without RESTART (Tables 3-7 and 3-14) -/

/-- The WRG is forming or circulates: its settings stand (LIVE of Table 3-14). -/
def ringLive (s : State) : Bool := s.wrg.state == 1 || s.wrg.state == 2 || s.wrg.state == 3 || s.wrg.state == 4

/-- A write of WRG_CTL has ENABLE, the directory and the streams as they stand. -/
structure RingCtlSame (s : State) (v : W32) : Prop where
  enable : bit v 0 = s.wrg.enable
  dirMb : v.extractLsb' 19 9 = s.wrg.dirMb
  east : bit v 2 = s.wrg.east
  west : bit v 3 = s.wrg.west

/-- A write of WRG_CTL without RESTART that meets every check of Table 3-14. -/
structure RingCtlPasses (s : State) (v : W32) : Prop where
  form : bit v 4 = true → formed s = true ∧ (s.wrg.state = 0 ∨ s.wrg.state = 6) ∧ bit v 0 = true
  noRestart : bit v 7 = false
  inCupboard : (v.extractLsb' 19 9).toNat ≤ 383
  notRing : ringFrame (v.extractLsb' 19 9).toNat = false
  live : ringLive s = true → RingCtlSame s v

/-- The directory and the streams of a write of WRG_CTL. -/
def ringCtlSet (s : State) (v : W32) : State :=
  { s with wrg := { s.wrg with dirMb := v.extractLsb' 19 9, east := bit v 2, west := bit v 3 } }

/-- ENABLE of the WRG set. -/
def ringEnabled (s : State) (b : Bool) : State := { s with wrg := { s.wrg with enable := b } }

/-- What a write of WRG_CTL makes of a state `t` with its settings: a change of ENABLE (R322). -/
def ringCtlSwitch (s : State) (v : W32) (t : State) : State :=
  if bit v 0 == s.wrg.enable then t
  else
    let t := zeroRegions (ringEnabled t (bit v 0))
    if !bit v 0 && (s.wrg.state == 5 || s.wrg.state == 6) then
      releaseHeld { t with wrg := { clearRing t.wrg with state := 0 } }
    else t

/-- What the HALT and the FORM of a write of WRG_CTL make of a state `t`. -/
def ringCtlCommand (s : State) (v : W32) (t : State) : State :=
  if bit v 5 && (s.wrg.state == 3 || s.wrg.state == 4 || s.wrg.state == 5) then meetHalt t 10 t.beat.count
  else if bit v 4 then startForm t else t

theorem ringCtlSet_same {s : State} {v : W32} (h : RingCtlSame s v) : ringCtlSet s v = s := by
  rw [ringCtlSet, h.dirMb, h.east, h.west]

/-- A write that meets the checks sets the settings, changes ENABLE, then does what its HALT and FORM say. -/
theorem wrgCtlWrite_passes {s : State} {v : W32} (h : RingCtlPasses s v) :
    wrgCtlWrite s v = ringCtlCommand s v (ringCtlSwitch s v (ringCtlSet s v)) := by
  have noPart : ¬ (bit v 4 && !formed s) = true := by
    rw [Bool.and_eq_true]
    rintro ⟨h4, free⟩
    simp [(h.form h4).1] at free
  have noState : ¬ (bit v 4 && (!(s.wrg.state == 0 || s.wrg.state == 6) || !bit v 0) ||
      bit v 7 && s.wrg.state != 5) = true := by
    rw [h.noRestart, Bool.false_and, Bool.or_false, Bool.and_eq_true]
    rintro ⟨h4, bad⟩
    obtain ⟨-, state, enable⟩ := h.form h4
    rcases state with e | e <;> simp [e, enable] at bad
  have noDir : ¬ (383 < (v.extractLsb' 19 9).toNat || (bit v 0 && ringFrame (v.extractLsb' 19 9).toNat)) = true := by
    rw [h.notRing, Bool.and_false]
    simpa using h.inCupboard
  have noLive : ¬ (ringLive s && (bit v 0 != s.wrg.enable || v.extractLsb' 19 9 != s.wrg.dirMb || bit v 2 != s.wrg.east ||
      bit v 3 != s.wrg.west)) = true := by
    rw [Bool.and_eq_true]
    rintro ⟨live, change⟩
    obtain ⟨enable, dirMb, east, west⟩ := h.live live
    simp [enable, dirMb, east, west] at change
  have noRestart (b : Bool) : ¬ (bit v 7 && b) = true := by simp [h.noRestart]
  have noHomeBad : ¬ (bit v 7 && !bit v 6 && homeBad s) = true := by simp [h.noRestart]
  calc wrgCtlWrite s v
      = ringCtlCommand s v (ringCtlSwitch s v (if bit v 7 then { ringCtlSet s v with own := { s.own with
          stage := { s.own.stage with staged := { s.own.stage.staged with restart := some (bit v 6) } } } }
          else ringCtlSet s v)) :=
        (if_neg noPart).trans <| (if_neg (noRestart _)).trans <| (if_neg noState).trans <| (if_neg noDir).trans <|
          (if_neg noLive).trans <| (if_neg noHomeBad).trans rfl
    _ = ringCtlCommand s v (ringCtlSwitch s v (ringCtlSet s v)) := by rw [h.noRestart]; rfl

/-- With the settings as they stand, only the HALT and the FORM act. -/
theorem wrgCtlWrite_same {s : State} {v : W32} (h : RingCtlPasses s v) (same : RingCtlSame s v) :
    wrgCtlWrite s v = ringCtlCommand s v s := by
  rw [wrgCtlWrite_passes h, ringCtlSet_same same, ringCtlSwitch, if_pos (by simp [same.enable])]

/-- A bit set besides, of no setting, leaves the settings as they stand. -/
theorem RingCtlSame.or {s : State} {v : W32} (h : RingCtlSame s v) {m : W32} (m0 : bit m 0 = false) (m2 : bit m 2 = false)
    (m3 : bit m 3 = false) (md : m.extractLsb' 19 9 = 0#9) : RingCtlSame s (v ||| m) := by
  have dirMb : (v ||| m).extractLsb' 19 9 = s.wrg.dirMb := by rw [BitVec.extractLsb'_or, md, h.dirMb, BitVec.or_zero]
  exact ⟨by simp [h.enable, m0], dirMb, by simp [h.east, m2], by simp [h.west, m3]⟩

/-- A write of the settings as they stand, without RESTART, meets the checks where its FORM does. -/
theorem RingCtlSame.passes {s : State} {v : W32} (h : RingCtlSame s v) (noRestart : bit v 7 = false)
    (inCupboard : s.wrg.dirMb.toNat ≤ 383) (notRing : ringFrame s.wrg.dirMb.toNat = false)
    (form : bit v 4 = true → formed s = true ∧ (s.wrg.state = 0 ∨ s.wrg.state = 6) ∧ s.wrg.enable = true) :
    RingCtlPasses s v :=
  ⟨fun h4 => by rw [h.enable]; exact form h4, noRestart, by rwa [h.dirMb], by rwa [h.dirMb], fun _ => h⟩

theorem wrgCtl_reachable (s : State) : regReachable s 0x60000 = true := rfl

theorem exec_form {s : State} {via : Via} (hw : mayWrite s via = true) (v : W32) :
    exec (.form via v) s = .next (wrgCtlWrite s (v ||| 0x10)) :=
  congrArg Host.Outcome.next (guarded_accepted _ hw (wrgCtl_reachable s))

/-- FORM outside a formed partition: NOPART (Table 3-14). -/
theorem wrgCtlWrite_noPartition {s : State} {v : W32} (h4 : bit v 4 = true) (free : formed s = false) :
    wrgCtlWrite s v = wrgErr s 6 := if_pos (by simp [h4, free])

/-! ### Refusals (R111) -/

@[simp] theorem refuse_state (s : State) (cause : BitVec 4) (send : Bool) : (refuse s cause send).wrg.state = 6 := by
  unfold refuse
  cases send
  · rfl
  · exact congrArg Wrg.state (sendAll_wrg _ _ _)

@[simp] theorem refuse_cause (s : State) (cause : BitVec 4) (send : Bool) : (refuse s cause send).wrg.cause = cause := by
  unfold refuse
  cases send
  · rfl
  · exact congrArg Wrg.cause (sendAll_wrg _ _ _)

/-- A refusal: the state, the cause, and the memory left alone. -/
theorem refuse_refused (s : State) (cause : BitVec 4) (send : Bool) : (refuse s cause send).wrg.state = 6 ∧
    (refuse s cause send).wrg.cause = cause ∧ (refuse s cause send).mem = s.mem :=
  ⟨refuse_state s cause send, refuse_cause s cause send, (refuse_frame s cause send).2⟩

theorem formationRefusal_forming {s : State} (cause : Nat) (h : s.wrg.state = 1 ∨ s.wrg.state = 2) :
    formationRefusal s cause = refuse s (BitVec.ofNat 4 cause) false := if_pos (by simpa using h)

/-! ### The directory is read -/

theorem homeRead_glb (s : State) (g a n : Nat) : (homeRead s g a n).glb = s.glb := by
  have read := (noteRead_cupboardOnly s a n none readerWrg).glb
  unfold homeRead
  dsimp only
  split
  · exact read
  · exact read

theorem noteDir_glb (s : State) (d : RingDir) : (noteDir s d).glb = s.glb := by
  have images (s : State) (g : Nat) : ([false, true].foldl (fun s west =>
      if streamOn s west then homeRead s g (imageAddr d g west false) 256 else s) s).glb = s.glb := by
    refine foldl_keeps State.glb _ (fun s west => ?_) _ s
    split
    · exact homeRead_glb s g _ 256
    · rfl
  exact (foldl_keeps State.glb _ images _ _).trans (noteRead_cupboardOnly s _ _ none readerWrg).glb

theorem ringN_noteDir (s : State) (d : RingDir) : ringN (noteDir s d) = ringN s := by
  rw [ringN, noteDir_glb]
  rfl

/-- A directory for another number of chips is refused with LENGTH. -/
theorem startForm_length {s : State} (h : (readDir s).nPacked ≠ ringN s) :
    (startForm s).wrg.state = 6 ∧ (startForm s).wrg.cause = 2 := by
  have other (w : Wrg) : ((readDir s).nPacked != ringN (noteDir { s with wrg := w } (readDir s))) = true := by
    rw [ringN_noteDir]
    exact bne_iff_ne.mpr h
  rw [startForm, if_pos (other _)]
  exact ⟨refuse_state _ 2 true, refuse_cause _ 2 true⟩

/-! ### Formation records (R111, R128) -/

/-- A record takes the place of an earlier one of its ring position. -/
def recordKept (s : State) (f : FormRec) : State :=
  { s with wrg := { s.wrg with records := f :: s.wrg.records.filter (·.pos != f.pos) } }

/-- A chip that has not started formation, or no longer takes records, judges none. -/
theorem judgeRecords_notForming {s : State} (h : s.wrg.state ≠ 1) : judgeRecords s = s := by
  unfold judgeRecords
  split
  · rfl
  · exact if_pos (by simpa using .inl h)

theorem judgeRecords_refuses {s : State} {d : RingDir} {c : BitVec 4} (h1 : s.wrg.state = 1) (hc : s.wrg.checkDue = false)
    (hd : s.wrg.dir = some d) (bad : recordsCause (ownRecord s d) s.wrg.records = some c) :
    judgeRecords s = refuse s c true := by
  simp [judgeRecords, h1, hc, hd, bad]

theorem formationRecord_taken {s : State} (f : FormRec) (h : s.wrg.state = 0 ∨ s.wrg.state = 6 ∨ s.wrg.state = 1) :
    formationRecord s f = judgeRecords (recordKept s f) := if_pos (by simpa [or_assoc] using h)

theorem formationRecord_ignored {s : State} (f : FormRec) (h0 : s.wrg.state ≠ 0) (h1 : s.wrg.state ≠ 1)
    (h6 : s.wrg.state ≠ 6) : formationRecord s f = s := if_neg (by simpa using ⟨⟨h0, h6⟩, h1⟩)

theorem recordsCause_epoch {own f : FormRec} (rs : List FormRec) (h : f.epoch ≠ own.epoch) :
    recordsCause own (f :: rs) = some 3 := if_pos (by simp [h])

theorem recordsCause_fw {own f : FormRec} {rs : List FormRec} (epochs : ∀ r ∈ f :: rs, r.epoch = own.epoch)
    (h : f.fw ≠ own.fw) : recordsCause own (f :: rs) = some 1 := by
  rw [recordsCause, if_neg (by simpa using epochs), if_pos (by simp [h])]

/-- A chip that is FORMING refuses with the cause that its records, with the new one, give. -/
theorem formationRecord_refused {s : State} {f : FormRec} {d : RingDir} {c : BitVec 4} (h1 : s.wrg.state = 1)
    (hc : s.wrg.checkDue = false) (hd : s.wrg.dir = some d)
    (bad : recordsCause (ownRecord s d) (f :: s.wrg.records.filter (·.pos != f.pos)) = some c) :
    (formationRecord s f).wrg.state = 6 ∧ (formationRecord s f).wrg.cause = c ∧ (formationRecord s f).mem = s.mem := by
  rw [formationRecord_taken f (.inr (.inr h1)), judgeRecords_refuses (s := recordKept s f) h1 hc hd bad]
  exact refuse_refused (recordKept s f) c true

/-- Settles O17: FORM by `wrgCtlWrite_stands`, records by the cause that `recordsCause` finds among those kept. -/
theorem ringFormation : Obligations.RingFormation := by
  refine ⟨fun s via v hw => ⟨fun free => ?free, fun member state enable h0 h7 hd he hwe range notRing => ?form,
      fun h1 hc => ?timeout, fun waits => ?waits, fun cause forming => ?refusal⟩,
    fun s f => ⟨fun early => ?early, fun d h1 hc hd => ⟨fun epoch => ?epoch, fun epoch epochs fw => ?fw⟩,
      fun h0 h1 h6 => congrArg _ (formationRecord_ignored f h0 h1 h6)⟩⟩
  case free =>
    rw [exec_form hw, wrgCtlWrite_noPartition (by simp [bit]) free]
    rfl
  case form =>
    have same : RingCtlSame s (v ||| 0x10) :=
      RingCtlSame.or ⟨h0.trans enable.symm, hd, he, hwe⟩ (by decide) (by decide) (by decide) (by decide)
    have noRestart : bit (v ||| 0x10) 7 = false := by rw [bit_or, h7]; decide
    have passes : RingCtlPasses s (v ||| 0x10) := same.passes noRestart range notRing fun _ => ⟨member, state, enable⟩
    have idle : (s.wrg.state == 3 || s.wrg.state == 4 || s.wrg.state == 5) = false := by
      rcases state with h | h <;> rw [h] <;> rfl
    have starts : exec (.form via v) s = .next (startForm s) := by
      rw [exec_form hw, wrgCtlWrite_same passes same, ringCtlCommand, idle]
      simp [bit]
    exact ⟨starts, fun length => ⟨_, starts, startForm_length length⟩⟩
  case timeout =>
    have missing : exec .formationRecordTimeout s = .next (refuse s 3 true) := congrArg _ (if_pos (by simp [h1, hc]))
    exact ⟨_, missing, refuse_refused s 3 true⟩
  case waits =>
    have notMissing : ¬ (s.wrg.state == 1 && !s.wrg.checkDue) = true := by
      rcases waits with other | due
      · simp only [beq_false_of_ne other, Bool.false_and, Bool.false_eq_true, not_false_eq_true]
      · simp only [due, Bool.not_true, Bool.and_false, Bool.false_eq_true, not_false_eq_true]
    exact congrArg _ (if_neg notMissing)
  case refusal =>
    have refuses : exec (.formationRefusal cause) s = .next (refuse s (BitVec.ofNat 4 cause) false) :=
      congrArg _ (formationRefusal_forming cause forming)
    exact ⟨_, refuses, rfl, rfl, rfl, rfl⟩
  case early =>
    have notForming : (recordKept s f).wrg.state ≠ 1 := by
      change s.wrg.state ≠ 1
      rcases early with h | h <;> rw [h] <;> decide
    have kept : exec (.formationRecord f) s = .next (formationRecord s f) := rfl
    rw [kept, formationRecord_taken f (early.imp_right .inl), judgeRecords_notForming notForming]
    rfl
  case epoch => exact ⟨_, rfl, formationRecord_refused h1 hc hd (recordsCause_epoch _ epoch)⟩
  case fw =>
    refine ⟨_, rfl, formationRecord_refused h1 hc hd (recordsCause_fw ?_ fw)⟩
    rintro r (_ | ⟨_, hr⟩)
    · exact epoch
    · exact epochs r ((List.mem_filter.mp hr).1)

end Sys2Proof.Machine
end

section
/-! PROOFS. Halt causes of the weight ring (R118, R120, R124). -/

namespace Sys2Proof.Machine

/-! ### A cause is met -/

/-- The beat with which a cause met for beat `b` is noted: a halted ring notes the current one (R120, R124). -/
def haltBeat (s : State) (b : W64) : W64 := if s.wrg.state = 5 then s.beat.count else b

/-- `t` is `s` with a halt cause noted for a beat. -/
structure HaltMet (s t : State) (cause : BitVec 4) (b : W64) : Prop where
  halt : t.wrg.halt = some (cause, b)
  state : t.wrg.state = s.wrg.state
  arr : ∀ west, arrOf t west = arrOf s west
  mem : t.mem = s.mem

theorem noteHalt_met (s : State) (cause : BitVec 4) (b : W64) : HaltMet s (noteHalt s cause b) cause (haltBeat s b) := by
  refine ⟨?_, rfl, fun _ => rfl, rfl⟩
  simp [noteHalt, haltBeat]

theorem heedsHalt_iff (s : State) : heedsHalt s = true ↔
    (s.wrg.state = 3 ∨ s.wrg.state = 4 ∨ s.wrg.state = 5) ∧ s.wrg.halt = none := by
  simp [heedsHalt, or_assoc]

theorem meetHalt_met {s : State} (cause : BitVec 4) (b : W64) (h : heedsHalt s = true) :
    HaltMet s (meetHalt s cause b) cause (haltBeat s b) := by
  obtain ⟨halt, state, arr, mem⟩ := noteHalt_met s cause b
  have wrg : (meetHalt s cause b).wrg = (noteHalt s cause b).wrg := by rw [meetHalt, if_pos h, sendAll_wrg]
  exact ⟨by rw [wrg, halt], by rw [wrg, state], fun west => by rw [← arr west, arrOf, wrg, arrOf],
    (meetHalt_frame s cause b).2⟩

/-! ### Halt frames (R120) -/

theorem haltFrame_heeded {s : State} (f : HaltFrame) (h : heedsHalt s = true) :
    haltFrame s f = { noteHalt s (BitVec.ofNat 4 (Config.freeNat s.draw)) f.beat with draw := s.draw + 1 } := if_pos h

theorem haltFrame_ignored {s : State} (f : HaltFrame) (h : ¬ heedsHalt s = true) : haltFrame s f = s := if_neg h

/-! ### HALT of WRG_CTL (R118) -/

theorem exec_wrgHalt {s : State} {via : Via} (hw : mayWrite s via = true) (v : W32) :
    exec (.wrgHalt via v) s = .next (wrgCtlWrite s (v ||| 0x20)) :=
  congrArg Host.Outcome.next (guarded_accepted _ hw (wrgCtl_reachable s))

/-- HALT alone, on a ring that runs or is halted: cause OWNER in the current beat. -/
theorem wrgCtlWrite_halt {s : State} {v : W32} (passes : RingCtlPasses s v) (same : RingCtlSame s v) (h5 : bit v 5 = true)
    (runs : s.wrg.state = 3 ∨ s.wrg.state = 4 ∨ s.wrg.state = 5) : wrgCtlWrite s v = meetHalt s 10 s.beat.count := by
  rw [wrgCtlWrite_same passes same]
  exact if_pos (by simpa [h5, or_assoc] using runs)

/-! ### Receive checks of a header (R118) -/

/-- A header for a beat that brings a shelf, whose CRC holds and which fails a receive check, is a halt cause. -/
theorem shelfHeaderIn_failsCheck {s : State} {west : Bool} {h : List Byte} {p : RingPlace} {d : RingDir} {c : BitVec 4}
    (notChecking : s.wrg.state ≠ 2) (on : streamOn s west = true) (first : arrOf s west = none)
    (place : expectedPlace s = some p) (dir : s.wrg.dir = some d) (crc : hcrcOk h = true)
    (fails : receiveCause s west h p d = some c) : shelfHeaderIn s west h = meetHalt s c s.beat.count := by
  unfold shelfHeaderIn
  rw [if_neg (by simp [on, first]), place, dir]
  exact (if_neg (by simpa using notChecking)).trans ((if_neg (by simp [crc])).trans (by rw [fails]))

/-- A header that brings no shelf is all that its command does. -/
theorem exec_shelfHeader_noShelf {s : State} {west : Bool} {h : List Byte}
    (noShelf : arrOf (shelfHeaderIn s west h) west = none) :
    exec (.shelfHeader west h) s = .next (shelfHeaderIn s west h) :=
  congrArg Host.Outcome.next (if_neg (by simp [noShelf]))

/-- Settles O18: HALT and a failed check by `meetHalt_met`, a halt frame by `noteHalt_met`. -/
theorem haltCausesAreMetOnce : Obligations.HaltCausesAreMetOnce := by
  refine ⟨fun s via v f runs b hb => ⟨fun hw first h0 h4 h7 hd he hwe range notRing => ?owner, fun first => ?frame,
      fun met => congrArg _ (haltFrame_ignored f fun heeds => ?met)⟩,
    fun s f h3 h4 h5 => congrArg _ (haltFrame_ignored f fun heeds => ?idle),
    fun s west h p d c runs on noShelf place dir crc fails first => ?header⟩
  case owner =>
    have same : RingCtlSame s (v ||| 0x20) :=
      RingCtlSame.or ⟨h0, hd, he, hwe⟩ (by decide) (by decide) (by decide) (by decide)
    have noForm : bit (v ||| 0x20) 4 = false := by rw [bit_or, h4]; decide
    have noRestart : bit (v ||| 0x20) 7 = false := by rw [bit_or, h7]; decide
    have passes : RingCtlPasses s (v ||| 0x20) :=
      same.passes noRestart range notRing fun form => Bool.noConfusion (noForm.symm.trans form)
    obtain ⟨halt, state, -, mem⟩ := meetHalt_met 10 s.beat.count ((heedsHalt_iff s).mpr ⟨runs, first⟩)
    rw [haltBeat, ite_self] at halt
    exact ⟨_, (exec_wrgHalt hw v).trans (congrArg _ (wrgCtlWrite_halt passes same (by simp [bit]) runs)), halt, state, mem⟩
  case frame =>
    have heeded := haltFrame_heeded f ((heedsHalt_iff s).mpr ⟨runs, first⟩)
    obtain ⟨halt, state, -, mem⟩ := noteHalt_met s (BitVec.ofNat 4 (Config.freeNat s.draw)) f.beat
    subst hb
    exact ⟨_, _, congrArg Host.Outcome.next heeded, halt, state, rfl, mem⟩
  case met =>
    obtain ⟨-, first⟩ := (heedsHalt_iff s).mp heeds
    simp [first] at met
  case idle =>
    obtain ⟨state, -⟩ := (heedsHalt_iff s).mp heeds
    rcases state with e | e | e
    · exact h3 e
    · exact h4 e
    · exact h5 e
  case header =>
    have notChecking : s.wrg.state ≠ 2 := by rcases runs with e | e <;> rw [e] <;> decide
    have notHalted : s.wrg.state ≠ 5 := by rcases runs with e | e <;> rw [e] <;> decide
    have heeds : heedsHalt s = true := (heedsHalt_iff s).mpr ⟨by rw [← or_assoc]; exact .inl runs, first⟩
    have meets := shelfHeaderIn_failsCheck notChecking on noShelf place dir crc fails
    obtain ⟨halt, -, arr, mem⟩ := meetHalt_met c s.beat.count heeds
    have still : arrOf (shelfHeaderIn s west h) west = none := by rw [meets, arr, noShelf]
    rw [haltBeat, if_neg notHalted] at halt
    exact ⟨_, exec_shelfHeader_noShelf still, by rw [meets, halt], still, by rw [meets, mem]⟩

end Sys2Proof.Machine
end

section
/-! PROOFS. Segments on the core ring (R102, R104, R105). -/

namespace Sys2Proof.Machine

/-- An uncorrectable word of [a, a + n) is reported when the core ring reads it (Table 9-7). -/
def forwardNoted (s : State) (a n : Nat) : State :=
  match ueIn s a n with
  | some w => noteUe s (8 * w) none readerForward
  | none => s

/-- The core before a core on a stream's ring (R102). -/
def coreBefore (west : Bool) (core : Nat) : Nat := if west then (core + 1) % 16 else subMod core 1 16

/-- Where the segment that lands at a core at step `k` lies until then. -/
def segSource (west : Bool) (x : Shelf) (core k : Nat) : Nat := slotAddr (coreBefore west core) west (slotOfStep x (k - 1))

/-- The shelf with the segment that lands marked poisoned, where its source holds an uncorrectable word (Table 9-7). -/
def segJudged (s : State) (west : Bool) (x : Shelf) (core k : Nat) : Shelf :=
  if (ueIn s (segSource west x core k) (segBytes x)).isSome && !x.badSegs.contains (segAt west core k) then
    { x with badSegs := segAt west core k :: x.badSegs }
  else x

theorem segJudged_kept (s : State) (west : Bool) (x : Shelf) (core k : Nat) : (segJudged s west x core k).beat = x.beat ∧
    (segJudged s west x core k).landed = x.landed ∧ (segJudged s west x core k).hdr = x.hdr := by
  unfold segJudged
  split <;> exact ⟨rfl, rfl, rfl⟩

theorem heldOf_congr {s t : State} (h : t.wrg = s.wrg) (west : Bool) : heldOf t west = heldOf s west := by
  rw [heldOf, h, heldOf]

theorem domainOn_congr {s t : State} (h : t.pwr = s.pwr) (d : Nat) : domainOn t d = domainOn s d := by
  rw [domainOn, h, domainOn]

/-! ### A segment is counted and recorded (R105) -/

/-- The record and the slot's mark, before the counter. -/
def landedMarked (s : State) (west : Bool) (x : Shelf) (core k : Nat) : State :=
  takeSlot (setShelf s west { x with landed := (core, k) :: x.landed }) x core west (slotOfStep x k)

theorem landedMarked_apart (s : State) (west : Bool) (x : Shelf) (core k : Nat) :
    (landedMarked s west x core k).cores = s.cores ∧ (landedMarked s west x core k).pwr = s.pwr := by
  have arr (y : Option Shelf) : (setArr s west y).cores = s.cores ∧ (setArr s west y).pwr = s.pwr := by
    cases west <;> exact ⟨rfl, rfl⟩
  have held (y : Option Shelf) : (setHeld s west y).cores = s.cores ∧ (setHeld s west y).pwr = s.pwr := by
    cases west <;> exact ⟨rfl, rfl⟩
  have shelf (y : Shelf) : (setShelf s west y).cores = s.cores ∧ (setShelf s west y).pwr = s.pwr := by
    unfold setShelf
    split
    · exact held _
    · split
      · exact arr _
      · exact ⟨rfl, rfl⟩
  exact shelf _

theorem heldOf_setHeld (s : State) (west : Bool) (x : Option Shelf) : heldOf (setHeld s west x) west = x := by
  cases west <;> rfl

theorem heldOf_setMark (s : State) (m : SlotMark) (west : Bool) : heldOf (setMark s m) west = heldOf s west := by
  cases west <;> rfl

/-- The held shelf's record names the segment that landed. -/
theorem heldOf_markLanded {s : State} {west : Bool} {x y : Shelf} (held : heldOf s west = some x) (beat : x.beat = y.beat)
    (core k : Nat) : heldOf (markLanded s west y core k) west = some { y with landed := (core, k) :: y.landed } := by
  have shelf : setShelf s west { y with landed := (core, k) :: y.landed } =
      setHeld s west (some { y with landed := (core, k) :: y.landed }) := if_pos (by simp [held, beat])
  have bump := (bumpCounter_cupboardOnly (landedMarked s west y core k) core (if west then 255 else 254)).wrg
  calc heldOf (markLanded s west y core k) west
      = heldOf (landedMarked s west y core k) west := heldOf_congr bump west
    _ = some { y with landed := (core, k) :: y.landed } := by
      rw [landedMarked, takeSlot, heldOf_setMark, shelf, heldOf_setHeld]

/-- The counter of the stream counts the segment. -/
theorem counterAt_markLanded {s : State} {core : CoreId} {west : Bool} {ctr : Nat} (hctr : ctr = if west then 255 else 254)
    (on : domainOn s core.val = true) (valid : (counterAt s core.val ctr).valid = true)
    (sound : (counterAt s core.val ctr).upset = false) (y : Shelf) (k : Nat) :
    counterAt (markLanded s west y core.val k) core.val ctr =
      { counterAt s core.val ctr with value := (counterAt s core.val ctr).value + 1 } := by
  obtain ⟨cores, pwr⟩ := landedMarked_apart s west y core.val k
  have counter := counterAt_congr cores core.val ctr
  have small : ctr < 256 := by subst hctr; split <;> decide
  have bumped := counterAt_bumpCounter small (s := landedMarked s west y core.val k) (by rw [domainOn_congr pwr, on])
    (by rw [counter, valid]) (by rw [counter, sound])
  rw [counter] at bumped
  rw [← bumped, hctr]
  rfl

/-! ### A segment lands (R102, R104) -/

/-- The state in which the segment's bytes stand in their slot, and only its record is missing. -/
def segCopied (s : State) (west : Bool) (x : Shelf) (core k : Nat) : State :=
  cupWrite (forwardNoted s (segSource west x core k) (segBytes x)) (slotAddr core west (slotOfStep x k))
    (readBytes s.mem (segSource west x core k) (segBytes x)) none

theorem forwardNoted_cupboardOnly (s : State) (a n : Nat) : CupboardOnly s (forwardNoted s a n) := by
  unfold forwardNoted
  split
  · exact noteUe_cupboardOnly s _ none readerForward
  · exact .refl s

theorem forwardNoted_mem (s : State) (a n : Nat) : (forwardNoted s a n).mem = s.mem := by
  unfold forwardNoted
  split
  · exact (noteUe_frame s _ none readerForward).2
  · rfl

theorem counterAt_forwardNoted (s : State) (a n m k : Nat) : counterAt (forwardNoted s a n) m k = counterAt s m k := by
  unfold forwardNoted
  split
  · exact counterAt_noteUe s _ none readerForward m k
  · rfl

/-- Where no word is uncorrectable there is none to report. -/
theorem forwardNoted_sound {s : State} (sound : s.ue = []) (a n : Nat) : forwardNoted s a n = s := by
  have none : ueIn s a n = none := by rw [ueIn, sound]; rfl
  rw [forwardNoted, none]

theorem segCopied_cupboardOnly (s : State) (west : Bool) (x : Shelf) (core k : Nat) :
    CupboardOnly s (segCopied s west x core k) :=
  (forwardNoted_cupboardOnly s _ _).trans (cupWrite_cupboardOnly _ _ _ none)

theorem counterAt_segCopied (s : State) (west : Bool) (x : Shelf) (core k m i : Nat) :
    counterAt (segCopied s west x core k) m i = counterAt s m i :=
  (counterAt_cupWrite _ _ _ none m i).trans (counterAt_forwardNoted s _ _ m i)

/-- Bytes outside the segment's place in its slot stay. -/
theorem segCopied_other {s : State} (wf : Memory.wf s.mem = true) {west : Bool} {x : Shelf} {core k a : Nat}
    (ha : a < slotAddr core west (slotOfStep x k) ∨ slotAddr core west (slotOfStep x k) + segBytes x ≤ a) :
    readByte (segCopied s west x core k).mem a = readByte s.mem a := by
  have noted := forwardNoted_mem s (segSource west x core k) (segBytes x)
  rw [segCopied, cupWrite_other (by rw [noted, wf]) none (by rw [length_readBytes]; exact ha), noted]

/-- Where no word is uncorrectable, the slot holds what the source core's slot held. -/
theorem segCopied_same {s : State} (wf : Memory.wf s.mem = true) (sound : s.ue = []) (west : Bool) (x : Shelf) (core k : Nat)
    {j : Nat} (hj : j < segBytes x) : readByte (segCopied s west x core k).mem (slotAddr core west (slotOfStep x k) + j) =
      readByte s.mem (segSource west x core k + j) := by
  rw [segCopied, forwardNoted_sound sound, cupWrite_sound sound, readByte_writeBytes _ _ _ wf, length_readBytes,
    if_pos ⟨Nat.le_add_right _ _, by omega⟩, Nat.add_sub_cancel_left, List.getD_eq_getElem?_getD,
    readBytes_getElem? _ _ _ _ hj]
  rfl

/-- A landing is the copy, then the record and the count. -/
theorem landStep_eq (s : State) (west : Bool) (x : Shelf) (core k : Nat) :
    landStep s west x core k = markLanded (segCopied s west x core k) west (segJudged s west x core k) core k := by
  obtain ⟨beat, -, -⟩ := segJudged_kept s west x core k
  have slot : slotOfStep (segJudged s west x core k) k = slotOfStep x k := by rw [slotOfStep, beat, slotOfStep]
  rw [segCopied, ← slot, ← forwardNoted_mem s (segSource west x core k) (segBytes x)]
  rfl

/-- A segment lands under the conditions of R102 and R104. -/
theorem segmentLand_lands {s : State} {west : Bool} {core k : Nat} {x : Shelf} (runs : s.wrg.state = 3 ∨ s.wrg.state = 4)
    (held : heldOf s west = some x) (hk : 1 ≤ k) (started : k ≤ s.wrg.step.toNat + 1)
    (new : x.landed.contains (core, k) = false) (there : x.landed.contains (coreBefore west core, k - 1) = true) :
    segmentLand s west core k = landStep s west x core k := by
  have running : (s.wrg.state == 3 || s.wrg.state == 4) = true := by simpa using runs
  have due : (decide (k ≤ s.wrg.step.toNat + 1) && x.landed.contains (coreBefore west core, k - 1) &&
      !x.landed.contains (core, k)) = true := by
    rw [there, new]
    simpa using started
  unfold segmentLand
  rw [if_neg (by rw [running]; decide), if_neg (by omega), held]
  exact if_pos due

theorem exec_segmentLand (west : Bool) (core : CoreId) (k : Nat) (s : State) :
    exec (.segmentLand west core k) s = .next (segmentLand s west core.val k) := rfl

theorem exec_coreRingStep (k : Nat) (s : State) : exec (.coreRingStep k) s = .next
    (if s.wrg.state == 3 || s.wrg.state == 4 then { s with wrg := { s.wrg with step := BitVec.ofNat 4 k } } else s) := rfl

/-- Settles O19: the landing is a copy (`segCopied`) and its record (`markLanded`). -/
theorem segmentsMoveRoundTheCoreRing : Obligations.SegmentsMoveRoundTheCoreRing := by
  refine ⟨fun s runs => ⟨fun k => ?step, fun west core k src dst ctr x held hk started new hsrc there hdst hctr wf => ?land⟩,
    fun s west core k h3 h4 => ?idle⟩
  case step =>
    rw [exec_coreRingStep, if_pos (by simpa using runs)]
  case land =>
    subst hsrc hdst
    have kept := segCopied_cupboardOnly s west x core.val k
    have lands := (segmentLand_lands runs held hk started new there).trans (landStep_eq s west x core.val k)
    have mem := (markLanded_frame (segCopied s west x core.val k) west (segJudged s west x core.val k) core.val k).2
    obtain ⟨beat, landed, hdr⟩ := segJudged_kept s west x core.val k
    refine ⟨_, (exec_segmentLand west core k s).trans (congrArg _ lands), fun a ha => ?_, fun sound j hj => ?_,
      fun on valid upset => ?_, _, heldOf_markLanded ((heldOf_congr kept.wrg west).trans held) beat.symm core.val k, ?_, hdr⟩
    · exact (congrArg (readByte · a) mem).trans (segCopied_other wf ha)
    · exact (congrArg (readByte · _) mem).trans (segCopied_same wf sound west x core.val k hj)
    · have counter := counterAt_segCopied s west x core.val k core.val ctr
      rw [← counter]
      exact counterAt_markLanded hctr ((domainOn_congr kept.pwr _).trans on) (by rw [counter, valid])
        (by rw [counter, upset]) _ k
    · rw [landed]
  case idle =>
    rw [exec_coreRingStep, exec_segmentLand, if_neg (by simpa using ⟨h3, h4⟩), segmentLand, if_pos (by simpa using ⟨h3, h4⟩)]
    exact ⟨rfl, rfl⟩

end Sys2Proof.Machine
end

section
/-! PROOFS. Replacement, RESTART and the filling of the ring regions (R109, R115, R121, R122, R124, R322). -/

namespace Sys2Proof.Machine

/-! ### Replacement (R115) -/

theorem groupCopyStart_starts {s : State} {d : RingDir} (dir : s.wrg.dir = some d) (swap : s.wrg.state = 4)
    (free : s.wrg.copying = none) (more : s.wrg.copyNext < d.groups) (done : groupOver s d s.wrg.copyNext = true) :
    groupCopyStart s = { s with wrg := { s.wrg with copying := some s.wrg.copyNext, copyNext := s.wrg.copyNext + 1 } } := by
  rw [groupCopyStart, dir]
  exact if_pos (by simp [swap, free, more, done])

theorem groupCopyEnd_ends {s : State} {d : RingDir} {g : Nat} (dir : s.wrg.dir = some d) (copies : s.wrg.copying = some g) :
    (groupCopyEnd s).wrg.copying = none := by
  rw [groupCopyEnd, copies, dir]

/-- V′ is current, and the ring is out of SWAP with nothing of the replacement left. -/
def swapLeft (s : State) : State :=
  { takeVersion s s.wrg.verNext with
    wrg := { (takeVersion s s.wrg.verNext).wrg with state := 3, swap := false, restartZero := false } }

theorem takeVersion_pass (s : State) (v : W16) : (takeVersion s v).wrg.pass = s.wrg.pass := by
  have write := (cupWrite_cupboardOnly s (dirAddr s + 12) (leBytes 2 v.toNat) none).wrg
  exact (congrArg Wrg.pass write :)

theorem swapSwitch_switches {s : State} {d : RingDir} (dir : s.wrg.dir = some d) (swap : s.wrg.state = 4)
    (ended : s.wrg.passEnded = true) (free : s.wrg.copying = none) (all : s.wrg.copyNext = d.groups) :
    swapSwitch s = leadIn (releaseHeld (swapLeft s)) 0 ((s.wrg.pass.toNat + 1) % 65536) := by
  have pass : (releaseHeld (swapLeft s)).wrg.pass = s.wrg.pass := by
    rw [(releaseHeld_cupboardOnly (swapLeft s)).wrg]
    exact takeVersion_pass s s.wrg.verNext
  have due : (s.wrg.state == 4 && s.wrg.passEnded && s.wrg.copying.isNone && s.wrg.copyNext == d.groups) = true := by
    simp [swap, ended, free, all]
  calc swapSwitch s
      = leadIn (releaseHeld (swapLeft s)) 0 (((releaseHeld (swapLeft s)).wrg.pass.toNat + 1) % 65536) := by
        rw [swapSwitch, dir]
        dsimp only
        rw [if_pos due, swapLeft]
    _ = leadIn (releaseHeld (swapLeft s)) 0 ((s.wrg.pass.toNat + 1) % 65536) := by rw [pass]

/-! ### RESTART (R117, R121, R124) -/

/-- A RESTART has been committed for this beat and acts on a ring that did not halt in it. -/
structure RestartDue (s : State) (zero : Bool) (d : RingDir) : Prop where
  due : s.wrg.restartDue = some zero
  dir : s.wrg.dir = some d
  halted : s.wrg.state = 5
  before : s.wrg.trail.any (·.1 == s.beat.count) = false

/-- The committed RESTART is taken. -/
def restartTaken (s : State) : State := { s with wrg := { s.wrg with restartDue := none } }

/-- The state once the RESTART is taken and the directory read again. -/
def restartRead (s : State) : State := noteDir (restartTaken s) (readDir s)

theorem readDir_restartTaken (s : State) : readDir (restartTaken s) = readDir s := rfl

/-- A halt cause met since voids it. -/
theorem restart_void {s : State} {zero : Bool} {d : RingDir} (h : RestartDue s zero d) {c : BitVec 4} {b : W64}
    (met : s.wrg.halt = some (c, b)) :
    restart s = { s with wrg := { s.wrg with restartDue := none, cause := c, halt := none } } := by
  have met : (restartTaken s).wrg.halt = some (c, b) := met
  rw [restart, h.due, h.dir]
  change (if _ then restartTaken s else match (restartTaken s).wrg.halt with | some (c, _) => _ | none => _) = _
  rw [if_neg (by simp [h.halted, h.before]), met]

/-- Where no cause was met and the directory still agrees, it acts on the ring, unless its first group is marked. -/
theorem restart_acts {s u : State} {zero : Bool} {d r : RingDir} (h : RestartDue s zero d) (noHalt : s.wrg.halt = none)
    (hr : readDir s = r) (hu : restartRead s = u) (agrees : restartBad u zero r d = false)
    (unmarked : zero = true → u.wrg.swap = false → u.wrg.homeUeMarks.contains (lapGroup r 0) = false) :
    restart s = restartRing u zero r := by
  have injects : (zero && !u.wrg.swap && u.wrg.homeUeMarks.contains (lapGroup r 0)) = false := by
    cases hz : zero
    · rfl
    · cases hs : u.wrg.swap
      · rw [unmarked hz hs]; rfl
      · rfl
  have noHalt : (restartTaken s).wrg.halt = none := noHalt
  rw [restart, h.due, h.dir]
  change (if _ then restartTaken s else match (restartTaken s).wrg.halt with | some (c, _) => _ | none => _) = _
  rw [if_neg (by simp [h.halted, h.before]), noHalt]
  dsimp only
  rw [← restartTaken, readDir_restartTaken, ← restartRead, hu, hr, agrees, injects]
  rfl

/-- With ZERO = 0 the pass goes on from its frozen lap. -/
theorem restartRing_goesOn (s : State) (d : RingDir) : restartRing s false d =
    leadIn { s with wrg := { s.wrg with dir := some d, state := if s.wrg.swap then 4 else 3 } } s.wrg.lap.toNat
      s.wrg.pass.toNat := rfl

/-- With ZERO = 1 a replacement goes on first. -/
theorem restartRing_swap {s : State} (swap : s.wrg.swap = true) (d : RingDir) : restartRing s true d =
    { s with wrg := { s.wrg with dir := some d, state := 4, passEnded := true, restartZero := true } } :=
  if_pos swap

/-- With ZERO = 1 and no replacement the next pass starts. -/
theorem restartRing_newPass {s : State} (out : s.wrg.swap = false) (d : RingDir) : restartRing s true d =
    leadIn { s with wrg := { s.wrg with dir := some d, state := 3, verCur := d.version } } 0
      ((s.wrg.pass.toNat + 1) % 65536) :=
  if_neg (Bool.eq_false_iff.mp out)

theorem exec_restart (s : State) : exec .restart s = .next (restart s) := rfl

theorem restartBad_agrees {s : State} {zero : Bool} {r d : RingDir} (marks : zero = false → homeBad s = false)
    (ok : dirOk s r = true) (packed : r.nPacked = d.nPacked) (plan : r.plan = d.plan) (groups : r.groups = d.groups) :
    restartBad s zero r d = false := by
  have marks : (!zero && homeBad s) = false := by
    cases zero
    · exact marks rfl
    · rfl
  simp [restartBad, marks, ok, packed, plan, groups]

/-! ### The ring regions (R109, R322) -/

/-- The regions of the first `n` slices filled with zeros, one after the other. -/
def regionsZeroed (n : Nat) (s : State) : State :=
  (List.range n).foldl (fun s c => cupZero s (sliceAddr c 0x1400000) 0x400000) s

theorem regionsZeroed_succ (n : Nat) (s : State) :
    regionsZeroed (n + 1) s = cupZero (regionsZeroed n s) (sliceAddr n 0x1400000) 0x400000 := by
  simp [regionsZeroed, List.range_succ]

@[simp] theorem regionsZeroed_wrg (n : Nat) (s : State) : (regionsZeroed n s).wrg = s.wrg := by
  induction n with
  | zero => rfl
  | succ n ih =>
    rw [regionsZeroed_succ]
    exact ih

theorem regionsZeroed_wf (n : Nat) {s : State} (wf : Memory.wf s.mem = true) : Memory.wf (regionsZeroed n s).mem = true := by
  induction n with
  | zero => exact wf
  | succ n ih =>
    rw [regionsZeroed_succ]
    exact cupZero_wf _ _ _ ih

/-- The ring regions of `n + 1` slices are the last slice's and those of the others. -/
theorem ringRegion_succ (n a : Nat) : (a < (n + 1) * sliceBytes ∧ 0x1400000 ≤ a % sliceBytes) ↔
    (sliceAddr n 0x1400000 ≤ a ∧ a < sliceAddr n 0x1400000 + 0x400000) ∨
      (a < n * sliceBytes ∧ 0x1400000 ≤ a % sliceBytes) := by
  unfold sliceAddr sliceBytes
  omega

/-- A byte of a ring region of one of the slices reads 0 then, and every other byte as before. -/
theorem readByte_regionsZeroed (n : Nat) {s : State} (wf : Memory.wf s.mem = true) (a : Nat) :
    readByte (regionsZeroed n s).mem a =
      if a < n * sliceBytes ∧ 0x1400000 ≤ a % sliceBytes then 0 else readByte s.mem a := by
  induction n with
  | zero => simp [regionsZeroed]
  | succ n ih =>
    rw [regionsZeroed_succ, cupZero, readByte_zeroRange _ _ _ (regionsZeroed_wf n wf), ih]
    by_cases here : sliceAddr n 0x1400000 ≤ a ∧ a < sliceAddr n 0x1400000 + 0x400000
    · rw [if_pos here, if_pos ((ringRegion_succ n a).mpr (.inl here))]
    · rw [if_neg here]
      split
      · next below => rw [if_pos ((ringRegion_succ n a).mpr (.inr below))]
      · next other => rw [if_neg fun h => other (((ringRegion_succ n a).mp h).resolve_left here)]

theorem zeroRegions_eq (s : State) :
    zeroRegions s = regionsZeroed 16 { s with wrg := { s.wrg with regionFill := true, slots := [] } } := rfl

theorem zeroRegions_wrg (s : State) : (zeroRegions s).wrg = { s.wrg with regionFill := true, slots := [] } := by
  rw [zeroRegions_eq, regionsZeroed_wrg]

theorem readByte_zeroRegions {s : State} (wf : Memory.wf s.mem = true) (a : Nat) : readByte (zeroRegions s).mem a =
    if a < chipBytes ∧ 0x1400000 ≤ a % sliceBytes then 0 else readByte s.mem a := by
  have chip : 16 * sliceBytes = chipBytes := rfl
  have wf : Memory.wf { s with wrg := { s.wrg with regionFill := true, slots := [] } }.mem = true := wf
  rw [zeroRegions_eq, readByte_regionsZeroed 16 wf, chip]

/-! ### ENABLE of WRG_CTL -/

theorem exec_wrgEnable {s : State} {via : Via} (hw : mayWrite s via = true) (v : W32) :
    exec (.wrgEnable via v) s = .next (wrgCtlWrite s v) :=
  congrArg Host.Outcome.next (guarded_accepted _ hw (wrgCtl_reachable s))

theorem ringCtlCommand_none {s : State} {v : W32} (h4 : bit v 4 = false) (h5 : bit v 5 = false) (t : State) :
    ringCtlCommand s v t = t := by
  simp [ringCtlCommand, h4, h5]

theorem ringCtlSwitch_off {s : State} {v : W32} (off : s.wrg.state = 0) (change : bit v 0 ≠ s.wrg.enable) (t : State) :
    ringCtlSwitch s v t = zeroRegions (ringEnabled t (bit v 0)) := by
  have change : ¬ (bit v 0 == s.wrg.enable) = true := by simpa using change
  have notHeld : ¬ (!bit v 0 && (s.wrg.state == 5 || s.wrg.state == 6)) = true := by simp [off]
  exact (if_neg change).trans (if_neg notHeld)

/-- A change of ENABLE on a WRG that is OFF sets the settings and fills the ring regions. -/
theorem wrgCtlWrite_enables {s : State} {v : W32} (passes : RingCtlPasses s v) (off : s.wrg.state = 0)
    (change : bit v 0 ≠ s.wrg.enable) (h4 : bit v 4 = false) (h5 : bit v 5 = false) :
    wrgCtlWrite s v = zeroRegions (ringEnabled (ringCtlSet s v) (bit v 0)) := by
  rw [wrgCtlWrite_passes passes, ringCtlCommand_none h4 h5, ringCtlSwitch_off off change]

/-! ### HOME_UE of WRG_STAT (R122) -/

theorem exec_homeUeClear {s : State} {via : Via} (hw : mayWrite s via = true) (v : W32) :
    exec (.homeUeClear via v) s = .next (wrgStatWrite s (v ||| 0x400000)) :=
  congrArg Host.Outcome.next (guarded_accepted (off := 0x60018) _ hw rfl)

theorem wrgStatWrite_homeUe (s : State) {v : W32} (h : bit v 22 = true) :
    (wrgStatWrite s v).wrg.homeUe = false ∧ (wrgStatWrite s v).wrg.homeUeMarks = [] := by
  refine ⟨?_, if_pos h⟩
  change (s.wrg.homeUe && !bit v 22) = false
  rw [h, Bool.not_true, Bool.and_false]

/-- Settles O20: a RESTART by `restart_void` and `restart_acts`, ENABLE by `wrgCtlWrite_enables` and
`readByte_zeroRegions`. -/
theorem ringReplacementRestartAndRegions : Obligations.RingReplacementRestartAndRegions := by
  refine ⟨fun s d dir => ⟨fun swap free more done => congrArg _ (groupCopyStart_starts dir swap free more done),
      fun g copies => ⟨_, rfl, groupCopyEnd_ends dir copies⟩,
      fun swap ended free all => ⟨congrArg Host.Outcome.next (swapSwitch_switches dir swap ended free all), rfl⟩,
      fun zero r u due halted before hr hu => ?restart⟩,
    fun s via v hw => ⟨fun off change h4 h5 h7 inCupboard notRing wf => ?enable, rfl, ?homeUe⟩⟩
  case restart =>
    have acts : RestartDue s zero d := ⟨due, dir, halted, before⟩
    have read : restartRead s = u := by rw [hu, hr, restartRead, restartTaken]
    refine ⟨fun c b met => congrArg Host.Outcome.next (restart_void acts met), fun noHalt marks ok packed plan groups => ?_⟩
    have restarts (unmarked : zero = true → u.wrg.swap = false → u.wrg.homeUeMarks.contains (lapGroup r 0) = false) :
        exec .restart s = .next (restartRing u zero r) := by
      rw [exec_restart, restart_acts acts noHalt hr.symm read (restartBad_agrees marks ok packed plan groups) unmarked]
    refine ⟨?_, ?_, ?_⟩
    · rintro rfl
      rw [restarts nofun, restartRing_goesOn]
    · rintro rfl swap
      rw [restarts (by simp [swap]), restartRing_swap swap]
    · rintro rfl out unmarked
      rw [restarts fun _ _ => unmarked, restartRing_newPass out]
  case enable =>
    have passes : RingCtlPasses s v :=
      ⟨fun form => absurd form (by simp [h4]), h7, inCupboard, notRing, fun live => absurd live (by simp [ringLive, off])⟩
    have enables := wrgCtlWrite_enables passes off change h4 h5
    refine ⟨_, (exec_wrgEnable hw v).trans (congrArg _ enables), ?_, ?_, ?_, fun a => ?_⟩
    · rw [zeroRegions_wrg, ringEnabled]
    · rw [zeroRegions_wrg]
    · rw [zeroRegions_wrg, ringEnabled, ringCtlSet]
    · exact readByte_zeroRegions (s := ringEnabled (ringCtlSet s v) (bit v 0)) wf a
  case homeUe =>
    have clears : bit (v ||| 0x400000) 22 = true := by simp [bit]
    obtain ⟨homeUe, marks⟩ := wrgStatWrite_homeUe s clears
    exact ⟨_, exec_homeUeClear hw v, rfl, homeUe, marks, rfl⟩

end Sys2Proof.Machine
end

section
/-! PROOFS. The word of an instruction, and what the decoder reads off it (R170, R172, R202, Tables 5-5, 6-1 and 6-2). -/

namespace Sys2Proof.Machine

section
variable (op : BitVec 6) (g : Guard) (x : BitVec 54)

/-! ### Opcode, predicate field and the bits below them (R170) -/

theorem fld_word64 {lo len : Nat} (h : lo + len ≤ 54) : fld (word64 op g x) lo len = x.extractLsb' lo len := by
  rw [fld, word64, BitVec.setWidth_eq, BitVec.extractLsb'_append_eq_of_add_le h]

theorem bits_word64 {lo len : Nat} (h : lo + len ≤ 54) :
    bits (word64 op g x) lo len = (x.extractLsb' lo len).toNat := congrArg BitVec.toNat (fld_word64 op g x h)

@[simp] theorem bits_word64_opcode : bits (word64 op g x) 58 6 = op.toNat := by
  simp [bits, word64, BitVec.extractLsb'_append_eq_of_le, -Nat.reduceAdd]

theorem rsv_word64 {lo len : Nat} (h : lo + len ≤ 54) :
    rsv (word64 op g x) lo len = ((x.extractLsb' lo len).toNat == 0) := by
  rw [rsv, bits_word64 op g x h]

/-- A flag is a field of one bit. -/
theorem bit_eq_fld (w : W64) (i : Nat) : bit w i = (fld w i 1 == 1#1) := by
  rw [bit, fld, BitVec.getLsbD_eq_extractLsb']

theorem bit_word64 {i : Nat} (h : i < 54) : bit (word64 op g x) i = (x.extractLsb' i 1 == 1#1) := by
  rw [bit_eq_fld, fld_word64 op g x h]

@[simp] theorem ofBool_beq_one (b : Bool) : (BitVec.ofBool b == 1#1) = b := by cases b <;> rfl

theorem wordGuard_word64 : wordGuard (word64 op g x) = g := by
  simp [wordGuard, bit_eq_fld, fld, word64, BitVec.extractLsb'_append_eq_of_le, BitVec.extractLsb'_append_eq_of_add_le,
    -Nat.reduceAdd]

/-! ### The fields of each layout, and its RSV bits (Tables 5-5 and 6-2) -/

theorem wordR_encR (f : FieldsR) : wordR (word64 op g (encR f)) = f ∧ rsv (word64 op g (encR f)) 0 34 = true := by
  simp [wordR, encR, fld_word64, rsv_word64, BitVec.extractLsb'_append_eq_of_le,
    BitVec.extractLsb'_append_eq_of_add_le, -Nat.reduceAdd]

theorem wordI_encI (f : FieldsI) : wordI (word64 op g (encI f)) = f ∧ rsv (word64 op g (encI f)) 32 7 = true := by
  simp [wordI, encI, fld_word64, rsv_word64, BitVec.extractLsb'_append_eq_of_le,
    BitVec.extractLsb'_append_eq_of_add_le, -Nat.reduceAdd]

theorem wordJ_encJ (f : FieldsJ) : wordJ (word64 op g (encJ f)) = f ∧ rsv (word64 op g (encJ f)) 32 17 = true := by
  simp [wordJ, encJ, fld_word64, rsv_word64, BitVec.extractLsb'_append_eq_of_le,
    BitVec.extractLsb'_append_eq_of_add_le, -Nat.reduceAdd]

theorem wordWC_encWC (f : FieldsWC) : wordWC (word64 op g (encWC f)) = f ∧ rsv (word64 op g (encWC f)) 32 4 = true := by
  simp [wordWC, encWC, fld_word64, rsv_word64, bit_word64, BitVec.extractLsb'_append_eq_of_le,
    BitVec.extractLsb'_append_eq_of_add_le, -Nat.reduceAdd]

theorem wordWB_encWB (f : FieldsWB) : wordWB (word64 op g (encWB f)) = f ∧ rsv (word64 op g (encWB f)) 0 43 = true := by
  simp [wordWB, encWB, fld_word64, rsv_word64, BitVec.extractLsb'_append_eq_of_le,
    BitVec.extractLsb'_append_eq_of_add_le, -Nat.reduceAdd]

theorem wordSG_encSG (f : FieldsSG) :
    wordSG (word64 op g (encSG f)) = f ∧
    rsv (word64 op g (encSG f)) 49 5 = true ∧
    rsv (word64 op g (encSG f)) 0 36 = true := by
  simp [wordSG, encSG, fld_word64, rsv_word64, BitVec.extractLsb'_append_eq_of_le,
    BitVec.extractLsb'_append_eq_of_add_le, -Nat.reduceAdd]

theorem wordMV_encMV (f : FieldsMV) : wordMV (word64 op g (encMV f)) = f ∧ rsv (word64 op g (encMV f)) 32 5 = true := by
  simp [wordMV, encMV, fld_word64, rsv_word64, bit_word64, BitVec.extractLsb'_append_eq_of_le,
    BitVec.extractLsb'_append_eq_of_add_le, -Nat.reduceAdd]

theorem wordPT_encPT (f : FieldsPT) : wordPT (word64 op g (encPT f)) = f ∧ rsv (word64 op g (encPT f)) 0 30 = true := by
  simp [wordPT, encPT, fld_word64, rsv_word64, bit_word64, BitVec.extractLsb'_append_eq_of_le,
    BitVec.extractLsb'_append_eq_of_add_le, -Nat.reduceAdd]

theorem wordTM_encTM (f : FieldsTM) : wordTM (word64 op g (encTM f)) = f ∧ rsv (word64 op g (encTM f)) 0 5 = true := by
  simp [wordTM, encTM, fld_word64, rsv_word64, bit_word64, BitVec.extractLsb'_append_eq_of_le,
    BitVec.extractLsb'_append_eq_of_add_le, -Nat.reduceAdd]

theorem wordV_encV (f : FieldsV) : wordV (word64 op g (encV f)) = f ∧ rsv (word64 op g (encV f)) 0 11 = true := by
  simp [wordV, encV, fld_word64, rsv_word64, bit_word64, BitVec.extractLsb'_append_eq_of_le,
    BitVec.extractLsb'_append_eq_of_add_le, -Nat.reduceAdd]

theorem wordFL_encFL (f : FieldsFL) : wordFL (word64 op g (encFL f)) = f ∧ rsv (word64 op g (encFL f)) 0 46 = true := by
  simp [wordFL, encFL, fld_word64, rsv_word64, BitVec.extractLsb'_append_eq_of_le,
    BitVec.extractLsb'_append_eq_of_add_le, -Nat.reduceAdd]

theorem wordCX_encCX (f : FieldsCX) : wordCX (word64 op g (encCX f)) = f := by
  simp [wordCX, encCX, fld_word64, bit_word64, BitVec.extractLsb'_append_eq_of_le,
    BitVec.extractLsb'_append_eq_of_add_le, -Nat.reduceAdd]

theorem wordCL_encCL (f : FieldsCL) : wordCL (word64 op g (encCL f)) = f ∧ rsv (word64 op g (encCL f)) 0 21 = true := by
  simp [wordCL, encCL, fld_word64, rsv_word64, bit_word64, BitVec.extractLsb'_append_eq_of_le,
    BitVec.extractLsb'_append_eq_of_add_le, -Nat.reduceAdd]

theorem wordCP_encCP (f : FieldsCP) : wordCP (word64 op g (encCP f)) = f ∧ rsv (word64 op g (encCP f)) 0 21 = true := by
  simp [wordCP, encCP, fld_word64, rsv_word64, bit_word64, BitVec.extractLsb'_append_eq_of_le,
    BitVec.extractLsb'_append_eq_of_add_le, -Nat.reduceAdd]

theorem wordCT_encCT (f : FieldsCT) (fn : BitVec 5) :
    wordCT (word64 op g (encCT f fn)) = f ∧ rsv (word64 op g (encCT f fn)) 0 31 = true ∧
      bits (word64 op g (encCT f fn)) 39 5 = fn.toNat := by
  simp [wordCT, encCT, fld_word64, rsv_word64, bits_word64, BitVec.extractLsb'_append_eq_of_le,
    BitVec.extractLsb'_append_eq_of_add_le, -Nat.reduceAdd]

/-- FENCE's mask lies above its RSV bits. -/
theorem fld_mask (m : Byte) :
    fld (word64 op g (m ++ 0#46)) 46 8 = m ∧ rsv (word64 op g (m ++ 0#46)) 0 46 = true := by
  simp [fld_word64, rsv_word64, BitVec.extractLsb'_append_eq_of_le, BitVec.extractLsb'_append_eq_of_add_le, -Nat.reduceAdd]

/-- END and NOP have RSV bits alone. -/
theorem rsv_zero : rsv (word64 op g 0#54) 0 54 = true := by simp [rsv_word64]

end

/-! ### The decoder reads back what the encoder wrote -/

theorem wordGuard_isaEncode (g : Guard) (i : Isa) : wordGuard (isaEncode g i) = g := by
  cases i <;> exact wordGuard_word64 _ g _

theorem isaDecode_tm (g : Guard) (op : TmOp) (f : FieldsTM) : isaDecode (isaEncode g (.tm op f)) = some (.tm op f) := by
  cases op <;> simp [isaEncode, tmOpcode, isaDecode, wordTM_encTM]

theorem isaDecode_isaEncode (g : Guard) (i : Isa) : isaDecode (isaEncode g i) = some i := by
  cases i with
  | alu f | cmp f | plog f | tdchk f => simp [isaEncode, isaDecode, wordR_encR]
  | alui f | cmpi f | aop f | ld f | st f | rdc f | tdld f | tdst f | tdbase f | jalr f =>
    simp [isaEncode, isaDecode, wordI_encI]
  | j f | jal f | djnz f => simp [isaEncode, isaDecode, wordJ_encJ]
  | waitc f => simp [isaEncode, isaDecode, wordWC_encWC]
  | waitb f => simp [isaEncode, isaDecode, wordWB_encWB]
  | fence m => simp [isaEncode, isaDecode, fld_mask]
  | cset f | cadd f | cread f => simp [isaEncode, isaDecode, wordCT_encCT]
  | signal f => simp [isaEncode, isaDecode, wordSG_encSG]
  | ill => simp [isaEncode, isaDecode]
  | endp | nop => simp [isaEncode, isaDecode, rsv_zero]
  | move f => simp [isaEncode, isaDecode, wordMV_encMV]
  | put f => simp [isaEncode, isaDecode, wordPT_encPT]
  | tm op f => exact isaDecode_tm g op f
  | vec f => simp [isaEncode, isaDecode, wordV_encV]
  | tflg f => simp [isaEncode, isaDecode, wordFL_encFL]
  | gather f | scatter f => simp [isaEncode, isaDecode, wordCX_encCX]
  | call f => simp [isaEncode, isaDecode, wordCL_encCL]
  | cpri f => simp [isaEncode, isaDecode, wordCP_encCP]

/-- Settles O5: the decoder takes the opcode's layout (`isaDecode_isaEncode`), and the predicate field lies above every layout
(`wordGuard_isaEncode`). -/
theorem instructionWordsDecodeToWhatTheyEncode : Obligations.InstructionWordsDecodeToWhatTheyEncode :=
  fun g i => ⟨isaDecode_isaEncode g i, wordGuard_isaEncode g i⟩

end Sys2Proof.Machine
end

section
/-! PROOFS. The registers of a core, and what an instruction that issues does to the state (R137, R163, R164, R192). -/

namespace Sys2Proof.Machine

/-! ### Registers (R163, R164) -/

section
variable (c : Core) (r q : BitVec 5)

@[simp] theorem getS_setS_same (v : W64) : getS (setS c r v) r = v := by
  rw [getS, setS, vmod_getD, if_pos ⟨rfl, r.isLt⟩]

theorem getS_setS_other (v : W64) (h : q ≠ r) : getS (setS c r v) q = getS c q := by
  rw [getS, setS, vmod_getD, if_neg fun e => h (BitVec.eq_of_toNat_eq e.1.symm), getS]

theorem getA_setA_same (v : W32) (h : r.toNat < 16) : getA (setA c r v) r = v := by
  rw [getA, setA, vmod_getD, if_pos ⟨rfl, h⟩]

theorem getA_setA_other (v : W32) (h : q ≠ r) : getA (setA c r v) q = getA c q := by
  rw [getA, setA, vmod_getD, if_neg fun e => h (BitVec.eq_of_toNat_eq e.1.symm), getA]

@[simp] theorem getTd_setTd_same (t : Option TD) : getTd (setTd c r t) r = t := by
  rw [getTd, setTd, vmod_getD, if_pos ⟨rfl, r.isLt⟩]

theorem getTd_setTd_other (t : Option TD) (h : q ≠ r) : getTd (setTd c r t) q = getTd c q := by
  rw [getTd, setTd, vmod_getD, if_neg fun e => h (BitVec.eq_of_toNat_eq e.1.symm), getTd]

@[simp] theorem getP_zero : getP c 0 = true := rfl

@[simp] theorem setP_zero (b : Bool) : setP c 0 b = c := rfl

theorem setP_of_ne (b : Bool) (h : r ≠ 0) : setP c r b = { c with p := vmod c.p r.toNat fun _ => b } :=
  if_neg (by simpa using h)

theorem getP_setP_same (b : Bool) (h0 : 0 < r.toNat) (h8 : r.toNat < 8) : getP (setP c r b) r = b := by
  have ne : r ≠ 0 := by rintro rfl; exact absurd h0 (by decide)
  rw [setP_of_ne c r b ne, getP, vmod_getD, if_pos ⟨rfl, h8⟩, beq_false_of_ne ne, Bool.false_or]

theorem getP_setP_other (b : Bool) (h : q ≠ r) : getP (setP c r b) q = getP c q := by
  by_cases ne : r = 0
  · subst ne; rfl
  · rw [setP_of_ne c r b ne, getP, vmod_getD, if_neg fun e => h (BitVec.eq_of_toNat_eq e.1.symm), getP]

end

@[simp] theorem getS_retire (c : Core) (r : BitVec 5) : getS (retire c) r = getS c r := rfl

/-! ### A core changed -/

theorem modCore_self (s : State) (n : Nat) : modCore s n (fun c => c) = s := by
  have : vmod s.cores n (fun c => c) = s.cores := by
    unfold vmod
    split
    · exact Vector.set_getElem_self _
    · rfl
  rw [modCore, this]

/-- A change that leaves the core as it stands leaves the state. -/
theorem modCore_eq_self {s : State} {n : Nat} {f : Core → Core} (h : f (coreAt s n) = coreAt s n) : modCore s n f = s :=
  (modCore_congr h).trans (modCore_self s n)

theorem modCore_modCore (s : State) (n : Nat) (f g : Core → Core) :
    modCore (modCore s n f) n g = modCore s n fun c => g (f c) := by
  have : vmod (vmod s.cores n f) n g = vmod s.cores n fun c => g (f c) := by
    apply Vector.ext
    intro i hi
    simp only [vmod_get _ _ _ _ hi]
    split <;> rfl
  simp only [modCore, this]

theorem sameButCore_modCore (s : State) (n : Nat) (f : Core → Core) : sameButCore s (modCore s n f) n :=
  ⟨rfl, fun _ h => coreAt_modCore_other s f h.symm⟩

/-! ### An instruction issues -/

/-- The command of an instruction that issues has the instruction's effect. -/
theorem next_issue {s : State} {n : Nat} {g : Guard} {i : Isa} (h : issues s n g i = true) :
    (.next (issue s n g i) : Host.Outcome State Fault Refusal) = .next (effect s n i) := congrArg _ (issue_eq h)

section
variable {s : State} {core : CoreId} {g : Guard}

theorem exec_cmp {f : FieldsR} (h : issues s core.val g (.cmp f) = true) :
    exec (.cmp core g f) s = .next (doCmp s core.val f) := next_issue h

theorem exec_cmpi {f : FieldsI} (h : issues s core.val g (.cmpi f) = true) :
    exec (.cmpi core g f) s = .next (doCmpi s core.val f) := next_issue h

theorem exec_plog {f : FieldsR} (h : issues s core.val g (.plog f) = true) :
    exec (.plog core g f) s = .next (doPlog s core.val f) := next_issue h

theorem exec_tdchk {f : FieldsR} (h : issues s core.val g (.tdchk f) = true) :
    exec (.tdchk core g f) s = .next (doTdchk s core.val f) := next_issue h

end

/-- Settles O7, by one rule per register file and by `setP_zero`. -/
theorem predicateZeroAlwaysReadsOne : Obligations.PredicateZeroAlwaysReadsOne := by
  intro c r q
  refine ⟨getP_zero c, setP_zero c, fun v => ⟨getS_setS_same c r v, getS_setS_other c r q v⟩,
    fun v h => ⟨getA_setA_same c r v h, getA_setA_other c r q v⟩,
    fun b h0 h8 => ⟨getP_setP_same c r b h0 h8, getP_setP_other c r q b⟩,
    fun t => ⟨getTd_setTd_same c r t, getTd_setTd_other c r q t⟩, fun s core g f h hf hh => ?_⟩
  have discarded (v : Core → Bool) : modCore s core.val (fun c => retire (setP c 0 (v c))) = modCore s core.val retire := rfl
  refine ⟨fun i => ?_, fun i => ?_, fun i => ?_, fun i => ?_⟩
  · rw [exec_cmp i, doCmp, hf, discarded]
  · rw [exec_cmpi i, doCmpi, hh, discarded]
  · rw [exec_plog i, doPlog, hf, discarded]
  · rw [exec_tdchk i, doTdchk, hf]; rfl

end Sys2Proof.Machine
end

section
/-! PROOFS. Work on the cupboard leaves of a core's record all but its slice's marks and mode; a core drains and halts (R132,
R185, R325). -/

namespace Sys2Proof.Machine

/-! ### What work on the cupboard leaves of the cores -/

/-- Every core of `t` is as in `s`, but for the marks and the mode of its slice. -/
def SlicesOnly (s t : State) : Prop := ∀ n, ∃ b, coreAt t n = { coreAt s n with cpb := b }

theorem SlicesOnly.refl (s : State) : SlicesOnly s s := fun _ => ⟨_, rfl⟩

theorem SlicesOnly.trans {s t u : State} (st : SlicesOnly s t) (tu : SlicesOnly t u) : SlicesOnly s u := by
  intro n
  obtain ⟨b, hb⟩ := st n
  obtain ⟨d, hd⟩ := tu n
  exact ⟨d, by rw [hd, hb]⟩

theorem SlicesOnly.ite {s t u : State} {c : Prop} [Decidable c] (ht : SlicesOnly s t) (hu : SlicesOnly s u) :
    SlicesOnly s (if c then t else u) := by
  split
  · exact ht
  · exact hu

theorem SlicesOnly.foldl {α : Type} {f : State → α → State} (h : ∀ s x, SlicesOnly s (f s x)) (l : List α) (s : State) :
    SlicesOnly s (l.foldl f s) := by
  induction l generalizing s with
  | nil => exact .refl s
  | cons x l ih => exact (h s x).trans (ih _)

theorem SlicesOnly.of_cores {s t : State} (h : t.cores = s.cores) : SlicesOnly s t := fun n =>
  ⟨(coreAt s n).cpb, by simp only [coreAt, h]⟩

theorem modCore_slicesOnly (s : State) (m : Nat) (f : Cpb → Cpb) :
    SlicesOnly s (modCore s m fun c => { c with cpb := f c.cpb }) := by
  intro n
  rw [coreAt_modCore]
  split
  · exact ⟨_, rfl⟩
  · exact ⟨_, rfl⟩

theorem noteUe_slicesOnly (s : State) (a : Nat) (core : Option Nat) (reader : Nat) :
    SlicesOnly s (noteUe s a core reader) := by
  have marked := modCore_slicesOnly s (sliceOf a) fun b => { b with ue := true, evtPosted := true }
  exact .ite marked (marked.trans (.of_cores (postReg_cores _ _ _ _ _ _)))

theorem correctRead_slicesOnly (s : State) (a n : Nat) : SlicesOnly s (correctRead s a n) :=
  .trans (.of_cores rfl) (.foldl (fun s _ => modCore_slicesOnly s _ fun b => { b with ceCnt := satInc b.ceCnt }) _ _)

theorem writeWord_slicesOnly (s : State) (a : Nat) (bs : List Byte) (core : Option Nat) :
    SlicesOnly s (writeWord s a bs core) :=
  .ite (.of_cores rfl) (.ite (noteUe_slicesOnly s _ core _) ((correctRead_slicesOnly s _ 8).trans (.of_cores rfl)))

theorem writeSpan_slicesOnly (k : Nat) (s : State) (a : Nat) (bs : List Byte) (core : Option Nat) :
    SlicesOnly s (writeSpan k s a bs core) := by
  induction k generalizing s a bs with
  | zero => exact .refl s
  | succ k ih => exact .ite (.refl s) ((writeWord_slicesOnly s a _ core).trans (ih _ _ _))

theorem cupWrite_slicesOnly (s : State) (a : Nat) (bs : List Byte) (core : Option Nat) :
    SlicesOnly s (cupWrite s a bs core) := writeSpan_slicesOnly _ s a bs core

/-- The posted stores written: of the core itself its slice's marks and the list of stores change. -/
theorem coreAt_flushStores (s : State) (n : CoreId) :
    ∃ b, coreAt (flushStores s n.val) n.val = { coreAt s n.val with cpb := b, stores := [] } := by
  have written := SlicesOnly.foldl (f := fun s w => cupWrite s w.1 (leBytes w.2.1 w.2.2.toNat) (some n.val))
    (fun s w => cupWrite_slicesOnly s w.1 _ _) (coreAt s n.val).stores s
  obtain ⟨b, hb⟩ := written n.val
  exact ⟨b, by rw [flushStores, coreAt_modCore_same, hb]⟩

/-! ### DRAINING and HALTED (R132, R185) -/

theorem flushRets_pc (c : Core) : (flushRets c).pc = c.pc :=
  foldl_keeps Core.pc (fun (c : Core) (r : Ret) => putS c r.d r.value) (fun _ _ => rfl) c.rets c

theorem applyFdis_state (c : Core) : (applyFdis c).state = c.state := by unfold applyFdis; split <;> rfl

theorem applyFdis_stop (c : Core) : (applyFdis c).stop = c.stop := by unfold applyFdis; split <;> rfl

theorem applyFdis_pc (c : Core) : (applyFdis c).pc = c.pc := by unfold applyFdis; split <;> rfl

/-- A core that enters HALTED records the STOP code of its drain and keeps its PC. -/
theorem enterHalted_core (s : State) (n : CoreId) :
    (coreAt (enterHalted s n.val) n.val).state = 0 ∧
      (coreAt (enterHalted s n.val) n.val).stop = (coreAt s n.val).stopNext ∧
      (coreAt (enterHalted s n.val) n.val).pc = (coreAt s n.val).pc := by
  obtain ⟨b, hb⟩ := coreAt_flushStores s n
  rw [enterHalted, coreAt_modCore_same, hb]
  exact ⟨applyFdis_state _, applyFdis_stop _, (applyFdis_pc _).trans (flushRets_pc _)⟩

theorem coreDrained_halts {s : State} {n : Nat} (h : (coreAt s n).state = 3) (idle : idleCore (coreAt s n) = true) :
    coreDrained s n = enterHalted s n := if_pos (by simp [h, idle])

/-- Nothing issues on a core that drains or is HALTED. -/
theorem mayIssue_stopped {c : Core} (h : c.state = 0 ∨ c.state = 3) : mayIssue c = false := by
  rcases h with h | h <;> simp [mayIssue, h]

/-- Settles O8: END by the core it leaves, the drain's end by `enterHalted_core`; a stopped core issues nothing
(`mayIssue_stopped`). -/
theorem endDrainsAndHalts : Obligations.EndDrainsAndHalts := by
  intro s core g
  refine ⟨fun h => ?_, fun h3 hstop idle => ?_⟩
  · have core' : coreAt (doEnd s core.val) core.val = { retire (coreAt s core.val) with state := 3, stopNext := 3 } :=
      coreAt_modCore_same s core _
    exact ⟨doEnd s core.val, next_issue h, rfl, congrArg Core.state core', congrArg Core.stopNext core',
      (congrArg Core.pc core' :), (congrArg Core.s core' :),
      fun g i => issue_waits g i (mayIssue_stopped (.inr (congrArg Core.state core')))⟩
  · obtain ⟨halted, stop, pc⟩ := enterHalted_core s core
    exact ⟨enterHalted s core.val, congrArg _ (coreDrained_halts h3 idle), halted, stop.trans hstop, pc,
      fun g i => issue_waits g i (mayIssue_stopped (.inl halted))⟩

end Sys2Proof.Machine
end

section
/-! PROOFS. Comparisons, immediate, address and read instructions (R169, R173, R174, R177, Tables 5-6 to 5-8). -/

namespace Sys2Proof.Machine

/-! ### Values of comparisons and of PLOG (Table 5-6) -/

/-- FN of CMP and CMPI: EQ, NE, LT, LTU, GE, GEU. -/
theorem cmpValue_iff {fn : Nat} (h : fn ≤ 5) (x y : W64) :
    cmpValue fn x y = true ↔ (fn = 0 ∧ x = y) ∨ (fn = 1 ∧ x ≠ y) ∨ (fn = 2 ∧ x.toInt < y.toInt) ∨
      (fn = 3 ∧ x.toNat < y.toNat) ∨ (fn = 4 ∧ y.toInt ≤ x.toInt) ∨ (fn = 5 ∧ y.toNat ≤ x.toNat) := by
  match fn, h with
  | 0, _ | 1, _ | 2, _ | 3, _ | 4, _ | 5, _ => simp [cmpValue]

theorem plogValue_eq (x y : Bool) :
    plogValue 0 x y = (x && y) ∧ plogValue 1 x y = (x || y) ∧ plogValue 2 x y = xor x y ∧ plogValue 3 x y = (x && !y) :=
  ⟨rfl, rfl, by cases x <;> cases y <;> rfl, rfl⟩

/-! ### TDCHK (R169, R178) -/

/-- What TDCHK writes. -/
def tdPasses (s : State) (n : Nat) (fn : BitVec 5) (t : Option TD) : Bool :=
  (tdFault s n t).isNone &&
    (fn == 0 || t.any fun t => (firstBad s t.base.toNat (extent t) (writableKind (coreAt s n).ctx.toNat)).isNone)

theorem doTdchk_eq (s : State) (n : Nat) (f : FieldsR) : doTdchk s n f =
    modCore s n fun c => retire (setP c f.d (tdPasses s n f.fn (getTd (coreAt s n) f.a))) := rfl

theorem tdPasses_iff {s : State} {n : Nat} {fn : BitVec 5} (h : fn.toNat ≤ 1) (t : Option TD) :
    tdPasses s n fn t = true ↔ tdFault s n t = none ∧ (fn.toNat = 1 → ∃ d, t = some d ∧
      firstBad s d.base.toNat (extent d) (writableKind (coreAt s n).ctx.toNat) = none) := by
  have zero : fn = 0 ↔ fn.toNat ≠ 1 := by
    rw [← BitVec.toNat_inj, show (0 : BitVec 5).toNat = 0 from rfl]
    omega
  simp only [tdPasses, Bool.and_eq_true, Bool.or_eq_true, Option.isNone_iff_eq_none, beq_iff_eq, zero, Option.any_eq_true,
    ← Decidable.imp_iff_not_or]

/-! ### FN of an instruction that issues is in range (R172) -/

section
variable {s : State} {n : Nat} {g : Guard}

theorem fn_le_of_issues_cmp {f : FieldsR} (i : issues s n g (.cmp f) = true) : f.fn.toNat ≤ 5 :=
  of_decide_eq_true (Bool.and_eq_true_iff.mp (legal_of_issues i)).1

theorem fn_le_of_issues_cmpi {f : FieldsI} (i : issues s n g (.cmpi f) = true) : f.fn.toNat ≤ 5 :=
  of_decide_eq_true (Bool.and_eq_true_iff.mp (legal_of_issues i)).1

theorem fn_le_of_issues_tdchk {f : FieldsR} (i : issues s n g (.tdchk f) = true) : f.fn.toNat ≤ 1 :=
  of_decide_eq_true (Bool.and_eq_true_iff.mp (Bool.and_eq_true_iff.mp (legal_of_issues i)).1).1

end

/-- Settles O23, by `cmpValue_iff`, `plogValue_eq` and `tdPasses_iff`. -/
theorem comparisonsWriteOnePredicate : Obligations.ComparisonsWriteOnePredicate := by
  refine fun s core g f h => ⟨fun i => ?cmp, fun i => ?cmpi, fun i => ?plog, fun i => ?tdchk, setP_zero⟩
  case cmp =>
    refine ⟨cmpValue f.fn.toNat (getS (coreAt s core.val) f.a) (getS (coreAt s core.val) f.b),
      (exec_cmp i).trans (congrArg _ (modCore_congr rfl)), ?_⟩
    rintro x y rfl rfl
    exact cmpValue_iff (fn_le_of_issues_cmp i) _ _
  case cmpi =>
    refine ⟨cmpValue h.fn.toNat (getS (coreAt s core.val) h.a) (h.imm.signExtend 64),
      (exec_cmpi i).trans (congrArg _ (modCore_congr rfl)), ?_⟩
    rintro x y rfl rfl
    exact cmpValue_iff (fn_le_of_issues_cmpi i) _ _
  case plog =>
    refine ⟨plogValue f.fn.toNat (getP (coreAt s core.val) f.a) (getP (coreAt s core.val) f.b),
      (exec_plog i).trans (congrArg _ (modCore_congr rfl)), ?_⟩
    rintro x y rfl rfl
    obtain ⟨hAnd, hOr, hXor, hAndNot⟩ := plogValue_eq (getP (coreAt s core.val) f.a) (getP (coreAt s core.val) f.b)
    exact ⟨fun e => e ▸ hAnd, fun e => e ▸ hOr, fun e => e ▸ hXor, fun e => e ▸ hAndNot⟩
  case tdchk =>
    exact ⟨_, (exec_tdchk i).trans (congrArg _ (doTdchk_eq s core.val f)), tdPasses_iff (fn_le_of_issues_tdchk i) _⟩

end Sys2Proof.Machine
end

section
/-! PROOFS. ALUI, AOP and RDC (R173, R174, R177, Tables 5-6 and 5-7). -/

namespace Sys2Proof.Machine

section
variable {s : State} {core : CoreId} {g : Guard} {f : FieldsI}

theorem exec_alui (h : issues s core.val g (.alui f) = true) : exec (.alui core g f) s = .next (doAlui s core.val f) :=
  next_issue h

theorem exec_aop (h : issues s core.val g (.aop f) = true) : exec (.aop core g f) s = .next (doAop s core.val f) :=
  next_issue h

theorem exec_rdc (h : issues s core.val g (.rdc f) = true) : exec (.rdc core g f) s = .next (doRdc s core.val f) :=
  next_issue h

end

/-! ### ALUI (Table 5-6) -/

/-- A shift of ALUI that issues has a count below 64. -/
theorem shift_lt_of_issues {s : State} {n : Nat} {g : Guard} {f : FieldsI} (i : issues s n g (.alui f) = true)
    (h4 : 4 ≤ f.fn.toNat) (h6 : f.fn.toNat ≤ 6) : f.imm.toNat < 64 := by
  have fields := legal_of_issues i
  simp only [legal, Bool.and_eq_true, Bool.or_eq_true, Bool.not_eq_true', decide_eq_true_eq, Bool.and_eq_false_iff,
    decide_eq_false_iff_not] at fields
  obtain ⟨⟨-, range⟩, -⟩ := fields
  omega

/-- MOVHI puts the immediate into bits 63:32. -/
theorem aluiValue_movhi (x : W64) (imm : W32) : aluiValue 8 x imm = imm ++ x.extractLsb' 0 32 := by
  have mask (i : Nat) : BitVec.getLsbD (0xFFFFFFFF : W64) i = decide (i < 32) := by
    have wide : (0xFFFFFFFF : W64) = (BitVec.allOnes 32).setWidth 64 := rfl
    rw [wide, BitVec.getLsbD_setWidth, BitVec.getLsbD_allOnes, Bool.and_eq_right_iff_imp, decide_eq_true_eq, decide_eq_true_eq]
    omega
  apply BitVec.eq_of_getLsbD_eq
  intro i hi
  rw [aluiValue, zx, BitVec.getLsbD_or, BitVec.getLsbD_shiftLeft, BitVec.getLsbD_and, BitVec.getLsbD_setWidth, mask,
    BitVec.getLsbD_append, BitVec.getLsbD_extractLsb']
  by_cases low : i < 32
  · simp [low]
  · have : i - 32 < 64 := by omega
    simp [low, hi, this]

/-- What the functions of ALUI that write sd at once make of sa and the immediate: ADDI, ANDI, ORI, XORI, SHLI, SHRI, SARI, MOVI
and MOVHI. -/
theorem aluiValue_eq {fn : Nat} {x v : W64} {imm : W32} (shift : 4 ≤ fn → fn ≤ 6 → imm.toNat < 64)
    (h : (fn = 0 ∧ v = x + imm.signExtend 64) ∨ (fn = 1 ∧ v = x &&& imm.setWidth 64) ∨
      (fn = 2 ∧ v = x ||| imm.setWidth 64) ∨ (fn = 3 ∧ v = x ^^^ imm.setWidth 64) ∨
      (fn = 4 ∧ v = x <<< imm.toNat) ∨ (fn = 5 ∧ v = x >>> imm.toNat) ∨ (fn = 6 ∧ v = x.sshiftRight imm.toNat) ∨
      (fn = 7 ∧ v = imm.signExtend 64) ∨ (fn = 8 ∧ v = imm ++ x.extractLsb' 0 32)) :
    fn ≠ 9 ∧ aluiValue fn x imm = v := by
  have count (h4 : 4 ≤ fn) (h6 : fn ≤ 6) : imm.toNat % 64 = imm.toNat := Nat.mod_eq_of_lt (shift h4 h6)
  rcases h with ⟨rfl, rfl⟩ | ⟨rfl, rfl⟩ | ⟨rfl, rfl⟩ | ⟨rfl, rfl⟩ | ⟨rfl, rfl⟩ | ⟨rfl, rfl⟩ | ⟨rfl, rfl⟩ | ⟨rfl, rfl⟩ |
    ⟨rfl, rfl⟩
  all_goals refine ⟨by decide, ?_⟩
  · rfl
  · rfl
  · rfl
  · rfl
  · rw [aluiValue, count (by decide) (by decide)]
  · rw [aluiValue, count (by decide) (by decide)]
  · rw [aluiValue, count (by decide) (by decide)]
  · rfl
  · exact aluiValue_movhi x imm

/-- A function of ALUI that writes sd at once. -/
theorem doAlui_writes {s : State} {n : Nat} {f : FieldsI} (h : f.fn.toNat ≠ 9) {v : W64}
    (hv : aluiValue f.fn.toNat (getS (coreAt s n) f.a) f.imm = v) :
    doAlui s n f = modCore s n fun c => retire (setS c f.d v) := by
  have fn : (f.fn == 9) = false := beq_false_of_ne fun e => h (by rw [e]; rfl)
  refine modCore_congr ?_
  dsimp only
  rw [hv, fn]
  rfl

/-- MULI returns later. -/
theorem doAlui_returns {s : State} {n : Nat} {f : FieldsI} (h : f.fn.toNat = 9) :
    doAlui s n f = modCore s n fun c =>
      retire (later c false false f.d (getS (coreAt s n) f.a * f.imm.signExtend 64)) := by
  have fn : f.fn = 9 := BitVec.eq_of_toNat_eq h
  refine modCore_congr ?_
  dsimp only
  rw [fn]
  rfl

/-! ### RDC (Table 5-7) -/

/-- The offset in the beat. -/
theorem rdcValue_offset (s : State) (n : Nat) : (rdcValue s n 8).toNat =
    if formed s then min (s.beat.ms - s.beat.startMs).toNat (period s - 1) else 0 := by
  rw [rdcValue]
  split
  · rw [BitVec.toNat_ofNat, Nat.mod_eq_of_lt]
    exact Nat.lt_of_le_of_lt (Nat.min_le_left _ _) (BitVec.isLt _)
  · rfl
  all_goals decide

/-- Settles O22, by `aluiValue_eq` with `doAlui_writes` and `doAlui_returns`, and by the functions of AOP and RDC one by one. -/
theorem immediateAddressAndReadInstructions : Obligations.ImmediateAddressAndReadInstructions := by
  refine fun s core g f => ⟨fun i x hx => ⟨fun v hv => ?alui, fun h9 => ?muli⟩, fun i => ?aop, fun i => ?rdc⟩
  case alui =>
    obtain ⟨atOnce, value⟩ := aluiValue_eq (shift_lt_of_issues i) hv
    rw [exec_alui i, doAlui_writes atOnce (hx ▸ value)]
  case muli => rw [exec_alui i, doAlui_returns h9, ← hx]
  case aop =>
    refine ⟨fun fn => ?_, fun fn => ?_, fun fn => ?_, fun fn => ?_⟩
    all_goals
      rw [exec_aop i, doAop, fn]
      rfl
  case rdc =>
    refine ⟨rdcValue s core.val f.imm.toNat, exec_rdc i, fun e => ?_, fun e => ?_, fun e => ?core, fun e => ?_, fun e => ?_,
      fun e => ?_, fun e => ?_, fun e => ?_, fun e => ?offset⟩
    case core =>
      rw [e]
      exact (BitVec.toNat_ofNat _ _).trans (Nat.mod_eq_of_lt (Nat.lt_trans core.isLt (by decide)))
    case offset => rw [e, rdcValue_offset]
    all_goals
      rw [e]
      rfl

end Sys2Proof.Machine
end

section
/-! PROOFS. CSET, CADD and CREAD, and the parity of the counter file (R180, R317). -/

namespace Sys2Proof.Machine

section
variable {s : State} {core : CoreId} {g : Guard} {f : FieldsCT}

theorem exec_cset (h : issues s core.val g (.cset f) = true) : exec (.cset core g f) s = .next (doCset s core.val f) :=
  next_issue h

theorem exec_cadd (h : issues s core.val g (.cadd f) = true) : exec (.cadd core g f) s = .next (doCadd s core.val f) :=
  next_issue h

theorem exec_cread (h : issues s core.val g (.cread f) = true) (parity : Bool) :
    exec (.cread core g f parity) s = .next (doCread s core.val f parity) :=
  congrArg Host.Outcome.next (issueWith_eq (fun s => doCread s core.val f parity) h)

end

/-! ### Accesses to a counter (R317) -/

@[simp] theorem postNone_cores (s : State) (cls : Nat) (ctx : Option Ctx) (detail : W64) :
    (postNone s cls ctx detail).cores = s.cores := by
  obtain ⟨_, _, _, e⟩ := post_eventsOnly s cls 0 ctx (.reg 0xFFFFFFFF 0 detail)
  rw [postNone, e]

/-- An access to a counter without a parity error has no side effect. -/
theorem touchCounter_sound {s : State} {n k : Nat} (h : (counterAt s n k).upset = false) : touchCounter s n k = s :=
  if_neg (by simp [h])

theorem touchCounter_upset {s : State} {n k : Nat} (h : (counterAt s n k).upset = true) :
    touchCounter s n k = counterParity s n k := if_pos h

/-- A counter in a core's record. -/
def counterOf (c : Core) (k : Nat) : Counter := c.counters.toList.getD k ⟨0, true, false⟩

theorem counterAt_eq (s : State) (n k : Nat) : counterAt s n k = counterOf (coreAt s n) k := rfl

/-- A core with a counter replaced. -/
def putCounter (c : Core) (k : Nat) (x : Counter) : Core := { c with counters := vmod c.counters k fun _ => x }

theorem counterOf_putCounter_same (c : Core) (k : Byte) (x : Counter) : counterOf (putCounter c k.toNat x) k.toNat = x :=
  (vmod_getD _ _ _ _ _).trans (if_pos ⟨rfl, k.isLt⟩)

theorem counterOf_putCounter_other (c : Core) {k j : Nat} (x : Counter) (h : j ≠ k) :
    counterOf (putCounter c k x) j = counterOf c j :=
  (vmod_getD _ _ _ _ _).trans (if_neg fun e => h e.1.symm)

theorem setCounter_eq (s : State) (n k : Nat) (v : W32) :
    setCounter s n k v = modCore s n fun c => putCounter c k ⟨v, true, false⟩ := rfl

/-- Of its core, a parity error changes the counter alone. -/
theorem coreAt_counterParity (s : State) (n : CoreId) (k : Nat) :
    coreAt (counterParity s n.val k) n.val = putCounter (coreAt s n.val) k ⟨0, false, false⟩ := by
  rw [counterParity, coreAt, postNone_cores]
  exact coreAt_modCore_same s n _

theorem counterAt_counterParity (s : State) (n : CoreId) (k : Byte) :
    counterAt (counterParity s n.val k.toNat) n.val k.toNat = ⟨0, false, false⟩ := by
  rw [counterAt_eq, coreAt_counterParity, counterOf_putCounter_same]

/-! ### CSET and CADD (R180) -/

theorem wrgCounter_iff (s : State) (ctr : Byte) : wrgCounter s ctr = true ↔ s.wrg.enable = true ∧ 254 ≤ ctr.toNat := by
  simp [wrgCounter]

theorem doCset_refused {s : State} {n : Nat} {f : FieldsCT} (h : s.wrg.enable = true ∧ 254 ≤ f.ctr.toNat) :
    doCset s n f = cpFault s n 7 0 (f.ctr.setWidth 32) := if_pos ((wrgCounter_iff s f.ctr).mpr h)

theorem doCset_sets {s : State} {n : Nat} {f : FieldsCT} (h : ¬ (s.wrg.enable = true ∧ 254 ≤ f.ctr.toNat)) :
    doCset s n f = modCore s n fun c =>
      retire (putCounter c f.ctr.toNat ⟨(getS c f.b).setWidth 32, true, false⟩) := by
  rw [doCset, if_neg (mt (wrgCounter_iff s f.ctr).mp h), setCounter_eq, modCore_modCore]
  exact modCore_congr rfl

/-- CADD of a counter kept by the WRG, or invalid as the access leaves it. -/
theorem doCadd_refused {s : State} {n : Nat} {f : FieldsCT}
    (h : (s.wrg.enable = true ∧ 254 ≤ f.ctr.toNat) ∨
      (counterAt (touchCounter s n f.ctr.toNat) n f.ctr.toNat).valid = false) :
    doCadd s n f = cpFault (touchCounter s n f.ctr.toNat) n 7 0 (f.ctr.setWidth 32) := by
  refine if_pos ?_
  rw [Bool.or_eq_true, wrgCounter_iff, (touchCounter_cupboardOnly s n f.ctr.toNat).wrg, Bool.not_eq_true']
  exact h

theorem doCadd_adds {s : State} {n : Nat} {f : FieldsCT} (sound : (counterAt s n f.ctr.toNat).upset = false)
    (free : ¬ (s.wrg.enable = true ∧ 254 ≤ f.ctr.toNat)) (valid : (counterAt s n f.ctr.toNat).valid = true) :
    doCadd s n f = modCore s n fun c => retire (putCounter c f.ctr.toNat
      ⟨(counterAt s n f.ctr.toNat).value + (getS (coreAt s n) f.b).setWidth 32, true, false⟩) := by
  have refused : ¬ (wrgCounter s f.ctr || !(counterAt s n f.ctr.toNat).valid) = true := by
    rw [valid, Bool.not_true, Bool.or_false]
    exact mt (wrgCounter_iff s f.ctr).mp free
  rw [doCadd, touchCounter_sound sound]
  exact (if_neg refused).trans (by rw [setCounter_eq, modCore_modCore])

/-! ### CREAD -/

/-- The state in which CREAD reads the counter. -/
def creadFrom (s : State) (n : Nat) (f : FieldsCT) (parity : Bool) : State :=
  if parity then counterParity s n f.ctr.toNat else touchCounter s n f.ctr.toNat

theorem doCread_eq (s : State) (n : Nat) (f : FieldsCT) (parity : Bool) : doCread s n f parity =
    modCore (creadFrom s n f parity) n fun c =>
      retire (setS c f.d (creadValue (counterAt (creadFrom s n f parity) n f.ctr.toNat))) := rfl

theorem creadFrom_sound {s : State} {n : Nat} {f : FieldsCT} (sound : (counterAt s n f.ctr.toNat).upset = false) :
    creadFrom s n f false = s := touchCounter_sound sound

theorem creadFrom_parity {s : State} {n : Nat} {f : FieldsCT} {parity : Bool}
    (h : (counterAt s n f.ctr.toNat).upset = true ∨ parity = true) :
    creadFrom s n f parity = counterParity s n f.ctr.toNat := by
  cases parity
  · exact touchCounter_upset (h.resolve_right (by decide))
  · rfl

theorem creadValue_void : creadValue ⟨0, false, false⟩ = 0x8000000000000000 := rfl

/-- CREAD with a parity error: the counter is void, and sd shows it. -/
theorem doCread_parity {s : State} {core : CoreId} {f : FieldsCT} {parity : Bool}
    (h : (counterAt s core.val f.ctr.toNat).upset = true ∨ parity = true) :
    coreAt (doCread s core.val f parity) core.val =
      retire (setS (putCounter (coreAt s core.val) f.ctr.toNat ⟨0, false, false⟩) f.d 0x8000000000000000) := by
  rw [doCread_eq, creadFrom_parity h, counterAt_counterParity, creadValue_void, coreAt_modCore_same, coreAt_counterParity]

/-- Settles O27, by what CSET, CADD and CREAD do to a counter that is sound, refused or void. -/
theorem counterInstructions : Obligations.CounterInstructions := by
  rintro s core g f n k rfl rfl
  refine ⟨fun i => ⟨fun kept => ?_, fun free => ?_⟩,
    fun i => ⟨fun sound refused => ?_, fun upset => ?_, fun sound free valid => ?add⟩,
    fun i => ⟨fun sound valid => ?_, fun sound invalid => ?_, fun parity h => ?void⟩⟩
  · rw [exec_cset i, doCset_refused kept]
  · exact (exec_cset i).trans (congrArg _ (doCset_sets free))
  · rw [exec_cadd i, doCadd_refused (by rwa [touchCounter_sound sound]), touchCounter_sound sound]
  · have touched := touchCounter_upset upset
    rw [exec_cadd i, doCadd_refused (.inr (by rw [touched, counterAt_counterParity])), touched]
  case add =>
    have after := coreAt_modCore_same s core fun c => retire (putCounter c f.ctr.toNat
      ⟨(counterAt s core.val f.ctr.toNat).value + (getS (coreAt s core.val) f.b).setWidth 32, true, false⟩)
    refine ⟨_, (exec_cadd i).trans (congrArg _ (doCadd_adds sound free valid)), sameButCore_modCore s _ _, ?_,
      (congrArg Core.pc after :), (congrArg Core.s after :), fun j other => ?_⟩
    · rw [counterAt_eq, after]
      exact counterOf_putCounter_same _ _ _
    · rw [counterAt_eq, after]
      exact counterOf_putCounter_other _ _ other
  · rw [exec_cread i, doCread_eq, creadFrom_sound sound, creadValue, if_pos valid]
    rfl
  · rw [exec_cread i, doCread_eq, creadFrom_sound sound, creadValue, if_neg (Bool.eq_false_iff.mp invalid)]
    rfl
  case void =>
    have after := doCread_parity (core := core) h
    refine ⟨_, exec_cread i parity, ?_, ?_, (congrArg Core.pc after :), (doCread_frame s core.val f parity).2⟩
    · rw [counterAt_eq, after]
      exact counterOf_putCounter_same _ _ _
    · rw [after, getS_retire, getS_setS_same]

end Sys2Proof.Machine
end

section
/-! PROOFS. LD, ST, their returns and the writing of posted stores (R175, R176, R192, R310, R312). -/

namespace Sys2Proof.Machine

section
variable {s : State} {core : CoreId} {g : Guard} {f : FieldsI}

theorem exec_ld (h : issues s core.val g (.ld f) = true) : exec (.ld core g f) s = .next (doLd s core.val f) := next_issue h

theorem exec_st (h : issues s core.val g (.st f) = true) : exec (.st core g f) s = .next (doSt s core.val f) := next_issue h

end

/-! ### The bytes that LD and ST access -/

/-- The access of an LD or ST at this core: address and length (Table 5-6). -/
structure Accesses (s : State) (n : Nat) (f : FieldsI) (a k : Nat) : Prop where
  addr : a = (effAddr (coreAt s n) f.a f.imm).toNat
  len : k = if f.fn = 0 then 8 else 4

section
variable {s : State} {n : Nat} {f : FieldsI} {a k : Nat} (acc : Accesses s n f a k)
include acc

theorem Accesses.ofNat : BitVec.ofNat 32 a = effAddr (coreAt s n) f.a f.imm := by
  rw [acc.addr, BitVec.ofNat_toNat, BitVec.setWidth_eq]

theorem Accesses.len_cases : k = 8 ∨ k = 4 := by
  rw [acc.len]
  split
  · exact .inl rfl
  · exact .inr rfl

/-! ### LD (R176, R192) -/

/-- LD in terms of the access. -/
theorem doLd_eq : doLd s n f =
    if a % k != 0 then cpFault s n 2 0 (BitVec.ofNat 32 a)
    else if cpWaits s n a k then s
    else match cpRead s n a k with
      | (s, .error e) => cpFault s n e.1 e.2.1 e.2.2
      | (s, .ok bs) => modCore s n fun c => retire (later c true false f.d (loadValue f.fn.toNat bs)) := by
  have len : k = if f.fn == 0 then 8 else 4 := by simpa using acc.len
  rw [acc.ofNat, acc.addr, len]
  rfl

theorem doLd_misaligned (h : a % k ≠ 0) : doLd s n f = cpFault s n 2 0 (BitVec.ofNat 32 a) := by
  rw [doLd_eq acc, if_pos (bne_iff_ne.mpr h)]

theorem doLd_waits (h : a % k = 0) (w : cpWaits s n a k = true) : doLd s n f = s := by
  rw [doLd_eq acc, if_neg (by simp [h]), if_pos w]

theorem doLd_faults (h : a % k = 0) (w : cpWaits s n a k = false) {u : State} {e : Nat × Nat × W32}
    (r : cpRead s n a k = (u, .error e)) : doLd s n f = cpFault u n e.1 e.2.1 e.2.2 := by
  rw [doLd_eq acc, if_neg (by simp [h]), if_neg (by simp [w]), r]

theorem doLd_reads (h : a % k = 0) (w : cpWaits s n a k = false) {u : State} {bs : List Byte}
    (r : cpRead s n a k = (u, .ok bs)) :
    doLd s n f = modCore u n fun c => retire (later c true false f.d (loadValue f.fn.toNat bs)) := by
  rw [doLd_eq acc, if_neg (by simp [h]), if_neg (by simp [w]), r]

/-! ### ST (R175, R192) -/

/-- ST in terms of the access. -/
theorem doSt_eq : doSt s n f =
    if a % k != 0 then cpFault s n 2 0 (BitVec.ofNat 32 a)
    else if cpStoreBad s n a k then cpFault s n 3 1 (BitVec.ofNat 32 a)
    else modCore s n fun c => retire (postStore c a k (getS c f.d)) := by
  have len : k = if f.fn == 0 then 8 else 4 := by simpa using acc.len
  rw [acc.ofNat, acc.addr, len]
  rfl

theorem doSt_misaligned (h : a % k ≠ 0) : doSt s n f = cpFault s n 2 0 (BitVec.ofNat 32 a) := by
  rw [doSt_eq acc, if_pos (bne_iff_ne.mpr h)]

theorem doSt_refused (h : a % k = 0) (bad : cpStoreBad s n a k = true) :
    doSt s n f = cpFault s n 3 1 (BitVec.ofNat 32 a) := by
  rw [doSt_eq acc, if_neg (by simp [h]), if_pos bad]

theorem doSt_posts (h : a % k = 0) (ok : cpStoreBad s n a k = false) :
    doSt s n f = modCore s n fun c => retire (postStore c a k (getS c f.d)) := by
  rw [doSt_eq acc, if_neg (by simp [h]), if_neg (by simp [ok])]

end

/-! ### What the CP reads (Tables 9-6 and 9-7) -/

section
variable {s : State} {n a k : Nat}

theorem cpWaits_of_readable (h : firstBad s a k (readableKind (coreAt s n).ctx.toNat) = none) :
    cpWaits s n a k = filling s a k := by
  rw [cpWaits, h]
  rfl

theorem cpWaits_of_unreadable (h : (firstBad s a k (readableKind (coreAt s n).ctx.toNat)).isSome = true) :
    cpWaits s n a k = false := by
  rw [cpWaits, ← Option.not_isSome, h]
  rfl

theorem cpRead_unreadable (h : (firstBad s a k (readableKind (coreAt s n).ctx.toNat)).isSome = true) :
    cpRead s n a k = (s, .error (3, 1, BitVec.ofNat 32 a)) := by
  obtain ⟨b, hb⟩ := Option.isSome_iff_exists.mp h
  rw [cpRead, hb]

/-- Outside every ring slot and without an uncorrectable word. -/
theorem cpRead_plain (h : firstBad s a k (readableKind (coreAt s n).ctx.toNat) = none)
    (plain : ringView s a k = ⟨false, false, []⟩) (sound : cpUe s n a k = none) :
    cpRead s n a k = (correctRead s a k, .ok (cpBytes s n a k)) := by
  rw [cpRead, h, plain, sound]
  rfl

end

/-! ### Values return (R139, R176) -/

theorem returnFirst_head {c : Core} {r : Ret} {rest : List Ret} (h : c.rets = r :: rest) {isLoad : Bool}
    (kind : r.isLoad = isLoad) : returnFirst c isLoad = { putS c r.d r.value with rets := rest } := by
  have hit : (r.isLoad == isLoad) = true := by simp [kind]
  have first : (r :: rest).find? (·.isLoad == isLoad) = some r := by rw [List.find?_cons, hit]
  have gone : (r :: rest).eraseP (·.isLoad == isLoad) = rest := by rw [List.eraseP_cons, hit]; rfl
  rw [returnFirst, h, first, gone]

theorem returnFirst_none {c : Core} (h : c.rets = []) (isLoad : Bool) : returnFirst c isLoad = c := by
  rw [returnFirst, h]
  rfl

/-! ### Posted stores are written (R175, R312) -/

theorem storeWritten_none {s : State} {n : Nat} (h : (coreAt s n).stores = []) : storeWritten s n = s := by
  rw [storeWritten, h]

section
variable {s : State} {n : Nat} {a k : Nat} {v : W64} {rest : List (Nat × Nat × W64)}
  (h : (coreAt s n).stores = (a, k, v) :: rest)
include h

theorem storeWritten_waits (fill : filling s a k = true) : storeWritten s n = s := by
  rw [storeWritten, h]
  exact if_pos fill

theorem storeWritten_writes (free : filling s a k = false) :
    storeWritten s n = cupWrite (modCore s n fun c => { c with stores := rest }) a (leBytes k v.toNat) (some n) := by
  rw [storeWritten, h]
  exact if_neg (Bool.eq_false_iff.mp free)

end

theorem length_leBytes (k v : Nat) : (leBytes k v).length = k := by
  induction k generalizing v with
  | zero => rfl
  | succ k ih => rw [leBytes, List.length_cons, ih]

/-- Bytes that lie within a word are written as one. -/
theorem cupWrite_within {s : State} {a : Nat} {bs : List Byte} (core : Option Nat) (nonempty : bs ≠ [])
    (fits : a % 8 + bs.length ≤ 8) : cupWrite s a bs core = writeWord s a bs core := by
  have short : bs.length ≤ 8 - a % 8 := by omega
  obtain ⟨i, hi⟩ := Nat.exists_eq_succ_of_ne_zero (mt List.eq_nil_of_length_eq_zero nonempty)
  rw [cupWrite, hi, writeSpan, if_neg (by simpa using nonempty)]
  dsimp only
  rw [List.take_of_length_le short, List.drop_eq_nil_of_le short]
  rfl

/-- A word, or a part of one that is not uncorrectable, takes the bytes written. -/
theorem writeWord_mem {s : State} {a : Nat} {bs : List Byte} (core : Option Nat)
    (sound : bs.length ≠ 8 → s.ue.contains (a / 8) = false) :
    (writeWord s a bs core).mem = writeBytes s.mem a bs := by
  unfold writeWord
  split
  · rfl
  · next part => rw [if_neg (Bool.eq_false_iff.mp (sound part))]

/-- An aligned store of 8 bytes, or of 4 in a word that is not uncorrectable, is written and leaves the posted ones. -/
theorem storeWritten_puts {s : State} {core : CoreId} {a k : Nat} {v : W64} {rest : List (Nat × Nat × W64)}
    (h : (coreAt s core.val).stores = (a, k, v) :: rest) (free : filling s a k = false) (len : k = 8 ∨ k = 4)
    (aligned : a % k = 0) (sound : k = 4 → s.ue.contains (a / 8) = false) :
    (storeWritten s core.val).mem = writeBytes s.mem a (leBytes k v.toNat) ∧
      (coreAt (storeWritten s core.val) core.val).stores = rest := by
  have count := length_leBytes k v.toNat
  rw [storeWritten_writes h free]
  constructor
  · have nonempty : leBytes k v.toNat ≠ [] := List.ne_nil_of_length_pos (by omega)
    have fits : a % 8 + (leBytes k v.toNat).length ≤ 8 := by rcases len with rfl | rfl <;> omega
    rw [cupWrite_within _ nonempty fits]
    exact writeWord_mem _ fun part => sound (len.resolve_left (count ▸ part))
  · obtain ⟨b, hb⟩ := cupWrite_slicesOnly (modCore s core.val fun c => { c with stores := rest }) a (leBytes k v.toNat)
      (some core.val) core.val
    rw [hb, coreAt_modCore_same]

/-- Settles O24: LD and ST in terms of their access (`doLd_eq`, `doSt_eq`) and of what the CP reads (`cpRead_plain`), returns by
`returnFirst_head`, and posted stores by `storeWritten_puts`. -/
theorem loadsReturnLaterAndStoresArePosted : Obligations.LoadsReturnLaterAndStoresArePosted := by
  rintro s core g f a k _ rfl ha hk
  have acc : Accesses s core.val f a k := ⟨ha, hk⟩
  refine ⟨fun i => ⟨fun h => ?_, fun h readable => ⟨fun fill => ?_, fun free plain sound => ?_⟩, fun u e h w r => ?_,
      fun h bad => ?_⟩,
    fun i => ⟨fun h => ?_, fun h bad => ?_, fun h ok => ?posted⟩,
    fun r rest h => ⟨fun load => ?_, fun alu => ?_⟩, fun h => ⟨?_, ?_⟩, fun h => ?_,
    fun v rest h aligned => ⟨fun fill => ?_, fun free sound => ?written⟩⟩
  · rw [exec_ld i, doLd_misaligned acc h]
  · rw [exec_ld i, doLd_waits acc h ((cpWaits_of_readable readable).trans fill)]
  · rw [exec_ld i, doLd_reads acc h ((cpWaits_of_readable readable).trans free) (cpRead_plain readable plain sound)]
  · rw [exec_ld i, doLd_faults acc h w r]
  · rw [exec_ld i, doLd_faults acc h (cpWaits_of_unreadable bad) (cpRead_unreadable bad)]
  · rw [exec_st i, doSt_misaligned acc h]
  · rw [exec_st i, doSt_refused acc h bad]
  case posted =>
    have after := coreAt_modCore_same s core fun c => retire (postStore c a k (getS c f.d))
    exact ⟨_, (exec_st i).trans (congrArg _ (doSt_posts acc h ok)), sameButCore_modCore s _ _,
      (congrArg Core.stores after :), (congrArg Core.pc after :), (congrArg Core.s after :), (congrArg Core.a after :),
      (congrArg Core.p after :)⟩
  · exact congrArg Host.Outcome.next (modCore_congr (returnFirst_head h load))
  · exact congrArg Host.Outcome.next (modCore_congr (returnFirst_head h alu))
  · exact congrArg Host.Outcome.next (modCore_eq_self (returnFirst_none h true))
  · exact congrArg Host.Outcome.next (modCore_eq_self (returnFirst_none h false))
  · exact congrArg Host.Outcome.next (storeWritten_none h)
  · exact congrArg Host.Outcome.next (storeWritten_waits h fill)
  case written =>
    exact ⟨_, rfl, storeWritten_puts h free acc.len_cases aligned sound⟩

end Sys2Proof.Machine
end

section
/-! PROOFS. What the work on a bulk collective leaves of the Hutch: the note of the latest residue mismatch and the names of the
collectives (R295, R413 to R420). -/

namespace Sys2Proof.Machine

theorem EventsOnly.hut {s t : State} : EventsOnly s t → t.hut = s.hut := by rintro ⟨_, _, _, rfl⟩; rfl

theorem CupboardOnly.hut {s t : State} : CupboardOnly s t → t.hut = s.hut := by rintro ⟨_, _, _, _, _, _, _, rfl⟩; rfl

theorem CupboardOnly.inst {s t : State} : CupboardOnly s t → t.inst = s.inst := by rintro ⟨_, _, _, _, _, _, _, rfl⟩; rfl

@[simp] theorem postReg_hut (s : State) (cls : Nat) (ctx : Option Ctx) (off bitNo : Nat) (detail : W64) :
    (postReg s cls ctx off bitNo detail).hut = s.hut := (postReg_eventsOnly s cls ctx off bitNo detail).hut

@[simp] theorem cupWrite_hut (s : State) (a : Nat) (bs : List Byte) (core : Option Nat) : (cupWrite s a bs core).hut = s.hut :=
  (cupWrite_cupboardOnly s a bs core).hut

theorem selfOf_of_inst {s t : State} (h : t.inst = s.inst) : selfOf t = selfOf s := by
  unfold selfOf table? tableShown
  rw [h]

/-- A unit's reads change neither the Hutch nor the chip's place. -/
theorem readStep_hut_self (s : State) (n u : Nat) (x : QEntry) (reads : List (Nat × Nat)) :
    (readStep s n u x reads).state.hut = s.hut ∧ selfOf (readStep s n u x reads).state = selfOf s := by
  suffices h : (readStep s n u x reads).state.hut = s.hut ∧ (readStep s n u x reads).state.inst = s.inst from
    ⟨h.1, selfOf_of_inst h.2⟩
  have noted := CupboardOnly.foldl (f := fun s r => noteRead s r.1 r.2 (some n) (readerUnit u))
    (fun s r => noteRead_cupboardOnly s r.1 r.2 _ _) reads s
  unfold readStep
  split
  · exact ⟨rfl, rfl⟩
  · dsimp only
    split
    · exact ⟨(postReg_hut _ _ _ _ _ _).trans noted.hut, (postReg_inst _ _ _ _ _ _).trans noted.inst⟩
    · exact ⟨noted.hut, noted.inst⟩

/-! ### The note of a residue mismatch (HUT_RES_ERR, R295) -/

/-- FLAG, ENGINE and GROUP of HUT_RES_ERR. -/
def residueNote (s : State) : Bool × BitVec 2 × BitVec 10 := (s.hut.resFlag, s.hut.resEngine, s.hut.resGroup)

theorem residueNote_of_hut {s t : State} (h : t.hut = s.hut) : residueNote t = residueNote s := by simp only [residueNote, h]

@[simp] theorem residueNote_postReg (s : State) (cls : Nat) (ctx : Option Ctx) (off bitNo : Nat) (detail : W64) :
    residueNote (postReg s cls ctx off bitNo detail) = residueNote s := residueNote_of_hut (postReg_hut s _ _ _ _ _)

@[simp] theorem residueNote_residue (s : State) (engine k grp fmt : Nat) :
    residueNote (residue s engine k grp fmt) = (true, BitVec.ofNat 2 engine, BitVec.ofNat 10 grp) := by
  unfold residue
  dsimp only
  split
  · rw [residueNote_postReg]
    rfl
  · rfl

@[simp] theorem residueNote_inject (s : State) (dest : Coord) (ctx : Nat) (b : Body) :
    residueNote (inject s dest ctx b) = residueNote s := by
  unfold inject forward
  split
  · split
    · rfl
    · split
      · rfl
      · rfl
      · exact residueNote_postReg _ 5 none 0x40004 8 0
  · rfl

@[simp] theorem residueNote_sendColl (s : State) (ctx : Nat) (dest : Coord) (f : CollFrame) :
    residueNote (sendColl s ctx dest f) = residueNote s := residueNote_inject s dest ctx _

@[simp] theorem residueNote_sendAll (s : State) (ds : List Coord) (b : Body) : residueNote (sendAll s ds b) = residueNote s :=
  foldl_keeps residueNote _ (fun s d => residueNote_inject s d 0 b) ds s

@[simp] theorem residueNote_modColl (s : State) (g : Nat) (q : W16) (f : Coll → Coll) :
    residueNote (modColl s g q f) = residueNote s := rfl

@[simp] theorem residueNote_sendGrant (s : State) (c : Coll) (p : Phase) (minus : Bool) (granted : Nat) :
    residueNote (sendGrant s c p minus granted) = residueNote s := residueNote_sendColl s _ _ _

@[simp] theorem residueNote_sendReady (k : Nat) (s : State) (g : Nat) (q : W16) :
    residueNote (sendReady k s g q) = residueNote s := by
  induction k generalizing s with
  | zero => rfl
  | succ k ih =>
    unfold sendReady
    split
    · rfl
    · split
      · rw [ih, residueNote_modColl]
        exact foldl_keeps residueNote _ (fun s f => residueNote_sendColl s _ _ f) _ s
      · rfl

/-! ### Final elements written -/

/-- The group and sequence number that name a collective. -/
def Coll.name (c : Coll) : Nat × W16 := (c.grp, c.seq)

/-- The collectives on this chip may have moved on; of the rest of the Hutch nothing changed, nor which collectives there are. -/
def CollsMoved (s t : State) : Prop :=
  ∃ l, t.hut = { s.hut with colls := l } ∧ l.map Coll.name = s.hut.colls.map Coll.name

theorem CollsMoved.refl (s : State) : CollsMoved s s := ⟨_, rfl, rfl⟩

theorem CollsMoved.trans {s t u : State} : CollsMoved s t → CollsMoved t u → CollsMoved s u := by
  rintro ⟨l, hl, nl⟩ ⟨m, hm, nm⟩
  exact ⟨m, by rw [hm, hl], by rw [nm, hl, nl]⟩

theorem CollsMoved.of_hut {s t : State} (h : t.hut = s.hut) : CollsMoved s t := ⟨s.hut.colls, by rw [h], rfl⟩

theorem modColl_collsMoved (s : State) (g : Nat) (q : W16) {f : Coll → Coll} (h : ∀ c, (f c).name = c.name) :
    CollsMoved s (modColl s g q f) := by
  refine ⟨_, rfl, ?_⟩
  rw [List.map_map]
  refine List.map_congr_left fun c _ => ?_
  rw [Function.comp_apply]
  split
  · exact h c
  · rfl

theorem writeFinal_collsMoved (s : State) (g : Nat) (q : W16) (i : Nat) (xs : List CElem) :
    CollsMoved s (writeFinal s g q i xs) := by
  induction xs generalizing s i with
  | nil => exact .refl s
  | cons x xs ih =>
    unfold writeFinal
    split
    · split
      · refine .trans ?_ (ih _ _)
        exact .trans (.of_hut (cupWrite_hut s _ _ none)) (modColl_collsMoved _ g q fun _ => rfl)
      · exact .refl s
    · exact .refl s

theorem CollsMoved.residueNote {s t : State} : CollsMoved s t → residueNote t = residueNote s := by
  rintro ⟨l, hl, _⟩
  simp only [Machine.residueNote, hl]

@[simp] theorem residueNote_writeFinal (s : State) (g : Nat) (q : W16) (i : Nat) (xs : List CElem) :
    residueNote (writeFinal s g q i xs) = residueNote s := (writeFinal_collsMoved s g q i xs).residueNote

/-! ### Aborts, grants and phases -/

@[simp] theorem residueNote_dropChunks (s : State) (g : Nat) (q : W16) : residueNote (dropChunks s g q) = residueNote s := rfl

@[simp] theorem residueNote_spreadAbort (s : State) (e : GroupEntry) (q : W16) (prio : Bool) (cause : Nat) :
    residueNote (spreadAbort s e q prio cause) = residueNote s := by
  refine (residueNote_sendAll _ _ _).trans ?_
  dsimp only
  split
  · rw [residueNote_postReg]
    rfl
  · rfl

/-- An abort of a bulk collective. -/
@[simp] theorem residueNote_abortColl (s : State) (e : GroupEntry) (q : W16) (cause : Nat) :
    residueNote (abortColl s e q false cause) = residueNote s := by
  unfold abortColl
  split
  · rfl
  · simp

@[simp] theorem residueNote_takeGrant (s : State) (c : Coll) (f : CollFrame) :
    residueNote (takeGrant s c f) = residueNote s := by
  unfold takeGrant
  split
  · split
    · exact residueNote_abortColl s _ _ 1
    · rfl
  · rfl

@[simp] theorem residueNote_heldGrants (s : State) (g : Nat) (q : W16) (code : Nat) :
    residueNote (heldGrants s g q code) = residueNote s := by
  refine foldl_keeps residueNote _ (fun s h => ?_) _ _
  split
  · split
    · rfl
    · exact residueNote_takeGrant s _ _
  · rfl

@[simp] theorem residueNote_beginPhase (s : State) (c : Coll) (p : Phase) :
    residueNote (beginPhase s c p) = residueNote s := by
  unfold beginPhase
  dsimp only
  rw [residueNote_sendReady, residueNote_heldGrants, foldl_keeps residueNote]
  · split
    · rw [residueNote_writeFinal, residueNote_modColl]
    · rfl
  · intro s m
    split
    · exact residueNote_sendGrant s _ _ _ _
    · rfl

@[simp] theorem residueNote_advance (k : Nat) (s : State) (g : Nat) (q : W16) :
    residueNote (advance k s g q) = residueNote s := by
  induction k generalizing s with
  | zero => rfl
  | succ k ih =>
    unfold advance
    split
    · rfl
    · split
      · rfl
      · split
        · rfl
        · dsimp only
          split
          · rw [residueNote_modColl]
            split
            · rw [residueNote_writeFinal, residueNote_modColl]
            · rfl
          · split
            · rw [ih, residueNote_beginPhase, residueNote_modColl]
            · rfl

@[simp] theorem residueNote_runColl (s : State) (g : Nat) (q : W16) : residueNote (runColl s g q) = residueNote s := by
  refine (residueNote_advance 9 _ g q).trans ?_
  split
  · exact residueNote_sendReady _ s g q
  · rfl

/-! ### Chunks -/

@[simp] theorem residueNote_feedEngines (k : Nat) (s : State) : residueNote (feedEngines k s) = residueNote s := by
  induction k generalizing s with
  | zero => rfl
  | succ k ih =>
    unfold feedEngines
    split
    · exact ih _
    · rfl

@[simp] theorem residueNote_workChunk (s : State) (c : Coll) (p : Phase) (f : CollFrame) (bad : Bool) :
    residueNote (workChunk s c p f bad) = residueNote s := by
  unfold workChunk
  split
  · rfl
  · dsimp only
    split
    · split
      · rfl
      · rfl
    · exact residueNote_writeFinal _ _ _ _ _

end Sys2Proof.Machine
end

section
/-! PROOFS. The start of a bulk collective (R229, R413, R420). -/

namespace Sys2Proof.Machine

/-! ### The instruction at the head of a unit -/

section
variable {s : State} {core : CoreId} {unit : Fin 4} (mismatch again : Bool)

theorem exec_collectiveStart (s : State) (core : CoreId) (unit : Fin 4) (mismatch again : Bool) :
    exec (.collectiveStart core ⟨unit, mismatch, again⟩) s = .next (collectiveStart s core.val unit.val mismatch again) := rfl

theorem collectiveStart_empty (h : ((coreAt s core.val).units.toList.getD unit.val CUnit.empty).queue = []) :
    collectiveStart s core.val unit.val mismatch again = s := by
  rw [collectiveStart, h]

variable {x : QEntry} {r : List QEntry} {i : Isa} {d a b c e : Option TD} {z : W64}
  (head : ((coreAt s core.val).units.toList.getD unit.val CUnit.empty).queue = x :: r) (work : x.work = .op i d a b c e z)
include head work

/-- An instruction that has not started, or whose collective has, starts none. -/
theorem collectiveStart_unready (h : x.started = false ∨ x.coll.isSome = true) :
    collectiveStart s core.val unit.val mismatch again = s := by
  have unready : (!x.started || x.coll.isSome) = true := by simpa using h
  simp only [collectiveStart, head, work]
  split
  · rfl
  · exact if_pos (by rw [unready, Bool.true_or])

variable {k : GroupEntry} (group : (grpOf i).bind (groupOf s) = some k)
include group

/-- An instruction waits for the collective of its group and class that is under way. -/
theorem collectiveStart_waits (busy : classBusy s k.id (isCpri x) = true) :
    collectiveStart s core.val unit.val mismatch again = s := by
  simp only [collectiveStart, head, work, group]
  exact if_pos (by rw [busy, Bool.or_true])

variable (started : x.started = true) (fresh : x.coll = none) (free : classBusy s k.id (isCpri x) = false)
include started fresh free

/-- An operand in a sealed slot to which the context is not bound faults. -/
theorem collectiveStart_faults (refused : (readStep s core.val unit.val x (ownReads i ⟨d, a, b, c, e⟩)).refused = true) :
    collectiveStart s core.val unit.val mismatch again = unitFault s core.val unit.val 4 1 x.pc 0 := by
  simp only [collectiveStart, head, work, group]
  rw [if_neg (by simp [started, fresh, free]), if_pos refused]

end

/-! ### The number that a bulk collective takes (R413) -/

theorem nextSeqs_of_hut {s t : State} (h : t.hut.seqs = s.hut.seqs) (g : Nat) : nextSeqs t g = nextSeqs s g := by
  simp only [nextSeqs, h]

theorem nextSeqs_setSeqs (s : State) (g : Nat) (v : W16 × W16) : nextSeqs (setSeqs s g v) g = v := by
  simp [nextSeqs, setSeqs]

theorem pruneAborts_seqs (s : State) (g : Nat) (q : W16) (prio : Bool) : (pruneAborts s g q prio).hut.seqs = s.hut.seqs := rfl

/-- The group's next bulk number is taken, and an abort half the range away forgotten. -/
def numberTaken (s : State) (g : Nat) : State :=
  pruneAborts (setSeqs s g ((nextSeqs s g).1 + 1, (nextSeqs s g).2)) g (nextSeqs s g).1 false

theorem nextSeqs_numberTaken (s : State) (g : Nat) : (nextSeqs (numberTaken s g) g).1 = (nextSeqs s g).1 + 1 := by
  rw [numberTaken, nextSeqs_of_hut (pruneAborts_seqs _ _ _ _), nextSeqs_setSeqs]

/-- Taking a number records no abort. -/
theorem numberTaken_abortsSeen {s : State} {g : Nat} {a : Nat × W16 × Bool} (h : s.hut.abortsSeen.contains a = false) :
    (numberTaken s g).hut.abortsSeen.contains a = false := by
  simp only [List.contains_eq_mem, decide_eq_false_iff_not] at h ⊢
  exact fun m => h (List.mem_filter.mp m).1

/-- A CALL's entry as its collective starts: it has no tiles, and its group and number name the collective. -/
def callEntry (x : QEntry) (g : Nat) (q : W16) : QEntry := { x with loads := 0, streams := 0, coll := some (g, q) }

/-- The state in which a CALL's collective has its number, with its entry `x` at the head of the unit's queue. -/
def callNumbered (s : State) (n u g : Nat) (x : QEntry) (r : List QEntry) : State :=
  modCore (numberTaken s g) n fun c => modUnit c u fun y => { y with queue := x :: r }

/-- A CALL whose operand may be read takes the group's next number, and its collective starts. -/
theorem collectiveStart_call {s : State} {core : CoreId} {unit : Fin 4} (mismatch again : Bool) {x y : QEntry} {r : List QEntry}
    {l : FieldsCL} {d a b c e : Option TD} {z : W64} {k : GroupEntry} {p : StepOut}
    (head : ((coreAt s core.val).units.toList.getD unit.val CUnit.empty).queue = x :: r)
    (work : x.work = .op (.call l) d a b c e z) (group : groupOf s l.grp.toNat = some k) (started : x.started = true)
    (fresh : x.coll = none) (free : classBusy s k.id false = false)
    (read : readStep s core.val unit.val x (ownReads (.call l) ⟨d, a, b, c, e⟩) = p) (readable : p.refused = false)
    (entry : callEntry p.entry k.id (nextSeqs p.state k.id).1 = y) :
    collectiveStart s core.val unit.val mismatch again =
      startBulk (callNumbered p.state core.val unit.val k.id y r) core.val unit.val k (nextSeqs p.state k.id).1 y (.call l)
        ⟨d, a, b, c, e⟩ := by
  have bulk : isCpri x = false := by simp [isCpri, work]
  have group : (grpOf (.call l)).bind (groupOf s) = some k := group
  simp only [collectiveStart, head, work, group]
  rw [if_neg (by simp [started, fresh, free, bulk]), read, if_neg (by simp [readable]), bulk, ← entry]
  rfl

/-! ### A group whose rings have one member each -/

/-- Without rings there are no phases. -/
theorem phasesOf_nil (shape e : Nat) : phasesOf shape e [] = [] := by
  unfold phasesOf
  split <;> rfl

/-- `t` has a finished collective of a group and sequence number, and its other numbers are as in `s`. -/
def FinishedAtOnce (s t : State) (g : Nat) (q : W16) : Prop :=
  t.hut.seqs = s.hut.seqs ∧ ∃ y ∈ t.hut.colls, y.grp = g ∧ y.seq = q ∧ y.finished = true

/-- The last step of a collective finishes it. -/
theorem modColl_finishes {s t : State} {g : Nat} {q : W16} (moved : CollsMoved s t) (there : (g, q) ∈ s.hut.colls.map Coll.name) :
    FinishedAtOnce s (modColl t g q fun c => { c with finished := true }) g q := by
  obtain ⟨l, hut, names⟩ := moved
  rw [← names] at there
  obtain ⟨c, mem, name⟩ := List.mem_map.mp there
  obtain ⟨rfl, rfl⟩ := Prod.mk.inj name
  refine ⟨(congrArg Hut.seqs hut :), { c with finished := true }, ?_, rfl, rfl, rfl⟩
  exact List.mem_map.mpr ⟨c, by rw [hut]; exact mem, if_pos (by simp [sameColl])⟩

/-- A collective among those of this chip. -/
def collEntered (s : State) (c : Coll) : State := { s with hut := { s.hut with colls := s.hut.colls ++ [c] } }

/-- A collective without phases that no abort has met is finished as it enters. -/
theorem enterColl_finishes {s : State} {k : GroupEntry} {c : Coll} (grp : c.grp = k.id) (phases : c.phases = []) :
    FinishedAtOnce s (enterColl s k false false c) k.id c.seq := by
  have there : (k.id, c.seq) ∈ (collEntered s c).hut.colls.map Coll.name := by simp [collEntered, Coll.name, grp]
  have written : enterColl s k false false c =
      modColl (writeFinal (collEntered s c) k.id c.seq 0 c.data) k.id c.seq fun c => { c with finished := true } := by
    rw [enterColl, phases]
    rfl
  rw [written]
  exact (modColl_finishes (writeFinal_collsMoved (collEntered s c) k.id c.seq 0 c.data) there :)

theorem startBulk_call_finishes {s : State} {k : GroupEntry} {q : W16} (n u : Nat) (x : QEntry) (l : FieldsCL) (da ta : TD)
    (b c e : Option TD) (rings : groupRings k.single k.members k.order (selfOf s) = [])
    (unaborted : s.hut.abortsSeen.contains (k.id, q, false) = false) :
    FinishedAtOnce s (startBulk s n u k q x (.call l) ⟨some da, some ta, b, c, e⟩) k.id q := by
  unfold startBulk
  simp only [scatterLocal, planOf, rings, phasesOf_nil, List.isEmpty_nil, if_true, Option.any_none]
  split
  · simp only [State.drawn_hut, unaborted]
    exact enterColl_finishes rfl rfl
  · simp only [unaborted]
    exact enterColl_finishes rfl rfl

/-- A CALL in a group whose rings have one member each takes its number and is finished at once. -/
theorem collectiveStart_call_finishes {s : State} {core : CoreId} {unit : Fin 4} (mismatch again : Bool) {x : QEntry}
    {r : List QEntry} {l : FieldsCL} {da ta : TD} {b c e : Option TD} {z : W64} {k : GroupEntry}
    (head : ((coreAt s core.val).units.toList.getD unit.val CUnit.empty).queue = x :: r)
    (work : x.work = .op (.call l) (some da) (some ta) b c e z) (group : groupOf s l.grp.toNat = some k)
    (started : x.started = true) (fresh : x.coll = none) (free : classBusy s k.id false = false)
    (readable : (readStep s core.val unit.val x (ownReads (.call l) ⟨some da, some ta, b, c, e⟩)).refused = false)
    (rings : groupRings k.single k.members k.order (selfOf s) = [])
    (unaborted : s.hut.abortsSeen.contains (k.id, (nextSeqs s k.id).1, false) = false) :
    ∃ t, collectiveStart s core.val unit.val mismatch again = t ∧ (nextSeqs t k.id).1 = (nextSeqs s k.id).1 + 1 ∧
      ∃ y ∈ t.hut.colls, y.grp = k.id ∧ y.seq = (nextSeqs s k.id).1 ∧ y.finished = true := by
  obtain ⟨hut, self⟩ := readStep_hut_self s core.val unit.val x (ownReads (.call l) ⟨some da, some ta, b, c, e⟩)
  generalize read : readStep s core.val unit.val x (ownReads (.call l) ⟨some da, some ta, b, c, e⟩) = p at hut self readable
  have next := nextSeqs_of_hut (congrArg Hut.seqs hut) k.id
  refine ⟨_, collectiveStart_call mismatch again head work group started fresh free read readable rfl, ?_⟩
  rw [next]
  have finished := startBulk_call_finishes (s := callNumbered p.state core.val unit.val k.id
      (callEntry p.entry k.id (nextSeqs s k.id).1) r) (k := k) (q := (nextSeqs s k.id).1)
    core.val unit.val (callEntry p.entry k.id (nextSeqs s k.id).1) l da ta b c e (self ▸ rings)
    (numberTaken_abortsSeen (hut ▸ unaborted))
  obtain ⟨seqs, there⟩ := finished
  exact ⟨by rw [nextSeqs_of_hut seqs, ← next]; exact nextSeqs_numberTaken p.state k.id, there⟩

end Sys2Proof.Machine
end

section
/-! PROOFS. Bulk collectives under way: GRANTs, chunks and engines, aborts, the group table's copy and the Hutch's clear bits (R294,
R295, R410, R414 to R420). -/

namespace Sys2Proof.Machine

/-! ### GRANTs (R414) -/

theorem exec_grant (src : Coord) (f : CollFrame) (s : State) : exec (.grant src f) s = .next (grantFrame s src f) := rfl

/-- A GRANT kept for the phase that it is for. -/
def grantHeld (s : State) (src : Coord) (f : CollFrame) : State :=
  { s with hut := { s.hut with grants := s.hut.grants ++ [(src, f)] } }

section
variable {s : State} {f : CollFrame} (src : Coord)

theorem grantFrame_unknown (group : groupOf s f.grp = none) : grantFrame s src f = s := by
  rw [grantFrame, group]

variable {k : GroupEntry} (group : groupOf s f.grp = some k)
include group

/-- A GRANT for the collective that this chip starts next. -/
theorem grantFrame_next (unstarted : collAt s f.grp f.seq = none) (next : (nextSeqs s f.grp).1 = f.seq)
    (unaborted : s.hut.abortsSeen.contains (f.grp, f.seq, false) = false) : grantFrame s src f = grantHeld s src f := by
  have ahead : seqAhead (nextSeqs s f.grp).1 f.seq = 0 := by simp [seqAhead, next]
  simp only [grantFrame, group, unstarted]
  rw [if_pos ahead, unaborted]
  rfl

variable {c : Coll} {p : Phase} {r : List Phase} (coll : collAt s f.grp f.seq = some c) (phases : c.phases = p :: r)
include coll phases

theorem grantFrame_current (now : f.phase = p.code) : grantFrame s src f = runColl (takeGrant s c f) f.grp f.seq := by
  simp [grantFrame, group, coll, phases, now]

theorem grantFrame_later (other : f.phase ≠ p.code) (later : ∃ z ∈ r, z.code = f.phase) :
    grantFrame s src f = grantHeld s src f := by
  simp only [grantFrame, group, coll, phases]
  rw [if_neg (by simp [other]), if_pos (by simpa using later)]
  rfl

end

/-! ### Chunks and free engines (R418) -/

theorem exec_collChunk (src : Coord) (f : CollFrame) (s : State) : exec (.collChunk src f) s = .next (chunkLands s src f) := rfl

/-- A chunk behind those that wait for an engine. -/
def chunkWaiting (s : State) (src : Coord) (f : CollFrame) : State :=
  { s with hut := { s.hut with waiting := s.hut.waiting ++ [(src, f)] } }

theorem feedEngines_idle (n : Nat) {s : State} (h : s.hut.waiting = []) : feedEngines n s = s := by
  cases n with
  | zero => rfl
  | succ n => rw [feedEngines, h]

/-- With every engine at work nothing is taken. -/
theorem feedEngines_full (n : Nat) {s : State} (h : ∀ i < 4, (s.hut.engines.toList.getD i none).isSome = true) :
    feedEngines n s = s := by
  cases n with
  | zero => rfl
  | succ n =>
    have none_free : ((List.range 4).find? fun i => (s.hut.engines.toList.getD i none).isNone) = none := by
      rw [List.find?_eq_none]
      intro i hi
      rw [Option.isNone_eq_false_iff.mpr (h i (List.mem_range.mp hi))]
      exact Bool.false_ne_true
    rw [feedEngines, none_free]
    split
    · contradiction
    · rfl

/-- The first engine takes the only chunk. -/
theorem feedEngines_first (n : Nat) {s : State} {w : Coord × CollFrame} (waiting : s.hut.waiting = [w])
    (free : s.hut.engines.toList.getD 0 none = none) : feedEngines (n + 1) s =
      { s with hut := { s.hut with waiting := [], engines := vmod s.hut.engines 0 fun _ => some w } } := by
  have first : ((List.range 4).find? fun i => (s.hut.engines.toList.getD i none).isNone) = some 0 :=
    List.find?_cons_of_pos (Option.isNone_iff_eq_none.mpr free)
  rw [feedEngines, waiting, first]
  exact feedEngines_idle n rfl

section
variable {s : State} {f : CollFrame} (src : Coord)

theorem chunkLands_unknown (coll : collAt s f.grp f.seq = none) : chunkLands s src f = s := by
  rw [chunkLands, coll]

variable {c : Coll} {p : Phase} {r : List Phase} (coll : collAt s f.grp f.seq = some c) (phases : c.phases = p :: r)
include coll phases

/-- A chunk of another phase, or from another chip than the right neighbour, does nothing. -/
theorem chunkLands_stray (h : f.phase ≠ p.code ∨ src ≠ (if f.minus then p.plus else p.minus)) : chunkLands s src f = s := by
  simp only [chunkLands, coll, phases]
  refine if_neg fun ok => ?_
  simp only [Bool.and_eq_true, beq_iff_eq] at ok
  obtain ⟨⟨⟨now, _⟩, _⟩, neighbour⟩ := ok
  exact h.elim (fun other => other now) fun other => other neighbour

/-- A chunk of the phase in progress from the right neighbour waits for an engine, and engines that are free take what waits. -/
theorem chunkLands_taken (now : f.phase = p.code) (on : dirOn p f.minus = true) (typ : f.typ = if p.reduce then 0 else 1)
    (neighbour : src = if f.minus then p.plus else p.minus) :
    chunkLands s src f = feedEngines 4 (chunkWaiting s src f) := by
  simp only [chunkLands, coll, phases]
  exact if_pos (by simp [now, on, typ, neighbour])

end

/-! ### The engines (R294, R295, R418, R429) -/

theorem exec_engineDone (engine : Fin 4) (mismatch again : Bool) (s : State) :
    exec (.engineDone engine mismatch again) s = .next (engineDone s engine.val mismatch again) := rfl

/-- An engine without a chunk. -/
def engineFreed (s : State) (engine : Nat) : State :=
  { s with hut := { s.hut with engines := vmod s.hut.engines engine fun _ => none } }

/-- A chunk done with: its sum or copy goes on, and its buffer is granted again. -/
def chunkDone (s : State) (c : Coll) (p : Phase) (f : CollFrame) (bad : Bool) : State :=
  let s := modColl (workChunk s c p f bad) f.grp f.seq fun c =>
    c.modWay f.minus fun z => { z with got := z.got + 1, gave := z.gave + 1 }
  feedEngines 4 (runColl (sendGrant s c p f.minus ((c.way f.minus).gave + 1)) f.grp f.seq)

section
variable {s : State} {engine : Fin 4} (mismatch again : Bool)

theorem engineDone_empty (h : s.hut.engines.toList.getD engine.val none = none) :
    engineDone s engine.val mismatch again = s := by
  simp only [engineDone, h]

variable {w : Coord × CollFrame} (held : s.hut.engines.toList.getD engine.val none = some w)
include held

/-- The chunk of a collective that this chip does not know any more leaves the engine. -/
theorem engineDone_unknown (coll : collAt s w.2.grp w.2.seq = none) (waiting : s.hut.waiting = []) :
    engineDone s engine.val mismatch again = engineFreed s engine.val := by
  have coll : collAt (engineFreed s engine.val) w.2.grp w.2.seq = none := coll
  have freed : engineDone s engine.val mismatch again = feedEngines 4 (engineFreed s engine.val) := by
    simp only [engineDone, held]
    rw [← engineFreed, coll]
  exact freed.trans (feedEngines_idle 4 waiting)

variable {c : Coll} {p : Phase} {r : List Phase} (coll : collAt s w.2.grp w.2.seq = some c) (phases : c.phases = p :: r)
  (now : w.2.phase = p.code)
include coll phases now

theorem engineDone_sound : engineDone s engine.val false again = chunkDone (engineFreed s engine.val) c p w.2 false := by
  have coll : collAt (engineFreed s engine.val) w.2.grp w.2.seq = some c := coll
  simp only [engineDone, held]
  rw [← engineFreed]
  simp only [coll, phases]
  rw [if_neg (by simp [now])]
  rfl

/-- A residue mismatch of a chunk's additions is noted with its engine and group. -/
theorem engineDone_mismatch (reduce : p.reduce = true) :
    residueNote (engineDone s engine.val true again) = (true, BitVec.ofNat 2 engine.val, BitVec.ofNat 10 w.2.grp) := by
  have coll : collAt (engineFreed s engine.val) w.2.grp w.2.seq = some c := coll
  simp only [engineDone, held]
  rw [← engineFreed]
  simp only [coll, phases]
  rw [if_neg (by simp [now]), reduce]
  simp

end

/-! ### Aborts, the group table and the HUT registers (R410, R415, R432) -/

theorem exec_abortFrame_unknown {s : State} {b : AbortFrame} (src : Coord) (h : groupOf s b.grp = none) :
    exec (.abortFrame src b) s = .next s := by
  have aborts : exec (.abortFrame src b) s = execAbortFrame src b s := rfl
  rw [aborts, execAbortFrame, h]

theorem exec_abortFrame_known {s : State} {b : AbortFrame} {k : GroupEntry} (src : Coord) (h : groupOf s b.grp = some k) :
    exec (.abortFrame src b) s = .next (abortColl s k b.seq b.prio b.cause) := by
  have aborts : exec (.abortFrame src b) s = execAbortFrame src b s := rfl
  rw [aborts, execAbortFrame, h]

/-- The copied table is in use. -/
theorem exec_groupTableCopyEnd {s : State} {l : List GroupEntry} (h : s.hut.copying = some l) :
    ∃ t, exec .groupTableCopyEnd s = .next t ∧ t = { s with hut := t.hut } ∧ t.hut.groups = l ∧ t.hut.copying = none ∧
      t.hut.loaded = true := by
  have ends : exec .groupTableCopyEnd s = .next (copyEnd s) := rfl
  rw [ends, copyEnd, h]
  exact ⟨_, rfl, rfl, rfl, rfl, rfl⟩

section
variable {s : State} {via : Via} (hw : mayWrite s via = true) (on : domainOn s 30 = true) (v : W32)
include hw on

theorem exec_abortClr : exec (.abortClr via v) s = .next (hutCtlWrite s (v ||| 0x20000)) :=
  congrArg Host.Outcome.next (guarded_accepted _ hw on)

theorem exec_ovfClr : exec (.ovfClr via v) s = .next (exactWrite s (v ||| 0x10000)) :=
  congrArg Host.Outcome.next (guarded_accepted _ hw on)

end

/-- A write of HUT_EXACT_CFG with SCALE as it stands and its clear bit set. -/
theorem exactWrite_clears {s : State} {v : W32} (same : bits (regValue s .pf 0x40010) 0 8 = bits v 0 8) :
    exactWrite s (v ||| 0x10000) = { s with hut := { s.hut with ovfCnt := 0, evtOvf := bit v 8 } } := by
  have scale : ((v ||| 0x10000).setWidth 8 : Byte).toNat = bits v 0 8 := by
    have high : ((0x10000 : W32).setWidth 8 : Byte) = 0#8 := rfl
    rw [BitVec.setWidth_or, high, BitVec.or_zero, BitVec.setWidth_eq_extractLsb' (by decide), bits]
  have still : (bits (regValue s .pf 0x40010) 0 8 != ((v ||| 0x10000).setWidth 8 : Byte).toNat) = false := by
    rw [same, scale, bne_self_eq_false]
  have clear : bit (v ||| 0x10000) 16 = true := by simp [bit]
  have event : bit (v ||| 0x10000) 8 = bit v 8 := by simp [bit]
  unfold exactWrite
  dsimp only
  rw [still, clear, event]
  rfl

/-- Settles O43: a CALL by `collectiveStart_call_finishes`, GRANTs and chunks by the collective and phase that they are for, engines
by `engineDone_sound` and `engineDone_mismatch`, whose note of the mismatch the rest of the Hutch's work keeps. -/
theorem bulkCollectivesMove : Obligations.BulkCollectivesMove := by
  intro s core unit src f engine mismatch again b via v
  simp only [exec_collectiveStart, exec_grant, exec_collChunk, exec_engineDone]
  refine ⟨fun x r i d a b c e z head work =>
      ⟨fun unready => ?_, fun k started fresh group => ⟨fun busy => ?_, fun free refused => ?_⟩⟩,
    fun x r l d a b c e z da ta head work hd ha started fresh readable k group id free rings unaborted => ?call,
    fun empty => ?_, fun group => ?_, fun k group unstarted next unaborted => ?_,
    fun k c p r group coll phases => ⟨fun now => ?_, fun other later => ?_⟩, fun coll => ?_,
    fun c p r coll phases => ⟨fun stray => ?_, fun now on typ neighbour =>
      ⟨fun waiting free => ?first, fun full => ?full⟩⟩,
    fun empty => ?_, fun w held coll waiting => ?_,
    fun w c p r held coll phases now => ⟨fun u hu => ?sound, fun reduce => ?mismatch⟩,
    fun group => ?_, fun k group => ?_, fun l copying => ?_, fun hw on => ⟨?aborts, fun same => ?overflows⟩⟩
  · exact congrArg _ (collectiveStart_unready mismatch again head work unready)
  · exact congrArg _ (collectiveStart_waits mismatch again head work group busy)
  · exact congrArg _ (collectiveStart_faults mismatch again head work group started fresh free refused)
  case call =>
    subst hd ha
    obtain ⟨t, starts, taken, finished⟩ :=
      collectiveStart_call_finishes mismatch again head work group started fresh free readable rings unaborted
    exact ⟨t, congrArg _ starts, taken, finished⟩
  · exact congrArg _ (collectiveStart_empty mismatch again empty)
  · exact congrArg _ (grantFrame_unknown src group)
  · exact congrArg _ (grantFrame_next src group unstarted next unaborted)
  · exact congrArg _ (grantFrame_current src group coll phases now)
  · exact congrArg _ (grantFrame_later src group coll phases other later)
  · exact congrArg _ (chunkLands_unknown src coll)
  · exact congrArg _ (chunkLands_stray src coll phases stray)
  case first =>
    have one : (chunkWaiting s src f).hut.waiting = [(src, f)] := congrArg (· ++ [(src, f)]) waiting
    rw [chunkLands_taken src coll phases now on typ neighbour, feedEngines_first 3 one free, chunkWaiting, waiting]
  case full =>
    exact congrArg _ ((chunkLands_taken src coll phases now on typ neighbour).trans (feedEngines_full 4 full))
  · exact congrArg _ (engineDone_empty mismatch again empty)
  · exact congrArg _ (engineDone_unknown mismatch again held coll waiting)
  case sound =>
    subst hu
    exact congrArg _ (engineDone_sound again held coll phases now)
  case mismatch =>
    have note := engineDone_mismatch again held coll phases now reduce
    simp only [residueNote, Prod.mk.injEq] at note
    exact ⟨_, rfl, note⟩
  · exact exec_abortFrame_unknown src group
  · exact exec_abortFrame_known src group
  · exact exec_groupTableCopyEnd copying
  case aborts =>
    have clear : bit (v ||| 0x20000) 17 = true := by simp [bit]
    exact ⟨_, exec_abortClr hw on v, rfl, if_pos clear, rfl⟩
  case overflows =>
    rw [exec_ovfClr hw on, exactWrite_clears same]
    exact ⟨_, rfl, rfl, rfl, rfl⟩

end Sys2Proof.Machine
end

section
/-! PROOFS. Priority collectives: values combined on the way up and spread on the way down (R294, R295, R424, R425, R429). -/

namespace Sys2Proof.Machine

/-! ### Values combined (R294, R424) -/

theorem combine_sum (x y : W64) : (combine 1 x y).1 = x + y := rfl

theorem combine_min_toInt (x y : W64) : (combine 2 x y).1.toInt = min x.toInt y.toInt := by
  simp only [combine, Int.min_def, apply_ite BitVec.toInt]

theorem combine_max_toInt (x y : W64) : (combine 3 x y).1.toInt = max x.toInt y.toInt := by
  simp only [combine, Int.max_def, apply_ite BitVec.toInt]

/-- A value that joins an entry which holds one. -/
theorem Combine.add_held {b : Combine} (v : W64) (poison ovf : Bool) (heard : b.heard ≠ 0) :
    b.add v poison ovf = { b with
      value := (combine b.op b.value v).1, poison := b.poison || poison,
      ovf := b.ovf || ovf || (combine b.op b.value v).2 } :=
  if_neg (by simp [heard])

/-- A value joins an entry that keeps its number and this chip's CPRI. -/
theorem Combine.add_keeps (b : Combine) (v : W64) (poison ovf : Bool) :
    (b.add v poison ovf).seq = b.seq ∧ (b.add v poison ovf).joined = b.joined := by
  unfold Combine.add
  split
  · exact ⟨rfl, rfl⟩
  · exact ⟨rfl, rfl⟩

/-! ### The residue check of an addition (R294, R295, R429) -/

theorem addChecked_sound (s : State) (b : Combine) (v : W64) (poison ovf again : Bool) :
    addChecked s b v poison ovf false again = (s, b.add v poison ovf) := rfl

/-- A mismatch of a SUM that stays: with no retry, or after a retry that fails too. -/
theorem addChecked_mismatch {s : State} {b : Combine} {again : Bool} (v : W64) (poison ovf : Bool) (sum : b.op = 1)
    (heard : b.heard ≠ 0) (stays : s.hut.resRetry = false ∨ again = true) :
    addChecked s b v poison ovf true again =
      (residue (s.drawn 2) (Config.freeNat s.draw % 4) (1 + boolNat (s.hut.resRetry && again)) b.grp 7,
        { b.add v poison ovf with value := Config.freeWord (s.draw + 1), poison := true }) := by
  have bad : (s.hut.resRetry && !again) = false := by rcases stays with h | h <;> simp [h]
  unfold addChecked
  dsimp only
  rw [if_neg (by simp [sum, heard]), bad]
  rfl

theorem addChecked_joined (s : State) (b : Combine) (v : W64) (poison ovf mismatch again : Bool) :
    (addChecked s b v poison ovf mismatch again).2.joined = b.joined := by
  unfold addChecked
  dsimp only
  split
  · exact (b.add_keeps v poison ovf).2
  · split
    · exact (b.add_keeps v poison ovf).2
    · exact (b.add_keeps v poison ovf).2

/-! ### An entry stored -/

theorem mem_setCombine (s : State) (b : Combine) : b ∈ (setCombine s b).hut.combines := List.mem_cons_self

/-- An entry that this chip has not joined only holds its value (R425). -/
theorem combineStep_unjoined (s : State) (e : GroupEntry) {b : Combine} (h : b.joined = none) :
    combineStep s e b = setCombine s b := by
  simp only [combineStep, h]

/-! ### UP (R424, R425, Table 12-7) -/

theorem exec_up (src : Coord) (f : CpriFrame) (mismatch again : Bool) (s : State) :
    exec (.up src ⟨f, mismatch, again⟩) s = .next (upFrame s src f mismatch again) := rfl

section
variable {s : State} {src : Coord} {f : CpriFrame} (mismatch again : Bool)

theorem upFrame_unknown (group : groupOf s f.grp = none) : upFrame s src f mismatch again = s := by
  rw [upFrame, group]

variable {e : GroupEntry} (group : groupOf s f.grp = some e)
include group

/-- An UP of a chip that is no child, or for a CPRI aborted already. -/
theorem upFrame_stray (stray : (treeChildren e.single e.members e.order (selfOf s)).contains src = false ∨
    s.hut.abortsSeen.contains (f.grp, f.seq, true) = true) : upFrame s src f mismatch again = s := by
  simp only [upFrame, group]
  exact if_pos (by rcases stray with h | h <;> simp only [h, Bool.not_false, Bool.true_or, Bool.or_true])

variable (child : (treeChildren e.single e.members e.order (selfOf s)).contains src = true)
  (unaborted : s.hut.abortsSeen.contains (f.grp, f.seq, true) = false)
include child unaborted

theorem upFrame_ahead (slot : combineSlot s f.grp f.seq = none) (far : 2 ≤ (f.seq - (nextSeqs s f.grp).2).toNat) :
    upFrame s src f mismatch again = s := by
  simp only [upFrame, group, child, unaborted, slot, Bool.not_true, Bool.or_false, Bool.false_eq_true, if_false]
  exact if_pos far

/-- The first UP for a number within reach opens the group's entry. -/
theorem upFrame_opens (slot : combineSlot s f.grp f.seq = none) (near : (f.seq - (nextSeqs s f.grp).2).toNat ≤ 1) :
    upFrame s src f mismatch again = setCombine s ⟨f.grp, f.seq, f.op, f.value, 1, f.poison, f.ovf, none, false⟩ := by
  simp only [upFrame, group, child, unaborted, slot, Bool.not_true, Bool.or_false, Bool.false_eq_true, if_false]
  exact (if_neg (Nat.not_lt.mpr near)).trans (combineStep_unjoined s e rfl)

variable {b : Combine} (slot : combineSlot s f.grp f.seq = some b)
include slot

theorem upFrame_clashes (other : b.seq ≠ f.seq ∨ b.op ≠ f.op) :
    upFrame s src f mismatch again = abortColl s e b.seq true 1 := by
  simp only [upFrame, group, child, unaborted, slot, Bool.not_true, Bool.or_false, Bool.false_eq_true, if_false]
  exact if_pos (by simpa using other)

variable (seq : b.seq = f.seq) (op : b.op = f.op)
include seq op

/-- A further UP of the same CPRI: its value passes the checked adder into the entry. -/
theorem upFrame_combines : upFrame s src f mismatch again =
    combineStep (addChecked s b f.value f.poison f.ovf mismatch again).1 e
      { (addChecked s b f.value f.poison f.ovf mismatch again).2 with heard := b.heard + 1 } := by
  simp only [upFrame, group, child, unaborted, slot, Bool.not_true, Bool.or_false, Bool.false_eq_true, if_false]
  exact if_neg (by simp [seq, op])

/-- The adder's check holds. -/
theorem upFrame_sound : upFrame s src f false again =
    combineStep s e { b.add f.value f.poison f.ovf with heard := b.heard + 1 } :=
  upFrame_combines false again group child unaborted slot seq op

variable (unjoined : b.joined = none)
include unjoined

/-- Before this chip's own CPRI the entry holds what its children sent, combined. -/
theorem upFrame_unjoined : upFrame s src f mismatch again =
    setCombine (addChecked s b f.value f.poison f.ovf mismatch again).1
      { (addChecked s b f.value f.poison f.ovf mismatch again).2 with heard := b.heard + 1 } :=
  (upFrame_combines mismatch again group child unaborted slot seq op).trans
    (combineStep_unjoined _ e ((addChecked_joined s b _ _ _ mismatch again).trans unjoined))

variable (heard : b.heard ≠ 0)
include heard

theorem upFrame_sound_unjoined : upFrame s src f false again = setCombine s { b with
    value := (combine b.op b.value f.value).1, heard := b.heard + 1, poison := b.poison || f.poison,
    ovf := b.ovf || f.ovf || (combine b.op b.value f.value).2 } := by
  rw [upFrame_unjoined false again group child unaborted slot seq op unjoined, addChecked_sound,
    Combine.add_held _ _ _ heard]

/-- A mismatch of a SUM that stays is noted with the group, and poisons what the entry holds. -/
theorem upFrame_mismatch (sum : f.op = 1) (stays : s.hut.resRetry = false ∨ again = true) :
    ∃ y, y ∈ (upFrame s src f true again).hut.combines ∧ y.seq = f.seq ∧ y.poison = true ∧ y.heard = b.heard + 1 ∧
      (upFrame s src f true again).hut.resFlag = true ∧
      (upFrame s src f true again).hut.resGroup = BitVec.ofNat 10 b.grp := by
  rw [upFrame_unjoined true again group child unaborted slot seq op unjoined,
    addChecked_mismatch _ _ _ (op.trans sum) heard stays]
  have note := residueNote_residue (s.drawn 2) (Config.freeNat s.draw % 4) (1 + boolNat (s.hut.resRetry && again)) b.grp 7
  rw [residueNote, Prod.mk.injEq, Prod.mk.injEq] at note
  obtain ⟨flag, _, grp⟩ := note
  exact ⟨_, mem_setCombine _ _, (b.add_keeps f.value f.poison f.ovf).1.trans seq, rfl, rfl, flag, grp⟩

end

/-! ### DOWN (R425, R429) -/

theorem exec_down (src : Coord) (f : CpriFrame) (s : State) : exec (.down src f) s = .next (downFrame s src f) := rfl

section
variable {s : State} {src : Coord} {f : CpriFrame}

theorem downFrame_unknown (group : groupOf s f.grp = none) : downFrame s src f = s := by
  rw [downFrame, group]

variable {e : GroupEntry} (group : groupOf s f.grp = some e)
include group

theorem downFrame_stray (stray : treeParent e.single e.members e.order (selfOf s) ≠ some src) : downFrame s src f = s := by
  simp only [downFrame, group]
  exact if_pos (by simpa using stray)

variable (parent : treeParent e.single e.members e.order (selfOf s) = some src)
include parent

theorem downFrame_no_entry (entry : s.hut.combines.find? (fun b => b.grp == f.grp && b.seq == f.seq) = none) :
    downFrame s src f = s := by
  simp [downFrame, group, parent, entry]

variable {b : Combine} (entry : s.hut.combines.find? (fun b => b.grp == f.grp && b.seq == f.seq) = some b)
include entry

theorem downFrame_unjoined (unjoined : b.joined = none) : downFrame s src f = s := by
  simp [downFrame, group, parent, entry, unjoined]

variable {n u : Nat} (joined : b.joined = some (n, u))
include joined

theorem downFrame_clashes (other : b.op ≠ f.op) : downFrame s src f = abortColl s e b.seq true 1 := by
  simp [downFrame, group, parent, entry, joined, other]

/-- The combined value goes on to the children and completes this chip's CPRI. -/
theorem downFrame_finishes (op : b.op = f.op) : downFrame s src f =
    cpriFinish (sendAll s (treeChildren e.single e.members e.order (selfOf s)) (.down f)) n u f.grp f.seq f.value f.poison
      f.ovf := by
  simp [downFrame, group, parent, entry, joined, op]

end

/-- Settles O44: an UP by the entry that its number selects, whose value passes the checked adder (`upFrame_combines`), and a DOWN
by the entry of its CPRI. -/
theorem priorityCollectivesCombine : Obligations.PriorityCollectivesCombine := by
  intro s src f mismatch again
  simp only [exec_up, exec_down]
  refine ⟨fun group => ⟨?_, ?_⟩,
    fun e group => ⟨fun stray => ?_, fun child unaborted =>
      ⟨fun slot => ⟨fun far => ?_, fun near => ?_⟩, fun b slot =>
        ⟨fun other => ?_, fun seq op => ⟨?_, fun unjoined heard => ⟨?sound, fun sum stays => ?mismatch⟩⟩⟩⟩⟩,
    fun e group => ⟨fun stray => ?_, fun parent => ⟨fun entry => ?_, fun b entry =>
      ⟨fun unjoined => ?_, fun n u joined => ⟨fun other => ?_, fun op => ?_⟩⟩⟩⟩⟩
  · exact congrArg _ (upFrame_unknown mismatch again group)
  · exact congrArg _ (downFrame_unknown group)
  · exact congrArg _ (upFrame_stray mismatch again group stray)
  · exact congrArg _ (upFrame_ahead mismatch again group child unaborted slot far)
  · exact congrArg _ (upFrame_opens mismatch again group child unaborted slot near)
  · exact congrArg _ (upFrame_clashes mismatch again group child unaborted slot other)
  · exact congrArg _ (upFrame_sound again group child unaborted slot seq op)
  case sound =>
    rw [upFrame_sound_unjoined again group child unaborted slot seq op unjoined heard, op]
    refine ⟨_, _, rfl, rfl, mem_setCombine _ _, rfl, seq, rfl, rfl, fun sum => ?_, fun least => ?_, fun greatest => ?_⟩
    · rw [sum]
      exact combine_sum _ _
    · rw [least]
      exact combine_min_toInt _ _
    · rw [greatest]
      exact combine_max_toInt _ _
  case mismatch =>
    obtain ⟨y, held, number, poisoned, count, flag, grp⟩ :=
      upFrame_mismatch again group child unaborted slot seq op unjoined heard sum stays
    exact ⟨_, y, rfl, flag, grp, held, number, poisoned, count⟩
  · exact congrArg _ (downFrame_stray group stray)
  · exact congrArg _ (downFrame_no_entry group parent entry)
  · exact congrArg _ (downFrame_unjoined group parent entry unjoined)
  · exact congrArg _ (downFrame_clashes group parent entry joined other)
  · exact congrArg _ (downFrame_finishes group parent entry joined op)

end Sys2Proof.Machine
end

section
/-! PROOFS. Every command, and the core clock of an idle step, keep the memory in its canonical form (R304, assumption log 3). -/

namespace Sys2Proof.Machine

/-! ### Commands that choose what acts -/

theorem wf_of_mem_eq {s t : State} (kept : t.mem = s.mem) (wf : Memory.wf s.mem = true) : Memory.wf t.mem = true := by
  rw [kept, wf]

/-- A control word on a link keeps the canonical form where its meaning does. -/
theorem ctlIn_wf {s : State} (p : Nat) (ok : Nat → Bool) {f : State → State}
    (keeps : ∀ s, Memory.wf s.mem = true → Memory.wf (f s).mem = true) (wf : Memory.wf s.mem = true) :
    Memory.wf (ctlIn s p ok f).mem = true := by
  unfold ctlIn
  dsimp only
  split
  · exact wf_of_mem_eq (enterIdent_frame s p id).2 wf
  · split
    · exact keeps s wf
    · exact wf

/-- The end of the anchor write leaves the chip loaded or not, and every byte as it is. -/
theorem execAnchorWriteEnd_mem (s : State) : ∃ t, execAnchorWriteEnd s = .next t ∧ t.mem = s.mem := by
  refine ⟨_, rfl, ?_⟩
  split
  · rfl
  · dsimp only
    split
    · split
      · exact (enterLoaded_frame _ _).2
      · rfl
    · rfl

/-! ### Every command -/

/-- Every command leads to a state whose memory is in canonical form again. -/
theorem exec_wf (c : Instr) {s : State} (wf : Memory.wf s.mem = true) : ∃ t, exec c s = .next t ∧ Memory.wf t.mem = true := by
  cases c with
  -- Register writes, of which only the authority is decided before they act.
  | run | stepOne | halt | creset | stallClr =>
    exact ⟨_, rfl, guarded_wf _ _ _ _ (fun s => corCtlWrite_wf s _ _) wf⟩
  | form | wrgHalt | wrgEnable => exact ⟨_, rfl, guarded_wf _ _ _ _ (fun s => wrgCtlWrite_wf s _) wf⟩
  | cpbModeWrite | ceClr => exact ⟨_, rfl, guarded_wf _ _ _ _ (fun s => cpbModeWrite_wf s _ _) wf⟩
  | chipReset | glbFence | fwLoad => exact ⟨_, rfl, guarded_wf _ _ _ _ (fun s => glbResetWrite_wf s _) wf⟩
  | domainRequestWrite => exact ⟨_, rfl, guarded_wf _ _ _ _ (fun s => domCtlWrite_wf s _ _) wf⟩
  | stagedWrite => exact ⟨_, rfl, guarded_wf _ _ _ _ (fun s => stagedWrite_wf s _ _ _) wf⟩
  | intakeEnable =>
    refine ⟨_, rfl, ?_⟩
    split
    · exact guarded_wf _ _ _ _ (fun s => intakeCtlWrite_wf s _ _) wf
    · exact wf
  -- Accesses by the host, by I3C and by a link, of which only the right or the state of the path is decided.
  | pfBar2Access =>
    refine ⟨_, rfl, ?_⟩
    split
    · exact managed_wf _ _ _ (fun s => bar2_wf s _ _ _ _) wf
    · exact bar2_wf _ _ _ _ _ wf
  | loadBufferWrite => exact ⟨_, rfl, managed_wf _ _ _ (fun s => lbWrite_wf s _ _) wf⟩
  | csrw => exact ⟨_, rfl, addressed_wf _ _ (fun s => csrw_wf s _ _ _) wf⟩
  | lbw => exact ⟨_, rfl, addressed_wf _ _ (fun s => lbw_wf s _ _) wf⟩
  | lost => exact ⟨_, rfl, ctlIn_wf _ _ (fun s => place_wf s _ _ _ _) wf⟩
  -- Commands that look something up, and leave every byte whether they find it or not.
  | anchorWriteEnd =>
    obtain ⟨t, e, kept⟩ := execAnchorWriteEnd_mem s
    exact ⟨t, e, wf_of_mem_eq kept wf⟩
  | beatHeader | kbtAckTimer | abortFrame => exact ⟨_, rfl, wf_of_mem_eq (by split <;> simp) wf⟩
  -- The other commands that may store, fill or clear bytes: each is one operation with its own lemma.
  | parseEnd | beatStart | gridFrameStart | relockLimit | segmentLand | groupCopyEnd | swapSwitch | shelfHeader | coreDrained
  | unitHeadRelease | unitInstructionComplete | transferSourceRead | transferRowLanded | cpStoreWritten | shelfFlit
  | spillReadback | laneFinish | bulkData | refusalRecordTimeout | hutchForward | collectiveStart | grant | engineDone
  | stagedCommitApply | vfBar2Access | identReq | csrWrite | csrRead | write | read | request | intakeDecision
  | intakeWindowWrite | domainSwitchDone | supplyFault | slowWindowEnd | fuseLoadEnd | bootEnd | watchdogExpiry
  | formationInstant | formUnconfirmedTimeout | fenceApply | resetN | powerOnReset | registerWrite =>
    exact ⟨_, rfl, by simp [wf]⟩
  -- Every other command leaves every byte.
  | _ => exact ⟨_, rfl, wf_of_mem_eq (by simp) wf⟩

/-- Settles O4: a step takes the front command (`exec_wf`) or lets one core clock pass (`State.tick_wf`). -/
theorem memoryStaysCanonical : Obligations.MemoryStaysCanonical := by
  intro s t wf e
  unfold step at e
  split at e
  · rw [← Host.Outcome.next.inj e]
    exact State.tick_wf s wf
  · next c cs _ =>
    obtain ⟨u, hu, wfu⟩ := exec_wf c (s := { s with pending := cs }) wf
    rw [← Host.Outcome.next.inj (hu.symm.trans e)]
    exact wfu

end Sys2Proof.Machine
end

section
/-! PROOFS. COR_CPB_MODE, writes of arrival counters and the scrubber (R309, R310, R318, R324, R325, R327, R328). -/

namespace Sys2Proof.Machine

/-! ### Registers that lie partly in the quadrant (R514, Table 18-1) -/

theorem cpbReg_eq (n : Nat) : cpbReg n = corReg n 0x18 := by
  unfold cpbReg corReg; omega

theorem arrivalReg_eq (n k : Nat) : 0x100400 + 0x10000 * n + 4 * k = corReg n (0x400 + 4 * k) := by
  unfold corReg; omega

theorem cpbMode_reachable (s : State) (n : CoreId) : regReachable s (cpbReg n.val) = domainOn s (16 + n.val / 4) := by
  have ho : 0x18 < 0x10000 := by decide
  simp [cpbReg_eq, regReachable, regDomain_corReg n ho, corReg_range n ho, corReg_core n ho, corReg_offset n ho]

theorem arrival_reachable (s : State) (n : CoreId) (k : Byte) :
    regReachable s (0x100400 + 0x10000 * n.val + 4 * k.toNat) = (domainOn s n.val && domainOn s (16 + n.val / 4)) := by
  have hk := k.isLt
  have ho : 0x400 + 4 * k.toNat < 0x10000 := by omega
  have notMode : ¬ (0x400 + 4 * k.toNat = 0x18 ∨ 0x400 + 4 * k.toNat = 0x14) := by omega
  have arrival : 0x400 + 4 * k.toNat < 0x800 := by omega
  rw [arrivalReg_eq]
  simp [regReachable, regDomain_corReg n ho, corReg_range n ho, corReg_core n ho, corReg_offset n ho, notMode, arrival]

section
variable {s : State} {core : CoreId} {via : Via} (hw : mayWrite s via = true)
include hw

theorem exec_cpbModeWrite (quad : domainOn s (16 + core.val / 4) = true) (v : W32) :
    exec (.cpbModeWrite core via v) s = .next (cpbModeWrite s core.val v) :=
  congrArg Host.Outcome.next (guarded_accepted _ hw ((cpbMode_reachable s core).trans quad))

theorem exec_ceClr (quad : domainOn s (16 + core.val / 4) = true) (v : W32) :
    exec (.ceClr core via v) s = .next (cpbModeWrite s core.val (v ||| 0x400000)) :=
  congrArg Host.Outcome.next (guarded_accepted _ hw ((cpbMode_reachable s core).trans quad))

theorem exec_arrivalCounterWrite (on : domainOn s core.val = true) (quad : domainOn s (16 + core.val / 4) = true) (k : Byte)
    (v : W32) : exec (.arrivalCounterWrite core k via v) s = .next (counterWrite s core.val k.toNat v) :=
  congrArg Host.Outcome.next (guarded_accepted _ hw ((arrival_reachable s core k).trans (by rw [on, quad]; rfl)))

end

/-! ### COR_CPB_MODE (R309, R310, R324, R328) -/

/-- The marks of a slice as a write of COR_CPB_MODE leaves them: what acts whether MODE may change or not. -/
def cpbMarks (b : Cpb) (v : W32) : Cpb :=
  { b with ue := b.ue && !bit v 23, ceCnt := if bit v 22 then 0 else b.ceCnt, scrub := bit v 16 }

section
variable {s : State} {n : Nat} {v : W32}

theorem cpbModeWrite_changes (change : bit v 0 ≠ (coreAt s n).cpb.mode) (free : formed s = false) (halted : allHalted s = true) :
    cpbModeWrite s n v = cupZero
      (modCore s n fun c => { c with cpb := { cpbMarks c.cpb v with mode := bit v 0, fill := true } }) (sliceBytes * n)
      sliceBytes := by
  have differs : (bit v 0 == (coreAt s n).cpb.mode) = false := beq_false_of_ne change
  simp only [cpbModeWrite, differs, free, halted, modCore_modCore]
  rfl

theorem cpbModeWrite_refused (change : bit v 0 ≠ (coreAt s n).cpb.mode) (refused : formed s = true ∨ allHalted s = false) :
    cpbModeWrite s n v = modCore s n fun c => { c with cpb := { cpbMarks c.cpb v with err := 1 } } := by
  have differs : (bit v 0 == (coreAt s n).cpb.mode) = false := beq_false_of_ne change
  have held : (!formed s && allHalted s) = false := by
    rcases refused with h | h <;> simp [h]
  simp only [cpbModeWrite, differs, held]
  rfl

theorem cpbModeWrite_stays (same : bit v 0 = (coreAt s n).cpb.mode) :
    cpbModeWrite s n v = modCore s n fun c => { c with cpb := cpbMarks c.cpb v } := by
  have agrees : (bit v 0 == (coreAt s n).cpb.mode) = true := beq_iff_eq.mpr same
  simp only [cpbModeWrite, agrees]
  rfl

end

/-! ### Arrival counters (R318) -/

theorem counterWrite_sets {s : State} {n k : Nat} (halted : (coreAt s n).state = 0) (free : ¬ (s.wrg.enable = true ∧ 254 ≤ k))
    (v : W32) : counterWrite s n k v = modCore s n fun c => putCounter c k ⟨v, true, false⟩ :=
  (if_neg (by simpa [halted] using free)).trans (setCounter_eq s n k v)

theorem counterWrite_ignored {s : State} {n : Nat} (running : (coreAt s n).state ≠ 0) (k : Nat) (v : W32) :
    counterWrite s n k v = s := if_pos (by simpa using .inl running)

/-! ### Words found uncorrectable (R325, R326) -/

theorem mem_ueInsert {l : List Nat} {w x : Nat} : x ∈ ueInsert l w ↔ x = w ∨ x ∈ l := by
  induction l with
  | nil => simp [ueInsert]
  | cons v l ih =>
    unfold ueInsert
    split
    · simp
    · split
      · next same => simp [same]
      · rw [List.mem_cons, ih, List.mem_cons, or_left_comm]

section
variable (s : State) (cls : Nat) (ctx : Option Ctx) (off bitNo : Nat) (detail : W64)

@[simp] theorem postReg_ue : (postReg s cls ctx off bitNo detail).ue = s.ue := by
  obtain ⟨_, _, _, e⟩ := postReg_eventsOnly s cls ctx off bitNo detail; rw [e]

@[simp] theorem postReg_ce : (postReg s cls ctx off bitNo detail).ce = s.ce := by
  obtain ⟨_, _, _, e⟩ := postReg_eventsOnly s cls ctx off bitNo detail; rw [e]

@[simp] theorem coreAt_postReg (n : Nat) : coreAt (postReg s cls ctx off bitNo detail) n = coreAt s n := by
  simp only [coreAt, postReg_cores]

end

/-- A note of an uncorrectable word touches no word and no scrubber. -/
theorem noteUe_keeps (s : State) (a : Nat) (core : Option Nat) (reader n : Nat) :
    (noteUe s a core reader).ue = s.ue ∧ (noteUe s a core reader).ce = s.ce ∧
      (coreAt (noteUe s a core reader) n).cpb.scrubAt = (coreAt s n).cpb.scrubAt := by
  have marked : (coreAt (modCore s (sliceOf a) fun c => { c with cpb := { c.cpb with ue := true, evtPosted := true } }) n
      ).cpb.scrubAt = (coreAt s n).cpb.scrubAt := by
    rw [coreAt_modCore]; split <;> rfl
  unfold noteUe
  dsimp only
  split
  · exact ⟨rfl, rfl, marked⟩
  · rw [postReg_ue, postReg_ce, coreAt_postReg]
    exact ⟨rfl, rfl, marked⟩

/-- The scrubber finds a word uncorrectable: it is noted and left with the poison pattern. -/
def scrubFinds (s : State) (w : Nat) : State := poisonWord (noteUe s (8 * w) none readerScrub) w

theorem mem_scrubFinds_ue {s : State} {w x : Nat} : x ∈ (scrubFinds s w).ue ↔ x = w ∨ x ∈ s.ue := by
  rw [scrubFinds, poisonWord, mem_ueInsert, (noteUe_keeps s _ none readerScrub 0).1]

theorem mem_ce_of_scrubFinds {s : State} {w x : Nat} (h : x ∈ (scrubFinds s w).ce) : x ∈ s.ce := by
  rw [scrubFinds, poisonWord, (noteUe_keeps s _ none readerScrub 0).2.1] at h
  exact (List.mem_filter.mp h).1

theorem mem_foldl_scrubFinds_ue {ws : List Nat} {s : State} {x : Nat} :
    x ∈ (ws.foldl scrubFinds s).ue ↔ x ∈ ws ∨ x ∈ s.ue := by
  induction ws generalizing s with
  | nil => simp
  | cons w ws ih => rw [List.foldl_cons, ih, mem_scrubFinds_ue, List.mem_cons, or_left_comm, or_assoc]

theorem mem_ce_of_foldl_scrubFinds {ws : List Nat} {s : State} {x : Nat} (h : x ∈ (ws.foldl scrubFinds s).ce) : x ∈ s.ce := by
  induction ws generalizing s with
  | nil => exact h
  | cons w ws ih => exact mem_ce_of_scrubFinds (ih h)

theorem foldl_scrubFinds_scrubAt (ws : List Nat) (s : State) (n : Nat) :
    (coreAt (ws.foldl scrubFinds s) n).cpb.scrubAt = (coreAt s n).cpb.scrubAt :=
  foldl_keeps (fun s => (coreAt s n).cpb.scrubAt) scrubFinds (fun s _ => (noteUe_keeps s _ none readerScrub n).2.2) ws s

/-! ### The scrubber (R327) -/

/-- Word `j` of a scrub read of core `n`'s slice: one place of each bank, 8 words a line. -/
def scrubWord (n : Nat) (b : Cpb) (j : Nat) : Nat := sliceAddr n (64 * lineAt b.mode (j / 8) b.scrubAt) / 8 + j % 8

/-- The numbers of the words that a scrub read finds uncorrectable. -/
def scrubBad (s : State) (n : Nat) (double : List Nat) : List Nat :=
  (List.range 256).filter fun j => double.contains j || s.ue.contains (scrubWord n (coreAt s n).cpb j)

/-- The numbers of the words that a scrub read corrects. -/
def scrubFixed (s : State) (n : Nat) (single double : List Nat) : List Nat :=
  (List.range 256).filter fun j =>
    (single.contains j || s.ce.contains (scrubWord n (coreAt s n).cpb j)) && !(scrubBad s n double).contains j

/-- A scrub read before its uncorrectable words are noted: single-bit errors corrected and counted, and the place moved on. -/
def scrubCorrects (s : State) (n : Nat) (single double : List Nat) : State :=
  modCore { s with ce := s.ce.filter fun w => !((List.range 256).any fun j => scrubWord n (coreAt s n).cpb j == w) } n fun c =>
    { c with cpb := { c.cpb with
      ceCnt := satAdd c.cpb.ceCnt (scrubFixed s n single double).length, scrubAt := (c.cpb.scrubAt + 1) % 12288 } }

section
variable {s : State} {n : Nat} (single double : List Nat)

theorem scrub_idle (off : (coreAt s n).cpb.scrub = false ∨ domainOn s (16 + n / 4) = false) : scrub s n single double = s :=
  if_pos (by rcases off with h | h <;> simp [h])

theorem scrub_reads (on : (coreAt s n).cpb.scrub = true) (quad : domainOn s (16 + n / 4) = true) :
    scrub s n single double =
      ((scrubBad s n double).map (scrubWord n (coreAt s n).cpb)).foldl scrubFinds (scrubCorrects s n single double) := by
  rw [List.foldl_map]
  exact if_neg (by simp [on, quad])

theorem mem_scrubBad {double : List Nat} {j : Nat} :
    j ∈ scrubBad s n double ↔ j < 256 ∧ (j ∈ double ∨ scrubWord n (coreAt s n).cpb j ∈ s.ue) := by
  simp [scrubBad]

theorem mem_scrubCorrects_ce {single double : List Nat} {x : Nat} : x ∈ (scrubCorrects s n single double).ce ↔
    x ∈ s.ce ∧ ∀ j < 256, scrubWord n (coreAt s n).cpb j ≠ x := by
  simp [scrubCorrects]

theorem scrubBad_none {double : List Nat} (sound : ∀ j < 256, j ∉ double ∧ scrubWord n (coreAt s n).cpb j ∉ s.ue) :
    scrubBad s n double = [] := by
  refine List.eq_nil_iff_forall_not_mem.mpr fun j bad => ?_
  obtain ⟨hj, found⟩ := mem_scrubBad.mp bad
  exact found.elim (sound j hj).1 (sound j hj).2

end

/-- The core after a scrub read, before uncorrectable words are noted. -/
theorem coreAt_scrubCorrects (s : State) (core : CoreId) (single double : List Nat) :
    (coreAt (scrubCorrects s core.val single double) core.val).cpb = { (coreAt s core.val).cpb with
      ceCnt := satAdd (coreAt s core.val).cpb.ceCnt (scrubFixed s core.val single double).length
      scrubAt := ((coreAt s core.val).cpb.scrubAt + 1) % 12288 } :=
  congrArg Core.cpb (coreAt_modCore_same _ core _)

/-- Settles O33: a write of COR_CPB_MODE by whether MODE stays, may change or is refused (`cpbModeWrite_stays`,
`cpbModeWrite_changes`, `cpbModeWrite_refused`), a counter by `counterWrite_sets`, and a scrub read as corrections followed by
the words found uncorrectable (`scrub_reads`). -/
theorem cupboardModesCountersAndScrubbing : Obligations.CupboardModesCountersAndScrubbing := by
  refine ⟨?writes, ?scrubber⟩
  case writes =>
    rintro s core via v ctr frame hw n c rfl rfl
    refine ⟨fun quad => ⟨fun change free halted wf => ?_, fun change refused => ?_, fun same => ?_⟩, ?_, ?_,
      fun on quad => ⟨fun halted free => ?_, fun running => ?_⟩⟩
    · have core' := coreAt_modCore_same s core fun c =>
        { c with cpb := { cpbMarks c.cpb v with mode := bit v 0, fill := true } }
      exact ⟨_, (exec_cpbModeWrite hw quad v).trans (congrArg _ (cpbModeWrite_changes change free halted)),
        (congrArg (·.cpb.mode) core' :), (congrArg (·.cpb.fill) core' :), fun a => readByte_zeroRange _ _ a wf⟩
    · have core' := coreAt_modCore_same s core fun c => { c with cpb := { cpbMarks c.cpb v with err := 1 } }
      exact ⟨_, (exec_cpbModeWrite hw quad v).trans (congrArg _ (cpbModeWrite_refused change refused)),
        sameButCore_modCore s _ _, (congrArg (·.cpb.mode) core' :), (congrArg (·.cpb.err) core' :)⟩
    · have stays : bit (v ||| 0x400000) 0 = (coreAt s core.val).cpb.mode := by simpa [bit] using same
      have clears : bit (v ||| 0x400000) 22 = true := by simp [bit]
      have core' := coreAt_modCore_same s core fun c => { c with cpb := cpbMarks c.cpb (v ||| 0x400000) }
      exact ⟨_, (exec_ceClr hw quad v).trans (congrArg _ (cpbModeWrite_stays stays)), sameButCore_modCore s _ _,
        (congrArg (·.cpb.ceCnt) core').trans (if_pos clears), (congrArg (·.cpb.mode) core' :),
        (congrArg (·.cpb.err) core' :)⟩
    · exact ⟨_, rfl, sameButCore_modCore s _ _, coreAt_modCore_same s core _⟩
    · exact ⟨_, rfl, rfl, fun g => by simp⟩
    · have core' := coreAt_modCore_same s core fun c => putCounter c ctr.toNat ⟨v, true, false⟩
      refine ⟨_, (exec_arrivalCounterWrite hw on quad ctr v).trans (congrArg _ (counterWrite_sets halted free v)),
        sameButCore_modCore s _ _, ?_, fun k other => ?_⟩
      · rw [counterAt_eq, core', counterOf_putCounter_same]
      · rw [counterAt_eq, core', counterOf_putCounter_other _ _ other, counterAt_eq]
    · rw [exec_arrivalCounterWrite hw on quad, counterWrite_ignored running]
  case scrubber =>
    rintro s core single double n c word rfl rfl rfl
    have corrected := coreAt_scrubCorrects s core single double
    refine ⟨fun on quad => ⟨_, congrArg Host.Outcome.next (scrub_reads single double on quad), ?_, ?_, fun i hi hlt => ?_,
      fun w marked => ?_, fun w left => ?_, fun i hlt left => ?_, fun sound => ?_⟩,
      fun off => congrArg Host.Outcome.next (scrub_idle single double off)⟩
    · rw [← scrub_reads single double on quad, (scrub_frame s core.val single double).2]
    · rw [foldl_scrubFinds_scrubAt, corrected]
    · exact mem_foldl_scrubFinds_ue.mpr (.inl (List.mem_map_of_mem (mem_scrubBad.mpr ⟨hlt, .inl hi⟩)))
    · exact mem_foldl_scrubFinds_ue.mpr (.inr marked)
    · exact (mem_scrubCorrects_ce.mp (mem_ce_of_foldl_scrubFinds left)).1
    · exact (mem_scrubCorrects_ce.mp (mem_ce_of_foldl_scrubFinds left)).2 i hlt rfl
    · have nothing := scrubBad_none sound
      have fixed : scrubFixed s core.val single double = (List.range 256).filter fun j =>
          single.contains j || s.ce.contains (scrubWord core.val (coreAt s core.val).cpb j) := by
        simp [scrubFixed, nothing]
      rw [nothing, List.map_nil, List.foldl_nil, corrected, toNat_satAdd, fixed]
      exact ⟨rfl, rfl, rfl⟩

end Sys2Proof.Machine
end

section
/-! PROOFS. Spilled bytes, decode lanes, and the clear bits of the unpacker and the armoire (R348 to R350, R352, R357 to R360). -/

namespace Sys2Proof.Machine

/-! ### Spilled bytes read back (R348, R349) -/

/-- The decode queue of a port. -/
def portQueue (s : State) (port : Nat) : PortQueue := s.upk.queues.toList.getD port ⟨[], [], 0⟩

/-- A queue whose oldest spilled bytes come back: RAW bytes pass through it to their slots, others lie in it (R349). -/
def readBackQueue (q : PortQueue) (raw : Bool) (r : QRange) (rest : List QRange) : PortQueue :=
  raisePeak { q with spilled := rest, queued := if raw then q.queued else q.queued ++ [r] } (queueFill q + r.len)

/-- The oldest spilled bytes of a port are back in its queue, or about to land (RAW). -/
def spillReturned (s : State) (port : Nat) (x : Shelf) (r : QRange) (rest : List QRange) : State :=
  { s with upk := { s.upk with queues := vmod s.upk.queues port fun _ => readBackQueue (portQueue s port) (isRaw x.hdr) r rest } }

theorem spillReturned_spilled (s : State) (port : Fin 4) (x : Shelf) (r : QRange) (rest : List QRange) :
    (portQueue (spillReturned s port.val x r rest) port.val).spilled = rest :=
  congrArg PortQueue.spilled (vmod_getD_same s.upk.queues port _ _)

theorem spillReturned_queued (s : State) (port : Fin 4) (x : Shelf) (r : QRange) (rest : List QRange) :
    (portQueue (spillReturned s port.val x r rest) port.val).queued =
      if isRaw x.hdr then (portQueue s port.val).queued else (portQueue s port.val).queued ++ [r] :=
  congrArg PortQueue.queued (vmod_getD_same s.upk.queues port _ _)

theorem exec_spillReadback (port : Fin 4) (s : State) : exec (.spillReadback port) s = .next (spillReadback s port.val) := rfl

theorem spillReadback_nothing {s : State} {port : Nat} (empty : (portQueue s port).spilled = []) : spillReadback s port = s := by
  unfold portQueue at empty
  simp only [spillReadback, empty]

section
variable {s : State} {port : Nat} {r : QRange} {rest : List QRange} (oldest : (portQueue s port).spilled = r :: rest)
include oldest

theorem spillReadback_gone (gone : shelfAt s (decide (2 ≤ port)) r.beat = none) :
    spillReadback s port = { s with upk := { s.upk with
      queues := vmod s.upk.queues port fun q => { q with spilled := rest } } } := by
  unfold portQueue at oldest
  simp only [spillReadback, oldest, gone]

variable {x : Shelf} (shelf : shelfAt s (decide (2 ≤ port)) r.beat = some x)
include shelf

theorem spillReadback_uncorrectable {a : Nat}
    (bad : encUe s (decide (2 ≤ port)) (r.beat.toNat % 2) r.off r.len = some a) :
    spillReadback s port = damage (noteUe s a none readerUnpacker) (decide (2 ≤ port)) x 7 := by
  unfold portQueue at oldest
  simp only [spillReadback, oldest, shelf, bad]

variable (sound : encUe s (decide (2 ≤ port)) (r.beat.toNat % 2) r.off r.len = none)
include sound

theorem spillReadback_full (full : 65536 < queueFill (portQueue s port) + r.len) : spillReadback s port = s := by
  unfold portQueue at oldest full
  simp only [spillReadback, oldest, shelf, sound, if_pos full]

theorem spillReadback_returns (room : queueFill (portQueue s port) + r.len ≤ 65536) :
    spillReadback s port = if isRaw x.hdr then
        landBytes (r.len + 1) (spillReturned s port x r rest) (decide (2 ≤ port)) x r.off
          (payBytes (spillReturned s port x r rest) (decide (2 ≤ port)) x r.off r.len)
      else spillReturned s port x r rest := by
  unfold portQueue at oldest room
  simp only [spillReadback, oldest, shelf, sound, if_neg (Nat.not_lt.mpr room)]
  rfl

end

/-! ### Units go to lanes (R349, R352) -/

theorem freeLane_lt {s : State} {west : Bool} {l : Nat} (h : freeLane s west = some l) : l < 128 := by
  unfold freeLane at h
  exact List.mem_range.mp (List.mem_of_find?_eq_some h)

@[simp] theorem setShelf_upk (s : State) (west : Bool) (x : Shelf) : (setShelf s west x).upk = s.upk := by
  have held (y : Option Shelf) : (setHeld s west y).upk = s.upk := by cases west <;> rfl
  have arr (y : Option Shelf) : (setArr s west y).upk = s.upk := by cases west <;> rfl
  unfold setShelf
  split
  · exact held _
  · split
    · exact arr _
    · rfl

/-- The shelf's record once its next unit, of `n` bytes, is in a lane; a last block short of INDEX_OFF is damage behind it
(R352). -/
def unitDispatched (x : Shelf) (n : Nat) : Shelf :=
  { x with unit := x.unit + 1, unitOff := x.unitOff + n,
           bad := if hdrFormat x.hdr / 16 == 1 && x.unit + 1 == unitCount x.hdr && x.unitOff + n != hdrIndexOff x.hdr then
             some (x.unit + 1, 3) else none }

theorem unit_within {x : Shelf} {n : Nat} (fits : hdrFormat x.hdr / 16 = 1 → x.unitOff + n ≤ hdrIndexOff x.hdr) :
    (hdrFormat x.hdr / 16 == 1 && decide (hdrIndexOff x.hdr < x.unitOff + n)) = false := by simpa using fits

theorem exec_laneDispatch (west : Bool) (s : State) : exec (.laneDispatch west) s = .next (laneDispatch s west) := rfl

theorem laneDispatch_idle {s : State} {west : Bool} (h : freeLane s west = none ∨ decoding s west = none) :
    laneDispatch s west = s := by
  unfold laneDispatch
  rcases h with lane | shelf
  · rw [lane]
    cases decoding s west <;> rfl
  · rw [shelf]

section
variable {s : State} {west : Bool} {x : Shelf} {l n : Nat} (shelf : decoding s west = some x) (free : freeLane s west = some l)
  (unit : nextUnit s west x = some n)
include shelf free unit

theorem laneDispatch_overruns (blocks : hdrFormat x.hdr / 16 = 1) (past : hdrIndexOff x.hdr < x.unitOff + n) :
    laneDispatch s west = meetBad s west x x.unit (walkCause s west x) := by
  simp [laneDispatch, shelf, free, unit, blocks, past]

variable (fits : hdrFormat x.hdr / 16 = 1 → x.unitOff + n ≤ hdrIndexOff x.hdr)
include fits

theorem laneDispatch_waits (missing : inQueue s west x x.unitOff n = false) : laneDispatch s west = s := by
  simp only [laneDispatch, shelf, free, unit, unit_within fits, missing]
  rfl

theorem laneDispatch_takes (queued : inQueue s west x x.unitOff n = true) :
    laneDispatch s west = { setShelf s west (unitDispatched x n) with upk := { s.upk with
      lanes := vmod s.upk.lanes l fun _ => some ⟨streamOf west, x.beat, x.unit, x.unitOff, n⟩ } } := by
  simp only [laneDispatch, shelf, free, unit, unit_within fits, queued, setShelf_upk]
  rfl

end

/-! ### Lanes finish (R350, R352) -/

/-- The lane free, and the bytes of its unit out of the queues of its stream. -/
def laneFreed (s : State) (l : Nat) (y : Lane) : State :=
  { s with upk := { s.upk with
    lanes := vmod s.upk.lanes l fun _ => none
    queues := Vector.ofFn fun i : Fin 4 =>
      if (2 ≤ i.val) == isWest y.stream then cutRange y.beat y.off y.len s.upk.queues[i] else s.upk.queues[i] } }

/-- The bytes of a lane's unit decoded, or the cause met there. -/
def unitDecoded (s : State) (x : Shelf) (y : Lane) : Except Nat (List Byte) :=
  if hdrFormat x.hdr / 16 = 1 then decodeBlock x.hdr y.unit (payBytes s (isWest y.stream) x y.off y.len)
  else decodeGroup x.hdr (payBytes s (isWest y.stream) x y.off y.len)

theorem exec_laneFinish (lane : Fin 128) (s : State) : exec (.laneFinish lane) s = .next (laneFinish s lane.val) := rfl

theorem laneFinish_empty {s : State} {l : Nat} (empty : s.upk.lanes.toList.getD l none = none) : laneFinish s l = s := by
  simp only [laneFinish, empty]

section
variable {s : State} {l : Nat} {y : Lane} (held : s.upk.lanes.toList.getD l none = some y)
include held

theorem laneFinish_gone (gone : shelfAt s (isWest y.stream) y.beat = none) : laneFinish s l = laneFreed s l y := by
  have still : shelfAt (laneFreed s l y) (isWest y.stream) y.beat = none := gone
  unfold laneFreed at still ⊢
  simp only [laneFinish, held, still]

variable {x : Shelf} (shelf : shelfAt s (isWest y.stream) y.beat = some x)
include shelf

theorem laneFinish_fails {c : Nat} (fails : unitDecoded (laneFreed s l y) x y = .error c) :
    laneFinish s l = meetBad (laneFreed s l y) (isWest y.stream) x y.unit c := by
  have still : shelfAt (laneFreed s l y) (isWest y.stream) y.beat = some x := shelf
  unfold laneFreed at still fails ⊢
  unfold unitDecoded at fails
  simp only [laneFinish, held, still, fails]

theorem laneFinish_lands {out : List Byte} (decodes : unitDecoded (laneFreed s l y) x y = .ok out) :
    laneFinish s l = finishChecks (landBytes (out.length + 1) (laneFreed s l y) (isWest y.stream) x
      (y.unit * (if hdrFormat x.hdr / 16 = 1 then 4096 else out.length)) out) (isWest y.stream) y.beat := by
  have still : shelfAt (laneFreed s l y) (isWest y.stream) y.beat = some x := shelf
  unfold laneFreed at still decodes ⊢
  unfold unitDecoded at decodes
  simp only [laneFinish, held, still, decodes]

end

/-! ### Registers of the unpacker and the armoire (R357 to R360, Tables 10-7 and 10-11) -/

section
variable {s : State} {via : Via} (hw : mayWrite s via = true) (on : domainOn s 31 = true) (v : W32)
include hw on

theorem exec_upkCntClr : exec (.upkCntClr via v) s = .next (upkCtlWrite s (v ||| 2)) :=
  congrArg Host.Outcome.next (guarded_accepted _ hw on)

theorem exec_armZero : exec (.armZero via v) s = .next (armCtlWrite s (v ||| 0x20000)) :=
  congrArg Host.Outcome.next (guarded_accepted _ hw on)

theorem exec_armErrClear : exec (.armErrClear via v) s = .next (armErrWrite s v) :=
  congrArg Host.Outcome.next (guarded_accepted _ hw on)

end

/-- The values of EAST_LANES (R358). -/
def EastLanesLegal (v : W32) : Prop := 16 ≤ bits v 8 7 ∧ bits v 8 7 ≤ 112 ∧ bits v 8 7 % 8 = 0

theorem upkCtlWrite_refused {s : State} {v : W32} (illegal : ¬ EastLanesLegal v) :
    upkCtlWrite s v = { s with upk := { s.upk with err := 1 } } := by
  have bad : (decide (bits v 8 7 < 16) || decide (112 < bits v 8 7) || bits v 8 7 % 8 != 0) = true := by
    simp only [EastLanesLegal] at illegal
    simp
    omega
  exact if_pos bad

theorem upkCtlWrite_clears {s : State} {v : W32} (legal : EastLanesLegal v) (clear : bit v 1 = true) :
    upkCtlWrite s v = { s with upk := { s.upk with
      eastLanes := v.extractLsb' 8 7, evtSpill := bit v 2, spillCnt := 0, dmgCnt := 0, decPeak := 0,
      queues := s.upk.queues.map fun q => { q with peak := 0 } } } := by
  obtain ⟨low, high, eighth⟩ := legal
  have good : ¬ (decide (bits v 8 7 < 16) || decide (112 < bits v 8 7) || bits v 8 7 % 8 != 0) = true := by
    simp
    omega
  exact (if_neg good).trans (if_pos clear)

/-- CNT_CLR lies outside EAST_LANES. -/
theorem eastLanes_or_cntClr (v : W32) : (v ||| 2).extractLsb' 8 7 = v.extractLsb' 8 7 := by
  have outside : (2 : W32).extractLsb' 8 7 = 0#7 := rfl
  rw [BitVec.extractLsb'_or, outside, BitVec.or_zero]

theorem bits_or_cntClr (v : W32) : bits (v ||| 2) 8 7 = bits v 8 7 := congrArg BitVec.toNat (eastLanes_or_cntClr v)

/-- ZERO marks the slot that SEL names. -/
theorem armCtlWrite_zeroes {s : State} {v : W32} (zero : bit v 17 = true) : bits v 18 5 ∈ (armCtlWrite s v).arm.zeroDue := by
  cases due : s.arm.zeroDue.contains (bits v 18 5) with
  | false =>
    have marks : (bit v 17 && !s.arm.zeroDue.contains (bits v 18 5)) = true := by rw [zero, due]; rfl
    have grows : (armCtlWrite s v).arm.zeroDue = s.arm.zeroDue ++ [bits v 18 5] := if_pos marks
    exact grows ▸ List.mem_append_right _ List.mem_cons_self
  | true =>
    have marked : ¬ (bit v 17 && !s.arm.zeroDue.contains (bits v 18 5)) = true := by rw [zero, due]; decide
    have stays : (armCtlWrite s v).arm.zeroDue = s.arm.zeroDue := if_neg marked
    exact stays ▸ List.contains_iff_mem.mp due

/-- ZERO lies outside SEL. -/
theorem bits_or_zero (v : W32) : bits (v ||| 0x20000) 18 5 = bits v 18 5 := by
  have outside : (0x20000 : W32).extractLsb' 18 5 = 0#5 := rfl
  rw [bits, BitVec.extractLsb'_or, outside, BitVec.or_zero, bits]

/-- Settles O37: the oldest spilled bytes by the shelf that they are of (`spillReadback_gone`, `spillReadback_uncorrectable`,
`spillReadback_full`, `spillReadback_returns`), a unit by the room for it and its bytes (`laneDispatch_overruns`,
`laneDispatch_waits`, `laneDispatch_takes`), a lane by what its unit decodes to (`laneFinish_fails`, `laneFinish_lands`). -/
theorem unpackerQueuesLanesAndClears : Obligations.UnpackerQueuesLanesAndClears := by
  intro s port west lane via v
  simp only [exec_spillReadback, exec_laneDispatch, exec_laneFinish]
  refine ⟨?spills, fun x l n shelf free unit =>
      ⟨fun blocks past => ?_, fun fits => ⟨fun missing => ?_, fun queued => ?takes⟩⟩, fun idle => ?_,
    ?lanes, fun empty => ?_, fun hw on => ⟨fun low high eighth => ?clears, fun low => ?_, ?zero, ?_⟩⟩
  case spills =>
    rintro q rfl
    refine ⟨fun empty => ?_, ?_⟩
    · exact congrArg _ (spillReadback_nothing empty)
    rintro r rest b oldest rfl
    refine ⟨fun gone => ?_, fun x shelf => ⟨fun a bad => ?_, fun sound => ⟨fun full => ?_, fun room => ?_⟩⟩⟩
    · exact congrArg _ (spillReadback_gone oldest gone)
    · exact congrArg _ (spillReadback_uncorrectable oldest shelf bad)
    · exact congrArg _ (spillReadback_full oldest shelf sound full)
    have back := spillReadback_returns oldest shelf sound room
    have spilled := spillReturned_spilled s port x r rest
    have queued := spillReturned_queued s port x r rest
    exact ⟨fun coded => ⟨_, congrArg _ (back.trans (if_neg (by simp [coded]))), rfl, spilled,
        queued.trans (if_neg (by simp [coded]))⟩,
      fun raw => ⟨_, rfl, spilled, queued.trans (if_pos raw), congrArg _ (back.trans (if_pos raw))⟩⟩
  · exact congrArg _ (laneDispatch_overruns shelf free unit blocks past)
  · exact congrArg _ (laneDispatch_waits shelf free unit fits missing)
  case takes =>
    exact ⟨_, congrArg _ (laneDispatch_takes shelf free unit fits queued), (setShelf_frame s west _).2,
      vmod_getD_same s.upk.lanes ⟨l, freeLane_lt free⟩ _ none⟩
  · exact congrArg _ (laneDispatch_idle idle)
  case lanes =>
    rintro y b w held rfl rfl
    refine ⟨vmod_getD_same s.upk.lanes lane _ none, fun gone => congrArg _ (laneFinish_gone held gone), ?_⟩
    rintro x r shelf rfl
    exact ⟨fun c fails => congrArg _ (laneFinish_fails held shelf fails),
      fun out decodes => congrArg _ (laneFinish_lands held shelf decodes)⟩
  · exact congrArg _ (laneFinish_empty empty)
  case clears =>
    have legal : EastLanesLegal (v ||| 2) := by simpa only [EastLanesLegal, bits_or_cntClr] using ⟨low, high, eighth⟩
    exact ⟨_, (exec_upkCntClr hw on v).trans (congrArg _ (upkCtlWrite_clears legal (by simp [bit]))), rfl, rfl, rfl, rfl,
      eastLanes_or_cntClr v, rfl⟩
  · rw [exec_upkCntClr hw on, upkCtlWrite_refused fun legal => by have := bits_or_cntClr v ▸ legal.1; omega]
  case zero =>
    exact ⟨_, exec_armZero hw on v, rfl, bits_or_zero v ▸ armCtlWrite_zeroes (by simp [bit]), rfl⟩
  · exact ⟨_, exec_armErrClear hw on v, rfl, rfl, fun tag => by simp [armErrWrite, tag],
      fun key => by simp [armErrWrite, key]⟩

end Sys2Proof.Machine
end

section
/-! PROOFS. Control words: what PARK, TRAIN, timing words, CREDIT and RESYNC do to a port (R368, R369, R372, R374, R385, R386,
R388). -/

namespace Sys2Proof.Machine

/-! ### One port changed -/

/-- Two changes of a port that agree on the port as it stands are one. -/
theorem modPort_congr {s : State} {p : Nat} {f g : Port → Port} (h : f (portAt s p) = g (portAt s p)) :
    modPort s p f = modPort s p g := by
  have : vmod s.ports p f = vmod s.ports p g := by
    unfold vmod
    split
    · next hp =>
      have e : portAt s p = s.ports[p] := by simp [portAt, List.getD, hp]
      rw [← e, h]
    · rfl
  simp only [modPort, this]

/-- A change that leaves the port as it stands leaves every port as it stands. -/
theorem portAt_modPort_fixed {s : State} {p : Nat} {f : Port → Port} (h : f (portAt s p) = portAt s p) (r : Nat) :
    portAt (modPort s p f) r = portAt s r := by
  rw [portAt_modPort]
  split
  · next here => rw [← here.1, h]
  · rfl

/-! ### A control word by the state of its port (Table 11-3) -/

section
variable {s : State} {p : Nat} (ok : Nat → Bool) (f : State → State)

theorem ctlIn_parked (parked : (portAt s p).state = 6) : ctlIn s p ok f = enterIdent s p id :=
  if_pos (congrArg BitVec.toNat parked)

variable {ok} (awake : (portAt s p).state ≠ 6)
include awake

theorem ctlIn_acts (acts : ok (portAt s p).state.toNat = true) : ctlIn s p ok f = f s :=
  (if_neg fun h => awake (BitVec.eq_of_toNat_eq h)).trans (if_pos acts)

theorem ctlIn_ignored (idle : ok (portAt s p).state.toNat = false) : ctlIn s p ok f = s :=
  (if_neg fun h => awake (BitVec.eq_of_toNat_eq h)).trans (if_neg (by simp [idle]))

end

/-- Acknowledgements and credits flow in UP and RECOVER (R385, R403), and in no other state. -/
theorem linked_iff {v : BitVec 4} : linked v.toNat = true ↔ v = 3 ∨ v = 4 := by
  simp [linked, BitVec.toNat_eq]

theorem linked_false {v : BitVec 4} (h3 : v ≠ 3) (h4 : v ≠ 4) : linked v.toNat = false :=
  Bool.eq_false_iff.mpr fun h => (linked_iff.mp h).elim h3 h4

theorem stateIs_iff {v : BitVec 4} {n : Nat} (hn : n < 16) : (v.toNat == n) = true ↔ v = BitVec.ofNat 4 n := by
  simp [BitVec.toNat_eq, Nat.mod_eq_of_lt hn]

theorem stateIs_false {v : BitVec 4} {n : Nat} (hn : n < 16) (h : v ≠ BitVec.ofNat 4 n) : (v.toNat == n) = false :=
  Bool.eq_false_iff.mpr fun e => h ((stateIs_iff hn).mp e)

section
variable (s : State) (port : PortId)

theorem exec_park : exec (.park port) s = .next (modPort s port.val parkIn) := rfl

theorem exec_idle : exec (.idle port) s = .next (ctlIn s port.val (fun _ => false) id) := rfl

theorem exec_train (step : Nat) : exec (.train port step) s =
    .next (ctlIn s port.val (fun n => n == 1 || n == 2) fun s => trainIn s port.val step) := rfl

theorem exec_timingWord (time : BitVec 24) (hold : W16) : exec (.timingWord port time hold) s =
    .next (ctlIn s port.val (· == 2) fun s =>
      if (portAt s port.val).step == 6 then s.emit (.word port.val (.echo time hold)) else s) := rfl

theorem exec_echo (time arrival : BitVec 24) (hold : W16) : exec (.echo port arrival time hold) s =
    .next (ctlIn s port.val (· == 2) fun s => modPort s port.val fun q => echoIn q arrival time hold) := rfl

theorem exec_credit (vc : Fin 4) (freed : Nat) : exec (.credit port vc freed) s =
    .next (ctlIn s port.val linked fun s =>
      modPort s port.val fun q => { q with freed := vmod q.freed vc.val fun _ => freed % 65536 }) := rfl

theorem exec_resync (bulk prio : Nat) (valid : Bool) : exec (.resync port bulk prio valid) s =
    .next (ctlIn s port.val (fun n => linked n || n == 2) fun s => resyncIn s port.val bulk prio valid) := rfl

theorem exec_ack (prio : Bool) (first last : Nat) : exec (.ack port prio first last) s =
    .next (ctlIn s port.val linked fun s => modLink s port.val prio fun c =>
      { c with retry := c.retry.filter fun r => !seqIn r.frame.seq first last }) := rfl

theorem exec_nak (prio : Bool) (first last : Nat) : exec (.nak port prio first last) s =
    .next (ctlIn s port.val (· == 3) fun s => nakIn s port.val prio first last) := rfl

theorem exec_tail (prio : Bool) (next : Nat) : exec (.tail port prio next) s =
    .next (ctlIn s port.val (· == 3) fun s => tailIn s port.val prio (next % 4096)) := rfl

theorem exec_lost (seq : Nat) : exec (.lost port seq) s =
    .next (ctlIn s port.val (· == 3) fun s => place s port.val false (seq % 4096) none) := rfl

end

/-! ### PARK (R368) -/

theorem parkIn_lit {q : Port} (unlooped : q.inService = false)
    (lit : q.state = 1 ∨ q.state = 2 ∨ q.state = 3 ∨ q.state = 4 ∨ q.state = 5) : (parkIn q).state = 6 := by
  rcases lit with h | h | h | h | h <;> simp [parkIn, unlooped, h]

/-- A port closed on itself, or that is OFF, PARKED or in TEST, is not parked. -/
theorem parkIn_stays {q : Port} (h : q.inService = true ∨ q.state = 0 ∨ q.state = 6 ∨ q.state = 7) : parkIn q = q := by
  rcases h with h | h | h | h <;> simp [parkIn, h]

/-! ### TRAIN (R372) -/

/-- The port with the step that the far end has completed. -/
def peerStepTold (s : State) (p step : Nat) : State := modPort s p fun q => { q with peerStep := BitVec.ofNat 4 step }

@[simp] theorem tableAnchored_modPort (s : State) (p : Nat) (f : Port → Port) :
    tableAnchored (modPort s p f) = tableAnchored s := rfl

theorem trainIn_tells {s : State} {p : Nat} (step : Nat) (h : (portAt s p).state ≠ 2 ∨ (portAt s p).stepHere = false) :
    trainIn s p step = peerStepTold s p step := by
  rcases h with h | h
  · exact if_neg (by simpa using fun e => absurd e h)
  · exact if_neg (by simp [h])

theorem trainIn_goesOn {s : State} {p step : Nat} (training : (portAt s p).state = 2) (here : (portAt s p).stepHere = true)
    (anchored : tableAnchored s = true) (there : (portAt s p).step.toNat ≤ step % 16) :
    trainIn s p step = nextStep (peerStepTold s p step) p :=
  if_pos (by simp [training, here, there, anchored])

/-! ### Entering RECOVER (R385) -/

/-- The entries of a port into RECOVER within the last 100 ms. -/
def recentRecoveries (s : State) (p : Nat) : List W64 :=
  (portAt s p).recoveries.filter fun m => s.beat.ms.toNat < m.toNat + 100000

/-- A port in RECOVER, with the entry noted among those within 100 ms. -/
def recovering (ms : W64) (recent : List W64) (q : Port) : Port :=
  { q with recoveries := (ms :: recent).take 4, state := 4, peer := none, recov := satInc q.recov }

theorem enterRecover_notUp {s : State} {p : Nat} (h : (portAt s p).state ≠ 3) : enterRecover s p = s :=
  if_pos (by simpa using h)

section
variable {s : State} {p : PortId} (up : (portAt s p.val).state = 3)
include up

theorem portAt_enterRecover (few : (recentRecoveries s p.val).length < 3) :
    portAt (enterRecover s p.val) p.val = recovering s.beat.ms (recentRecoveries s p.val) (portAt s p.val) := by
  unfold recentRecoveries at few ⊢
  unfold enterRecover
  dsimp only
  rw [if_neg (by simp [up]), if_neg (Nat.not_le.mpr few), portAt_emit, portAt_modPort_same, portAt_modPort_same]
  rfl

theorem enterRecover_fourth (many : 3 ≤ (recentRecoveries s p.val).length) : enterRecover s p.val =
    enterDown (modPort s p.val fun q => { q with recoveries := (s.beat.ms :: recentRecoveries s p.val).take 4 }) p.val 9 0 := by
  unfold recentRecoveries at many ⊢
  unfold enterRecover
  dsimp only
  rw [if_neg (by simp [up]), if_pos many]

end

/-! ### RESYNC (R385, R386) -/

/-- The port with the far end's in-order points. -/
def peerTold (s : State) (p bulk prio : Nat) (valid : Bool) : State :=
  modPort s p fun q => { q with peer := some (bulk % 4096, prio % 4096, valid) }

theorem resyncIn_tells {s : State} {p : Nat} (bulk prio : Nat) (valid : Bool)
    (h : (portAt s p).state = 2 ∨ (portAt s p).state = 4) : resyncIn s p bulk prio valid = peerTold s p bulk prio valid := by
  have notUp : enterRecover s p = s := enterRecover_notUp (by rcases h with h | h <;> simp [h])
  rw [resyncIn, notUp]
  exact if_pos (by simpa using h)

theorem resyncIn_recovers {s : State} {p : PortId} (bulk prio : Nat) (valid : Bool) (up : (portAt s p.val).state = 3)
    (few : (recentRecoveries s p.val).length < 3) :
    resyncIn s p.val bulk prio valid = peerTold (enterRecover s p.val) p.val bulk prio valid :=
  if_pos (by rw [portAt_enterRecover up few]; rfl)

/-- Settles O39: each word by the state of its port (`ctlIn_parked`, `ctlIn_acts`, `ctlIn_ignored`), TRAIN by whether the port
waits for it (`trainIn_tells`, `trainIn_goesOn`), RESYNC by whether the port is UP (`resyncIn_tells`, `resyncIn_recovers`). -/
theorem controlWordsAct : Obligations.ControlWordsAct := by
  intro s port time arrival hold step freed bulk prio vc valid p q hp hq
  subst hp hq
  simp only [exec_park, exec_idle, exec_train, exec_timingWord, exec_echo, exec_credit, exec_resync]
  refine ⟨fun unlooped lit => ?parks, fun stays => ?_, fun parked => ?parked, ?_, enterIdent_agree s port id, fun awake => ?_,
    fun h1 h2 awake => ?_, ?tells, fun training here anchored _ last there => ?goesOn, fun awake h => ?timingElsewhere,
    fun awake h2 => ?_, fun training h6 => ⟨?timing, fun more => ?echo⟩, ?credit, fun h3 h4 awake => ?_, ?resync,
    fun up few => ?recovers, ?resyncElsewhere⟩
  case parks =>
    refine ⟨_, rfl, rfl, ?_, fun r other => portAt_modPort_other s _ (Ne.symm other)⟩
    rw [portAt_modPort_same, parkIn_lit unlooped lit]
  · exact ⟨_, rfl, portAt_modPort_fixed (parkIn_stays stays)⟩
  case parked =>
    intro c word
    simp only [List.mem_cons, List.not_mem_nil, or_false] at word
    rcases word with rfl | rfl | rfl | rfl | rfl | rfl | rfl | rfl | rfl | rfl <;>
      exact congrArg _ (ctlIn_parked _ _ parked)
  · rw [portAt_enterIdent]; rfl
  · exact congrArg _ (ctlIn_ignored _ awake rfl)
  · exact congrArg _ (ctlIn_ignored _ awake (by rw [stateIs_false (by decide) h1, stateIs_false (by decide) h2]; rfl))
  case tells =>
    rintro (h1 | ⟨h2, waits⟩)
    · exact congrArg _ ((ctlIn_acts _ (by simp [h1]) (by rw [h1]; rfl)).trans (trainIn_tells step (.inl (by simp [h1]))))
    · exact congrArg _ ((ctlIn_acts _ (by simp [h2]) (by rw [h2]; rfl)).trans (trainIn_tells step (.inr waits)))
  case goesOn =>
    have told : portAt (peerStepTold s port.val step) port.val =
        { portAt s port.val with peerStep := BitVec.ofNat 4 step } := portAt_modPort_same s port _
    have before : (portAt s port.val).step ≠ 7 := fun h => absurd last (by rw [h]; decide)
    obtain ⟨link, -, same, next, waitsNot⟩ := nextStep_spec (peerStepTold s port.val step) port (by rw [told]; exact before)
    rw [told] at same next
    exact ⟨_, congrArg _ ((ctlIn_acts _ (by simp [training]) (by rw [training]; rfl)).trans
      (trainIn_goesOn training here anchored there)), ((modPort_linkOnly s port.val _).trans link).eq, next, waitsNot,
      same.state.trans training⟩
  case timingElsewhere =>
    by_cases training : (portAt s port.val).state = 2
    · have other : (portAt s port.val).step ≠ 6 := h.resolve_left (not_not_intro training)
      exact congrArg _ ((ctlIn_acts _ awake (by rw [training]; rfl)).trans (if_neg (by simpa using other)))
    · exact congrArg _ (ctlIn_ignored _ awake (stateIs_false (by decide) training))
  · exact congrArg _ (ctlIn_ignored _ awake (stateIs_false (by decide) h2))
  case timing =>
    exact congrArg _ ((ctlIn_acts _ (by simp [training]) (by rw [training]; rfl)).trans (if_pos (by simp [h6])))
  case echo =>
    exact congrArg _ ((ctlIn_acts _ (by simp [training]) (by rw [training]; rfl)).trans
      (modPort_congr (if_pos (by simp [h6, more]))))
  case credit =>
    intro up
    have acts : linked (portAt s port.val).state.toNat = true := linked_iff.mpr up
    refine ⟨_, congrArg _ (ctlIn_acts _ (by rcases up with h | h <;> simp [h]) acts), rfl, ?_⟩
    rw [portAt_modPort_same]
    exact ⟨vmod_getD_same _ vc _ 0, rfl, rfl⟩
  · exact congrArg _ (ctlIn_ignored _ awake (linked_false h3 h4))
  case resync =>
    intro h
    refine congrArg _ ((ctlIn_acts _ ?_ ?_).trans (resyncIn_tells bulk prio valid h))
    · rcases h with h | h <;> simp [h]
    · rcases h with h | h <;> rw [h] <;> rfl
  case recovers =>
    have recover := portAt_enterRecover up few
    refine ⟨_, congrArg _ ((ctlIn_acts _ (by simp [up]) (by rw [up]; rfl)).trans
      (resyncIn_recovers bulk prio valid up few)), ?_⟩
    rw [peerTold, portAt_modPort_same, recover]
    exact ⟨rfl, rfl, rfl, (enterRecover_frame s port.val).2⟩
  case resyncElsewhere =>
    intro h
    refine congrArg _ (ctlIn_ignored _ ?_ ?_)
    · rcases h with h | h | h | h <;> simp [h]
    · rcases h with h | h | h | h <;> rw [h] <;> rfl

end Sys2Proof.Machine
end

section
/-! PROOFS. ACK, NAK, TAIL, loss of light and recovery (R381 to R385). -/

namespace Sys2Proof.Machine

/-! ### One class of a port changed -/

@[simp] theorem classOf_modClass_same (q : Port) (prio : Bool) (f : LinkClass → LinkClass) :
    classOf (modClass q prio f) prio = f (classOf q prio) := by cases prio <;> rfl

@[simp] theorem classOf_modClass_other (q : Port) (prio : Bool) (f : LinkClass → LinkClass) :
    classOf (modClass q prio f) (!prio) = classOf q (!prio) := by cases prio <;> rfl

@[simp] theorem modClass_state (q : Port) (prio : Bool) (f : LinkClass → LinkClass) : (modClass q prio f).state = q.state := by
  cases prio <;> rfl

@[simp] theorem portAt_modLink_same (s : State) (p : PortId) (prio : Bool) (f : LinkClass → LinkClass) :
    portAt (modLink s p.val prio f) p.val = modClass (portAt s p.val) prio f := portAt_modPort_same s p _

/-! ### NAK (R382, R384) -/

/-- A class with the frames of a range marked to be sent again. -/
def markedAgain (first last : Nat) (c : LinkClass) : LinkClass :=
  { c with retry := c.retry.map fun r => if seqIn r.frame.seq first last then { r with again := true } else r }

/-- The frames of a range that have been sent again eight times, and are not about to be sent again. -/
def spentIn (c : LinkClass) (first last : Nat) : List TxRec :=
  (c.retry.filter fun r => seqIn r.frame.seq first last && !r.again).filter fun r => 8 ≤ r.tries

theorem mem_spentIn {c : LinkClass} {first last : Nat} {r : TxRec} : r ∈ spentIn c first last ↔
    r ∈ c.retry ∧ seqIn r.frame.seq first last = true ∧ r.again = false ∧ 8 ≤ r.tries := by
  simp only [spentIn, List.mem_filter, Bool.and_eq_true, Bool.not_eq_true', decide_eq_true_eq, and_assoc]

theorem spentIn_fresh {c : LinkClass} (first last : Nat) (fresh : ∀ r ∈ c.retry, r.tries < 8) : spentIn c first last = [] :=
  List.eq_nil_iff_forall_not_mem.mpr fun r spent => by
    obtain ⟨kept, -, -, tries⟩ := mem_spentIn.mp spent
    exact absurd (fresh r kept) (Nat.not_lt.mpr tries)

/-- Shelf flits given up, each with its LOST. -/
def givenUp (s : State) (p : Nat) (rs : List TxRec) : State := rs.foldl (fun s r => giveUp s p r.frame.seq) s

theorem givenUp_outs (s : State) (p : Nat) (rs : List TxRec) :
    (givenUp s p rs).outs = (rs.map fun r => Out.word p (.lost r.frame.seq)).reverse ++ s.outs := by
  unfold givenUp
  induction rs generalizing s with
  | nil => rfl
  | cons r rs ih =>
    rw [List.foldl_cons, ih, List.map_cons, List.reverse_cons, List.append_assoc]
    rfl

theorem givenUp_state (s : State) (p : PortId) (rs : List TxRec) :
    (portAt (givenUp s p.val rs) p.val).state = (portAt s p.val).state :=
  foldl_keeps (fun s => (portAt s p.val).state) _ (fun s r => by simp [giveUp]) rs s

section
variable {s : State} {p : Nat} {prio : Bool} {first last : Nat}

theorem nakIn_recovers {r : TxRec} (spent : r ∈ spentIn (classOf (portAt s p) prio) first last)
    (kept : isShelf r.frame.body = false) : nakIn s p prio first last = enterRecover s p :=
  if_pos (List.any_eq_true.mpr ⟨r, spent, by simp [kept]⟩)

theorem nakIn_marks (shelves : ∀ r ∈ spentIn (classOf (portAt s p) prio) first last, isShelf r.frame.body = true) :
    nakIn s p prio first last =
      modLink (givenUp s p (spentIn (classOf (portAt s p) prio) first last)) p prio (markedAgain first last) :=
  if_neg (by
    intro other
    obtain ⟨r, spent, kept⟩ := List.any_eq_true.mp other
    simp [shelves r spent] at kept)

end

/-! ### The end of RECOVER (R385) -/

/-- Of a class resent from the far end's in-order point, the frames from that point on are sent afresh. -/
theorem mem_resend {c : LinkClass} {point : Nat} {x : TxRec} (h : x ∈ (resend c point).retry) :
    x.again = true ∧ x.tries = 0 ∧ seqAfter x.frame.seq point < 2048 := by
  simp only [resend, List.mem_map, List.mem_filter, decide_eq_true_eq] at h
  obtain ⟨r, ⟨-, after⟩, rfl⟩ := h
  exact ⟨rfl, rfl, after⟩

theorem recoveryEnd_resumes {s : State} {p b r : Nat} {v : Bool} (recovers : (portAt s p).state = 4)
    (told : (portAt s p).peer = some (b, r, v)) : recoveryEnd s p = resume s p b r := by
  simp [recoveryEnd, recovers, told]

theorem recoveryEnd_stays {s : State} {p : Nat} (h : (portAt s p).state ≠ 4 ∨ (portAt s p).peer = none) :
    recoveryEnd s p = s := by
  unfold recoveryEnd
  dsimp only
  split
  · rfl
  · next recovers =>
    rw [h.resolve_left (not_not_intro (by simpa using recovers))]

/-! ### Loss of light (R385) -/

/-- A port that measures no power (R375). -/
def unlit (q : Port) : Port := { q with rxPower := Vector.replicate 8 0x80 }

theorem recentRecoveries_unlit (s : State) (p : PortId) :
    recentRecoveries (modPort s p.val unlit) p.val = recentRecoveries s p.val := by
  simp only [recentRecoveries, portAt_modPort_same, modPort_beat]
  rfl

section
variable (s : State) (port : PortId)

theorem exec_lossOfLight : exec (.lossOfLight port) s = .next (enterRecover (modPort s port.val unlit) port.val) := rfl

theorem exec_recoveryEnd : exec (.recoveryEnd port) s = .next (recoveryEnd s port.val) := rfl

theorem exec_recoveryTimeout : exec (.recoveryTimeout port) s =
    .next (if (portAt s port.val).state == 4 then enterDown s port.val 10 0 else s) := rfl

theorem exec_tailSend (prio : Bool) : exec (.tailSend port prio) s =
    .next (if (portAt s port.val).state == 3 then
      s.emit (.word port.val (.tail prio (classOf (portAt s port.val) prio).next)) else s) := rfl

theorem exec_ackTimeout : exec (.ackTimeout port) s =
    .next (if (portAt s port.val).bulk.retry.any (timerRuns s port.val false) ||
      (portAt s port.val).prio.retry.any (timerRuns s port.val true) then enterRecover s port.val else s) := rfl

end

/-- Settles O40: a NAK by the frames that it finds spent (`nakIn_marks`, `nakIn_recovers`), entries into RECOVER by
`portAt_enterRecover` and `enterRecover_fourth`, its end by `recoveryEnd_resumes` and `mem_resend`. -/
theorem retransmissionAndRecovery : Obligations.RetransmissionAndRecovery := by
  intro s port prio first last p q hp hq
  subst hp hq
  simp only [exec_ack, exec_nak, exec_tailSend, exec_lossOfLight, exec_ackTimeout, exec_recoveryEnd, exec_recoveryTimeout]
  refine ⟨?acks, fun h3 h4 awake => ?_, fun up fresh => ?marks, fun r kept up named waits tries => ⟨fun other => ?spent,
    fun shelves => ?givesUp⟩, fun h3 awake => ?_, fun up => ?_, fun h3 => ?_, fun up few => ⟨?dark, fun runs => ?late⟩,
    fun up many => ?fourth, fun h3 => ?_, fun bulk prio => ?_, fun b r v recovers told => ?resumes, fun h => ?_,
    fun recovers => ?limit, fun h4 => ?_⟩
  case acks =>
    intro up
    refine ⟨_, congrArg _ (ctlIn_acts _ (by rcases up with h | h <;> simp [h]) (linked_iff.mpr up)), rfl, fun r => ?_, ?_, ?_⟩
    · rw [portAt_modLink_same, classOf_modClass_same]
      simp
    · rw [portAt_modLink_same, classOf_modClass_other]
    · rw [portAt_modLink_same, modClass_state]
  · exact congrArg _ (ctlIn_ignored _ awake (linked_false h3 h4))
  case marks =>
    have nothing := spentIn_fresh first last fresh
    have marked := nakIn_marks (s := s) (p := port.val) (prio := prio) (first := first) (last := last) (by simp [nothing])
    rw [nothing] at marked
    refine ⟨_, congrArg _ ((ctlIn_acts _ (by simp [up]) (by rw [up]; rfl)).trans marked), rfl, ?_, ?_⟩
    · rw [portAt_modLink_same, classOf_modClass_same]; rfl
    · rw [portAt_modLink_same, classOf_modClass_other]; rfl
  case spent =>
    exact congrArg _ ((ctlIn_acts _ (by simp [up]) (by rw [up]; rfl)).trans
      (nakIn_recovers (mem_spentIn.mpr ⟨kept, named, waits, tries⟩) other))
  case givesUp =>
    have spent := mem_spentIn.mpr ⟨kept, named, waits, tries⟩
    have marked := nakIn_marks (s := s) (p := port.val) (prio := prio) (first := first) (last := last)
      fun z hz => shelves z (mem_spentIn.mp hz).1
    refine ⟨_, congrArg _ ((ctlIn_acts _ (by simp [up]) (by rw [up]; rfl)).trans marked), ?_, ?_,
      marked ▸ (nakIn_frame s port.val prio first last).2⟩
    · have lost : Out.word port.val (.lost r.frame.seq) ∈ (givenUp s port.val (spentIn (classOf (portAt s port.val) prio)
          first last)).outs := by
        rw [givenUp_outs]
        exact List.mem_append_left _ (List.mem_reverse.mpr (List.mem_map_of_mem spent))
      exact lost
    · rw [portAt_modLink_same, modClass_state, givenUp_state, up]
  · exact congrArg _ (ctlIn_ignored _ awake (stateIs_false (by decide) h3))
  · rw [if_pos (by simp [up])]
  · rw [if_neg (by simpa using h3)]
  case dark =>
    have dark := portAt_modPort_same s port unlit
    have recover := portAt_enterRecover (s := modPort s port.val unlit) (p := port) (by rw [dark]; exact up)
      (by rw [recentRecoveries_unlit]; exact few)
    rw [dark] at recover
    refine ⟨_, rfl, ?_⟩
    rw [recover]
    exact ⟨rfl, rfl, rfl, rfl, (enterRecover_frame (modPort s port.val unlit) port.val).2⟩
  case late =>
    rw [if_pos (by simpa using runs)]
    exact ⟨_, rfl, by rw [portAt_enterRecover up few]; rfl, (enterRecover_frame s port.val).2⟩
  case fourth =>
    have dark := portAt_modPort_same s port unlit
    have down := enterRecover_fourth (s := modPort s port.val unlit) (p := port) (by rw [dark]; exact up)
      (by rw [recentRecoveries_unlit]; exact many)
    obtain ⟨hstate, hcause, -, -⟩ := portAt_enterDown (modPort (modPort s port.val unlit) port.val fun q => { q with
      recoveries := (s.beat.ms :: recentRecoveries (modPort s port.val unlit) port.val).take 4 }) port 9 0
    exact ⟨_, congrArg _ down, hstate, hcause, down ▸ (enterRecover_frame (modPort s port.val unlit) port.val).2⟩
  · rw [enterRecover_notUp (by rw [portAt_modPort_same]; exact h3)]
    rfl
  · rw [if_neg (by simp [bulk, prio])]
  case resumes =>
    obtain ⟨hstate, -, hbulk, -⟩ := resume_port s port b r
    refine ⟨_, congrArg _ (recoveryEnd_resumes recovers told), hstate, ?_⟩
    rw [hbulk]
    exact ⟨rfl, rfl, fun x => mem_resend, (resume_frame s port.val b r).2⟩
  · rw [recoveryEnd_stays h]
  case limit =>
    obtain ⟨hstate, hcause, -, -⟩ := portAt_enterDown s port 10 0
    exact ⟨_, congrArg _ (if_pos (by simp [recovers])), hstate, hcause, (enterDown_frame s port.val 10 0).2⟩
  · rw [if_neg (by simpa using h4)]

end Sys2Proof.Machine
end

section
/-! PROOFS. What the delivery of a frame leaves alone: the sequence state of every port, and what the log holds already. -/

namespace Sys2Proof.Machine

/-- `t` keeps the sequence state of every port of `s`, and all that was sent up to `s`. -/
structure LinksKept (s t : State) : Prop where
  link : ∀ r, SameLink (portAt s r) (portAt t r)
  log : ∀ o ∈ s.outs, o ∈ t.outs

theorem LinksKept.refl (s : State) : LinksKept s s := ⟨fun _ => .refl _, fun _ h => h⟩

theorem LinksKept.trans {s t u : State} (h : LinksKept s t) (k : LinksKept t u) : LinksKept s u :=
  ⟨fun r => (h.link r).trans (k.link r), fun o ho => k.log o (h.log o ho)⟩

theorem LinksKept.ite {s t u : State} {c : Prop} [Decidable c] (ht : LinksKept s t) (hu : LinksKept s u) :
    LinksKept s (if c then t else u) := by
  split
  · exact ht
  · exact hu

/-- One more operation, under a condition. -/
theorem LinksKept.andThen {s t u : State} {c : Prop} [Decidable c] (h : LinksKept s t) (k : LinksKept t u) :
    LinksKept s (if c then u else t) := .ite (h.trans k) h

/-- One more operation, unless a condition holds. -/
theorem LinksKept.orElse {s t u : State} {c : Prop} [Decidable c] (h : LinksKept s t) (k : LinksKept t u) :
    LinksKept s (if c then t else u) := .ite h (h.trans k)

theorem LinksKept.foldl {α : Type} {f : State → α → State} (h : ∀ s x, LinksKept s (f s x)) (l : List α) (s : State) :
    LinksKept s (l.foldl f s) := by
  induction l generalizing s with
  | nil => exact .refl s
  | cons x l ih => exact (h s x).trans (ih _)

theorem linksKept_of_same {s t : State} (ports : t.ports = s.ports := by rfl) (outs : t.outs = s.outs := by rfl) :
    LinksKept s t :=
  ⟨fun r => by rw [show portAt t r = portAt s r by rw [portAt, ports, portAt]]; exact .refl _, fun o ho => outs ▸ ho⟩

theorem modPort_linksKept {s : State} {p : Nat} {f : Port → Port} (hf : ∀ q, SameLink q (f q)) :
    LinksKept s (modPort s p f) :=
  ⟨fun r => portAt_modPort_sameLink s p r hf, fun _ h => h⟩

theorem emit_linksKept (s : State) (o : Out) : LinksKept s (s.emit o) :=
  ⟨fun _ => .refl _, fun _ => List.mem_cons_of_mem _⟩

/-! ### Events -/

theorem setQueue_linksKept (s : State) (fn : Nat) (q : EvtQueue) : LinksKept s (setQueue s fn q) :=
  .ite linksKept_of_same linksKept_of_same

theorem writeRecord_linksKept (s : State) (fn : Nat) (r : EvtRec) : LinksKept s (writeRecord s fn r) :=
  ((emit_linksKept s _).orElse (emit_linksKept _ _)).trans (setQueue_linksKept _ _ _)

theorem raiseIbi_linksKept (s : State) : LinksKept s (raiseIbi s) :=
  .ite ((emit_linksKept s _).trans linksKept_of_same) (.refl s)

theorem reportLost_linksKept (s : State) (fn : Nat) : LinksKept s (reportLost s fn) :=
  .ite ((writeRecord_linksKept s fn _).trans (setQueue_linksKept _ _ _)) (.refl s)

theorem offer_linksKept (s : State) (fn : Nat) (r : EvtRec) : LinksKept s (offer s fn r) :=
  .ite (.refl s) ((reportLost_linksKept s fn).trans
    (.ite (writeRecord_linksKept _ _ _) ((setQueue_linksKept _ _ _).andThen (raiseIbi_linksKept _))))

theorem post_linksKept (s : State) (cls kind : Nat) (ctx : Option Ctx) (b : EvtBody) : LinksKept s (post s cls kind ctx b) := by
  have drawn : LinksKept s (s.drawn 1) := linksKept_of_same
  have first := drawn.trans (offer_linksKept _ 0 (mkRecord s cls kind ctx b))
  cases ctx with
  | none => exact first
  | some t => exact first.andThen (offer_linksKept _ _ _)

theorem postReg_linksKept (s : State) (cls : Nat) (ctx : Option Ctx) (off bitNo : Nat) (detail : W64) :
    LinksKept s (postReg s cls ctx off bitNo detail) := post_linksKept s cls 0 ctx _

/-! ### The cupboard -/

theorem modCore_linksKept (s : State) (n : Nat) (f : Core → Core) : LinksKept s (modCore s n f) := linksKept_of_same

theorem noteUe_linksKept (s : State) (a : Nat) (core : Option Nat) (reader : Nat) : LinksKept s (noteUe s a core reader) :=
  (modCore_linksKept s _ _).orElse (postReg_linksKept _ 4 none _ 23 _)

theorem correctRead_linksKept (s : State) (a n : Nat) : LinksKept s (correctRead s a n) :=
  .trans linksKept_of_same (.foldl (fun s _ => modCore_linksKept s _ _) _ _)

theorem writeWord_linksKept (s : State) (a : Nat) (bs : List Byte) (core : Option Nat) : LinksKept s (writeWord s a bs core) :=
  .ite linksKept_of_same (.ite (noteUe_linksKept s _ core _)
    ((correctRead_linksKept s _ 8).trans linksKept_of_same))

theorem writeSpan_linksKept (k : Nat) (s : State) (a : Nat) (bs : List Byte) (core : Option Nat) :
    LinksKept s (writeSpan k s a bs core) := by
  induction k generalizing s a bs with
  | zero => exact .refl s
  | succ k ih => exact .ite (.refl s) ((writeWord_linksKept s a _ core).trans (ih _ _ _))

theorem cupWrite_linksKept (s : State) (a : Nat) (bs : List Byte) (core : Option Nat) : LinksKept s (cupWrite s a bs core) :=
  writeSpan_linksKept _ s a bs core

theorem encWrite_linksKept (s : State) (west : Bool) (k x : Nat) (bs : List Byte) : LinksKept s (encWrite s west k x bs) :=
  (cupWrite_linksKept s _ _ none).orElse (cupWrite_linksKept _ _ _ none)

/-! ### Shelves and the unpacker -/

theorem setArr_linksKept (s : State) (west : Bool) (x : Option Shelf) : LinksKept s (setArr s west x) := by
  cases west <;> exact linksKept_of_same

theorem setHeld_linksKept (s : State) (west : Bool) (x : Option Shelf) : LinksKept s (setHeld s west x) := by
  cases west <;> exact linksKept_of_same

theorem setShelf_linksKept (s : State) (west : Bool) (x : Shelf) : LinksKept s (setShelf s west x) :=
  .ite (setHeld_linksKept s west _) (.ite (setArr_linksKept s west _) (.refl s))

theorem freeShelf_linksKept (s : State) (west : Bool) (b : W64) : LinksKept s (freeShelf s west b) := linksKept_of_same

theorem poisonSending_linksKept (s : State) (west : Bool) (b : W64) : LinksKept s (poisonSending s west b) :=
  .ite (.refl s) (.ite linksKept_of_same linksKept_of_same)

theorem notePoison_linksKept (s : State) (g : Nat) : LinksKept s (notePoison s g) :=
  .trans linksKept_of_same (postReg_linksKept _ 2 none 0x60018 23 _)

theorem damage_linksKept (s : State) (west : Bool) (x : Shelf) (cause : Nat) : LinksKept s (damage s west x cause) :=
  .ite (.refl s) (.andThen
    (.orElse
      (.trans (.trans (.ite linksKept_of_same (.ite linksKept_of_same linksKept_of_same))
        (setShelf_linksKept _ west _)) (freeShelf_linksKept _ west _))
      (poisonSending_linksKept _ west _))
    (notePoison_linksKept _ _))

theorem landBytes_linksKept (k : Nat) (s : State) (west : Bool) (x : Shelf) (o : Nat) (bs : List Byte) :
    LinksKept s (landBytes k s west x o bs) := by
  have taken (s : State) (core i : Nat) : LinksKept s (takeSlot s x core west i) := linksKept_of_same
  induction k generalizing s o bs with
  | zero => exact .refl s
  | succ k ih => exact .ite (.refl s) (((taken s _ _).trans (cupWrite_linksKept _ _ _ none)).trans (ih _ _ _))

theorem checkTag_linksKept (s : State) (west : Bool) (x : Shelf) : LinksKept s (checkTag s west x) := by
  unfold checkTag
  split
  · exact .refl s
  · exact .ite (.refl s) (.ite (setShelf_linksKept s west _) (damage_linksKept s west x 5))

theorem checkIndex_linksKept (s : State) (west : Bool) (x : Shelf) : LinksKept s (checkIndex s west x) := by
  unfold checkIndex
  split
  · refine .ite (.refl s) ?_
    split
    · exact (noteUe_linksKept s _ none _).trans (damage_linksKept _ west x 7)
    · exact .ite (.refl s) (damage_linksKept s west x 4)
  · exact .refl s

theorem settleBad_linksKept (s : State) (west : Bool) (b : W64) : LinksKept s (settleBad s west b) := by
  unfold settleBad
  split
  · exact .ite (damage_linksKept s west _ _) (.refl s)
  · exact .refl s

/-- The check of the tag of a stream's shelf of beat `b`, and the check of its index table. -/
def tagChecked (s : State) (west : Bool) (b : W64) : State :=
  match shelfAt s west b with
  | some x => checkTag s west x
  | none => s

def indexChecked (s : State) (west : Bool) (b : W64) : State :=
  match shelfAt s west b with
  | some x => checkIndex s west x
  | none => s

theorem finishChecks_eq (s : State) (west : Bool) (b : W64) :
    finishChecks s west b = indexChecked (tagChecked (settleBad s west b) west b) west b := rfl

theorem tagChecked_linksKept (s : State) (west : Bool) (b : W64) : LinksKept s (tagChecked s west b) := by
  unfold tagChecked
  split
  · exact checkTag_linksKept s west _
  · exact .refl s

theorem indexChecked_linksKept (s : State) (west : Bool) (b : W64) : LinksKept s (indexChecked s west b) := by
  unfold indexChecked
  split
  · exact checkIndex_linksKept s west _
  · exact .refl s

theorem finishChecks_linksKept (s : State) (west : Bool) (b : W64) : LinksKept s (finishChecks s west b) := by
  rw [finishChecks_eq]
  exact ((settleBad_linksKept s west b).trans (tagChecked_linksKept _ west b)).trans (indexChecked_linksKept _ west b)

theorem noteSpill_linksKept (s : State) (west : Bool) (x : Shelf) (port : Nat) : LinksKept s (noteSpill s west x port) :=
  .ite (.refl s) (((setShelf_linksKept s west _).trans linksKept_of_same).andThen (postReg_linksKept _ 2 none _ 0 _))

theorem queueFlit_linksKept (s : State) (west : Bool) (x : Shelf) (port o n : Nat) (bs : List Byte) :
    LinksKept s (queueFlit s west x port o n bs) :=
  .ite (.refl s) (.ite (.andThen linksKept_of_same (landBytes_linksKept _ _ west x o _))
    (.trans linksKept_of_same (noteSpill_linksKept _ west x port)))

/-! ### Shelf flits -/

theorem countFlit_linksKept (s : State) (port : Nat) : LinksKept s (countFlit s port) :=
  modPort_linksKept fun _ => ⟨rfl, rfl, rfl, rfl⟩

theorem countOwed_linksKept (s : State) (port : Nat) : LinksKept s (countOwed s port) :=
  modPort_linksKept fun _ => ⟨rfl, rfl, rfl, rfl⟩

theorem flitIn_linksKept (s : State) (port : Nat) (data : List Byte) : LinksKept s (flitIn s port data) := by
  have counted := countFlit_linksKept s port
  refine .ite (countOwed_linksKept s port) (.ite counted (.orElse counted ?_))
  dsimp only
  split
  · exact (encWrite_linksKept _ _ _ _ _).trans ((queueFlit_linksKept _ _ _ _ _ _ _).trans (finishChecks_linksKept _ _ _))
  · exact encWrite_linksKept _ _ _ _ _

/-- The note on a stream that a flit of it was given up. -/
def flitMissed (s : State) (west : Bool) : State :=
  if west then { s with wrg := { s.wrg with lostW := true } } else { s with wrg := { s.wrg with lostE := true } }

/-- The shelf that arrives in this beat, where its header is known, is poisoned and decodes no further. -/
def arrivingPoisoned (s : State) (west : Bool) : State :=
  match (arrOf s west).filter (·.beat == s.beat.count) with
  | some x => freeShelf (setArr s west (some { x with poison := true, stopped := true })) west x.beat
  | none => s

theorem flitLost_eq (s : State) (port : Nat) : flitLost s port =
    if 0 < (portAt s port).shelfOwed then countOwed s port
    else arrivingPoisoned (flitMissed (countFlit s port) (decide (2 ≤ port))) (decide (2 ≤ port)) := rfl

theorem flitMissed_linksKept (s : State) (west : Bool) : LinksKept s (flitMissed s west) :=
  .ite linksKept_of_same linksKept_of_same

theorem arrivingPoisoned_linksKept (s : State) (west : Bool) : LinksKept s (arrivingPoisoned s west) := by
  unfold arrivingPoisoned
  split
  · exact (setArr_linksKept s west _).trans (freeShelf_linksKept _ west _)
  · exact .refl s

theorem flitLost_linksKept (s : State) (port : Nat) : LinksKept s (flitLost s port) := by
  rw [flitLost_eq]
  exact .ite (countOwed_linksKept s port)
    (((countFlit_linksKept s port).trans (flitMissed_linksKept _ _)).trans (arrivingPoisoned_linksKept _ _))

/-! ### The Hutch -/

theorem misroute_linksKept (s : State) (ev : Bool) : LinksKept s (misroute s ev) :=
  .andThen linksKept_of_same (postReg_linksKept _ 5 none 0x40004 8 0)

theorem countDiscard_linksKept (s : State) : LinksKept s (countDiscard s) := .ite (.refl s) linksKept_of_same

theorem giveCredit_linksKept (s : State) (p code : Nat) : LinksKept s (giveCredit s p code) := by
  refine .trans ?_ (emit_linksKept _ _)
  exact modPort_linksKept fun _ => ⟨rfl, rfl, rfl, rfl⟩

theorem enqueue_linksKept (s : State) (out : Nat) (o : OutFrame) : LinksKept s (enqueue s out o) :=
  modPort_linksKept fun q => by
    split <;> exact ⟨rfl, rfl, rfl, rfl⟩

theorem forward_linksKept (s : State) (input : Nat) (f : Frame) : LinksKept s (forward s input f) := by
  unfold forward
  split
  · exact .refl s
  · split
    · exact enqueue_linksKept s _ _
    · exact emit_linksKept s _
    · exact misroute_linksKept s true

/-- A frame handed to the Hutch leaves the sequence state of the ports. -/
theorem deliver_linksKept (s : State) (p : Nat) (prio : Bool) (x : Option Frame) : LinksKept s (deliver s p prio x) := by
  unfold deliver
  split
  · exact flitLost_linksKept s p
  · refine .ite ((misroute_linksKept s false).trans (giveCredit_linksKept _ p _))
      (.ite ((countDiscard_linksKept s).trans (giveCredit_linksKept _ p _)) ?_)
    split
    · exact .trans (.ite (flitIn_linksKept s p _) (misroute_linksKept s false)) (giveCredit_linksKept _ p _)
    · split
      · exact forward_linksKept s p _
      · exact (forward_linksKept s p _).trans (giveCredit_linksKept _ p _)

end Sys2Proof.Machine
end

section
/-! PROOFS. Frames and shelf flits taken in order, LOST, TAIL, and what is only counted (R369, R379, R381, R382, R384, R404). -/

namespace Sys2Proof.Machine

/-! ### Distances between sequence numbers (R380) -/

theorem seqAfter_self (n : Nat) : seqAfter n n = 0 := by
  unfold seqAfter
  omega

theorem seqAfter_ahead {n k : Nat} (hk : k < 4096) : seqAfter ((n + k) % 4096) n = k := by
  unfold seqAfter
  omega

/-- Where nothing is held, the highest number received is the one before the in-order point. -/
theorem frontier_empty {c : LinkClass} (empty : c.held = []) (lt : c.expected < 4096) : frontier c = c.expected := by
  rw [frontier, empty]
  exact Nat.mod_eq_of_lt lt

/-! ### A number takes its place (R381, R384) -/

theorem SameLink.sameClass {q r : Port} (h : SameLink q r) (prio : Bool) : classOf r prio = classOf q prio := by
  cases prio
  · exact h.bulk
  · exact h.prio

/-- A class that holds one more number. -/
def holding (n : Nat) (x : Option Frame) (c : LinkClass) : LinkClass := { c with held := c.held ++ [(n, x)] }

/-- A class whose in-order point passes the number expected. -/
def passing (n : Nat) (c : LinkClass) : LinkClass :=
  { c with expected := (c.expected + 1) % 4096, held := c.held.filter fun h => h.1 != n }

theorem drainHeld_one {s : State} {p n : Nat} {prio : Bool} {x : Option Frame}
    (found : (classOf (portAt s p) prio).held.find? (fun h => h.1 == (classOf (portAt s p) prio).expected) = some (n, x)) :
    drainHeld 1 s p prio = deliver (modLink s p prio (passing n)) p prio x := by
  simp only [drainHeld, found]
  rfl

theorem place_again {s : State} {p : Nat} {prio : Bool} {n : Nat} (x : Option Frame)
    (old : 2048 ≤ seqAfter n (classOf (portAt s p) prio).expected) : place s p prio n x = s := if_pos (by simp [old])

/-- The number expected takes its place: the in-order point rises by one, and nothing is held. -/
structure TakenInOrder (s t : State) (p : Nat) (prio : Bool) : Prop where
  expected : (classOf (portAt t p) prio).expected = ((classOf (portAt s p) prio).expected + 1) % 4096
  held : (classOf (portAt t p) prio).held = []
  log : ∀ o ∈ s.outs, o ∈ t.outs

/-- Where nothing is held, the number expected is delivered at once and alone. -/
theorem place_expected {s : State} {p : PortId} {prio : Bool} {n : Nat} (x : Option Frame)
    (empty : (classOf (portAt s p.val) prio).held = []) (next : n = (classOf (portAt s p.val) prio).expected) :
    place s p.val prio n x =
      deliver (modLink (modLink s p.val prio (holding n x)) p.val prio (passing n)) p.val prio x := by
  have holds : classOf (portAt (modLink s p.val prio (holding n x)) p.val) prio =
      holding n x (classOf (portAt s p.val) prio) := by
    rw [portAt_modLink_same, classOf_modClass_same]
  have drained := drainHeld_one (s := modLink s p.val prio (holding n x)) (p := p.val) (n := n) (prio := prio) (x := x)
    (by rw [holds]; simp [holding, empty, next])
  rw [← drained, place]
  dsimp only
  rw [if_neg (by simp [next, seqAfter_self, empty]), empty]
  rfl

theorem place_takes {s : State} {p : PortId} {prio : Bool} {n : Nat} (x : Option Frame)
    (empty : (classOf (portAt s p.val) prio).held = []) (next : n = (classOf (portAt s p.val) prio).expected) :
    TakenInOrder s (place s p.val prio n x) p.val prio := by
  obtain ⟨link, log⟩ := deliver_linksKept (modLink (modLink s p.val prio (holding n x)) p.val prio (passing n)) p.val prio x
  have taken := (link p.val).sameClass prio
  simp only [portAt_modLink_same, classOf_modClass_same] at taken
  rw [← place_expected x empty next] at taken log
  exact ⟨by rw [taken]; rfl, by rw [taken]; simp [passing, holding, empty], log⟩

/-! ### A frame arrives (R379, R381, R382) -/

/-- An arrival is acknowledged; where it lies in no gap that it opens, that is all that is sent for it. -/
theorem receive_acknowledges {s : State} {p : Nat} {prio : Bool} {n : Nat} (f : Frame) (up : (portAt s p).state = 3)
    (near : seqAfter n (frontier (classOf (portAt s p) prio)) = 0 ∨
      2048 ≤ seqAfter n (frontier (classOf (portAt s p) prio))) :
    receive s p prio n f = place (s.emit (.word p (.ack prio n n))) p prio n (some f) := by
  have noGap : (decide (0 < seqAfter n (frontier (classOf (portAt s p) prio))) &&
      decide (seqAfter n (frontier (classOf (portAt s p) prio)) < 2048)) = false := by
    rcases near with h | h <;> simp [h]
  unfold receive
  dsimp only
  rw [if_neg (by simp [up]), noGap]
  rfl

section
variable {s : State} {p : PortId} {prio : Bool} {n : Nat} (f : Frame) (up : (portAt s p.val).state = 3)
  (empty : (classOf (portAt s p.val) prio).held = []) (lt : (classOf (portAt s p.val) prio).expected < 4096)
include up empty lt

theorem receive_inOrder (next : n = (classOf (portAt s p.val) prio).expected) :
    TakenInOrder (s.emit (.word p.val (.ack prio n n))) (receive s p.val prio n f) p.val prio := by
  rw [receive_acknowledges f up (.inl (by rw [frontier_empty empty lt, next, seqAfter_self]))]
  exact place_takes (s := s.emit _) (some f) empty next

theorem receive_again (old : 2048 ≤ seqAfter n (classOf (portAt s p.val) prio).expected) :
    receive s p.val prio n f = s.emit (.word p.val (.ack prio n n)) := by
  rw [receive_acknowledges f up (.inr (by rwa [frontier_empty empty lt]))]
  exact place_again (some f) old

end

/-! ### TAIL (R381) -/

/-- Consecutive numbers are one range. -/
theorem ranges_consecutive (a k : Nat) :
    ranges ((List.range (k + 1)).map fun i => (a + i) % 4096) = [(a % 4096, (a + k) % 4096)] := by
  induction k generalizing a with
  | zero => rfl
  | succ k ih =>
    have rest : (List.range (k + 1)).map ((fun i => (a + i) % 4096) ∘ Nat.succ) =
        (List.range (k + 1)).map fun i => (a + 1 + i) % 4096 :=
      List.map_congr_left fun i _ => congrArg (· % 4096) (by simp only [Nat.succ_eq_add_one]; omega)
    have follows : ((a + 0) % 4096 + 1) % 4096 = (a + 1) % 4096 := by omega
    rw [List.range_succ_eq_map, List.map_cons, List.map_map, rest, ranges, ih]
    dsimp only
    rw [if_pos follows, Nat.add_zero, Nat.add_right_comm a 1 k, Nat.add_assoc]

section
variable {s : State} {p : Nat} {prio : Bool} (empty : (classOf (portAt s p) prio).held = [])
include empty

theorem tailIn_empty {next : Nat} (near : seqAfter next (classOf (portAt s p) prio).expected < 2048) :
    tailIn s p prio next =
      (ranges ((List.range (seqAfter next (classOf (portAt s p) prio).expected)).map fun i =>
        ((classOf (portAt s p) prio).expected + i) % 4096)).foldl (fun s r => s.emit (.word p (.nak prio r.1 r.2))) s := by
  unfold tailIn
  dsimp only
  rw [if_neg (Nat.not_le.mpr near), empty]
  simp

theorem tailIn_complete : tailIn s p prio (classOf (portAt s p) prio).expected = s := by
  rw [tailIn_empty empty (by rw [seqAfter_self]; decide), seqAfter_self]
  rfl

theorem tailIn_asks {k : Nat} (lt : (classOf (portAt s p) prio).expected < 4096) (hk : k + 1 < 2048) :
    tailIn s p prio (((classOf (portAt s p) prio).expected + (k + 1)) % 4096) =
      s.emit (.word p (.nak prio (classOf (portAt s p) prio).expected (((classOf (portAt s p) prio).expected + k) % 4096))) := by
  have ahead := seqAfter_ahead (n := (classOf (portAt s p) prio).expected) (k := k + 1) (by omega)
  rw [tailIn_empty empty (by rw [ahead]; exact hk), ahead, ranges_consecutive, Nat.mod_eq_of_lt lt]
  rfl

end

section
variable (s : State) (port : PortId)

theorem exec_hutchForward (f : Frame) : exec (.hutchForward port f) s =
    .next (receive s port.val (isPrio f.body) (f.seq % 4096) f) := rfl

theorem exec_frameCrcFailure : exec (.frameCrcFailure port) s =
    .next (modPort s port.val fun q => { q with framesErr := satInc q.framesErr }) := rfl

theorem exec_controlWordDiscard (word : W64) : exec (.controlWordDiscard ⟨port, word⟩) s =
    .next (if ctlOk word then s else modPort s port.val fun q => { q with ctrlErr := satInc q.ctrlErr }) := rfl

theorem exec_shelfFlit (wport : Fin 4) (seq : Nat) (data : List Byte) : exec (.shelfFlit wport seq data) s =
    .next (receive s wport.val false (seq % 4096) (shelfFrame (seq % 4096) data)) := rfl

end

/-- Settles O41: an arrival by whether its number is expected (`receive_inOrder`) or old (`receive_again`), a LOST as the number
it stands for (`place_takes`), a TAIL by the one range that is missing (`tailIn_asks`). -/
theorem framesAreTakenInOrder : Obligations.FramesAreTakenInOrder := by
  intro s port f data wport seq next word
  simp only [exec_hutchForward, exec_shelfFlit, exec_lost, exec_tail, exec_frameCrcFailure, exec_controlWordDiscard]
  refine ⟨?frames, ?flits, ?_, fun bad => ⟨_, congrArg _ (if_neg (by simp [bad])), rfl, portAt_modPort_same s port _,
    fun r other => portAt_modPort_other s _ (Ne.symm other)⟩, fun good => congrArg _ (if_pos good)⟩
  case frames =>
    rintro p q c prio rfl rfl rfl rfl up lt
    refine ⟨fun empty inOrder => ?_, fun empty small old => ?_⟩
    · rw [Nat.mod_eq_of_lt (inOrder ▸ lt)]
      obtain ⟨expected, held, log⟩ := receive_inOrder f up empty lt inOrder
      exact ⟨_, rfl, expected, held, log _ List.mem_cons_self⟩
    · rw [Nat.mod_eq_of_lt small, receive_again f up empty lt old]
  case flits =>
    rintro p q rfl rfl up empty lt
    have acts (g : State → State) : ctlIn s wport.val (· == 3) g = g s :=
      ctlIn_acts g (by rw [up]; decide) (by rw [up]; rfl)
    refine ⟨fun inOrder => ?_, fun inOrder => ?_, fun complete => ?_, fun k pos near missing => ?_⟩
    · rw [Nat.mod_eq_of_lt (inOrder ▸ lt)]
      obtain ⟨expected, -, log⟩ := receive_inOrder (p := wport.castLE (by decide)) (prio := false) (shelfFrame seq data) up
        empty lt inOrder
      exact ⟨_, rfl, expected, log _ List.mem_cons_self⟩
    · rw [Nat.mod_eq_of_lt (inOrder ▸ lt)]
      exact ⟨_, congrArg _ (acts _),
        (place_takes (p := wport.castLE (by decide)) (prio := false) none empty inOrder).expected⟩
    · rw [Nat.mod_eq_of_lt (complete ▸ lt), complete]
      exact congrArg _ ((acts _).trans (tailIn_complete (prio := false) empty))
    · obtain ⟨j, rfl⟩ := Nat.exists_eq_succ_of_ne_zero pos.ne'
      rw [missing, Nat.mod_mod]
      exact congrArg _ ((acts _).trans (tailIn_asks (prio := false) empty lt near))
  · exact ⟨_, rfl, rfl, portAt_modPort_same s port _, fun r other => portAt_modPort_other s _ (Ne.symm other)⟩

end Sys2Proof.Machine
end

section
/-! PROOFS. Writes of the AFV and HUT registers, and power samples (R368, R371, R373, R375, R396 to R401, R610). -/

namespace Sys2Proof.Machine

/-! ### Writes that reach a port's registers (R443, R610) -/

/-- The registers of a port lie in its domain (R610). -/
theorem afv_reachable (s : State) (port : PortId) {o : Nat} (ho : o < 0x1000) :
    regReachable s (afvReg port.val o) = domainOn s (20 + port.val) := by
  have domain : regDomain (afvReg port.val o) = some (20 + port.val) := by
    have hp := port.isLt
    unfold regDomain afvReg
    rw [if_neg (by simp; omega), if_pos (by simp; omega)]
    congr 2
    omega
  simp only [regReachable, domain]

theorem hutCtl_reachable (s : State) : regReachable s 0x40000 = domainOn s 30 := rfl

section
variable {s : State} {via : Via} (hw : mayWrite s via = true)
include hw

theorem exec_hutCntClr (on : domainOn s 30 = true) (v : W32) :
    exec (.hutCntClr via v) s = .next (hutCtlWrite s (v ||| 0x80)) :=
  congrArg Host.Outcome.next (guarded_accepted _ hw ((hutCtl_reachable s).trans on))

variable {port : PortId} (on : domainOn s (20 + port.val) = true) (v : W32)
include on

theorem exec_afvEnable : exec (.afvEnable port via v) s = .next (afvCtlWrite s port.val v) :=
  congrArg Host.Outcome.next (guarded_accepted _ hw ((afv_reachable s port (by decide)).trans on))

theorem exec_retrain : exec (.retrain port via v) s = .next (afvCtlWrite s port.val (v ||| 0x80000)) :=
  congrArg Host.Outcome.next (guarded_accepted _ hw ((afv_reachable s port (by decide)).trans on))

theorem exec_afvCntClr : exec (.afvCntClr port via v) s = .next (afvCtlWrite s port.val (v ||| 0x40000)) :=
  congrArg Host.Outcome.next (guarded_accepted _ hw ((afv_reachable s port (by decide)).trans on))

theorem exec_loopModeWrite : exec (.loopModeWrite port via v) s = .next (afvLoopWrite s port.val v) :=
  congrArg Host.Outcome.next (guarded_accepted _ hw ((afv_reachable s port (by decide)).trans on))

end

/-! ### A write of AFV_CTL refused (Table 11-18) -/

/-- WARN of a write of AFV_CTL. -/
def warnField (v : W32) : BitVec 8 := v.extractLsb' 8 8

/-- RETRAIN lies outside WARN. -/
theorem warnField_or_retrain (v : W32) : warnField (v ||| 0x80000) = warnField v := by
  have outside : (0x80000 : W32).extractLsb' 8 8 = 0#8 := rfl
  rw [warnField, BitVec.extractLsb'_or, outside, BitVec.or_zero, warnField]

/-- CNT_CLR lies outside WARN. -/
theorem warnField_or_cntClr (v : W32) : warnField (v ||| 0x40000) = warnField v := by
  have outside : (0x40000 : W32).extractLsb' 8 8 = 0#8 := rfl
  rw [warnField, BitVec.extractLsb'_or, outside, BitVec.or_zero, warnField]

/-- A write with the port's refusal noted. -/
def afvRefused (s : State) (p : Nat) (e : BitVec 4) : State := modPort s p fun q => { q with err := e }

section
variable {s : State} {p : Nat} {v : W32}

theorem afvCtlWrite_refused {e : BitVec 4} (refused : afvRefusal s p v = e) (he : e ≠ 0) :
    afvCtlWrite s p v = afvRefused s p e := by
  subst refused
  exact if_pos (by simpa using he)

theorem afvRefusal_axis (set : bit v 0 = true) (off : (portAt s p).enable = false) (dead : axisDead s p = true) :
    afvRefusal s p v = 1 := if_pos (by simp [set, off, dead])

/-- ENABLE is not asked for where the axis has length 1. -/
def AxisOk (s : State) (p : Nat) (v : W32) : Prop :=
  bit v 0 = false ∨ (portAt s p).enable = true ∨ axisDead s p = false

theorem AxisOk.passes (axis : AxisOk s p v) : (bit v 0 && !(portAt s p).enable && axisDead s p) = false := by
  rcases axis with h | h | h <;> simp [h]

theorem afvRefusal_live (axis : AxisOk s p v) (live : admittedPort s p = true) (ends : bit v 0 = false ∨ bit v 19 = true) :
    afvRefusal s p v = 2 := by
  have stops : (!bit v 0 || bit v 19) = true := by rcases ends with h | h <;> simp [h]
  simp only [afvRefusal, axis.passes, live, stops]
  rfl

/-- No link of the formed partition is taken down. -/
def LinkOk (s : State) (p : Nat) (v : W32) : Prop := admittedPort s p = false ∨ bit v 0 = true ∧ bit v 19 = false

theorem LinkOk.passes (link : LinkOk s p v) : (admittedPort s p && (!bit v 0 || bit v 19)) = false := by
  rcases link with h | ⟨h, k⟩
  · simp [h]
  · simp [h, k]

theorem afvRefusal_warn (axis : AxisOk s p v) (link : LinkOk s p v)
    (outside : (warnField v).toInt < -120 ∨ 0 < (warnField v).toInt) : afvRefusal s p v = 3 := by
  have bad : (decide ((warnField v).toInt < -120) || decide (0 < (warnField v).toInt)) = true := by simpa using outside
  unfold warnField at bad
  simp only [afvRefusal, axis.passes, link.passes, bad]
  rfl

/-- A write of AFV_CTL that is taken. -/
structure AfvTaken (s : State) (p : Nat) (v : W32) : Prop where
  axis : AxisOk s p v
  link : LinkOk s p v
  low : -120 ≤ (warnField v).toInt
  high : (warnField v).toInt ≤ 0

theorem AfvTaken.notRefused (taken : AfvTaken s p v) : afvRefusal s p v = 0 := by
  have good : (decide ((warnField v).toInt < -120) || decide (0 < (warnField v).toInt)) = false := by
    simpa using ⟨taken.low, taken.high⟩
  unfold warnField at good
  simp only [afvRefusal, taken.axis.passes, taken.link.passes, good]
  rfl

end

/-! ### A write of AFV_CTL taken (R371, R373, R399, R401) -/

/-- The plain fields of AFV_CTL, and CNT_CLR. -/
def afvFields (v : W32) (q : Port) : Port :=
  let q := { q with warnPwr := v.extractLsb' 8 8, evtRetx := bit v 17, attempts := 0 }
  if bit v 18 then clearCounts q else q

section
variable (v : W32) (q : Port)

@[simp] theorem afvFields_enable : (afvFields v q).enable = q.enable := by unfold afvFields; dsimp only; split <;> rfl

@[simp] theorem afvFields_state : (afvFields v q).state = q.state := by unfold afvFields; dsimp only; split <;> rfl

@[simp] theorem afvFields_mode : (afvFields v q).mode = q.mode := by unfold afvFields; dsimp only; split <;> rfl

@[simp] theorem afvFields_attempts : (afvFields v q).attempts = 0 := by unfold afvFields; dsimp only; split <;> rfl

@[simp] theorem afvFields_warnPwr : (afvFields v q).warnPwr = warnField v := by unfold afvFields; dsimp only; split <;> rfl

end

theorem afvFields_clears {v : W32} (clear : bit v 18 = true) (q : Port) : afvFields v q =
    clearCounts { q with warnPwr := v.extractLsb' 8 8, evtRetx := bit v 17, attempts := 0 } := if_pos clear

/-- The port with its fields written. -/
def afvWritten (s : State) (p : Nat) (v : W32) : State := modPort s p (afvFields v)

@[simp] theorem portAt_afvWritten (s : State) (p : PortId) (v : W32) :
    portAt (afvWritten s p.val v) p.val = afvFields v (portAt s p.val) := portAt_modPort_same s p _

@[simp] theorem stopped_afvWritten (s : State) (p : Nat) (v : W32) : stopped (afvWritten s p v) = stopped s := rfl

/-- PARK goes out on a port that is not OFF. -/
def parkSent (s : State) (p : Nat) : State := if (portAt s p).state != 0 then s.emit (.word p .park) else s

@[simp] theorem portAt_parkSent (s : State) (p r : Nat) : portAt (parkSent s p) r = portAt s r := by
  unfold parkSent
  split <;> rfl

theorem park_mem_parkSent {s : State} {p : Nat} (lit : (portAt s p).state ≠ 0) : Out.word p .park ∈ (parkSent s p).outs := by
  rw [parkSent, if_pos (by simpa using lit)]
  exact List.mem_cons_self

/-- A port disabled (R371). -/
def disabled (q : Port) : Port := toOff { q with enable := false }

/-- ENABLE and RETRAIN of a write of AFV_CTL act on a port whose fields are written. -/
def afvActs (s : State) (p : Nat) (v : W32) : State :=
  if !bit v 0 then (if !(portAt s p).enable then s else modPort (parkSent s p) p disabled)
  else if !(portAt s p).enable then (if stopped s then s else modPort s p enablePort)
  else if bit v 19 && ((portAt s p).state == 3 || (portAt s p).state == 4 || (portAt s p).state == 5) then enterIdent s p id
  else s

theorem afvCtlWrite_taken {s : State} {p : Nat} {v : W32} (taken : AfvTaken s p v) :
    afvCtlWrite s p v = afvActs (afvWritten s p v) p v := if_neg (by simp [taken.notRefused])

section
variable {s : State} {p : PortId} {v : W32} (taken : AfvTaken s p.val v)
include taken

theorem afvCtlWrite_disables (clear : bit v 0 = false) (on : (portAt s p.val).enable = true) :
    afvCtlWrite s p.val v = modPort (parkSent (afvWritten s p.val v) p.val) p.val disabled := by
  simp [afvCtlWrite_taken taken, afvActs, clear, on]

variable (set : bit v 0 = true)
include set

theorem afvCtlWrite_enables (off : (portAt s p.val).enable = false) (runs : stopped s = false) :
    afvCtlWrite s p.val v = modPort (afvWritten s p.val v) p.val enablePort := by
  simp [afvCtlWrite_taken taken, afvActs, set, off, runs]

variable (on : (portAt s p.val).enable = true)
include on

theorem afvCtlWrite_retrains (retrain : bit v 19 = true)
    (trained : (portAt s p.val).state = 3 ∨ (portAt s p.val).state = 4 ∨ (portAt s p.val).state = 5) :
    afvCtlWrite s p.val v = enterIdent (afvWritten s p.val v) p.val id := by
  rcases trained with h | h | h <;> simp [afvCtlWrite_taken taken, afvActs, set, on, retrain, h]

theorem afvCtlWrite_stays (stays : bit v 19 = false ∨
    (portAt s p.val).state ≠ 3 ∧ (portAt s p.val).state ≠ 4 ∧ (portAt s p.val).state ≠ 5) :
    afvCtlWrite s p.val v = afvWritten s p.val v := by
  rcases stays with h | ⟨h3, h4, h5⟩
  · simp [afvCtlWrite_taken taken, afvActs, set, on, h]
  · have untrained := not_or.mpr ⟨not_or.mpr ⟨h3, h4⟩, h5⟩
    simpa [afvCtlWrite_taken taken, afvActs, set, on] using fun _ trained => absurd trained untrained

end

/-- ENABLE starts a port in IDENT, or in TEST where MODE holds it there. -/
theorem enablePort_port (q : Port) : (enablePort q).enable = true ∧ (enablePort q).attempts = q.attempts ∧
    (enablePort q).state = if q.mode = 2 then 7 else 1 := by
  unfold enablePort
  dsimp only
  by_cases test : q.mode = 2
  · rw [if_pos (by simpa using test), if_pos test]
    exact ⟨rfl, rfl, rfl⟩
  · rw [if_neg (by simpa using test), if_neg test]
    exact ⟨rfl, rfl, rfl⟩

/-! ### AFV_LOOP (R398) -/

/-- MODE of a write of AFV_LOOP, and its lowest bit. -/
theorem loopMode_of_bits {v : W32} {m : BitVec 2} (h : bits v 0 2 = m.toNat) : v.setWidth 2 = m ∧ bit v 0 = bit m 0 := by
  have mode : v.setWidth 2 = m := by
    apply BitVec.eq_of_toNat_eq
    rw [← h]
    simp [bits]
  exact ⟨mode, by rw [← mode]; simp [bit]⟩

/-- A port whose MODE is TEST: an enabled one enters the state TEST. -/
def inTest (q : Port) : Port :=
  let q := { q with mode := 2 }
  if q.enable && q.state != 7 then { q with state := 7, step := 0, peer := none, prbsLock := false } else q

/-- A port out of TEST. -/
def outOfTest (q : Port) : Port := { q with mode := 0, prbsLock := false }

section
variable {s : State} {p : Nat} {v : W32}

theorem afvLoopWrite_live (live : admittedPort s p = true) : afvLoopWrite s p v = afvRefused s p 2 := if_pos live

variable (free : admittedPort s p = false)
include free

theorem afvLoopWrite_tests (unlooped : (portAt s p).inService = false) (test : bits v 0 2 = 2) :
    afvLoopWrite s p v = modPort s p inTest := by
  obtain ⟨mode, low⟩ := loopMode_of_bits (m := 2) test
  simp only [afvLoopWrite, free, unlooped, mode, low]
  rfl

theorem afvLoopWrite_leaves (tests : (portAt s p).state = 7) (leave : bits v 0 2 = 0) :
    afvLoopWrite s p v = enterIdent s p outOfTest := by
  obtain ⟨mode, low⟩ := loopMode_of_bits (m := 0) leave
  simp only [afvLoopWrite, free, tests, mode, low]
  rfl

end

/-! ### Power samples (R375) -/

theorem bitsOf_succ (n : Nat) (f : Nat → Bool) : bitsOf (n + 1) f = if f n then bitsOf n f + 2 ^ n else bitsOf n f := by
  rw [bitsOf, List.range_succ, List.foldl_append]
  rfl

theorem bitsOf_lt (n : Nat) (f : Nat → Bool) : bitsOf n f < 2 ^ n := by
  induction n with
  | zero => exact Nat.one_pos
  | succ n ih =>
    rw [bitsOf_succ, Nat.pow_succ]
    split <;> omega

theorem testBit_bitsOf {n i : Nat} (f : Nat → Bool) (hi : i < n) : (bitsOf n f).testBit i = f i := by
  induction n with
  | zero => exact absurd hi (Nat.not_lt_zero i)
  | succ n ih =>
    have top : (bitsOf n f).testBit n = false := Nat.testBit_lt_two_pow (bitsOf_lt n f)
    rw [bitsOf_succ, Nat.add_comm]
    rcases Nat.lt_succ_iff_lt_or_eq.mp hi with below | rfl
    · split
      · rw [Nat.testBit_two_pow_add_gt below, ih below]
      · exact ih below
    · split
      · next set => rw [Nat.testBit_two_pow_add_eq, top, set]; rfl
      · next clear => rw [top, Bool.eq_false_iff.mpr clear]

/-- The wavelengths whose power lies below a level. -/
def lowWavelengths (rx : Vector (BitVec 8) 8) (warn : BitVec 8) : BitVec 8 :=
  BitVec.ofNat 8 (bitsOf 8 fun i => (rx.toList.getD i 0x80).toInt < warn.toInt)

theorem bit_lowWavelengths (rx : Vector (BitVec 8) 8) (warn : BitVec 8) {i : Nat} (hi : i < 8) :
    bit (lowWavelengths rx warn) i = true ↔ (rx.toList.getD i 0x80).toInt < warn.toInt := by
  rw [bit, lowWavelengths, BitVec.getLsbD_ofNat, testBit_bitsOf _ hi]
  simp [hi]

/-- A port with a sample of its powers. -/
def sampled (rx tx : Vector (BitVec 8) 8) (q : Port) : Port :=
  { q with rxPower := rx, txPower := tx, wlWarn := lowWavelengths rx q.warnPwr }

theorem exec_rxPowerSample (s : State) (port : PortId) (rx tx : Vector (BitVec 8) 8) :
    exec (.rxPowerSample port rx tx) s = .next (powerSample s port.val rx tx) := rfl

theorem powerSample_ignored {s : State} {p : Nat} (rx tx : Vector (BitVec 8) 8) (h3 : (portAt s p).state ≠ 3)
    (h4 : (portAt s p).state ≠ 4) : powerSample s p rx tx = s := if_pos (by simp [linked_false h3 h4])

/-- The events of a sample leave the port with its sample. -/
theorem portAt_powerSample {s : State} {p : PortId} (rx tx : Vector (BitVec 8) 8)
    (up : (portAt s p.val).state = 3 ∨ (portAt s p.val).state = 4) :
    portAt (powerSample s p.val rx tx) p.val = sampled rx tx (portAt s p.val) := by
  unfold powerSample
  dsimp only
  rw [if_neg (by simp [linked_iff.mpr up])]
  refine (foldl_keeps (portAt · p.val) _ (fun s i => ?_) _ _).trans (portAt_modPort_same s p _)
  split
  · exact portAt_postReg _ _ _ _ _ _ p.val
  · rfl

/-- Settles O42: a write of AFV_CTL by its refusal (`afvRefusal_axis`, `afvRefusal_live`, `afvRefusal_warn`) or by what its
commands do (`afvCtlWrite_enables`, `afvCtlWrite_disables`, `afvCtlWrite_retrains`, `afvCtlWrite_stays`), a write of AFV_LOOP by
the MODE it asks for, a power sample by `portAt_powerSample`. -/
theorem linkRegistersAct : Obligations.LinkRegistersAct := by
  intro s port via v rx tx p q hp hq
  subst hp hq
  simp only [exec_rxPowerSample]
  refine ⟨fun hw on low high => ?writes, fun hw on set keep en outside => ?warn, fun hw on => ⟨fun live => ?_,
    fun free unlooped en other test => ?tests, fun free tests leave => ?leaves⟩, fun hw on => ?hutch, fun up => ?sample,
    fun h3 h4 => ?_⟩
  case writes =>
    rw [exec_afvEnable hw on, exec_retrain hw on, exec_afvCntClr hw on]
    have still (w : W32) (set : bit v 0 = true) : bit (v ||| w) 0 = true := by rw [bit_or, set, Bool.true_or]
    have retrain : bit (v ||| 0x80000) 19 = true := by rw [bit_or]; exact Bool.or_true _
    have mayRetrain (en : (portAt s port.val).enable = true) (free : admittedPort s port.val = false) :
        AfvTaken s port.val (v ||| 0x80000) :=
      ⟨.inr (.inl en), .inl free, by rwa [warnField_or_retrain], by rwa [warnField_or_retrain]⟩
    refine ⟨fun set off alive free runs => ?enables, fun set off dead => ?_, fun set en keep => ?stays,
      fun clear en free => ?disables, fun clear en live => ?_, fun set en live => ?_, fun set en free trained => ?retrains,
      fun set en free h3 h4 h5 => ?notTrained, fun set en keep => ?clears⟩
    case enables =>
      have taken : AfvTaken s port.val v := ⟨.inr (.inr alive), .inl free, low, high⟩
      obtain ⟨enabled, attempts, state⟩ := enablePort_port (afvFields v (portAt s port.val))
      refine ⟨_, congrArg _ (afvCtlWrite_enables taken set off runs), rfl, ?_⟩
      rw [portAt_modPort_same, portAt_afvWritten, enabled, attempts, state, afvFields_mode, afvFields_attempts]
      exact ⟨rfl, rfl, rfl⟩
    · exact congrArg _ (afvCtlWrite_refused (afvRefusal_axis set off dead) (by decide))
    case stays =>
      have taken : AfvTaken s port.val v := ⟨.inr (.inl en), .inr ⟨set, keep⟩, low, high⟩
      refine ⟨_, congrArg _ (afvCtlWrite_stays taken set en (.inl keep)), rfl, ?_⟩
      rw [portAt_afvWritten]
      exact ⟨afvFields_attempts v _, afvFields_state v _, afvFields_warnPwr v _⟩
    case disables =>
      have taken : AfvTaken s port.val v := ⟨.inl clear, .inl free, low, high⟩
      refine ⟨_, congrArg _ (afvCtlWrite_disables taken clear en), ?_, ?_, fun lit => ?_, ?_⟩
      · rw [portAt_modPort_same]; rfl
      · rw [portAt_modPort_same]; rfl
      · exact park_mem_parkSent (s := afvWritten s port.val v) (by simpa using lit)
      · exact (ite_mem _ _ _).trans (ite_self _)
    · exact congrArg _ (afvCtlWrite_refused (afvRefusal_live (.inl clear) live (.inl clear)) (by decide))
    · exact congrArg _ (afvCtlWrite_refused (afvRefusal_live (.inr (.inl en)) live (.inr retrain)) (by decide))
    case retrains =>
      refine ⟨_, congrArg _ (afvCtlWrite_retrains (mayRetrain en free) (still _ set) en retrain trained), rfl, ?_, ?_, ?_,
        enterIdent_agree _ port id⟩
      · rw [portAt_enterIdent]; rfl
      · rw [portAt_enterIdent]; rfl
      · rw [portAt_enterIdent, portAt_afvWritten]; exact afvFields_attempts _ _
    case notTrained =>
      refine ⟨_, congrArg _ (afvCtlWrite_stays (mayRetrain en free) (still _ set) en (.inr ⟨h3, h4, h5⟩)), rfl, ?_⟩
      rw [portAt_afvWritten]
      exact ⟨afvFields_state _ _, afvFields_attempts _ _⟩
    case clears =>
      have kept : bit (v ||| 0x40000) 19 = false := by rw [bit_or, keep]; rfl
      have clear : bit (v ||| 0x40000) 18 = true := by rw [bit_or]; exact Bool.or_true _
      have taken : AfvTaken s port.val (v ||| 0x40000) :=
        ⟨.inr (.inl en), .inr ⟨still _ set, kept⟩, by rwa [warnField_or_cntClr], by rwa [warnField_or_cntClr]⟩
      refine ⟨_, congrArg _ (afvCtlWrite_stays taken (still _ set) en (.inl kept)), rfl, ?_⟩
      rw [portAt_afvWritten, afvFields_clears clear]
      exact ⟨rfl, rfl, rfl, rfl, rfl, rfl, rfl⟩
  case warn =>
    rw [exec_afvEnable hw on]
    exact congrArg _ (afvCtlWrite_refused (afvRefusal_warn (.inr (.inl en)) (.inr ⟨set, keep⟩) outside) (by decide))
  · rw [exec_loopModeWrite hw on, afvLoopWrite_live live]; rfl
  case tests =>
    refine ⟨_, (exec_loopModeWrite hw on v).trans (congrArg _ (afvLoopWrite_tests free unlooped test)), rfl, ?_⟩
    rw [portAt_modPort_same, inTest]
    dsimp only
    rw [if_pos (by simpa [en] using other)]
    exact ⟨rfl, rfl⟩
  case leaves =>
    refine ⟨_, (exec_loopModeWrite hw on v).trans (congrArg _ (afvLoopWrite_leaves free tests leave)), rfl, ?_⟩
    rw [portAt_enterIdent]
    exact ⟨rfl, rfl⟩
  case hutch =>
    have clear : bit (v ||| 0x80) 7 = true := by rw [bit_or]; exact Bool.or_true _
    exact ⟨_, exec_hutCntClr hw on v, rfl, if_pos clear, if_pos clear, if_pos clear, rfl⟩
  case sample =>
    refine ⟨_, rfl, (powerSample_frame s port.val rx tx).2, ?_⟩
    rw [portAt_powerSample rx tx up]
    exact ⟨rfl, rfl, rfl, fun i hi => bit_lowWavelengths rx _ hi⟩
  · rw [powerSample_ignored rx tx h3 h4]

end Sys2Proof.Machine
end

section
/-! PROOFS. Write access under ownership, and reads, which never touch it (R443, R603, R606). -/

namespace Sys2Proof.Machine

theorem mayWrite_iff (s : State) (via : Via) : mayWrite s via = true ↔ s.own.valid = false ∨
    (s.own.state = 3 ∨ s.own.state = 4) ∧ agentOf s via = some s.own.owner := by
  simp [mayWrite]

/-! ### Reads -/

/-- `t` is `s` after a register read: the read latches and the telemetry queue may differ. -/
def ReadOnly (s t : State) : Prop := ∃ l q, t = { s with latches := l, tel := q }

theorem readEffect_readOnly (s : State) (via : Via) (off : Nat) : ReadOnly s (readEffect s via off) := by
  unfold readEffect
  dsimp only
  repeat' split
  all_goals exact ⟨_, _, rfl⟩

theorem telHeadRead_readOnly (s : State) (via : Via) : ReadOnly s (telHeadRead s via).1 := by
  unfold telHeadRead
  dsimp only
  repeat' split
  all_goals exact ⟨_, _, rfl⟩

/-- A read of a register that is no arrival counter posts no event. -/
theorem readReg_readOnly {s : State} {via : Via} {off : Nat} (h : counterOff off = none) :
    ReadOnly s (readReg s via off).1 := by
  unfold readReg
  rw [h]
  split
  · exact ⟨_, _, rfl⟩
  · split
    · exact telHeadRead_readOnly s via
    · exact readEffect_readOnly s via off

/-- What is sent after a read is the newest entry of the log. -/
theorem ReadOnly.emit {s t : State} (h : ReadOnly s t) (o : Out) :
    (t.emit o).outs = o :: s.outs ∧ (t.emit o).own = s.own ∧ (t.emit o).mem = s.mem := by
  obtain ⟨_, _, rfl⟩ := h
  exact ⟨rfl, rfl, rfl⟩

theorem readOut_answers {s : State} {via : Via} {off : Nat} (h : counterOff off = none) :
    ∃ t w, Host.Outcome.next (readOut s via off) = (.next t : Host.Outcome State Fault Refusal) ∧
      t.outs = .readData via off w :: s.outs ∧ t.own = s.own ∧ t.mem = s.mem :=
  ⟨_, _, rfl, (readReg_readOnly h).emit _⟩

/-- The stall counters lie below the arrival counters. -/
theorem counterOff_stall (core : CoreId) {o : Nat} (ho : o < 0x400) : counterOff (corReg core.val o) = none := by
  have notCounter : ¬ 0x400 ≤ corReg core.val o % 0x10000 := by
    rw [corReg_offset core (by omega)]; omega
  simp [counterOff, notCounter]

/-- Settles O6: every command that writes a register is judged by `guarded`, a read changes no more than
`ReadOnly` says. -/
theorem writesNeedOwnership : Obligations.WritesNeedOwnership := by
  intro s via v core port off hi ctr k
  refine ⟨mayWrite_iff s via, fun hw => ⟨?named, fun reg other => ?register⟩, rfl,
    fun _ _ _ => ⟨rfl, rfl, rfl⟩, ?reads⟩
  case named =>
    repeat refine List.forall_mem_cons.mpr ⟨congrArg _ (guarded_refused _ _ hw), ?_⟩
    exact List.forall_mem_nil _
  case register =>
    rw [exec_registerWrite, registerWrite_guarded v reg other, guarded_refused _ _ hw]
  case reads =>
    have stall (o : Nat) (ho : o < 0x400) := readOut_answers (s := s) (via := via) (counterOff_stall core ho)
    simp only [List.forall_mem_cons]
    exact ⟨readOut_answers rfl, readOut_answers rfl, readOut_answers rfl, readOut_answers rfl, stall _ (by omega),
      stall _ (by omega), List.forall_mem_nil _⟩

end Sys2Proof.Machine
end

section
/-! PROOFS. OWN_CLAIM: binding a path, and asking the service root (R442, R444, R446, Tables 13-15 and 13-22). -/

namespace Sys2Proof.Machine

/-! ### The fields of a written OWN_CLAIM -/

section
variable (w c : W32)

/-- CMD covers the four highest bits of the word, and nothing else. -/
theorem getLsbD_withCmd {i : Nat} (hi : i < 32) :
    (withCmd w c).getLsbD i = if i < 28 then w.getLsbD i else c.getLsbD (i - 28) := by
  have mask : ((0x0FFFFFFF : Nat) : W32).getLsbD i = decide (i < 28) := by
    rw [show ((0x0FFFFFFF : Nat) : W32) = BitVec.ofNat 32 (2 ^ 28 - 1) from rfl, BitVec.getLsbD_ofNat,
      Nat.testBit_two_pow_sub_one]
    simp [hi]
  rw [withCmd, BitVec.getLsbD_or, BitVec.getLsbD_and, mask, BitVec.getLsbD_shiftLeft]
  by_cases low : i < 28 <;> simp [low, hi]

@[simp] theorem bits_withCmd : bits (withCmd w c) 28 4 = bits c 0 4 := by
  refine congrArg BitVec.toNat (BitVec.eq_of_getLsbD_eq fun i hi => ?_)
  simp [getLsbD_withCmd w c (i := 28 + i) (by omega), hi]

/-- Below CMD a field reads what the written word holds. -/
theorem extractLsb'_withCmd {lo len : Nat} (h : lo + len ≤ 28) :
    (withCmd w c).extractLsb' lo len = w.extractLsb' lo len := by
  refine BitVec.eq_of_getLsbD_eq fun i hi => ?_
  simp [getLsbD_withCmd w c (i := lo + i) (by omega), hi]
  omega

@[simp] theorem agent_withCmd : (withCmd w c).setWidth 24 = w.setWidth 24 := by
  simp only [BitVec.setWidth_eq_extractLsb' (show 24 ≤ 32 by decide), extractLsb'_withCmd w c (show 0 + 24 ≤ 28 by decide)]

@[simp] theorem pref_withCmd : bits (withCmd w c) 24 4 = bits w 24 4 :=
  congrArg BitVec.toNat (extractLsb'_withCmd w c (by decide))

end

/-! ### What a command does -/

theorem exec_bind (s : State) (via : Via) (v : W32) : exec (.bind via v) s = .next (bindPath s via (v.setWidth 24)) := by
  have cmd : bits (withCmd v 1) 28 4 = 1 := bits_withCmd v 1
  refine congrArg Host.Outcome.next ?_
  rw [ownClaimWrite, cmd, agent_withCmd]
  rfl

section
variable {s : State} {via : Via} (v : W32) {c : W32} (least : 2 ≤ bits c 0 4) (most : bits c 0 4 ≤ 6)
include least most

/-- A command that asks the root is judged by the partition, then by its path (Table 13-22). -/
theorem ownClaimWrite_eq : ownClaimWrite s via (withCmd v c) =
    if formed s = false then setOwnErr s via 8
    else match agentOf s via with
      | none => setOwnErr s via 2
      | some g => submit s (pathOf via) (bits c 0 4 - 1) (bits v 24 4) g
          (if bits c 0 4 = 5 then (v.setWidth 24 : Agent).setWidth 64 else 0) := by
  rw [ownClaimWrite, bits_withCmd, agent_withCmd, pref_withCmd, if_neg (by omega), if_neg (by omega), if_neg (by omega)]
  cases formed s <;> rfl

theorem ownClaimWrite_outside (free : formed s = false) : ownClaimWrite s via (withCmd v c) = setOwnErr s via 8 := by
  rw [ownClaimWrite_eq v least most, if_pos free]

variable (live : formed s = true)
include live

theorem ownClaimWrite_unbound (unbound : agentOf s via = none) :
    ownClaimWrite s via (withCmd v c) = setOwnErr s via 2 := by
  rw [ownClaimWrite_eq v least most, if_neg (by simp [live]), unbound]

theorem ownClaimWrite_asks {g : Agent} (bound : agentOf s via = some g) : ownClaimWrite s via (withCmd v c) =
    submit s (pathOf via) (bits c 0 4 - 1) (bits v 24 4) g
      (if bits c 0 4 = 5 then (v.setWidth 24 : Agent).setWidth 64 else 0) := by
  rw [ownClaimWrite_eq v least most, if_neg (by simp [live]), bound]

end

/-- What every command that asks the root does, each of them does. -/
theorem exec_ownCommands {s t : State} {via : Via} {v : W32}
    (h : ∀ c : W32, 2 ≤ bits c 0 4 → bits c 0 4 ≤ 6 → ownClaimWrite s via (withCmd v c) = t) :
    ∀ c ∈ [Instr.claim via v, .renew via v, .release via v, .handover via v, .force via v], exec c s = .next t := by
  simp only [List.forall_mem_cons]
  exact ⟨congrArg _ (h 2 (by decide) (by decide)), congrArg _ (h 3 (by decide) (by decide)),
    congrArg _ (h 4 (by decide) (by decide)), congrArg _ (h 5 (by decide) (by decide)),
    congrArg _ (h 6 (by decide) (by decide)), List.forall_mem_nil _⟩

/-- Settles O45: BIND by `exec_bind`, the other commands by the three outcomes of `ownClaimWrite_eq`. -/
theorem ownershipCommandsBindOrAsk : Obligations.OwnershipCommandsBindOrAsk := by
  rintro s via v a rfl
  rw [exec_bind]
  refine ⟨?pf, ?i3c, ?kbt, fun free => exec_ownCommands fun c least most => ownClaimWrite_outside v least most free,
    fun live unbound => exec_ownCommands fun c least most => ownClaimWrite_unbound v least most live unbound,
    fun live g bound => ?asks, fun path => ⟨fun waits => congrArg _ (if_pos waits), fun none => congrArg _ (if_neg ?_)⟩⟩
  case pf => rintro rfl; simp [bindPath]
  case i3c => rintro rfl; simp [bindPath]
  case kbt => rintro id g rfl; rfl
  case asks =>
    have asks (c : W32) (least : 2 ≤ bits c 0 4) (most : bits c 0 4 ≤ 6) := ownClaimWrite_asks v least most live bound
    simp only [List.forall_mem_cons]
    exact ⟨congrArg _ (asks 2 (by decide) (by decide)), congrArg _ (asks 3 (by decide) (by decide)),
      congrArg _ (asks 4 (by decide) (by decide)), congrArg _ (asks 5 (by decide) (by decide)),
      congrArg _ (asks 6 (by decide) (by decide)), List.forall_mem_nil _⟩
  · rw [none]; exact Bool.false_ne_true

end Sys2Proof.Machine
end

section
/-! PROOFS. The claim button and the seal plug (R453, R454). -/

namespace Sys2Proof.Machine

/-- A press that is not to be counted does nothing. -/
theorem press_ignored {s : State} (h : s.own.sealing.button = false ∨ s.own.sealing.counted = true) : press s = s :=
  if_pos (by rcases h with h | h <;> simp [h])

/-- The seal once a hold of the button is counted. -/
def pressCounted (q : Seal) : Seal := { q with counted := true, presses := satInc q.presses }

theorem press_counts {s : State} (held : s.own.sealing.button = true) (new : s.own.sealing.counted = false) :
    press s = if formed s && slotZero s then reqIn (modSeal s pressCounted) ⟨6, 0, 0, 0, 0, s.beat.ms, selfOf s⟩
      else modSeal s pressCounted :=
  if_neg (by simp [held, new])

/-- A change of the seal by what it makes of the seal as it stands. -/
theorem modSeal_eq {s : State} {f : Seal → Seal} {q : Seal} (h : f s.own.sealing = q) :
    modSeal s f = { s with own := { s.own with sealing := q } } := by
  rw [modSeal, h]

/-- The seal at the start of a window (R454). -/
def sealOpened (clock : W64) (q : Seal) : Seal :=
  { q with
    windowOpen := true, removing := false, absent := false, closeAt := clock + 1080000000000, openings := satInc q.openings }

theorem exec_sealWindowOpen {s : State} (removing : s.own.sealing.removing = true) : exec .sealWindowOpen s =
    .next { s with own := { s.own with sealing := sealOpened s.clock s.own.sealing } } :=
  congrArg _ (modSeal_eq (if_pos removing))

/-- Settles O48: a press by whether it counts (`press_ignored`, `press_counts`), the others by the seal they leave
(`modSeal_eq`). -/
theorem buttonAndSealPlug : Obligations.ButtonAndSealPlug := by
  intro s
  refine ⟨fun up => congrArg _ (if_neg (by simp [up])), fun down => congrArg _ (if_pos down),
    fun up => congrArg _ (press_ignored (.inl up)), fun out => congrArg _ (modSeal_eq (if_neg (by simp [out]))), rfl,
    fun held new => ⟨fun apart => ?apart, fun live zero => ?sends⟩,
    fun counted => congrArg _ (press_ignored (.inr counted)),
    fun inserted => congrArg _ (modSeal_eq (if_pos inserted)),
    fun removing => ⟨_, exec_sealWindowOpen removing, rfl, rfl, rfl, rfl, rfl⟩,
    fun still => congrArg _ (modSeal_eq (if_neg (by simp [still]))), rfl, rfl⟩
  case apart =>
    refine congrArg _ ((press_counts held new).trans (if_neg ?_))
    rcases apart with h | h <;> simp [h]
  case sends => exact congrArg _ ((press_counts held new).trans (if_pos (by simp [live, zero])))

end Sys2Proof.Machine
end

section
/-! PROOFS. The service root's decisions (R444, R445, R448 to R452, R459, R463, R561). -/

namespace Sys2Proof.Machine

@[simp] theorem sendAll_own (s : State) (ds : List Coord) (b : Body) : (sendAll s ds b).own = s.own := by
  obtain ⟨_, _, _, _, _, e⟩ := sendAll_sentOnly s ds b; rw [e]

/-! ### What becomes of a REQ (R444, R561) -/

section
variable {s : State} {f : ReqFrame}

theorem reqIn_outside (free : formed s = false) : reqIn s f = s := if_pos (by simp [free])

variable (live : formed s = true)
include live

theorem reqIn_forwards {p : Coord} (below : isRoot s = false) (parent : s.own.parent = some p) :
    reqIn s f = sendPrio s p (.req f) := by
  rw [reqIn, if_neg (by simp [live]), if_neg (by simp [below]), parent]

variable (root : isRoot s = true)
include root

theorem reqIn_waits (early : s.glb.confirmed = false) :
    reqIn s f = modRoot s fun r => { r with waiting := r.waiting ++ [f] } := by
  rw [reqIn, if_neg (by simp [live]), if_pos root, if_neg (by simp [early])]

theorem reqIn_decides (confirmed : s.glb.confirmed = true) : reqIn s f = decide' s f := by
  rw [reqIn, if_neg (by simp [live]), if_pos root, if_pos confirmed]

end

/-! ### Decisions (R445) -/

/-- The REQ comes from the owner, as the root sees it. -/
def fromOwner (s : State) (f : ReqFrame) : Bool := hasOwner s.own.root.state && s.own.root.owner == f.agent

/-- A change of the root's view moves no effective beat. -/
theorem accept_modRoot (s : State) (g : RootView → RootView) (f : ReqFrame) (kind : Nat) (agent : Agent) (arg : W64) :
    accept (modRoot s g) f kind agent arg = issueOrder { s with own := { s.own with root := g s.own.root } }
      ⟨kind, 0, 0, agent, arg, effectiveBeat s, f.entry⟩ := rfl

section
variable {s : State} {f : ReqFrame}

theorem decideRenew_lapsed (lapsed : s.own.root.leaseX.toNat < startOfBeat s (effectiveBeat s).toNat) :
    decideRenew s f = refuseReq s f 4 := if_pos lapsed

theorem decideRenew_renews (runs : startOfBeat s (effectiveBeat s).toNat ≤ s.own.root.leaseX.toNat) : decideRenew s f =
    accept (modRoot s fun r => { r with leaseX := leaseFrom s (effectiveBeat s) }) f 2 f.agent 0 :=
  if_neg (Nat.not_lt.mpr runs)

/-! ### CLAIM (R448) -/

theorem decideClaim_opens (opened : s.own.root.state = 1) : decideClaim s f = accept (modRoot s fun r =>
    { r with state := 2, claims := [(f.agent, f.pref)], electEnd := s.beat.ms + 1000 }) f 12 f.agent 0 := by
  simp [decideClaim, opened]

theorem decideClaim_electing (electing : s.own.root.state = 2) : decideClaim s f =
    if s.beat.ms.toNat ≤ s.own.root.electEnd.toNat then
      modRoot s fun r => { r with claims := (r.claims.filter fun c => c.1 != f.agent) ++ [(f.agent, f.pref)] }
    else refuseReq s f 3 := by
  simp [decideClaim, electing]

theorem decideClaim_owned (owned : hasOwner s.own.root.state = true) : decideClaim s f =
    if s.own.root.owner == f.agent then decideRenew s f else refuseReq s f 3 := by
  have state : s.own.root.state = 3 ∨ s.own.root.state = 4 := by simpa [hasOwner] using owned
  rcases state with h | h <;> simp [decideClaim, h, hasOwner]

/-! ### The other kinds (Table 13-3) -/

theorem decide'_claim (kind : f.kind = 1) : decide' s f = decideClaim s f := by rw [decide', kind]; rfl

theorem decide'_renew (kind : f.kind = 2) : decide' s f = if fromOwner s f then decideRenew s f else refuseReq s f 5 := by
  rw [decide', kind]; rfl

theorem decide'_release (kind : f.kind = 3) : decide' s f = if !fromOwner s f then refuseReq s f 5 else
    accept (modRoot s fun r => { r with state := 1, owner := 0, stage := if r.stage = 4 then 4 else 0 }) f 3 f.agent 0 := by
  rw [decide', kind]; simp only [beq_iff_eq]; rfl

theorem passOwner_eq (st : BitVec 4) (a : Agent) (e : W64) : passOwner s st a e = modRoot s fun r => { r with
    state := st, owner := a, leaseX := leaseFrom s e, claims := [], stage := if r.stage = 4 then 4 else 0 } := by
  simp only [passOwner, beq_iff_eq]

theorem decide'_handover (kind : f.kind = 4) {a : Agent} (ha : a = f.arg.setWidth 24) : decide' s f =
    if !fromOwner s f then refuseReq s f 5
    else if a = 0 ∨ a = s.own.root.owner ∨ a = 0xFFFFFF then refuseReq s f 9
    else accept (passOwner s s.own.root.state a (effectiveBeat s)) f 4 a 0 := by
  subst ha
  rw [decide', kind]; simp only [Bool.or_eq_true, beq_iff_eq, or_assoc]; rfl

theorem decide'_force (kind : f.kind = 5) : decide' s f = if !hasOwner s.own.root.state then refuseReq s f 7
    else if s.own.root.force.isSome then refuseReq s f 6
    else accept (modRoot s fun r => { r with state := 4, force := some (f.agent, s.beat.ms) }) f 5 f.agent s.beat.ms := by
  rw [decide', kind]; rfl

theorem decide'_press_unforced (kind : f.kind = 6) (none : s.own.root.force = none) : decide' s f = s := by
  rw [decide', kind]; simp only [none]

theorem decide'_press (kind : f.kind = 6) {a : Agent} {m : W64} (force : s.own.root.force = some (a, m)) : decide' s f =
    if f.ms.toNat ≤ m.toNat + 30000000 then
      accept (modRoot s fun r => { r with
        state := 3, owner := a, leaseX := leaseFrom s (effectiveBeat s), claims := [], force := none
        stage := if r.stage = 4 then 4 else 0 }) f 6 a 0
    else s := by
  rw [decide', kind]; simp only [force, passOwner_eq]; rfl

/-- A command of a change, by the states that Table 13-8 gives it and the state it leads to. -/
theorem decide'_change {c : Nat × List Nat × BitVec 4} (hc : c ∈ [(7, [0], 1), (8, [1], 2), (10, [1, 2, 3], 0)])
    (kind : f.kind = c.1) : decide' s f =
    if decide (s.own.root.stage.toNat ∈ c.2.1) && fromOwner s f then
      accept (modRoot s fun r => { r with stage := c.2.2 }) f f.kind f.agent f.arg
    else refuseReq s f 1 := by
  simp only [List.mem_cons, List.not_mem_nil, or_false] at hc
  rcases hc with rfl | rfl | rfl
  · rw [decide', kind]
    simp [fromOwner, BitVec.toNat_eq]
  · rw [decide', kind]
    simp [fromOwner, BitVec.toNat_eq]
  · rw [decide', kind]
    simp [fromOwner, BitVec.toNat_eq, or_assoc]

theorem decide'_commit (kind : f.kind = 9) : decide' s f = if s.own.root.stage != 3 then refuseReq s f 1
    else if startOfBeat s f.arg.toNat < s.beat.ms.toNat + s.own.svcLat.toNat then refuseReq s f 2
    else if s.beat.ms.toNat + 1000000 < startOfBeat s f.arg.toNat then refuseReq s f 3
    else if fromOwner s f then accept (modRoot s fun r => { r with stage := 4 }) f 9 f.agent f.arg else refuseReq s f 1 := by
  rw [decide', kind]; rfl

end

/-! ### ORDERs issued (R444, R446) -/

theorem issueOrder_own (s : State) (o : OrderFrame) : (issueOrder s o).own = { s.own with
    root := { s.own.root with seq := s.own.root.seq + 1 }
    orders := s.own.orders ++ [{ o with seq := s.own.root.seq }], nextSeq := s.own.root.seq + 1 } :=
  sendAll_own _ _ _

/-- Settles O46: a REQ by what becomes of it (`reqIn_outside`, `reqIn_forwards`, `reqIn_waits`, `reqIn_decides`), and one
that the root decides by its kind. -/
theorem serviceRootDecides : Obligations.ServiceRootDecides := by
  intro s f
  refine ⟨fun free => congrArg _ (reqIn_outside free),
    fun live below p parent => congrArg _ (reqIn_forwards live below parent),
    fun live root early => congrArg _ (reqIn_waits live root early),
    fun live root confirmed r mine e decided hr hm he hd => ?decides,
    fun o => ⟨by rw [issueOrder_own], by rw [issueOrder_own], (issueOrder_frame s o).2⟩⟩
  subst hr he hd
  obtain rfl : mine = fromOwner s f := hm
  have decides {t : State} (h : decide' s f = t) : exec (.req f) s = .next t :=
    congrArg _ ((reqIn_decides live root confirmed).trans h)
  have renewed (owner : fromOwner s f = true) (kind : f.kind = 2 ∨ f.kind = 1) : decide' s f = decideRenew s f := by
    rcases kind with kind | kind
    · rw [decide'_renew kind, if_pos owner]
    · obtain ⟨owned, agent⟩ := Bool.and_eq_true_iff.mp owner
      rw [decide'_claim kind, decideClaim_owned owned, if_pos agent]
  have notOwner (other : fromOwner s f = false) : (!fromOwner s f) = true := by simp [other]
  have isOwner (owner : fromOwner s f = true) : ¬ (!fromOwner s f) = true := by simp [owner]
  refine ⟨fun claim => ⟨fun opened => decides ?opens,
      fun electing => ⟨fun inside => decides ?joins, fun after => decides ?tooLate⟩,
      fun owned other => decides ?taken⟩,
    fun kind owner => ⟨fun runs => decides ?renews, fun lapsed => decides ?lapsed⟩, ?stranger,
    fun release owner => decides ?release,
    fun handover owner a ha => ⟨fun bad => decides ?badHeir, fun h1 h2 h3 => decides ?handover⟩,
    fun force => ⟨fun free => decides ?unowned, fun owned pending => decides ?pending, fun owned first => decides ?force⟩,
    fun press => ⟨fun unforced => decides ?unforced,
      fun a m forced => ⟨fun late => decides ?late, fun intime => decides ?passes⟩⟩,
    fun c hc kind => ⟨fun owner state => decides ?change, fun refused => decides ?refusedChange⟩,
    fun commit b hb => ?commit⟩
  case opens => rw [decide'_claim claim, decideClaim_opens opened, accept_modRoot]
  case joins => rw [decide'_claim claim, decideClaim_electing electing, if_pos inside]; rfl
  case tooLate => rw [decide'_claim claim, decideClaim_electing electing, if_neg (Nat.not_le.mpr after)]
  case taken => rw [decide'_claim claim, decideClaim_owned owned, if_neg (by simpa using other)]
  case renews => rw [renewed owner kind, decideRenew_renews runs, accept_modRoot]
  case lapsed => rw [renewed owner kind, decideRenew_lapsed lapsed]
  case stranger =>
    rintro (kind | kind | kind) other
    · exact decides ((decide'_renew kind).trans (if_neg (by simpa using other)))
    · exact decides ((decide'_release kind).trans (if_pos (notOwner other)))
    · exact decides ((decide'_handover kind rfl).trans (if_pos (notOwner other)))
  case release => rw [decide'_release release, if_neg (isOwner owner), accept_modRoot]
  case badHeir => rw [decide'_handover handover ha, if_neg (isOwner owner), if_pos bad]
  case handover =>
    rw [decide'_handover handover ha, if_neg (isOwner owner), if_neg (by simp only [h1, h2, h3, or_self, not_false_eq_true]),
      passOwner_eq, accept_modRoot]
  case unowned => rw [decide'_force force, if_pos (by simp [free])]
  case pending => rw [decide'_force force, if_neg (by simp [owned]), if_pos pending]
  case force => rw [decide'_force force, if_neg (by simp [owned]), if_neg (by simp [first]), accept_modRoot]
  case unforced => exact decide'_press_unforced press unforced
  case late => rw [decide'_press press forced, if_neg (Nat.not_le.mpr late)]
  case passes => rw [decide'_press press forced, if_pos intime, accept_modRoot]
  case change => rw [decide'_change hc kind, if_pos (Bool.and_eq_true_iff.mpr ⟨decide_eq_true state, owner⟩), accept_modRoot]
  case refusedChange =>
    rw [decide'_change hc kind, if_neg fun both => ?_]
    obtain ⟨state, owner⟩ := Bool.and_eq_true_iff.mp both
    exact refused.elim (fun other => Bool.false_ne_true (other.symm.trans owner)) (fun out => out (of_decide_eq_true state))
  case commit =>
    subst hb
    have eq := decide'_commit (s := s) commit
    refine ⟨fun h => decides ?_, fun h early => decides ?_, fun h enough far => decides ?_, fun h enough near => decides ?_⟩
    · rw [eq, if_pos (by simpa using h)]
    · rw [eq, if_neg (by simp [h]), if_pos early]
    · rw [eq, if_neg (by simp [h]), if_neg (Nat.not_lt.mpr enough), if_pos far]
    · rw [eq, if_neg (by simp [h]), if_neg (Nat.not_lt.mpr enough), if_neg (Nat.not_lt.mpr near), accept_modRoot]

end Sys2Proof.Machine
end

section
/-! PROOFS. ORDERs, elections, leases and forces (R444 to R450, R452, R459, R473). -/

namespace Sys2Proof.Machine

/-! ### An ORDER arrives (R444, R446) -/

section
variable {s : State} {f : OrderFrame}

theorem orderIn_outside (free : formed s = false) : orderIn s f = s := if_pos (by simp [free])

variable (live : formed s = true)
include live

theorem orderIn_refusal (refusal : isRefusal f = true) :
    orderIn s f = if f.entry = selfOf s then refusalIn s f else s := by
  rw [orderIn, if_neg (by simp [live]), if_pos refusal]

variable (decision : isRefusal f = false)
include decision

theorem orderIn_duplicate (old : 2 ^ 15 ≤ (f.seq - s.own.nextSeq).toNat) : orderIn s f = s := by
  rw [orderIn, if_neg (by simp [live]), if_neg (by simp [decision]), if_pos old]

/-- The next ORDER in sequence goes to the children and, where none waits, stands alone in the queue. -/
theorem orderIn_next (next : f.seq = s.own.nextSeq) (empty : s.own.orders = []) : orderIn s f =
    { sendAll s s.own.children (.order f) with own := { s.own with orders := [f], nextSeq := f.seq + 1 } } := by
  have new : ¬ 2 ^ 15 ≤ (f.seq - s.own.nextSeq).toNat := by simp [next]
  rw [orderIn, if_neg (by simp [live]), if_neg (by simp [decision]), if_neg new]
  simp [empty, next]

end

/-! ### ORDERs that are due (R445, R446) -/

/-- The state whose last ORDER has been taken from the queue. -/
def dequeued (s : State) : State := { s with own := { s.own with orders := [] } }

theorem applyDue_idle (begin' : State → State) (k : Nat) {s : State} (empty : s.own.orders = []) :
    applyDue begin' k s = s := by
  cases k with
  | zero => rfl
  | succ k => rw [applyDue, empty]

theorem orderApply_idle {s : State} (empty : s.own.orders = []) : exec .orderApply s = .next s :=
  congrArg _ (applyDue_idle _ _ empty)

section
variable {s : State} {f : OrderFrame} (queue : s.own.orders = [f])
include queue

theorem orderApply_early (early : s.beat.count.toNat < f.effective.toNat) : exec .orderApply s = .next s := by
  refine congrArg Host.Outcome.next ?_
  rw [applyDue, queue]
  exact if_neg (by simp [early])

/-- The only ORDER that waits, on time: its decision takes effect, and the command that it answers no longer waits. -/
theorem orderApply_due (next : s.own.nextSeq = f.seq + 1) (now : s.beat.count = f.effective)
    (keeps : (applyOrder beginCheck (dequeued s) f).own.orders = []) :
    exec .orderApply s = .next (settle (applyOrder beginCheck (dequeued s) f) f) := by
  have onTime : noteLate (dequeued s) f = dequeued s := if_neg (by simp [dequeued, now])
  have due : (f.effective.toNat ≤ s.beat.count.toNat && (s.own.nextSeq - f.seq).toNat < 2 ^ 15 &&
      f.seq != s.own.nextSeq) = true := by
    simp [now, next]
  refine congrArg Host.Outcome.next ?_
  rw [queue, applyDue, queue]
  refine (if_pos due).trans ?_
  change applyDue beginCheck _ (settle (applyOrder beginCheck (noteLate (dequeued s) f) f) f) = _
  rw [onTime]
  exact applyDue_idle _ _ keeps

end

/-! ### What a decision does on this chip (R445 to R452, R459 to R463) -/

/-- Aborting a change that is not COMMITTING touches the staged-change unit and the root's view of it alone. -/
theorem abortUncommitted_eq (s : State) : ∃ g r,
    abortUncommitted s = { s with own := { s.own with stage := g, root := r } } ∧
    (s.own.stage.commitAt = none → g.commitAt = none) := by
  unfold abortUncommitted abortChange
  split
  · exact ⟨_, _, rfl, id⟩
  · split
    · exact ⟨_, _, rfl, id⟩
    · exact ⟨_, _, rfl, fun _ => rfl⟩

/-- With no change committed, a lease is counted by the beat unit alone. -/
theorem leaseFrom_uncommitted {s t : State} (e : W64) (hs : s.own.stage.commitAt = none) (ht : t.own.stage.commitAt = none)
    (beat : t.beat = s.beat) : leaseFrom t e = leaseFrom s e := by
  unfold leaseFrom startOfBeat period
  rw [hs, ht, beat]

/-- A partition that passes has its new owner with a lease (R448, R450). -/
theorem newOwner_own (s : State) (st : BitVec 4) (f : OrderFrame) :
    (newOwner s st f).own.state = st ∧ (newOwner s st f).own.owner = f.agent ∧
      (newOwner s st f).own.orders = s.own.orders ∧
      (s.own.stage.commitAt = none → (newOwner s st f).own.leaseX = some (leaseFrom s f.effective)) := by
  obtain ⟨g, r, e, uncommitted⟩ := abortUncommitted_eq s
  rw [newOwner, e]
  exact ⟨rfl, rfl, rfl, fun none => congrArg some (leaseFrom_uncommitted f.effective none (uncommitted none) rfl)⟩

/-- A partition without an owner is OPEN (R449, R450). -/
theorem noOwner_own (s : State) :
    (noOwner s).own.state = 1 ∧ (noOwner s).own.owner = 0 ∧ (noOwner s).own.leaseX = none ∧
    (noOwner s).own.orders = s.own.orders := by
  obtain ⟨g, r, e, -⟩ := abortUncommitted_eq s
  rw [noOwner, e]
  exact ⟨rfl, rfl, rfl, rfl⟩

section
variable {s : State} {f : OrderFrame} (b : State → State)

theorem applyOrder_renew (kind : f.kind = 2) (owned : hasOwner s.own.state = true) :
    applyOrder b s f = { s with own := { s.own with leaseX := some (leaseFrom s f.effective) } } := by
  rw [applyOrder, kind]; exact if_pos owned

theorem applyOrder_release (kind : f.kind = 3) : applyOrder b s f = noOwner s := by rw [applyOrder, kind]; rfl

theorem applyOrder_handover (kind : f.kind = 4) : applyOrder b s f = newOwner s (if s.own.state == 4 then 4 else 3) f := by
  rw [applyOrder, kind]; rfl

theorem applyOrder_force (kind : f.kind = 5) : applyOrder b s f = { s with own := { s.own with
    force := some (f.agent, f.arg), state := if s.own.state = 3 then 4 else s.own.state } } := by
  rw [applyOrder, kind]; simp only [beq_iff_eq]

theorem applyOrder_open (kind : f.kind = 7) :
    applyOrder b s f = modStage s fun g => { discardChange g with state := 1 } := by
  rw [applyOrder, kind]; rfl

theorem applyOrder_commit (kind : f.kind = 9) (checked : s.own.stage.state = 3) :
    applyOrder b s f = modStage s fun g => { g with state := 4, commitAt := some f.arg } := by
  rw [applyOrder, kind]; exact if_pos (by simp [checked])

theorem applyOrder_abort (kind : f.kind = 10) (uncommitted : s.own.stage.state ≠ 4) :
    applyOrder b s f = modStage s fun g => { discardChange g with aborted := true } := by
  rw [applyOrder, kind]; exact if_neg (by simpa using uncommitted)

theorem applyOrder_elect (kind : f.kind = 11) : applyOrder b s f = newOwner s 3 f := by rw [applyOrder, kind]; rfl

/-- ELECT and HANDOVER pass the partition; a pending force outlives a HANDOVER alone. -/
theorem applyOrder_passes (kind : f.kind = 11 ∨ f.kind = 4) :
    ∃ st, applyOrder b s f = newOwner s st f ∧ (f.kind = 11 → st = 3) := by
  rcases kind with kind | kind
  · exact ⟨_, applyOrder_elect b kind, fun _ => rfl⟩
  · exact ⟨_, applyOrder_handover b kind, fun elect => absurd (kind.symm.trans elect) (by decide)⟩

theorem applyOrder_electing (kind : f.kind = 12) : applyOrder b s f = { s with own := { s.own with state := 2 } } := by
  rw [applyOrder, kind]; rfl

end

/-! ### Elections (R448, R467) -/

/-- A claim loses to another: a lower preference, or a higher identity with the same. -/
def losesTo (c d : Agent × Nat) : Prop := c.2 < d.2 ∨ (c.2 = d.2 ∧ d.1.toNat < c.1.toNat)

/-- The better of two claims, of which the first stands before the second. -/
def betterClaim (c d : Agent × Nat) : Agent × Nat := if d.2 < c.2 || (d.2 == c.2 && c.1.toNat < d.1.toNat) then c else d

theorem bestClaim_cons (c : Agent × Nat) (cs : List (Agent × Nat)) :
    bestClaim (c :: cs) = some (((bestClaim cs).map (betterClaim c)).getD c) := by
  rw [bestClaim]
  cases bestClaim cs <;> rfl

section
variable {c w : Agent × Nat} (h : c = w ∨ losesTo c w)
include h

theorem betterClaim_second : betterClaim c w = w := by
  rcases h with rfl | h
  · exact ite_self _
  · refine if_neg ?_
    simp only [losesTo] at h
    simp only [Bool.or_eq_true, Bool.and_eq_true, decide_eq_true_eq, beq_iff_eq]
    omega

theorem betterClaim_first : betterClaim w c = w := by
  rcases h with rfl | h
  · exact ite_self _
  · refine if_pos ?_
    simpa [losesTo] using h

end

theorem bestClaim_mem {cs : List (Agent × Nat)} {c : Agent × Nat} (h : bestClaim cs = some c) : c ∈ cs := by
  induction cs generalizing c with
  | nil => cases h
  | cons d cs ih =>
    rw [bestClaim_cons, Option.some.injEq] at h
    cases best : bestClaim cs with
    | none => simp_all
    | some e =>
      have either : betterClaim d e = d ∨ betterClaim d e = e := ite_eq_or_eq _ _ _
      simp only [best, Option.map_some, Option.getD_some] at h
      rcases either with first | second
      · exact List.mem_cons.mpr (.inl (h.symm.trans first))
      · exact List.mem_cons.mpr (.inr (h.symm.trans second ▸ ih best))

/-- The claim that every other loses to wins. -/
theorem bestClaim_eq {w : Agent × Nat} {cs : List (Agent × Nat)} (mem : w ∈ cs)
    (wins : ∀ c ∈ cs, c = w ∨ losesTo c w) : bestClaim cs = some w := by
  induction cs with
  | nil => cases mem
  | cons c cs ih =>
    rw [bestClaim_cons]
    rcases List.mem_cons.mp mem with rfl | mem
    · cases best : bestClaim cs with
      | none => rfl
      | some d => exact congrArg some (betterClaim_first (wins d (List.mem_cons_of_mem _ (bestClaim_mem best))))
    · rw [ih mem fun d hd => wins d (List.mem_cons_of_mem _ hd)]
      exact congrArg some (betterClaim_second (wins c List.mem_cons_self))

theorem electionClose_waits {s : State}
    (h : isRoot s = false ∨ s.own.root.state ≠ 2 ∨ s.beat.ms.toNat < s.own.root.electEnd.toNat) : electionClose s = s :=
  if_pos (by simpa [or_assoc] using h)

theorem electionClose_elects {s : State} {a : Agent} {p : Nat} (root : isRoot s = true) (electing : s.own.root.state = 2)
    (ended : s.own.root.electEnd.toNat ≤ s.beat.ms.toNat) (best : bestClaim s.own.root.claims = some (a, p)) :
    electionClose s = issueOrder (passOwner s 3 a (effectiveBeat s)) ⟨11, 0, 0, a, 0, effectiveBeat s, selfOf s⟩ := by
  rw [electionClose, if_neg (by simp [root, electing, ended]), best]

/-! ### Leases (R449, R473) -/

theorem leaseExpiry_stands {s : State} (h : ∀ x, s.own.leaseX = some x → s.beat.startMs.toNat < x.toNat) :
    leaseExpiry s = s := by
  refine if_pos ?_
  cases lease : s.own.leaseX with
  | none => simp
  | some x => simp [h x lease]

/-- A lease that has run out leaves the partition OPEN on this chip, and in the root's view at most. -/
theorem leaseExpiry_expires {s : State} {x : W64} (live : formed s = true) (owned : hasOwner s.own.state = true)
    (lease : s.own.leaseX = some x) (out : x.toNat ≤ s.beat.startMs.toNat) :
    ∃ g, leaseExpiry s = modRoot (noOwner s) g := by
  rw [leaseExpiry, if_neg (by simp [live, owned, lease, out])]
  dsimp only
  split
  · exact ⟨_, rfl⟩
  · exact ⟨id, rfl⟩

/-! ### Forces (R452) -/

/-- A pending force has seen no press in time. -/
def forceLate (s : State) (force : Option (Agent × W64)) : Bool := match force with
  | some (_, m) => m.toNat + 30000000 ≤ s.beat.ms.toNat
  | none => false

/-- The state after the lapse of the force that this chip knows. -/
def forceDropped (s : State) : State :=
  { s with own := { s.own with force := none, state := if s.own.state == 4 then 3 else s.own.state } }

theorem forceLapse_eq (s : State) : forceLapse s =
    let t := if forceLate s s.own.force then forceDropped s else s
    if forceLate s t.own.root.force then
      modRoot t fun r => { r with force := none, state := if r.state == 4 then 3 else r.state }
    else t := rfl

theorem forceLapse_none {s : State} (here : s.own.force = none) (root : s.own.root.force = none) : forceLapse s = s := by
  rw [forceLapse_eq, here]
  exact if_neg (by simp [forceLate, root])

/-- A force without a press in time is gone on this chip, and in the root's view at most. -/
theorem forceLapse_lapses {s : State} {a : Agent} {m : W64} (force : s.own.force = some (a, m))
    (late : m.toNat + 30000000 ≤ s.beat.ms.toNat) : ∃ g, forceLapse s = modRoot (forceDropped s) g := by
  have dropped : forceLate s s.own.force = true := by simp [forceLate, force, late]
  rw [forceLapse_eq, if_pos dropped]
  dsimp only
  split
  · exact ⟨_, rfl⟩
  · exact ⟨id, rfl⟩

/-- Settles O47: an ORDER that arrives by its outcomes, one that is due by `orderApply_due` and what its kind does
(`applyOrder_elect` and the others), the timers by whether they have run out. -/
theorem ordersElectionsAndLeases : Obligations.OrdersElectionsAndLeases := by
  intro s f
  refine ⟨fun free => congrArg _ (orderIn_outside free), fun live => ⟨fun decision next empty => ?next,
    fun decision old => congrArg _ (orderIn_duplicate live decision old), fun refusal => ?refusal,
    fun queue _ early => orderApply_early queue early, fun queue next now => ?due, orderApply_idle,
    fun waits => congrArg _ (electionClose_waits waits), fun none => congrArg _ (leaseExpiry_stands (by simp [none])),
    fun here root => congrArg _ (forceLapse_none here root), fun a p root electing ended mem wins => ?elects,
    fun x owned lease => ⟨fun out => ?expires, fun runs => ?stands⟩, fun a m force late forcing => ?lapses⟩⟩
  case next =>
    exact ⟨_, congrArg Host.Outcome.next (orderIn_next live decision next empty), rfl, rfl, rfl, rfl, rfl,
      (sendAll_frame s _ _).2⟩
  case refusal =>
    have ends := orderIn_refusal live refusal
    exact ⟨fun here => congrArg _ (ends.trans (if_pos here)), fun away => congrArg _ (ends.trans (if_neg away))⟩
  case elects =>
    refine ⟨_, congrArg Host.Outcome.next (electionClose_elects root electing ended (bestClaim_eq mem wins)), ?_⟩
    rw [issueOrder_own]
    exact ⟨rfl, rfl, rfl, rfl, _, List.mem_append_right _ List.mem_cons_self, rfl, rfl, rfl⟩
  case expires =>
    obtain ⟨g, e⟩ := leaseExpiry_expires live owned lease out
    obtain ⟨state, owner, none, -⟩ := noOwner_own s
    exact ⟨_, congrArg Host.Outcome.next e, state, owner, none, (noOwner_frame s).2⟩
  case stands => exact congrArg _ (leaseExpiry_stands (by simpa [lease] using runs))
  case lapses =>
    obtain ⟨g, e⟩ := forceLapse_lapses force late
    exact ⟨_, congrArg Host.Outcome.next e, rfl, rfl, if_pos (by simp [forcing]), rfl⟩
  case due =>
    have applies {t : State} (e : applyOrder beginCheck (dequeued s) f = t) (keeps : t.own.orders = []) :
        exec .orderApply s = .next (settle t f) := by
      subst e
      exact orderApply_due queue next now keeps
    refine ⟨fun passes none => ?passes,
      fun kind owned => ⟨_, applies (applyOrder_renew _ kind owned) rfl, rfl, rfl, rfl, rfl⟩,
      fun kind => ?release, fun kind => ⟨_, applies (applyOrder_force _ kind) rfl, rfl, rfl, rfl, rfl⟩,
      fun kind => ⟨_, applies (applyOrder_open _ kind) rfl, rfl, rfl, rfl⟩,
      fun kind checked => ⟨_, applies (applyOrder_commit _ kind checked) rfl, rfl, rfl, rfl⟩,
      fun kind uncommitted => ⟨_, applies (applyOrder_abort _ kind uncommitted) rfl, rfl, rfl, rfl⟩,
      fun kind => ⟨_, applies (applyOrder_electing _ kind) rfl, rfl, rfl⟩⟩
    case passes =>
      obtain ⟨st, e, elects⟩ := applyOrder_passes beginCheck (s := dequeued s) passes
      obtain ⟨state, owner, orders, lease⟩ := newOwner_own (dequeued s) st f
      exact ⟨_, applies e orders, orders, fun kind => state.trans (elects kind), owner, lease none⟩
    case release =>
      obtain ⟨state, owner, none, orders⟩ := noOwner_own (dequeued s)
      exact ⟨_, applies (applyOrder_release _ kind) orders, orders, state, owner, none⟩

end Sys2Proof.Machine
end

section
/-! PROOFS. What an epoch change and leaving a partition do to the block OWN (R160, R393, R563, R570). -/

namespace Sys2Proof.Machine

theorem CupboardOnly.own {s t : State} : CupboardOnly s t → t.own = s.own := by
  rintro ⟨_, _, _, _, _, _, _, rfl⟩
  rfl

/-! ### The cores (R160, R233) -/

theorem postCore_cupboardOnly (s : State) (n kind : Nat) (b : EvtBody) : CupboardOnly s (postCore s n kind b) :=
  (post_eventsOnly s 0 kind (some ⟨(coreAt s n).ctx.toNat, (coreAt s n).ctx.isLt⟩) b).cupboard

theorem invalidEvent_cupboardOnly (s : State) (n u : Nat) (pc : W32) : CupboardOnly s (invalidEvent s n u pc) :=
  .ite (.refl s) ((modCore_cupboardOnly s n _).trans (postCore_cupboardOnly _ n 3 _))

theorem epochOp_cupboardOnly (s : State) (n u : Nat) (x : QEntry) : CupboardOnly s (epochOp s n u x) := by
  unfold epochOp
  split
  · exact .ite (.refl s) (.ite (modCore_cupboardOnly s n _)
      ((modCore_cupboardOnly s n _).trans (invalidEvent_cupboardOnly _ n u _)))
  · exact .refl s

theorem flushStores_cupboardOnly (s : State) (n : Nat) : CupboardOnly s (flushStores s n) :=
  (CupboardOnly.foldl (fun s (w : Nat × Nat × W64) => cupWrite_cupboardOnly s w.1 _ (some n)) _ s).trans
    (modCore_cupboardOnly _ n _)

/-- The queues of the six units, in order, and what the core keeps of each. -/
theorem foldl_epochOp_cupboardOnly (s : State) (n : Nat) (us : List Nat) (work : Nat → List QEntry)
    (kept : Nat → Core → Core) :
    CupboardOnly s (us.foldl (fun s u => modCore ((work u).foldl (fun s x => epochOp s n u x) s) n (kept u)) s) :=
  .foldl (fun s u => (CupboardOnly.foldl (fun s x => epochOp_cupboardOnly s n u x) _ s).trans
    (modCore_cupboardOnly _ n _)) us s

theorem epochCore_cupboardOnly (s : State) (n : Nat) : CupboardOnly s (epochCore s n) := by
  unfold epochCore
  dsimp only
  split
  · exact modCore_cupboardOnly s n _
  · exact ((foldl_epochOp_cupboardOnly s n _ _ _).trans (flushStores_cupboardOnly _ n)).trans (modCore_cupboardOnly _ n _)

theorem epochCores_own (s : State) : (epochCores s).own = s.own := by
  unfold epochCores voidCounters
  dsimp only
  exact (CupboardOnly.foldl epochCore_cupboardOnly (List.range 16) s).own

/-! ### The ring and the ports (R113, R393) -/

theorem ringEpoch_own (s : State) : (ringEpoch s).own = s.own := by
  unfold ringEpoch
  split
  · rfl
  · exact (releaseHeld_cupboardOnly _).own

theorem freeInput_own (s : State) (o : OutFrame) : (freeInput s o).own = s.own := by
  unfold freeInput
  split <;> rfl

theorem dropStale_own (s : State) (p : Nat) : (dropStale s p).own = s.own := by
  have freed (os : List OutFrame) (s : State) : (os.foldl freeInput s).own = s.own := foldl_keeps State.own _ freeInput_own os s
  have counted (s : State) : (countDiscard s).own = s.own := by
    unfold countDiscard
    split <;> rfl
  unfold dropStale
  dsimp only
  split
  · exact (counted _).trans (freed _ _)
  · exact freed _ _

theorem epochPorts_own (s : State) : (epochPorts s).own = s.own :=
  foldl_keeps State.own _ (fun s p => (apply_ite State.own _ _ _).trans (by rw [dropStale_own, ite_self])) _ _

theorem changeEpoch_own (s : State) (e : W32) : (changeEpoch s e).own = { s.own with epoch := e } := by
  rw [changeEpoch, epochPorts_own, ringEpoch_own, epochCores_own]

/-! ### Leaving (R563, R570) -/

theorem setLoopback_own (s : State) (on : Bool) : (setLoopback s on).own = s.own := by
  refine foldl_keeps State.own _ (fun s p => ?_) _ _
  dsimp only
  repeat' split
  all_goals rfl

/-- A chip that has left is in no partition, and in the state of Table 16-1 that it entered. -/
theorem leavePartition_left (s : State) (st : BitVec 4) : (leavePartition s st).own.valid = false ∧
    (leavePartition s st).own.state = 0 ∧ (leavePartition s st).glb.state = st := by
  refine ⟨?_, rfl, rfl⟩
  unfold leavePartition
  dsimp only
  rw [setLoopback_own]
  unfold clearSettings
  dsimp only
  rw [changeEpoch_own]

end Sys2Proof.Machine
end

section
/-! PROOFS. Staged changes: STAGE_CTL, the votes and the commit (R53, R458 to R464, R574). -/

namespace Sys2Proof.Machine

/-! ### The fields of a written STAGE_CTL -/

section
variable (w : W32) {cmd : Nat} (small : cmd < 16)
include small

/-- CMD covers the four lowest bits of the word, and nothing else. -/
theorem getLsbD_withStageCmd {i : Nat} (hi : i < 32) :
    (withStageCmd w cmd).getLsbD i = if i < 4 then cmd.testBit i else w.getLsbD i := by
  have mask : (15#32).getLsbD i = decide (i < 4) := by
    rw [show 15#32 = BitVec.ofNat 32 (2 ^ 4 - 1) from rfl, BitVec.getLsbD_ofNat, Nat.testBit_two_pow_sub_one]
    simp [hi]
  have high : 4 ≤ i → cmd.testBit i = false := fun h =>
    Nat.testBit_lt_two_pow (Nat.lt_of_lt_of_le small (Nat.pow_le_pow_right (n := 2) (by decide) h))
  rw [withStageCmd, BitVec.getLsbD_or, BitVec.getLsbD_and, BitVec.getLsbD_not, mask, BitVec.getLsbD_ofNat]
  by_cases low : i < 4
  · simp [low, hi]
  · simp [low, hi, high (Nat.le_of_not_lt low)]

theorem bits_withStageCmd : bits (withStageCmd w cmd) 0 4 = cmd := by
  have field : (withStageCmd w cmd).extractLsb' 0 4 = BitVec.ofNat 4 cmd := by
    refine BitVec.eq_of_getLsbD_eq fun i hi => ?_
    rw [BitVec.getLsbD_extractLsb', Nat.zero_add, getLsbD_withStageCmd w small (by omega), if_pos hi, BitVec.getLsbD_ofNat]
  rw [bits, field, BitVec.toNat_ofNat]
  exact Nat.mod_eq_of_lt small

theorem extractLsb'_withStageCmd {lo len : Nat} (above : 4 ≤ lo) (fits : lo + len ≤ 32) :
    (withStageCmd w cmd).extractLsb' lo len = w.extractLsb' lo len := by
  refine BitVec.eq_of_getLsbD_eq fun i hi => ?_
  simp [getLsbD_withStageCmd w small (i := lo + i) (by omega), hi]
  omega

theorem bit_withStageCmd {i : Nat} (above : 4 ≤ i) (hi : i < 32) : bit (withStageCmd w cmd) i = bit w i := by
  rw [bit, getLsbD_withStageCmd w small hi, if_neg (Nat.not_lt.mpr above), bit]

end

/-! ### A write of STAGE_CTL (R458, R459, Tables 13-8 and 13-21) -/

/-- A write of STAGE_CTL moves IMG_MB or BUMP. -/
def stageMoves (s : State) (w : W32) : Bool :=
  bits (regValue s .pf 0x20020) 16 9 != bits w 16 9 || bit (regValue s .pf 0x20020) 4 != bit w 4

/-- The state with the IMG_MB and BUMP of a write staged where they move. -/
def stageFields (s : State) (w : W32) : State :=
  if stageMoves s w then modStaged s fun g => { g with imgMb := some (w.extractLsb' 16 9), bump := some (bit w 4) } else s

section
variable {s : State} {via : Via} {v : W32} {cmd : Nat} (small : cmd < 16)
include small

/-- A command of STAGE_CTL: refused whole where its fields may not move, else its fields and then its command. -/
theorem stageCtlWrite_eq : stageCtlWrite s via (withStageCmd v cmd) =
    if stageMoves s v && s.own.stage.state != 1 then stageErr s (if s.own.stage.state == 0 then 1 else 4)
    else stageCommand (stageFields s v) via cmd := by
  rw [stageCtlWrite, extractLsb'_withStageCmd v small (by decide) (by decide),
    bit_withStageCmd v small (by decide) (by decide), bits_withStageCmd v small, bits, bits,
    extractLsb'_withStageCmd v small (by decide) (by decide)]
  rfl

theorem stageCtlWrite_refused (moves : stageMoves s v = true) (closed : s.own.stage.state ≠ 1) :
    stageCtlWrite s via (withStageCmd v cmd) = stageErr s (if s.own.stage.state = 0 then 1 else 4) := by
  rw [stageCtlWrite_eq small, if_pos (by rw [moves, Bool.true_and]; exact bne_iff_ne.mpr closed)]
  simp only [beq_iff_eq]

/-- Fields that stay, or that move in OPEN, are no reason to refuse. -/
theorem stageCtlWrite_taken (taken : stageMoves s v = false ∨ s.own.stage.state = 1) :
    stageCtlWrite s via (withStageCmd v cmd) = stageCommand (stageFields s v) via cmd := by
  rw [stageCtlWrite_eq small, if_neg (by rcases taken with h | h <;> simp [h])]

end

/-- Staging the fields of a write changes nothing that its command looks at. -/
theorem stageFields_keeps (s : State) (v : W32) (via : Via) : formed (stageFields s v) = formed s ∧
    (stageFields s v).own.stage.state = s.own.stage.state ∧ agentOf (stageFields s v) via = agentOf s via ∧
    (stageFields s v).own.stage.b = s.own.stage.b ∧ (stageFields s v).beat.ms = s.beat.ms ∧
    selfOf (stageFields s v) = selfOf s := by
  unfold stageFields
  split
  · exact ⟨rfl, rfl, by cases via <;> rfl, rfl, rfl, rfl⟩
  · exact ⟨rfl, rfl, rfl, rfl, rfl, rfl⟩

/-- The commands, each with the states in which Table 13-8 accepts it. -/
def stageCommands : List (Nat × List Nat) := [(1, [0]), (2, [1]), (3, [3]), (4, [1, 2, 3])]

theorem stageCommands_small : ∀ c ∈ stageCommands, c.1 < 16 := by decide

/-- A command is judged by the partition, then by the state of the change. -/
theorem stageCommand_eq {s : State} (via : Via) {c : Nat × List Nat} (hc : c ∈ stageCommands) : stageCommand s via c.1 =
    if formed s = false then stageErr s 5
    else if s.own.stage.state.toNat ∉ c.2 then stageErr s 1
    else submit s (pathOf via) (6 + c.1) 0 ((agentOf s via).getD 0) (if c.1 = 3 then s.own.stage.b else 0) := by
  simp only [stageCommands, List.mem_cons, List.not_mem_nil, or_false] at hc
  unfold stageCommand
  rcases hc with rfl | rfl | rfl | rfl <;> cases formed s <;> simp [and_assoc]

/-- The state in which a path waits for the ORDER that answers its command. -/
def askedBy (s : State) (via : Via) (kind : Nat) (g : Agent) : State :=
  { s with own := { s.own with awaiting := s.own.awaiting ++ [⟨pathOf via, kind, g⟩] } }

section
variable {s : State} {via : Via} {v : W32} (taken : stageMoves s v = false ∨ s.own.stage.state = 1)
  {c : Nat × List Nat} (hc : c ∈ stageCommands)
include taken hc

theorem stageCtlWrite_outside (free : formed s = false) :
    stageCtlWrite s via (withStageCmd v c.1) = stageErr (stageFields s v) 5 := by
  rw [stageCtlWrite_taken (stageCommands_small c hc) taken, stageCommand_eq via hc, (stageFields_keeps s v via).1, if_pos free]

variable (live : formed s = true)
include live

theorem stageCtlWrite_otherState (other : s.own.stage.state.toNat ∉ c.2) :
    stageCtlWrite s via (withStageCmd v c.1) = stageErr (stageFields s v) 1 := by
  obtain ⟨part, state, -⟩ := stageFields_keeps s v via
  rw [stageCtlWrite_taken (stageCommands_small c hc) taken, stageCommand_eq via hc, part, state, if_neg (by simp [live]),
    if_pos other]

theorem stageCtlWrite_asks (state : s.own.stage.state.toNat ∈ c.2) : stageCtlWrite s via (withStageCmd v c.1) =
    reqIn (askedBy (stageFields s v) via (6 + c.1) ((agentOf s via).getD 0))
      ⟨6 + c.1, 0, 0, (agentOf s via).getD 0, if c.1 = 3 then s.own.stage.b else 0, s.beat.ms, selfOf s⟩ := by
  obtain ⟨part, same, agent, commit, ms, self⟩ := stageFields_keeps s v via
  rw [stageCtlWrite_taken (stageCommands_small c hc) taken, stageCommand_eq via hc, part, same, agent, commit,
    if_neg (by simp [live]), if_neg (not_not.mpr state), submit, ms, self]
  rfl

end

section
variable {s : State} {via : Via} (hw : mayWrite s via = true) (v : W32)
include hw

theorem stageCmdWrite_accepted (cmd : Nat) : stageCmdWrite s via v cmd = stageCtlWrite s via (withStageCmd v cmd) :=
  guarded_accepted _ hw rfl

/-- What every command of STAGE_CTL does, each of them does. -/
theorem exec_stageCommands {t : State} (h : ∀ c ∈ stageCommands, stageCtlWrite s via (withStageCmd v c.1) = t) :
    ∀ c ∈ [Instr.openChange via v, .check via v, .commit via v, .abort via v], exec c s = .next t := by
  have each (c : Nat × List Nat) (hc : c ∈ stageCommands) : stageCmdWrite s via v c.1 = t :=
    (stageCmdWrite_accepted hw v c.1).trans (h c hc)
  simp only [List.forall_mem_cons]
  exact ⟨congrArg _ (each (1, [0]) (by decide)), congrArg _ (each (2, [1]) (by decide)),
    congrArg _ (each (3, [3]) (by decide)), congrArg _ (each (4, [1, 2, 3]) (by decide)), List.forall_mem_nil _⟩

end

/-- The latches of a path once it has read STAGE_COMMIT_LO (R468). -/
def commitLatched (s : State) (via : Via) : Latch :=
  { latchOf s via with commitHi := some (s.own.stage.b.extractLsb' 32 32) }

theorem exec_stageCommitLoRead (s : State) (via : Via) : exec (.stageCommitLoRead via) s =
    .next ((setLatch s (commitLatched s via)).emit (.readData via 0x20028 (regValue s via 0x20028))) := rfl

/-! ### A staged field outside STAGE_CTL: the period (R53, R460) -/

theorem exec_periodWrite {s : State} {via : Via} (hw : mayWrite s via = true) (v : W32) :
    exec (.stagedWrite 0x10004 via v) s = .next (beatPeriodWrite s v) := congrArg _ (guarded_accepted _ hw rfl)

section
variable {s : State} {v : W32} (live : formed s = true) (new : (v.extractLsb' 8 8 : Byte) ≠ nextM1 s)
include live new

theorem beatPeriodWrite_staged (opened : s.own.stage.state = 1) (least : minM1 s ≤ (v.extractLsb' 8 8 : Byte).toNat) :
    beatPeriodWrite s v = modStaged s fun g => { g with nextM1 := some (v.extractLsb' 8 8) } := by
  rw [beatPeriodWrite, if_neg (by simpa using new), if_neg (by simp [opened]), if_neg (Nat.not_lt.mpr least), if_pos live]

theorem beatPeriodWrite_locked (closed : s.own.stage.state ≠ 1) : beatPeriodWrite s v = lockedErr (beatErr s 4) := by
  rw [beatPeriodWrite, if_neg (by simpa using new), if_pos (by rw [live, Bool.true_and]; exact bne_iff_ne.mpr closed)]

end

/-! ### Votes (R462) -/

section
variable {s : State}

theorem voteIn_ignored {f : VoteFrame} (h : formed s = false ∨ f.change ≠ s.own.stage.change.setWidth 16) :
    voteIn s f = s :=
  if_pos (by rcases h with h | h <;> simp [h])

theorem voteIn_counts {f : VoteFrame} (live : formed s = true) (same : f.change = s.own.stage.change.setWidth 16) :
    voteIn s f = settleVote (modStage s fun g => { addVote g f with votes := g.votes + 1 }) :=
  if_neg (by simp [live, same])

/-- The vote of this chip, by the cause that its local check met. -/
def ownVote (s : State) : VoteFrame :=
  let c := s.own.stage.localCause.toNat
  let d := digestAfter s s.own.stage.staged
  ⟨s.own.stage.change.setWidth 16, if c = 0 then 0 else 1, if c = 0 then Coord.zero else selfOf s, d, d, c⟩

theorem ownVote_fails (s : State) : (ownVote s).fails = if s.own.stage.localCause = 0 then 0 else 1 := by
  simp [ownVote, BitVec.toNat_eq]

theorem localCheckEnd_idle (h : s.own.stage.checking = false ∨ s.own.stage.state ≠ 2) : localCheckEnd s = s :=
  if_pos (by simpa using h)

theorem localCheckEnd_votes (checks : s.own.stage.checking = true) (checking : s.own.stage.state = 2) : localCheckEnd s =
    settleVote (modStage s fun g => addVote { g with checking := false } (ownVote s)) :=
  if_neg (by simp [checks, checking])

theorem settleVote_waits (h : s.own.stage.checking = true ∨ s.own.stage.state ≠ 2 ∨
    s.own.stage.votes < s.own.children.length) : settleVote s = s :=
  if_pos (by simpa [or_assoc] using h)

/-- The state whose combined vote has been passed on. -/
def voteTaken (s : State) : State := modStage s fun g => { g with vote := none, votes := 0 }

section
variable (done : s.own.stage.checking = false) (checking : s.own.stage.state = 2)
  (all : s.own.children.length ≤ s.own.stage.votes) {o : VoteFrame} (vote : s.own.stage.vote = some o)
include done checking all vote

theorem settleVote_up {p : Coord} (parent : s.own.parent = some p) : settleVote s = sendPrio (voteTaken s) p (.vote o) := by
  rw [settleVote, if_neg (by simp [done, checking, all]), vote]
  dsimp only
  split
  · next q found =>
    obtain rfl : q = p := Option.some.inj (found.symm.trans parent)
    rfl
  · next none => cases none.symm.trans parent

theorem settleVote_decides (top : s.own.parent = none) (root : isRoot s = true) (stage : s.own.root.stage = 2) :
    settleVote s = issueOrder (modRoot (voteTaken s) fun r => { r with stage := if voteCause o = 0 then 3 else 1 })
      ⟨8, voteCause o, 0, s.own.root.owner, 0, effectiveBeat (voteTaken s), selfOf s⟩ := by
  rw [settleVote, if_neg (by simp [done, checking, all]), vote]
  dsimp only
  split
  · next q found => cases found.symm.trans top
  · refine if_neg ?_
    change ¬ (!isRoot s || s.own.root.stage != 2) = true
    simp [root, stage]

end
end

/-! ### COMMIT (R463, R574) -/

theorem stagedCommitApply_idle {s : State} (h : s.own.stage.commitAt = none ∨ s.own.stage.state ≠ 4) :
    stagedCommitApply s = s := by
  unfold stagedCommitApply
  dsimp only
  split
  · rfl
  · next b commit =>
    have other : s.own.stage.state ≠ 4 := h.resolve_left (by simp [commit])
    exact if_pos (by simpa using .inl other)

/-- The staged-change unit once its change has taken effect. -/
def stageDone (g : Stage) : Stage :=
  { discardChange g with change := g.change + 1, imgMb := g.staged.imgMb.getD g.imgMb, bump := false }

/-- The state in which the settings and the image of a change have taken effect (R463). -/
def changeApplied (s : State) : State :=
  let g := s.own.stage.staged
  let u := applySettings s g
  let u := (g.image.map fun i => applyImage u i).getD u
  modRoot (modStage u fun h => { discardChange h with
    change := h.change + 1, imgMb := g.imgMb.getD h.imgMb, bump := false }) fun r => { r with stage := 0 }

section
variable {s : State} {b : W64} (commit : s.own.stage.commitAt = some b)
include commit

theorem stagedCommitApply_early (early : s.beat.count.toNat < b.toNat) : stagedCommitApply s = s := by
  rw [stagedCommitApply, commit]
  exact if_pos (by simp [early])

variable (committing : s.own.stage.state = 4) (due : b.toNat ≤ s.beat.count.toNat)
include committing due

/-- At its beat a change takes effect, and its epoch and REFORM, if any, follow. -/
theorem stagedCommitApply_due : stagedCommitApply s =
    let e := epochAfter s s.own.stage.staged
    if s.own.stage.staged.reform == some 2 then leavePartition (changeApplied s) 4
    else
      let u := if e != (changeApplied s).own.epoch then changeEpoch (changeApplied s) e else changeApplied s
      if s.own.stage.staged.reform == some 1 then applyReform u
      else if e != u.own.epoch then newSvcLat u else u := by
  rw [stagedCommitApply, commit]
  exact if_neg (by simp [committing, due])

/-- A DISSOLVE leaves the partition, whatever else its change sets. -/
theorem stagedCommitApply_dissolves (dissolve : s.own.stage.staged.reform = some 2) :
    stagedCommitApply s = leavePartition (changeApplied s) 4 := by
  rw [stagedCommitApply_due commit committing due]
  exact if_pos (by simp [dissolve])

/-- A change that keeps the epoch and the members does no more than take effect. -/
theorem stagedCommitApply_kept (reform : s.own.stage.staged.reform = none)
    (epoch : epochAfter s s.own.stage.staged = (changeApplied s).own.epoch) : stagedCommitApply s = changeApplied s := by
  rw [stagedCommitApply_due commit committing due, reform, epoch]
  simp

end

/-- A change of the period and the scale alone. -/
theorem changeApplied_settings {s : State} {m x : Byte} (period : s.own.stage.staged.nextM1 = some m)
    (scale : s.own.stage.staged.scale = some x) (image : s.own.stage.staged.image = none)
    (groups : s.own.stage.staged.groups = none) (version : s.own.stage.staged.version = none)
    (restart : s.own.stage.staged.restart = none) : changeApplied s = { s with
      beat := { s.beat with curM1 := m, nextM1 := m }, hut := { s.hut with scale := x }
      own := { s.own with stage := stageDone s.own.stage, root := { s.own.root with stage := 0 } } } := by
  rw [changeApplied, image]
  simp only [applySettings, period, scale, groups, version, restart]
  rfl

/-- Settles O49: a command of STAGE_CTL by its outcomes (`stageCtlWrite_refused`, `stageCtlWrite_outside`,
`stageCtlWrite_otherState`, `stageCtlWrite_asks`), a vote by whether all have voted (`settleVote_waits`, `settleVote_up`,
`settleVote_decides`), a commit by its beat and by what the change holds (`stagedCommitApply_kept`,
`stagedCommitApply_dissolves`). -/
theorem stagedChanges : Obligations.StagedChanges := by
  refine ⟨fun s via v moves hw hm => ⟨?refused, ?taken, ?read⟩, fun s via v f => ⟨?period,
    fun h => congrArg _ (voteIn_ignored h), fun live same => congrArg _ (voteIn_counts live same), ?checks,
    fun h => congrArg _ (localCheckEnd_idle h), settleVote_waits, ?settles, ?commits,
    fun h => congrArg _ (stagedCommitApply_idle h)⟩⟩
  case refused =>
    obtain rfl : moves = stageMoves s v := hm
    exact fun moves closed => exec_stageCommands hw v fun c hc =>
      stageCtlWrite_refused (stageCommands_small c hc) moves closed
  case taken =>
    obtain rfl : moves = stageMoves s v := hm
    rintro taken u hu
    obtain rfl : u = stageFields s v := hu
    have each (c : Nat × List Nat) (hc : c ∈ stageCommands) (live : formed s = true) :=
      And.intro (stageCtlWrite_asks (via := via) taken hc live) (stageCtlWrite_otherState (via := via) taken hc live)
    simp only [← stageCmdWrite_accepted hw] at each
    refine ⟨fun free => exec_stageCommands hw v fun c hc => stageCtlWrite_outside taken hc free, fun live => ?_⟩
    simp only [List.forall_mem_cons]
    refine ⟨?_, ?_, ?_, ?_, List.forall_mem_nil _⟩
    · exact (each (1, [0]) (by decide) live).imp (fun h ok => congrArg _ (h ok)) (fun h no => congrArg _ (h no))
    · exact (each (2, [1]) (by decide) live).imp (fun h ok => congrArg _ (h ok)) (fun h no => congrArg _ (h no))
    · exact (each (3, [3]) (by decide) live).imp (fun h ok => congrArg _ (h ok)) (fun h no => congrArg _ (h no))
    · exact (each (4, [1, 2, 3]) (by decide) live).imp (fun h ok => congrArg _ (h ok)) (fun h no => congrArg _ (h no))
  case read =>
    exact ⟨_, exec_stageCommitLoRead s via, rfl, rfl, rfl,
      congrArg Latch.commitHi (latchOf_setLatch (l := commitLatched s via) (sameLatch_latchOf s via))⟩
  case period =>
    intro hw live new
    rw [exec_periodWrite hw]
    refine ⟨fun opened least => ?staged, fun checked => ?locked⟩
    case staged => rw [beatPeriodWrite_staged live new opened least]; exact ⟨_, rfl, rfl, rfl, rfl⟩
    case locked =>
      have later : 2 ≤ (beatErr s 4).own.stage.state.toNat := by
        change 2 ≤ s.own.stage.state.toNat
        rw [checked]; decide
      rw [beatPeriodWrite_locked live new (by rw [checked]; decide), lockedErr, if_pos later]
      exact ⟨_, rfl, rfl, rfl, rfl, rfl, rfl⟩
  case checks =>
    exact fun checks checking => ⟨ownVote s, congrArg _ (localCheckEnd_votes checks checking), rfl, rfl,
      ownVote_fails s, rfl⟩
  case settles =>
    rintro o u done checking all vote hu
    obtain rfl : u = voteTaken s := hu
    exact ⟨fun p => settleVote_up done checking all vote, settleVote_decides done checking all vote⟩
  case commits =>
    intro b commit committing
    refine ⟨fun early => congrArg _ (stagedCommitApply_early commit early), fun due g m x hg => ?settings,
      fun due dissolve => ?dissolves⟩
    case settings =>
      subst hg
      intro period scale image groups version restart reform epoch
      have applied := changeApplied_settings period scale image groups version restart
      have kept := stagedCommitApply_kept commit committing due reform (by rw [applied]; exact epoch)
      exact ⟨_, congrArg Host.Outcome.next (kept.trans applied), rfl, rfl, rfl, rfl, rfl, rfl, rfl, rfl, rfl, rfl⟩
    case dissolves =>
      exact ⟨_, congrArg Host.Outcome.next (stagedCommitApply_dissolves commit committing due dissolve),
        leavePartition_left (changeApplied s) 4⟩

end Sys2Proof.Machine
end

section
/-! PROOFS. One step takes one command, runs it and adds none to the queue (assumption logs 5, 75). -/

namespace Sys2Proof.Machine

/-- The end of the anchor write leaves the chip loaded or not, and no command more. -/
theorem execAnchorWriteEnd_pending (s : State) : ∃ t, execAnchorWriteEnd s = .next t ∧ t.pending = s.pending := by
  refine ⟨_, rfl, ?_⟩
  split
  · rfl
  · dsimp only
    split
    · split
      · exact (enterLoaded_frame _ _).1
      · rfl
    · rfl

/-- Every command leads to a state with the same commands waiting: an operation that it runs has the queue among what it leaves
alone (the Frame files). -/
theorem exec_pending (c : Instr) (s : State) : ∃ t, exec c s = .next t ∧ t.pending = s.pending := by
  cases c with
  -- Commands that look something up, and leave the queue whether they find it or not.
  | anchorWriteEnd => exact execAnchorWriteEnd_pending s
  | beatHeader | kbtAckTimer | abortFrame => exact ⟨_, rfl, by split <;> simp⟩
  -- Every other command is an operation with its own lemma.
  | _ => exact ⟨_, rfl, by simp⟩

theorem step_front {s : State} {c : Instr} {cs : List Instr} (front : s.pending = c :: cs) :
    step s = exec c { s with pending := cs } := by rw [step, front]

theorem step_idle {s : State} (idle : s.pending = []) : step s = .next s.tick := by rw [step, idle]

/-- Settles O1: a step by the front of the queue, and the state that each command answers by `exec_pending`. -/
theorem stepTakesTheFrontCommand : Obligations.StepTakesTheFrontCommand := fun s =>
  ⟨fun _ _ => step_front, step_idle, fun c => (exec_pending c s).imp fun _ h => h.1⟩

/-- Settles O3: a command keeps the queue that it finds (`exec_pending`), which is the rest behind it, and so does an idle
clock. -/
theorem commandsAreTakenFirstInFirstOut : Obligations.CommandsAreTakenFirstInFirstOut := by
  have keeps (c : Instr) (s t : State) (e : exec c s = .next t) : t.pending = s.pending := by
    obtain ⟨u, hu, kept⟩ := exec_pending c s
    rw [← Host.Outcome.next.inj (hu.symm.trans e), kept]
  refine ⟨keeps, fun s t c cs front e => ?front, fun s t idle e => ?idle⟩
  case front => exact keeps c _ t ((step_front front).symm.trans e)
  case idle =>
    rw [← Host.Outcome.next.inj ((step_idle idle).symm.trans e), State.tick_pending s, idle]

end Sys2Proof.Machine
end

section
/-! PROOFS. Ethernet and IEEE 1588: HST_ETH_CTL, the answers of the network stack and the slave's states (R485, R489, R490, R508,
Table 14-14). -/

namespace Sys2Proof.Machine

/-! ### HST_ETH_CTL (R485, Table 14-14) -/

theorem ethCtl_reachable (s : State) : regReachable s 0xB0004 = true := rfl

/-- The three commands of HST_ETH_CTL are its write with their bit set. -/
theorem exec_ethCommands {s : State} {via : Via} (hw : mayWrite s via = true) (v : W32) :
    exec (.ethEnable via v) s = .next (ethCtlWrite s (v ||| 1)) ∧ exec (.ethReload via v) s = .next (ethCtlWrite s (v ||| 2)) ∧
      exec (.ethCntClr via v) s = .next (ethCtlWrite s (v ||| 4)) :=
  have each (w : W32) := congrArg (Host.Outcome.next (φ := Fault) (ρ := Refusal))
    (guarded_accepted (fun s => ethCtlWrite s w) hw (ethCtl_reachable s))
  ⟨each _, each _, each _⟩

/-- Without an acceptable record a write with ENABLE or RELOAD is refused with RECORD. -/
theorem ethCtlWrite_refused {s : State} {w : W32} (asks : bit w 0 = true ∨ bit w 1 = true) (bad : readNet s = none) :
    ethCtlWrite s w = { s with hst := { s.hst with ethErr := 1 } } := by
  unfold ethCtlWrite
  dsimp only
  rw [bad, if_pos (by simpa using asks)]
  rfl

/-- Every other write sets ENABLE and KBT_EN as it says, takes the record with ENABLE, and clears the counts with CNT_CLR. -/
theorem ethCtlWrite_taken {s : State} {w : W32} (taken : bit w 0 = false ∧ bit w 1 = false ∨ (readNet s).isSome = true) :
    ∃ h, ethCtlWrite s w = { s with hst := h } ∧ h.ethEnable = bit w 0 ∧ h.kbtEn = bit w 11 ∧
      h.net = (if bit w 0 then readNet s else none) ∧
      (bit w 2 = true → h.kbtDrop = 0 ∧ h.rxDrop = 0 ∧ h.fecUe = 0) := by
  unfold ethCtlWrite
  dsimp only
  have acceptable : ¬ ((bit w 0 || bit w 1) && (readNet s).isNone) = true := by
    rcases taken with ⟨dis, noReload⟩ | good
    · simp [dis, noReload]
    · simp [Option.isSome_iff_ne_none.mp good]
  rw [if_neg acceptable]
  exact ⟨_, rfl, rfl, rfl, rfl, fun clear => ⟨if_pos clear, if_pos clear, if_pos clear⟩⟩

/-! ### Answers of the network stack (R489) -/

section
variable {s : State} {r : NetRec} (record : s.hst.net = some r) (on : s.hst.ethEnable = true)
include record on

theorem ethOn_of_record : ethOn s = true := by simp [ethOn, on, record]

theorem ethAnswer_eq (mine : NetRec → Bool) (kind : Nat) (bs : List Byte) :
    ethAnswer s mine kind bs = if mine r then s.emit (.eth kind bs) else s := by
  simp [ethAnswer, ethOn_of_record record on, record]

theorem exec_arp (a4 : W32) (data : List Byte) : exec (.arp a4 data) s = .next (if r.ipv4On && r.ipv4 == a4 then
    s.emit (.eth 0 (beBytes 6 s.glb.fuses.mac.toNat ++ beBytes 4 a4.toNat ++ data)) else s) :=
  congrArg _ (ethAnswer_eq record on _ _ _)

theorem exec_icmpEcho_own {a4 : W32} (data : List Byte) (own : r.ipv4On = true ∧ r.ipv4 = a4) :
    exec (.icmpEcho a4 data) s = .next (s.emit (.eth 1 data)) := by
  have mine : (s.hst.net.any fun n => n.ipv4On && n.ipv4 == a4) = true := by simp [record, own]
  exact congrArg _ ((if_pos mine).trans (ethAnswer_eq record on _ _ _))

theorem exec_neighbourDiscovery_own {a6 : BitVec 128} (own : r.ipv6On = true ∧ r.ipv6 = a6) :
    exec (.neighbourDiscovery a6) s = .next (s.emit (.eth 2 (beBytes 16 a6.toNat ++ beBytes 6 s.glb.fuses.mac.toNat))) :=
  congrArg _ ((ethAnswer_eq record on _ _ _).trans (if_pos (by simp [own])))

theorem exec_icmpv6Echo_own {a6 : BitVec 128} (data : List Byte) (own : r.ipv6On = true ∧ r.ipv6 = a6) :
    exec (.icmpv6Echo a6 data) s = .next (s.emit (.eth 3 data)) := by
  have mine : (s.hst.net.any fun n => n.ipv6On && n.ipv6 == a6) = true := by simp [record, own]
  exact congrArg _ ((if_pos mine).trans (ethAnswer_eq record on _ _ _))

end

/-! ### IEEE 1588 (R490) -/

theorem ptpFor_of_record {s : State} {r : NetRec} (record : s.hst.net = some r) (runs : s.hst.ptpState ≠ 0) :
    ptpFor s r.ptpDomain = true := by
  simpa [ptpFor, record] using runs

section
variable {s : State} {domain : Byte} (mine : ptpFor s domain = true)
include mine

theorem exec_ptpSync_oneStep (offset : Int) : exec (.ptpSync domain false offset) s =
    .next (ptpOffset (modHst (s.emit (.eth 4 [])) fun h => { h with ptpTwoStep := false }) offset) :=
  congrArg _ (if_neg (by simp [mine]))

theorem exec_ptpFollowUp_awaited (twoStep : s.hst.ptpTwoStep = true) (offset : Int) : exec (.ptpFollowUp domain offset) s =
    .next (ptpOffset (modHst s fun h => { h with ptpTwoStep := false }) offset) :=
  congrArg _ (if_pos (by simp [mine, twoStep]))

end

/-- The sixteenth offset in a row of at most 100 ns locks the slave. -/
theorem ptpOffset_locks {s : State} {o : Int} (small : o.natAbs ≤ 100) (run : s.hst.ptpRun = 15) :
    ∃ h, ptpOffset s o = { s with hst := h } ∧ h.ptpLocked = true ∧ h.ptpRun = 16 ∧ h.ptpOffset.toInt = o := by
  refine ⟨_, rfl, ?_, ?_, ?_⟩
  · simp [small, run]
  · simp [small, run]
  · have unclamped : max (-32767) (min 32767 o) = o := by omega
    simp only [unclamped]
    rw [BitVec.toInt_ofInt]
    exact Int.bmod_eq_of_le (by omega) (by omega)

/-- An offset above 1 µs unlocks it. -/
theorem ptpOffset_unlocks {s : State} {o : Int} (large : 1000 < o.natAbs) :
    ∃ h, ptpOffset s o = { s with hst := h } ∧ h.ptpLocked = false ∧ h.ptpRun = 0 ∧ h.ptpTwoStep = s.hst.ptpTwoStep := by
  have notSmall : ¬ o.natAbs ≤ 100 := by omega
  exact ⟨_, rfl, by simp [notSmall, large], if_neg notSmall, rfl⟩

/-- Settles O52: HST_ETH_CTL by whether the record that it asks for is acceptable (`ethCtlWrite_refused`, `ethCtlWrite_taken`),
answers by the addresses of the record in use, an offset by `ptpOffset_locks` and `ptpOffset_unlocks`. -/
theorem ethernetAndPtpAnswer : Obligations.EthernetAndPtpAnswer := by
  intro s via v domain offset a4 a6 data up
  refine ⟨fun hw => ?registers, fun r record on => ⟨?ipv4, ?otherIpv4, ?ipv6, ?drop, ?kbtDrop, ?link, ?ptp⟩, rfl⟩
  case registers =>
    obtain ⟨enable, reload, clear⟩ := exec_ethCommands hw v
    rw [enable, reload, clear]
    refine ⟨fun r good => ?enables, fun bad => ?refuses, fun r good en => ?reloads, fun dis noReload => ?clears⟩
    case enables =>
      have bit0 : bit (v ||| 1) 0 = true := by rw [bit_or]; exact Bool.or_true _
      obtain ⟨h, e, en, kbt, net, -⟩ := ethCtlWrite_taken (s := s) (w := v ||| 1) (.inr (by simp [good]))
      exact ⟨_, congrArg _ e, rfl, en.trans bit0, net.trans ((if_pos bit0).trans good), by simpa [bit] using kbt⟩
    case refuses =>
      exact ⟨congrArg _ (ethCtlWrite_refused (.inl (by simp [bit])) bad),
        congrArg _ (ethCtlWrite_refused (.inr (by simp [bit])) bad)⟩
    case reloads =>
      obtain ⟨h, e, en', -, net, -⟩ := ethCtlWrite_taken (s := s) (w := v ||| 2) (.inr (by simp [good]))
      have bit0 : bit (v ||| 2) 0 = true := by rw [bit_or, en]; rfl
      exact ⟨_, congrArg _ e, rfl, net.trans ((if_pos bit0).trans good), en'.trans bit0⟩
    case clears =>
      have bits0 : bit (v ||| 4) 0 = false ∧ bit (v ||| 4) 1 = false := by rw [bit_or, bit_or, dis, noReload]; decide
      obtain ⟨h, e, en', -, -, counts⟩ := ethCtlWrite_taken (s := s) (w := v ||| 4) (.inl bits0)
      obtain ⟨kbt, rx, fec⟩ := counts (by simp [bit])
      exact ⟨_, congrArg _ e, rfl, kbt, rx, fec, en'.trans bits0.1⟩
  case ipv4 =>
    exact fun on4 own => ⟨(exec_arp record on a4 data).trans (congrArg _ (if_pos (by simp [on4, own]))),
      exec_icmpEcho_own record on data ⟨on4, own⟩⟩
  case otherIpv4 => exact fun other => (exec_arp record on a4 data).trans (congrArg _ (if_neg (by simp [other])))
  case ipv6 =>
    exact fun on6 own => ⟨exec_neighbourDiscovery_own record on ⟨on6, own⟩,
      exec_icmpv6Echo_own record on data ⟨on6, own⟩⟩
  case drop => exact congrArg _ (if_pos (ethOn_of_record record on))
  case kbtDrop => exact congrArg _ (if_pos (ethOn_of_record record on))
  case link =>
    have mine : (up && s.hst.ethEnable) = up := by rw [on, Bool.and_true]
    change Host.Outcome.next (modHst s fun h => { h with link := up && h.ethEnable, fecLock := up && h.ethEnable }) = _
    simp only [modHst, mine]
  case ptp =>
    rintro rfl
    refine ⟨fun listening => ?announce, fun uncalibrated => ?delay, fun runs small run => ?sync,
      fun runs twoStep large => ?followUp⟩
    case announce =>
      have mine := ptpFor_of_record record (by simp [listening])
      exact congrArg _ (if_pos (by simp [mine, listening]))
    case delay =>
      have mine := ptpFor_of_record record (by simp [uncalibrated])
      exact congrArg _ (if_pos (by simp [mine, uncalibrated]))
    case sync =>
      have mine := ptpFor_of_record record runs
      obtain ⟨h, e, locked, run', off⟩ := ptpOffset_locks
        (s := modHst (s.emit (.eth 4 [])) fun h => { h with ptpTwoStep := false }) small run
      exact ⟨_, (exec_ptpSync_oneStep mine offset).trans (congrArg _ e), locked, run', off, rfl⟩
    case followUp =>
      have mine := ptpFor_of_record record runs
      obtain ⟨h, e, locked, run', two⟩ := ptpOffset_unlocks (s := modHst s fun h => { h with ptpTwoStep := false }) large
      exact ⟨_, (exec_ptpFollowUp_awaited mine twoStep offset).trans (congrArg _ e), rfl, locked, run', two⟩

end Sys2Proof.Machine
end

section
/-! PROOFS. The I3C target: its common commands and the messages that it takes once it has an address (R443, R486 to R488,
Table 14-7). -/

namespace Sys2Proof.Machine

/-! ### Common commands (R486, R487) -/

/-- A length of two bytes, most significant first. -/
theorem beBytes_word (v : W16) : beBytes 2 v.toNat = [v.extractLsb' 8 8, v.setWidth 8] := by
  have low : BitVec.ofNat 8 v.toNat = v.setWidth 8 := by simp
  have high : BitVec.ofNat 8 (v.toNat / 256) = v.extractLsb' 8 8 := by
    simp [BitVec.extractLsb', Nat.shiftRight_eq_div_pow]
  simp only [beBytes, leBytes, low, high, List.reverse_cons, List.reverse_nil, List.nil_append, List.cons_append]

theorem i3cReply_addressed {s : State} (held : s.hst.i3c.valid = true) (bs : List Byte) : i3cReply s bs = s.emit (.i3c bs) :=
  if_pos held

theorem i3cReply_silent {s : State} (none : s.hst.i3c.valid = false) (bs : List Byte) : i3cReply s bs = s :=
  if_neg (by simp [none])

/-! ### Messages (R488) -/

theorem addressed_eq {s : State} (held : s.hst.i3c.valid = true) (f : State → State) : addressed s f = f s := if_pos held

theorem lbWrite_inside (s : State) {off : Nat} {data : List Byte} (fits : off + data.length ≤ 0x80040) :
    lbWrite s off data = { s with hst := { s.hst with loadBuf := writeBytes s.hst.loadBuf off data } } := by
  have whole : data.take (0x80040 - off) = data := List.take_of_length_le (by omega)
  simp only [lbWrite, modHst, whole]

/-- A write of 1 to 256 bytes inside the buffer is judged by R443. -/
theorem lbw_judged {s : State} {off : Nat} {data : List Byte} (some : data ≠ []) (short : data.length ≤ 256)
    (fits : off + data.length ≤ 0x80040) : lbw s off data =
      if mayWrite s .i3c then i3cWrote (lbWrite s off data) 0 else i3cWrote (setOwnErr s .i3c 1) 1 := by
  unfold lbw
  rw [if_neg (by simpa [some] using short), if_neg (by omega)]

theorem lbr_inside {s : State} {off : Nat} {n : Byte} (some : n ≠ 0) (fits : off + n.toNat ≤ 0x100000) :
    lbr s off n = i3cAsk s 0 (lbRead s off n.toNat) := by
  simp only [lbr, if_neg some]
  exact if_neg (by omega)

theorem csrr_reads {s : State} {addr : Nat} (aligned : addr % 4 = 0) (inside : addr < 0x200000) :
    csrr s addr 0 = i3cAsk (readReg s .i3c addr).1 0 (leBytes 4 (readReg s .i3c addr).2.toNat) := by
  unfold csrr
  rw [if_neg (by simp), if_neg (by simpa [aligned] using inside)]

theorem csrr_unaligned {s : State} {addr : Nat} (odd : addr % 4 ≠ 0) : csrr s addr 0 = i3cAsk s 3 [] := by
  unfold csrr
  rw [if_neg (by simp), if_pos (by simp [odd])]

theorem csrr_length {s : State} {addr len : Nat} (extra : len ≠ 0) : csrr s addr len = i3cAsk s 4 [] := if_pos extra

theorem csrw_length {s : State} {addr len : Nat} {v : W32} (wrong : len ≠ 4) : csrw s addr v len = i3cWrote s 4 := if_pos wrong

theorem csrw_unaligned {s : State} {addr : Nat} {v : W32} (odd : addr % 4 ≠ 0) : csrw s addr v 4 = i3cWrote s 3 := by
  unfold csrw
  rw [if_neg (by simp), if_pos (by simp [odd])]

/-- A write that nothing refuses acts, with STATUS OK. -/
theorem csrw_writes {s : State} {addr : Nat} {v : W32} (aligned : addr % 4 = 0) (inside : addr < 0x200000)
    (allowed : writeRefused s .i3c addr = false) (other : addr ≠ 0x20008) :
    csrw s addr v 4 = i3cWrote (registerWrite s .i3c addr v) 0 := by
  unfold csrw
  rw [if_neg (by simp), if_neg (by simpa [aligned] using inside)]
  simp [allowed, other]

/-- Settles O51: the common commands by whether the target holds an address (`i3cReply_addressed`, `i3cReply_silent`), the
messages of one that does by their checks in the order of Table 14-7. -/
theorem i3cCommandsAndMessages : Obligations.I3cCommandsAndMessages := by
  refine ⟨fun s addr len i3c hi => ?commands, fun s off addr len data n v held => ?messages⟩
  case commands =>
    subst hi
    refine ⟨fun none => ?assigned, fun held => ⟨congrArg _ (if_pos held), congrArg _ (if_pos held)⟩, rfl, rfl, rfl, rfl, rfl,
      fun held => ?answers, fun none => ?silent⟩
    case assigned => exact ⟨_, congrArg Host.Outcome.next (if_neg (by simp [none])), rfl, rfl, rfl, rfl, rfl⟩
    case answers =>
      have reply (bs : List Byte) := congrArg (Host.Outcome.next (φ := Fault) (ρ := Refusal)) (i3cReply_addressed held bs)
      refine ⟨reply _, reply _, reply _, ?_, ?_, _, _, congrArg _ (i3cReply_addressed (s := s.drawn 2) held _)⟩
      · exact (reply _).trans (by rw [beBytes_word])
      · exact (reply _).trans (by rw [beBytes_word])
    case silent =>
      exact ⟨congrArg _ (i3cReply_silent none _), congrArg _ (i3cReply_silent none _), congrArg _ (i3cReply_silent none _),
        _, congrArg Host.Outcome.next (if_neg (by simp [none])), rfl, rfl, rfl⟩
  case messages =>
    have runs {f : State → State} {t : State} (e : f s = t) :
        Host.Outcome.next (addressed s f) = (.next t : Host.Outcome State Fault Refusal) :=
      congrArg _ ((addressed_eq held f).trans e)
    refine ⟨fun some short fits => ?lbw, fun hw fits => ?loadBuffer, fun some fits => ?lbr, fun aligned inside => ?csrr,
      fun odd => ?csrrAddress, fun extra => ?csrrLength, ?stat, ?opcode, ?read, fun aligned inside allowed other => ?csrw,
      fun wrong => ?csrwLength, fun odd => ?csrwAddress⟩
    case lbw =>
      have judged := lbw_judged (s := s) some short fits
      rw [lbWrite_inside s fits] at judged
      exact ⟨fun hw => ⟨_, runs (judged.trans (if_pos hw)), rfl, rfl, rfl, rfl⟩,
        fun hw => ⟨_, runs (judged.trans (if_neg (by simp [hw]))), rfl, rfl, rfl⟩⟩
    case loadBuffer => exact congrArg _ ((if_pos hw).trans (lbWrite_inside s fits))
    case lbr => exact ⟨_, runs (lbr_inside some fits), rfl, rfl, rfl⟩
    case csrr => exact ⟨_, runs (csrr_reads aligned inside), rfl, rfl, by simp⟩
    case csrrAddress => exact ⟨_, runs (csrr_unaligned odd), rfl, rfl⟩
    case csrrLength => exact ⟨_, runs (csrr_length extra), rfl, rfl⟩
    case stat => exact ⟨_, runs rfl, rfl, rfl, rfl⟩
    case opcode => exact ⟨_, runs rfl, rfl, rfl, rfl⟩
    case read =>
      refine ⟨_, runs rfl, rfl, rfl, fun ready => ?_, fun none => ?_⟩
      · exact congrArg (Out.i3c · :: s.outs) (if_neg (by simpa using ready))
      · exact congrArg (Out.i3c · :: s.outs) (if_pos (by simpa using none))
    case csrw => exact runs (csrw_writes aligned inside allowed other)
    case csrwLength => exact runs (csrw_length wrong)
    case csrwAddress => exact runs (csrw_unaligned odd)

end Sys2Proof.Machine
end

section
/-! PROOFS. Windows of the host into the cupboard, function level resets and event queues (R443, R478 to R480, R483, R494, R505). -/

namespace Sys2Proof.Machine

/-! ### Accesses of the cupboard (R478, R494) -/

theorem noteRead_sound {s : State} (ue : s.ue = []) (ce : s.ce = []) (a n : Nat) (core : Option Nat) (reader : Nat) :
    noteRead s a n core reader = s := by
  have kept : { s with ce := [] } = s := by rw [← ce]
  simpa [noteRead, correctRead, ue, ce] using kept

/-- The quadrant of a byte of the cupboard is one of four. -/
theorem quadOn_inside {s : State} (on : ∀ q, 16 ≤ q → q < 20 → domainOn s q = true) {a : Nat} (inside : a < chipBytes) :
    quadOn s a = true := by
  have quadrant : a / (4 * sliceBytes) < 4 := Nat.div_lt_of_lt_mul (by simpa [sliceBytes, chipBytes] using inside)
  exact on _ (Nat.le_add_right 16 _) (Nat.add_lt_add_left quadrant 16)

theorem inside_of_hostReadOk {s : State} {fn : Option Nat} {a n : Nat} (ok : hostReadOk s fn a n = true) :
    a + n ≤ chipBytes := by
  cases fn with
  | none =>
    simp only [hostReadOk, inFrames, Bool.and_eq_true, decide_eq_true_eq] at ok
    exact ok.1
  | some t =>
    simp only [hostReadOk, inFrames, Bool.and_eq_true, decide_eq_true_eq] at ok
    obtain ⟨⟨-, inside, -⟩, -⟩ := ok
    exact inside

/-- Where no word has an error, the weight ring is off and every quadrant is on, a read of the cupboard gives its bytes. -/
theorem hostRead_sound {s : State} (ue : s.ue = []) (ce : s.ce = []) (ring : s.wrg.enable = false)
    (on : ∀ q, 16 ≤ q → q < 20 → domainOn s q = true) {a n : Nat} (inside : a + n ≤ chipBytes) :
    hostRead s a n = (s.drawn n, (List.range n).map fun i => readByte s.mem (a + i)) := by
  have bytes : (List.range n).map (hostByte s a) = (List.range n).map fun i => readByte s.mem (a + i) :=
    List.map_congr_left fun i hi => by
      have quad := quadOn_inside on (a := a + i) (by have := List.mem_range.mp hi; omega)
      simp [hostByte, quad, wordBad, ue, ring]
  have left : noteRead (s.drawn n) a n none readerManagement = s.drawn n :=
    noteRead_sound (s := s.drawn n) ue ce a n none readerManagement
  simp only [hostRead, left, bytes]
  rw [if_neg (by simp [ring])]

/-- A write that a condition decides leaves every byte outside its range alone. -/
theorem cupWriteIf_other (c : Bool) {s : State} (wf : Memory.wf s.mem = true) {a x : Nat} {bs : List Byte}
    (hx : x < a ∨ a + bs.length ≤ x) : readByte (if c then cupWrite s a bs none else s).mem x = readByte s.mem x := by
  cases c
  · rfl
  · exact cupWrite_other wf none hx

/-- A write on a host path leaves every byte outside its range alone. -/
theorem hostWrite_other {s : State} (wf : Memory.wf s.mem = true) {a x : Nat} {bs : List Byte}
    (hx : x < a ∨ a + bs.length ≤ x) : readByte (hostWrite s a bs).mem x = readByte s.mem x := by
  unfold hostWrite
  rw [cupWriteIf_other _ (by simp [wf]) (by rw [List.length_drop]; omega),
    cupWriteIf_other _ wf (by rw [List.length_take]; omega)]

section
variable {s : State} {fn : Option Nat} {a n : Nat}

theorem bar2_reads (ok : hostReadOk s fn a n = true) (ue : s.ue = []) (ce : s.ce = []) (ring : s.wrg.enable = false)
    (on : ∀ q, 16 ≤ q → q < 20 → domainOn s q = true) : bar2 s fn a n none = { s with
      draw := s.draw + n, outs := .completion ((List.range n).map fun i => readByte s.mem (a + i)) :: s.outs } := by
  have read := hostRead_sound ue ce ring on (inside_of_hostReadOk ok)
  simp only [bar2, if_pos ok, read]
  rfl

/-- A read outside its rights is answered with ones. -/
theorem bar2_readRefused (bad : hostReadOk s fn a n = false) :
    bar2 s fn a n none = (hostRefused s fn).emit (.completion (List.replicate n 0xFF)) := if_neg (by simp [bad])

theorem bar2_writes {bs : List Byte} (ok : hostWriteOk s fn a bs.length = true) :
    bar2 s fn a n (some bs) = hostWrite s a bs := if_pos ok

theorem bar2_writeRefused {bs : List Byte} (bad : hostWriteOk s fn a bs.length = false) :
    bar2 s fn a n (some bs) = hostRefused s fn := if_neg (by simp [bad])

end

theorem exec_pfBar2Access_write (addr len : Nat) (bs : List Byte) (s : State) : exec (.pfBar2Access addr len (some bs)) s =
    .next (if mayWrite s .pf then bar2 s none addr len (some bs) else setOwnErr s .pf 1) := rfl

/-! ### Function level resets (R479) -/

theorem vfReset_hstOnly (s : State) (t : Nat) : vfReset s t = { s with hst := (vfReset s t).hst } := rfl

theorem vfReset_page (s : State) (vf : Ctx) : (vfReset s vf.val).hst.vfs.toList.getD vf.val Vf.reset =
    { Vf.reset with evtPosted := (s.hst.vfs.toList.getD vf.val Vf.reset).evtPosted } :=
  (vmod_getD s.hst.vfs vf.val _ vf.val Vf.reset).trans (if_pos ⟨rfl, vf.isLt⟩)

theorem mem_vfReset_requests {s : State} {t : Nat} {r : IntakeReq} : r ∈ (vfReset s t).hst.requests ↔
    r ∈ s.hst.requests ∧ (r.pcie = true → r.ctx.val ≠ t) := by
  cases hp : r.pcie <;> simp [vfReset, modHst, modVf, hp]

/-- After resets of VFs no undecided doorbell of theirs is left. -/
theorem mem_vfResets_requests (ts : List Nat) {s : State} {r : IntakeReq} (h : r ∈ (ts.foldl vfReset s).hst.requests) :
    r.pcie = true → r.ctx.val ∉ ts := by
  suffices r ∈ s.hst.requests ∧ ∀ t ∈ ts, r.pcie = true → r.ctx.val ≠ t from
    fun pcie own => this.2 _ own pcie rfl
  induction ts generalizing s with
  | nil => exact ⟨h, by simp⟩
  | cons t ts ih =>
    obtain ⟨kept, others⟩ := ih h
    obtain ⟨before, this⟩ := mem_vfReset_requests.mp kept
    exact ⟨before, List.forall_mem_cons.mpr ⟨this, others⟩⟩

/-- What a reset of the PF does after the resets of its VFs. -/
def pfUnbound (s : State) : State := { s with
  own := { s.own with boundPf := none }
  latches := s.latches.filter fun l => !sameLatch l.via .pf
  hst := { s.hst with pfQueue := { s.hst.pfQueue with enable := false } } }

theorem exec_pfFlr (s : State) : exec .pfFlr s = .next (pfUnbound ((List.range 16).foldl vfReset s)) := rfl

/-! ### Event queues (R480, R483) -/

theorem evtQueue_reachable (s : State) : regReachable s 0xC0004 = true := rfl

/-- A write of EVT_Q_HEAD of the PF's queue where no LOST record is due. -/
theorem queueAccess_head {s : State} (hw : mayWrite s .pf = true) {v : W32} (noneLost : (headWrite s.hst.pfQueue v).lost = 0) :
    queueAccess s none 4 v = { s with hst := { s.hst with pfQueue := headWrite s.hst.pfQueue v } } := by
  have nothingLost : reportLost (setQueue s 0 (headWrite s.hst.pfQueue v)) 0 = setQueue s 0 (headWrite s.hst.pfQueue v) := by
    unfold reportLost
    exact if_neg (by simp [getQueue, setQueue, noneLost])
  exact (guarded_accepted (fun s => queueWrite s 0 4 v) hw (evtQueue_reachable s)).trans nothingLost

/-- ENABLE from 0 to 1 starts a queue afresh. -/
theorem headWrite_starts {q : EvtQueue} {v : W32} (off : q.enable = false) (en : bit v 31 = true) :
    headWrite q v = { q with enable := true, head := 0, tail := 0, dropped := 0, signalled := false } :=
  if_pos (by simp [off, en])

/-- A HEAD between the old one and TAIL is stored. -/
theorem headWrite_moves {q : EvtQueue} {v : W32} (on : q.enable = true) (en : bit v 31 = true)
    (lower : q.head.toNat ≤ bits v 0 16) (upper : bits v 0 16 ≤ q.tail.toNat) (fits : q.tail.toNat < queueLen q) :
    headWrite q v = { q with enable := true, head := BitVec.ofNat 16 (bits v 0 16), signalled := false } := by
  have ahead {n : Nat} (low : q.head.toNat ≤ n) (high : n ≤ q.tail.toNat) :
      (n + queueLen q - q.head.toNat) % queueLen q = n - q.head.toNat := by
    rw [show n + queueLen q - q.head.toNat = n - q.head.toNat + queueLen q by omega, Nat.add_mod_right,
      Nat.mod_eq_of_lt (by omega)]
  unfold headWrite
  rw [if_neg (by simp [on])]
  simp only [en]
  refine if_pos ?_
  rw [ahead lower upper, ahead (lower.trans upper) le_rfl]
  simpa using by omega

/-- Settles O50: accesses by their rights (`bar2_reads`, `bar2_readRefused`, `bar2_writes`, `bar2_writeRefused`), resets by what
they leave of the requests (`mem_vfResets_requests`), EVT_Q_HEAD by `headWrite_starts` and `headWrite_moves`. -/
theorem hostWindowsResetsAndQueues : Obligations.HostWindowsResetsAndQueues := by
  intro s vf addr len bs v
  refine ⟨fun ue ce ring on => ⟨fun ok => ?pfReads, fun ok => ?vfReads, fun ok wf => ?vfWrites⟩, fun bad => ?readRefused,
    fun hw bad => ?writeRefused, fun hw => ?readOnly, ?vfFlr, ?pfFlr, fun hw off noneLost => ?enables,
    fun hw on noneLost en lower upper fits => ?moves, ⟨_, rfl, rfl, rfl, rfl⟩⟩
  case pfReads => exact congrArg _ (bar2_reads ok ue ce ring on)
  case vfReads => exact congrArg _ (bar2_reads ok ue ce ring on)
  case vfWrites => exact ⟨_, congrArg Host.Outcome.next (bar2_writes ok), fun a outside => hostWrite_other wf outside⟩
  case readRefused => exact ⟨_, congrArg Host.Outcome.next (bar2_readRefused bad), rfl, (hostRefused_frame s none).2⟩
  case writeRefused =>
    rw [exec_pfBar2Access_write, if_pos hw, bar2_writeRefused bad]
    exact ⟨_, rfl, (hostRefused_frame s none).2⟩
  case readOnly => rw [exec_pfBar2Access_write, if_neg (by simp [hw])]
  case vfFlr =>
    refine ⟨_, rfl, vfReset_hstOnly s vf.val, vfReset_page s vf, fun r hr pcie same => ?_⟩
    exact (mem_vfReset_requests.mp hr).2 pcie (congrArg Fin.val same)
  case pfFlr =>
    have mem : ((List.range 16).foldl vfReset s).mem = s.mem :=
      foldl_keeps State.mem vfReset (fun s t => (vfReset_frame s t).2) _ s
    have own : ((List.range 16).foldl vfReset s).own = s.own := foldl_keeps State.own vfReset (fun _ _ => rfl) _ s
    have unlisted {r : IntakeReq} := mem_vfResets_requests (List.range 16) (s := s) (r := r)
    rw [exec_pfFlr]
    generalize (List.range 16).foldl vfReset s = u at mem own unlisted
    exact ⟨_, rfl, rfl, rfl, mem, by rw [← own]; rfl, fun r hr => by simpa [r.ctx.isLt] using unlisted hr⟩
  case enables =>
    have starts := headWrite_starts (v := v ||| 0x80000000) off (by rw [bit_or]; exact Bool.or_true _)
    exact ⟨_, congrArg Host.Outcome.next (queueAccess_head hw (by rw [starts]; exact noneLost)), rfl,
      by rw [starts], by rw [starts],
      by rw [starts], by rw [starts]⟩
  case moves =>
    have moves := headWrite_moves on en lower upper fits
    refine ⟨_, congrArg Host.Outcome.next (queueAccess_head hw (by rw [moves]; exact noneLost)), rfl, ?_, by rw [moves]⟩
    rw [moves]
    exact Nat.mod_eq_of_lt (BitVec.isLt _)

end Sys2Proof.Machine
end

section
/-! PROOFS. What events and work on the cupboard, on frames and on the cores leave alone: the block GLB, and of the host block the
KBT sessions, the requests that wait and the intakes. -/

namespace Sys2Proof.Machine

/-- What work on cores, cupboard and links never changes: the block GLB, and of the host block the KBT sessions, the requests that
wait for their decision and the intakes (R493, R496, R498). -/
@[simp] abbrev Bystanders (s t : State) : Prop :=
  t.glb = s.glb ∧ t.hst.sessions = s.hst.sessions ∧ t.hst.requests = s.hst.requests ∧ t.hst.intakes = s.hst.intakes

theorem Bystanders.trans {s t u : State} (h : Bystanders s t) (k : Bystanders t u) : Bystanders s u := by
  simp_all

@[simp] theorem ite_glb (c : Prop) [Decidable c] (a b : State) :
    (if c then a else b).glb = if c then a.glb else b.glb := apply_ite State.glb c a b

@[simp] theorem ite_sessions (c : Prop) [Decidable c] (a b : State) :
    (if c then a else b).hst.sessions = if c then a.hst.sessions else b.hst.sessions :=
  apply_ite (fun s : State => s.hst.sessions) c a b

@[simp] theorem ite_requests (c : Prop) [Decidable c] (a b : State) :
    (if c then a else b).hst.requests = if c then a.hst.requests else b.hst.requests :=
  apply_ite (fun s : State => s.hst.requests) c a b

@[simp] theorem ite_intakes (c : Prop) [Decidable c] (a b : State) :
    (if c then a else b).hst.intakes = if c then a.hst.intakes else b.hst.intakes :=
  apply_ite (fun s : State => s.hst.intakes) c a b

@[simp] theorem foldl_bystanders {α : Type} (f : State → α → State) (l : List α) (s : State)
    (h : ∀ s x, Bystanders s (f s x)) : Bystanders s (l.foldl f s) := by
  induction l generalizing s with
  | nil => simp
  | cons x l ih => exact Bystanders.trans (h s x) (ih _)

/-! ### Events (R480 to R483) -/

@[simp] theorem setQueue_bystanders (s : State) (fn : Nat) (q : EvtQueue) : Bystanders s (setQueue s fn q) := by
  simp [setQueue]

@[simp] theorem writeRecord_bystanders (s : State) (fn : Nat) (r : EvtRec) : Bystanders s (writeRecord s fn r) := by
  simp [writeRecord]

@[simp] theorem raiseIbi_bystanders (s : State) : Bystanders s (raiseIbi s) := by
  simp [raiseIbi]

@[simp] theorem reportLost_bystanders (s : State) (fn : Nat) : Bystanders s (reportLost s fn) := by
  simp [reportLost]

@[simp] theorem offer_bystanders (s : State) (fn : Nat) (r : EvtRec) : Bystanders s (offer s fn r) := by
  simp [offer]

@[simp] theorem post_bystanders (s : State) (cls kind : Nat) (ctx : Option Ctx) (b : EvtBody) :
    Bystanders s (post s cls kind ctx b) := by
  cases ctx <;> simp [post]

@[simp] theorem postReg_bystanders (s : State) (cls : Nat) (ctx : Option Ctx) (off bitNo : Nat) (detail : W64) :
    Bystanders s (postReg s cls ctx off bitNo detail) := post_bystanders s cls 0 ctx _

@[simp] theorem postNone_bystanders (s : State) (cls : Nat) (ctx : Option Ctx) (detail : W64) :
    Bystanders s (postNone s cls ctx detail) := post_bystanders s cls 0 ctx _

/-! ### The cupboard (R312, R317, R325, R326) -/

@[simp] theorem noteUe_bystanders (s : State) (a : Nat) (core : Option Nat) (reader : Nat) :
    Bystanders s (noteUe s a core reader) := by
  simp [noteUe]

@[simp] theorem correctRead_bystanders (s : State) (a n : Nat) : Bystanders s (correctRead s a n) := by
  simp [correctRead]

@[simp] theorem noteRead_bystanders (s : State) (a n : Nat) (core : Option Nat) (reader : Nat) :
    Bystanders s (noteRead s a n core reader) := by
  simp [noteRead]

@[simp] theorem writeWord_bystanders (s : State) (a : Nat) (bs : List Byte) (core : Option Nat) :
    Bystanders s (writeWord s a bs core) := by
  simp [writeWord]

@[simp] theorem writeSpan_bystanders (k : Nat) (s : State) (a : Nat) (bs : List Byte) (core : Option Nat) :
    Bystanders s (writeSpan k s a bs core) := by
  induction k generalizing s a bs with
  | zero => simp [writeSpan]
  | succ k ih => simp [writeSpan, ih]

@[simp] theorem cupWrite_bystanders (s : State) (a : Nat) (bs : List Byte) (core : Option Nat) :
    Bystanders s (cupWrite s a bs core) := writeSpan_bystanders _ s a bs core

@[simp] theorem ringOverrun_bystanders (s : State) (core : Nat) : Bystanders s (ringOverrun s core) := by
  simp [ringOverrun]

@[simp] theorem hostRead_bystanders (s : State) (a n : Nat) : Bystanders s (hostRead s a n).1 := by
  simp [hostRead]

@[simp] theorem hostWrite_bystanders (s : State) (a : Nat) (bs : List Byte) : Bystanders s (hostWrite s a bs) := by
  simp [hostWrite]

@[simp] theorem touchCounter_bystanders (s : State) (n ctr : Nat) : Bystanders s (touchCounter s n ctr) := by
  simp [touchCounter, counterParity]

@[simp] theorem bumpCounter_bystanders (s : State) (core ctr : Nat) : Bystanders s (bumpCounter s core ctr) := by
  simp [bumpCounter]

/-! ### Frames sent -/

@[simp] theorem forward_bystanders (s : State) (input : Nat) (f : Frame) : Bystanders s (forward s input f) := by
  unfold forward
  split
  · simp
  · split <;> simp [enqueue, misroute]

@[simp] theorem inject_bystanders (s : State) (dest : Coord) (ctx : Nat) (b : Body) :
    Bystanders s (inject s dest ctx b) := by
  unfold inject
  split
  · exact forward_bystanders s 10 _
  · simp

@[simp] theorem sendAll_bystanders (s : State) (ds : List Coord) (b : Body) : Bystanders s (sendAll s ds b) :=
  foldl_bystanders _ _ _ fun s d => inject_bystanders s d 0 b

/-! ### Instructions of the units -/

@[simp] theorem settled_bystanders (s : State) (fmt : Nat) (invalid : Bool) (es : List Elem) :
    Bystanders s (settled s fmt invalid es).1 := by
  cases invalid <;> simp [settled]

@[simp] theorem settledBits_bystanders (s : State) (invalid : Bool) (width : Nat) (bits : List Nat) :
    Bystanders s (settledBits s invalid width bits).1 := by
  cases invalid <;> simp [settledBits]

@[simp] theorem pushPiece_bystanders (s : State) (x : QEntry) (d : TD) (piece : List ((Nat × Nat) × Elem)) :
    Bystanders s (pushPiece s x d piece).1 := settled_bystanders _ _ _ _

@[simp] theorem pushPieces_bystanders (s : State) (x : QEntry) (d : TD) (ps : List (List ((Nat × Nat) × Elem))) :
    Bystanders s (pushPieces s x d ps).1 := by
  unfold pushPieces
  induction ps generalizing s x with
  | nil => simp
  | cons p ps ih =>
    simp only [List.foldl_cons]
    exact Bystanders.trans (pushPiece_bystanders s x d p) (ih _ _)

@[simp] theorem readStep_bystanders (s : State) (n u : Nat) (x : QEntry) (reads : List (Nat × Nat)) :
    Bystanders s (readStep s n u x reads).state := by
  unfold readStep
  split <;> simp

@[simp] theorem stageTile_bystanders (s : State) (n u : Nat) (x : QEntry) (v : TmView) (o : Ops) (t : Tile) :
    Bystanders s (stageTile s n u x v o t).state := by
  unfold stageTile
  dsimp only
  split <;> simp [modArray]

@[simp] theorem loadStep_bystanders (s : State) (n u : Nat) (x : QEntry) (v : TmView) (o : Ops) (sh : Nat × Nat × Nat) (t : Tile)
    (total : Nat) : Bystanders s (loadStep s n u x v o sh t total).state := by
  unfold loadStep
  dsimp only
  split
  · simp [loadTile]
  · split <;> simp [loadTile]

@[simp] theorem streamStep_bystanders (s : State) (n u : Nat) (x : QEntry) (v : TmView) (o : Ops) (t : Tile) (total : Nat) :
    Bystanders s (streamStep s n u x v o t total).state := by
  unfold streamStep
  dsimp only
  split
  · exact readStep_bystanders s n u x _
  · split
    · simp [modArray]
    · split <;> simp [modArray]

@[simp] theorem elemStep_bystanders (s : State) (n u : Nat) (x : QEntry) (i : Isa) (o : Ops) (scalar : W64)
    (sh : Nat × Nat × Nat) : Bystanders s (elemStep s n u x i o scalar sh).state := by
  unfold elemStep
  dsimp only
  split
  · simp
  · split
    · simp
    · split <;> simp

@[simp] theorem stepEntry_bystanders (s : State) (n u : Nat) (x : QEntry) : Bystanders s (stepEntry s n u x).state := by
  unfold stepEntry
  dsimp only
  split
  · split
    · exact elemStep_bystanders s n u x _ _ _ _
    · exact elemStep_bystanders s n u x _ _ _ _
    · split
      · split
        · split
          · exact streamStep_bystanders s n u x _ _ _ _
          · exact loadStep_bystanders s n u x _ _ _ _ _
        · simp
      · simp
    · simp
  · simp

@[simp] theorem runEntry_bystanders (k : Nat) (s : State) (n u : Nat) (x : QEntry) : Bystanders s (runEntry k s n u x).state := by
  induction k generalizing s x with
  | zero => simp [runEntry]
  | succ k ih =>
    unfold runEntry
    dsimp only
    split
    · simp
    · split <;> simp [ih]

@[simp] theorem finishEntry_bystanders (s : State) (n u : Nat) (x : QEntry) : Bystanders s (finishEntry s n u x).state :=
  runEntry_bystanders _ s n u x

/-! ### Work abandoned by a core reset (R136) -/

@[simp] theorem mixBytes_bystanders (k : Nat) (s : State) (n a : Nat) (bs : List Byte) :
    Bystanders s (mixBytes k s n a bs) := by
  induction k generalizing s a bs with
  | zero => simp [mixBytes]
  | succ k ih => simp [mixBytes, ih]

@[simp] theorem spreadAbort_bystanders (s : State) (e : GroupEntry) (q : W16) (prio : Bool) (cause : Nat) :
    Bystanders s (spreadAbort s e q prio cause) := by
  simp [spreadAbort]

@[simp] theorem dropColl_bystanders (s : State) (g : Nat) (q : W16) : Bystanders s (dropColl s g q) := by
  simp [dropColl, dropChunks]

@[simp] theorem abandonOp_bystanders (s : State) (n u : Nat) (x : QEntry) : Bystanders s (abandonOp s n u x) := by
  unfold abandonOp
  dsimp only
  split
  · simp
  · split
    · split
      · simp
      · split
        · simp
        · split
          · split <;> simp
          · split <;> simp
    · simp

@[simp] theorem moverFault_bystanders (s : State) (n m code sub : Nat) (x : Xfer) (detail : W32) :
    Bystanders s (moverFault s n m code sub x detail) := by
  simp [moverFault, dropXfer, setXfers, postFault, postCore]

@[simp] theorem rowNotes_bystanders (s : State) (n a len : Nat) : Bystanders s (rowNotes s n a len) := by
  simp [rowNotes]

@[simp] theorem sendRows_bystanders (k r : Nat) (s : State) (n m : Nat) (x : Xfer) :
    Bystanders s (sendRows k r s n m x).1 := by
  induction k generalizing s r with
  | zero => simp [sendRows]
  | succ k ih =>
    unfold sendRows
    dsimp only
    split
    · simp
    · split <;> simp [ih]

@[simp] theorem poisonWord_bystanders (s : State) (w : Nat) : Bystanders s (poisonWord s w) := by simp [poisonWord]

@[simp] theorem copyWords_bystanders (k : Nat) (s : State) (n a d : Nat) : Bystanders s (copyWords k s n a d) := by
  induction k generalizing s a d with
  | zero => simp [copyWords]
  | succ k ih => simp [copyWords, ih]

@[simp] theorem abandonXfer_bystanders (s : State) (n m : Nat) (x : Xfer) : Bystanders s (abandonXfer s n m x) := by
  simp [abandonXfer, abandonRemote, dropUnsent, cupWriteRow]

@[simp] theorem creset_bystanders (s : State) (n : Nat) : Bystanders s (creset s n) := by
  simp [creset]

end Sys2Proof.Machine
end

section
/-! PROOFS. Intake queues: HST_INTAKE_CTL, doorbells and windows of VFs, decisions and replies (R496 to R500, R503, Tables 14-15 and
14-16). -/

namespace Sys2Proof.Machine

/-! ### Intakes and VF pages changed -/

/-- A vector whose element is replaced by itself. -/
theorem vmod_same {α : Type} {n : Nat} (v : Vector α n) (i : Nat) (f : α → α) (d : α)
    (h : f (v.toList.getD i d) = v.toList.getD i d) : vmod v i f = v := by
  unfold vmod
  split
  · next hi =>
    have element : v.toList.getD i d = v[i] := by simp [List.getD, hi]
    rw [← element, h, element, Vector.set_getElem_self]
  · rfl

theorem intakeAt_modIntake (s : State) (t : Ctx) (f : Intake → Intake) :
    intakeAt (modIntake s t.val f) t.val = f (intakeAt s t.val) := vmod_getD_same s.hst.intakes t f Intake.reset

theorem modIntake_same {s : State} {t : Nat} {f : Intake → Intake} (h : f (intakeAt s t) = intakeAt s t) :
    modIntake s t f = s := by
  simp only [modIntake, modHst, vmod_same s.hst.intakes t f Intake.reset h]

theorem modVf_page (s : State) (t : Ctx) (f : Vf → Vf) :
    (modVf s t.val f).hst.vfs.toList.getD t.val Vf.reset = f (s.hst.vfs.toList.getD t.val Vf.reset) :=
  vmod_getD_same s.hst.vfs t f Vf.reset

theorem intakeAt_of_intakes {s t : State} (h : t.hst.intakes = s.hst.intakes) (n : Nat) : intakeAt t n = intakeAt s n := by
  rw [intakeAt, h, intakeAt]

/-! ### HST_INTAKE_CTL (R496, R503, Table 14-15) -/

theorem intakeCtl_reachable (s : State) : regReachable s 0xB000C = true := rfl

/-- An intake with the fields of a written HST_INTAKE_CTL but ENABLE. -/
def intakeAsked (i : Intake) (v : W32) : Intake := { i with
  baseMb := v.extractLsb' 23 9, depth := v.extractLsb' 15 8, hwm := v.extractLsb' 7 8, slot := v.extractLsb' 5 2
  hold := bit v 4 }

/-- ENABLE lies outside the other fields. -/
theorem intakeAsked_or_enable (i : Intake) (v : W32) : intakeAsked i (v ||| 1) = intakeAsked i v := by
  have base : (1 : W32).extractLsb' 23 9 = 0#9 := rfl
  have depth : (1 : W32).extractLsb' 15 8 = 0#8 := rfl
  have mark : (1 : W32).extractLsb' 7 8 = 0#8 := rfl
  have slot : (1 : W32).extractLsb' 5 2 = 0#2 := rfl
  have hold : bit (1 : W32) 4 = false := rfl
  simp only [intakeAsked, BitVec.extractLsb'_or, bit_or, base, depth, mark, slot, hold, BitVec.or_zero, Bool.or_false]

/-- What becomes of a write that asks for the intake `n` and ENABLE `en`: LIVE for a new place of an enabled queue, RANGE, a start,
or new fields. -/
def intakeJudged (s : State) (t : Nat) (n : Intake) (en : Bool) : State :=
  let i := intakeAt s t
  if i.enable && (n.baseMb != i.baseMb || n.depth != i.depth || n.slot != i.slot) then intakeErr s 1
  else if n.depth == 0 || n.hwm == 0 || n.depth.toNat < n.hwm.toNat || 383 < n.baseMb.toNat then intakeErr s 2
  else if en && !i.enable then intakeStart s t n
  else modIntake s t fun _ => { n with enable := en }

theorem intakeCtlWrite_eq (s : State) (t : Nat) (v : W32) :
    intakeCtlWrite s t v = intakeJudged s t (intakeAsked (intakeAt s t) v) (bit v 0) := rfl

theorem intakeCtlWrite_enable (s : State) (t : Nat) (v : W32) :
    intakeCtlWrite s t (v ||| 1) = intakeJudged s t (intakeAsked (intakeAt s t) v) true := by
  have en : bit (v ||| 1) 0 = true := by rw [bit_or]; exact Bool.or_true _
  rw [intakeCtlWrite_eq, intakeAsked_or_enable, en]

theorem exec_intakeEnable {s : State} {via : Via} (hw : mayWrite s via = true) {ctx : Ctx} (sel : s.hst.vsel.toNat = ctx.val)
    (v : W32) : exec (.intakeEnable ctx via v) s =
      .next (intakeJudged s ctx.val (intakeAsked (intakeAt s ctx.val) v) true) := by
  have chosen := guarded_accepted (fun s => intakeCtlWrite s ctx.val (v ||| 1)) hw (intakeCtl_reachable s)
  rw [intakeCtlWrite_enable] at chosen
  exact congrArg _ ((if_pos (by simp [sel])).trans chosen)

section
variable {s : State} {t : Nat} {n : Intake} {en : Bool}

theorem intakeJudged_live (on : (intakeAt s t).enable = true) (moved : n.depth ≠ (intakeAt s t).depth) :
    intakeJudged s t n en = intakeErr s 1 := if_pos (by simp [on, moved])

variable (off : (intakeAt s t).enable = false)
include off

theorem intakeJudged_range (empty : n.depth = 0) : intakeJudged s t n en = intakeErr s 2 :=
  (if_neg (by simp [off])).trans (if_pos (by simp [empty]))

theorem intakeJudged_starts (depth : n.depth.toNat ≠ 0) (mark : n.hwm.toNat ≠ 0) (below : n.hwm.toNat ≤ n.depth.toNat)
    (place : n.baseMb.toNat ≤ 383) : intakeJudged s t n true = intakeStart s t n := by
  have nonzero {x : Byte} (h : x.toNat ≠ 0) : (x == 0) = false := beq_eq_false_iff_ne.mpr fun e => h (congrArg BitVec.toNat e)
  have inRange : ¬ (n.depth == 0 || n.hwm == 0 || decide (n.depth.toNat < n.hwm.toNat) ||
      decide (383 < n.baseMb.toNat)) = true := by
    rw [nonzero depth, nonzero mark]
    simpa using ⟨below, place⟩
  exact (if_neg (by simp [off])).trans ((if_neg inRange).trans (if_pos (by simp [off])))

end

/-! ### Doorbells and windows (Table 14-16) -/

section
variable {s : State} {ctx : Ctx} (here : ctxExists s ctx.val = true)
include here

/-- A doorbell while none is pending submits the window's bytes. -/
theorem intakeDoor_submits {v : W32} (idle : (s.hst.vfs.toList.getD ctx.val Vf.reset).result ≠ 7) :
    intakeDoor s ctx v =
      let f := s.hst.vfs.toList.getD ctx.val Vf.reset
      submitRequest (modVf s ctx.val fun f => { f with result := 7 })
        ⟨ctx, true, f.intakeId, readBytes f.window 0 (bits v 0 17), leBytes 8 f.intakeRet.toNat ++ List.replicate 16 0⟩ :=
  (if_neg (by simp [here])).trans (if_neg (by simpa using idle))

/-- A doorbell while one is pending is only counted. -/
theorem intakeDoor_counts {v : W32} (pending : (s.hst.vfs.toList.getD ctx.val Vf.reset).result = 7) :
    intakeDoor s ctx v = modVf s ctx.val fun f => { f with dropped := satInc f.dropped } :=
  (if_neg (by simp [here])).trans (if_pos (by simpa using pending))

theorem vfBar0Write_window {off : Nat} (data : List Byte) (window : 0x10000 ≤ off) : vfBar0Write s ctx off data =
    modVf s ctx.val fun f => { f with window := writeBytes f.window (off - 0x10000) (data.take (0x20000 - off)) } :=
  (if_neg (by simp [here])).trans (if_pos window)

end

/-! ### Decisions (R498) -/

/-- An intake that is off, or whose CONSUMED leaves LEVEL within DEPTH, stays as it is. -/
theorem judgeConsumed_kept {s : State} {t : Nat} (ok : (intakeAt s t).enable = false ∨
    ((intakeAt s t).w - consumedNow s (intakeAt s t)).toNat ≤ (intakeAt s t).depth.toNat) : judgeConsumed s t = s := by
  refine if_neg fun excessive => ?_
  obtain ⟨on, beyond⟩ := Bool.and_eq_true_iff.mp excessive
  rcases ok with off | within
  · rw [off] at on
    exact Bool.false_ne_true on
  · exact absurd (of_decide_eq_true beyond) (Nat.not_lt.mpr within)

/-- PRODUCED of an intake advances, and nothing else of the host's tables. -/
theorem advanceIntake_tables (s : State) (t : Nat) : (advanceIntake s t).glb = s.glb ∧
    (advanceIntake s t).hst.sessions = s.hst.sessions ∧ (advanceIntake s t).hst.requests = s.hst.requests ∧
    ∀ n, (intakeAt (advanceIntake s t) n).w = (intakeAt s n).w := by
  unfold advanceIntake
  dsimp only
  split
  · exact ⟨rfl, rfl, rfl, fun _ => rfl⟩
  · have kept : Bystanders s ((List.range ((intakeAt s t).w - (intakeAt s t).produced).toNat).foldl
        (fun s' _ => bumpCounter s' (intakeAt s t).core.toNat (intakeAt s t).ctr.toNat)
        (cupWrite s (intakeBase (intakeAt s t)) (leBytes 4 (intakeAt s t).w.toNat) none)) := by simp
    obtain ⟨glb, sessions, requests, intakes⟩ := kept
    refine ⟨glb, sessions, requests, fun n => ?_⟩
    rw [intakeAt, vmod_getD, intakes]
    split <;> rfl

/-- An admitted PCIe request takes the place after W, and its VF reads that it was taken. -/
theorem admitRequest_takes {s : State} {r : IntakeReq} (pcie : r.pcie = true) :
    (admitRequest s r).hst.requests = s.hst.requests ∧
    (intakeAt (admitRequest s r) r.ctx.val).w = (intakeAt s r.ctx.val).w + 1 ∧
    ((admitRequest s r).hst.vfs.toList.getD r.ctx.val Vf.reset).result = 0 := by
  have written := hostWrite_bystanders s (slotAddrOf (intakeAt s r.ctx.val) (intakeAt s r.ctx.val).w.toNat)
    (slotHeader s r ++ r.payload)
  unfold admitRequest
  dsimp only
  rw [if_pos pcie]
  generalize hostWrite s _ _ = u at written ⊢
  obtain ⟨-, -, requests, intakes⟩ := written
  have raised : (intakeAt (modIntake u r.ctx.val fun i => { i with w := i.w + 1 }) r.ctx.val).w = (intakeAt s r.ctx.val).w + 1 := by
    rw [intakeAt_modIntake, intakeAt_of_intakes intakes]
  refine ⟨?_, ?_, congrArg Vf.result (modVf_page _ r.ctx _)⟩
  · split
    · exact requests
    · obtain ⟨-, -, kept, -⟩ := advanceIntake_tables (modIntake u r.ctx.val fun i => { i with w := i.w + 1 }) r.ctx.val
      exact kept.trans requests
  · split
    · exact raised
    · obtain ⟨-, -, -, kept⟩ := advanceIntake_tables (modIntake u r.ctx.val fun i => { i with w := i.w + 1 }) r.ctx.val
      exact (kept _).trans raised

/-- The state with the first request taken from those that wait. -/
def requestTaken (s : State) (rest : List IntakeReq) : State := { s with hst := { s.hst with requests := rest } }

section
variable {s : State} {r : IntakeReq} {rest : List IntakeReq} (first : s.hst.requests = r :: rest)
include first

/-- The first request is decided on the intake as it is, unless CONSUMED disables that. -/
theorem intakeDecision_first (kept : judgeConsumed (requestTaken s rest) r.ctx.val = requestTaken s rest) : intakeDecision s =
    if intakeReason (requestTaken s rest) r = 0 then admitRequest (requestTaken s rest) r
    else refuseRequest (requestTaken s rest) r (intakeReason (requestTaken s rest) r) := by
  have taken : modHst s (fun h => { h with requests := rest }) = requestTaken s rest := rfl
  simp only [intakeDecision, first, taken, kept]

theorem intakeDecision_refuses (off : (intakeAt s r.ctx.val).enable = false) :
    intakeDecision s = refuseRequest (requestTaken s rest) r 1 := by
  have closed : intakeReason (requestTaken s rest) r = 1 := if_pos (by
    change (!ctxExists s r.ctx.val || !(intakeAt s r.ctx.val).enable) = true
    simp [off])
  rw [intakeDecision_first first (judgeConsumed_kept (.inl off)), closed]
  rfl

theorem intakeDecision_admits {j : Intake} (hj : intakeAt s r.ctx.val = j) (here : ctxExists s r.ctx.val = true)
    (on : j.enable = true) (goes : j.hold = false) (fits : r.payload.length + 64 ≤ slotBytes j)
    (room : (j.w - consumedNow s j).toNat < j.hwm.toNat) (mark : j.hwm.toNat ≤ j.depth.toNat) :
    intakeDecision s = admitRequest (requestTaken s rest) r := by
  subst hj
  have admitted : intakeReason (requestTaken s rest) r = 0 := by
    refine (if_neg ?_).trans ((if_neg ?_).trans ((if_neg ?_).trans (if_neg ?_)))
    · change ¬ (!ctxExists s r.ctx.val || !(intakeAt s r.ctx.val).enable) = true
      simp [here, on]
    · exact Bool.eq_false_iff.mp goes
    · exact Nat.not_lt.mpr (Nat.le_sub_of_add_le fits)
    · exact Nat.not_le.mpr room
  rw [intakeDecision_first first (judgeConsumed_kept (.inr (room.le.trans mark)))]
  exact if_pos admitted

end

/-- What refusing a PCIe request leaves. -/
theorem refuseRequest_counts {s : State} {r : IntakeReq} (pcie : r.pcie = true) (reason : Nat) :
    ∃ h, refuseRequest s r reason = { s with hst := h } ∧ h.requests = s.hst.requests ∧
      (h.intakes.toList.getD r.ctx.val Intake.reset).refused = satInc (intakeAt s r.ctx.val).refused ∧
      (h.vfs.toList.getD r.ctx.val Vf.reset).result = BitVec.ofNat 3 reason :=
  ⟨_, if_pos pcie, rfl, congrArg Intake.refused (intakeAt_modIntake s r.ctx _), congrArg Vf.result (modVf_page _ r.ctx _)⟩

/-! ### Replies (R500) -/

section
variable {s : State} {ctx : Ctx} (on : (intakeAt s ctx.val).enable = true)
  (within : ((intakeAt s ctx.val).w - consumedNow s (intakeAt s ctx.val)).toNat ≤ (intakeAt s ctx.val).depth.toNat)
include on within

/-- The slots that CONSUMED has passed, where that is no more than W, are answered one after another. -/
theorem intakeReply_answers {n : Nat} (passed : (consumedNow s (intakeAt s ctx.val) - (intakeAt s ctx.val).consumed).toNat = n)
    (written : n ≤ ((intakeAt s ctx.val).w - (intakeAt s ctx.val).consumed).toNat) :
    intakeReply s ctx = modIntake ((List.range n).foldl
        (fun u k => replySlot u ctx (((intakeAt s ctx.val).consumed.toNat + k) % 2 ^ 32)) s) ctx.val fun i =>
      { i with consumed := consumedNow s (intakeAt s ctx.val) } := by
  subst passed
  unfold intakeReply
  rw [judgeConsumed_kept (.inr within)]
  exact (if_neg (by simp [on])).trans (if_neg (Nat.not_lt.mpr written))

end

/-- Settles O54: HST_INTAKE_CTL by the outcomes of `intakeJudged`, doorbells by whether one is pending, decisions by
`intakeDecision_refuses` and `intakeDecision_admits`, replies by how many slots CONSUMED has passed. -/
theorem intakeQueuesDecideRequests : Obligations.IntakeQueuesDecideRequests := by
  rintro s ctx via v off data r rest i f rfl rfl
  refine ⟨fun hw sel => ?control, fun here => ?doorbells, fun first pcie => ?decided, fun none => ?noRequest,
    fun on still within => ?nothing, fun on within next some => ?one⟩
  case control =>
    rw [exec_intakeEnable hw sel]
    exact ⟨fun off none => congrArg _ (intakeJudged_range off (BitVec.eq_of_toNat_eq none)),
      fun on moved => congrArg _ (intakeJudged_live on moved),
      fun off depth mark below place => congrArg _ (intakeJudged_starts off depth mark below place)⟩
  case doorbells =>
    refine ⟨fun idle => ?submits, fun pending => ?counts, fun window => ?writes⟩
    case submits =>
      exact ⟨_, _, congrArg Host.Outcome.next (intakeDoor_submits here idle), rfl,
        congrArg Vf.result (modVf_page s ctx _), rfl, rfl, rfl, rfl⟩
    case counts =>
      exact ⟨_, congrArg Host.Outcome.next (intakeDoor_counts here pending), rfl, rfl,
        congrArg Vf.dropped (modVf_page s ctx _)⟩
    case writes =>
      exact ⟨_, congrArg Host.Outcome.next (vfBar0Write_window here data window), rfl,
        congrArg Vf.window (modVf_page s ctx _)⟩
  case decided =>
    refine ⟨fun off => ?refused, fun j hj here on goes fits room mark => ?admitted⟩
    case refused =>
      obtain ⟨h, e, requests, refused, result⟩ :=
        refuseRequest_counts (s := requestTaken s rest) pcie 1
      exact ⟨_, congrArg Host.Outcome.next ((intakeDecision_refuses first off).trans e), rfl, requests, refused, result⟩
    case admitted =>
      obtain ⟨requests, w, result⟩ := admitRequest_takes (s := requestTaken s rest) pcie
      refine ⟨_, congrArg Host.Outcome.next (intakeDecision_admits first hj.symm here on goes fits room mark),
        requests, ?_, result⟩
      rw [w, hj]
      rfl
  case noRequest =>
    refine congrArg Host.Outcome.next ?_
    rw [intakeDecision, none]
  case nothing =>
    have passed : (consumedNow s (intakeAt s ctx.val) - (intakeAt s ctx.val).consumed).toNat = 0 := by
      rw [← still, BitVec.sub_self]; rfl
    have same : ({ intakeAt s ctx.val with consumed := consumedNow s (intakeAt s ctx.val) } : Intake) = intakeAt s ctx.val := by
      rw [← still]
    exact congrArg Host.Outcome.next ((intakeReply_answers on within passed (Nat.zero_le _)).trans (modIntake_same (s := s) same))
  case one =>
    have passed : (consumedNow s (intakeAt s ctx.val) - (intakeAt s ctx.val).consumed).toNat = 1 := by
      rw [next, BitVec.add_comm, BitVec.add_sub_cancel]; rfl
    refine ⟨_, congrArg Host.Outcome.next (intakeReply_answers on within passed (Nat.pos_of_ne_zero some)), by simp, ?_⟩
    rw [intakeAt_modIntake, next]

end Sys2Proof.Machine
end

section
/-! PROOFS. Power domains: requests, the sequencer, supplies that fail, the cap and the droop loop's steps up (R511 to R517, R521,
R537, R541, Table 15-1). -/

namespace Sys2Proof.Machine

/-! ### Domains switch (R512, R514, R516) -/

theorem domainDown_pwr (s : State) (d : Nat) : (domainDown s d).pwr = { s.pwr with on := setBit s.pwr.on d false } := by
  unfold domainDown
  dsimp only
  split
  · rfl
  · split
    · refine (foldl_keeps State.pwr _ ?_ _ _).trans rfl
      exact fun _ _ => rfl
    · repeat' split
      all_goals rfl

/-- The sequencer leaves the requests and the fault as they are and puts no domain on. -/
theorem sequence_pwr (s : State) : ∃ on busy, (sequence s).pwr = { s.pwr with on := on, busy := busy } ∧
    ∀ d, d < 36 → bit s.pwr.on d = false → bit on d = false := by
  unfold sequence
  split
  · exact ⟨_, _, rfl, fun _ _ off => off⟩
  · split
    · exact ⟨_, _, rfl, fun _ _ off => off⟩
    · next e up _ =>
      cases up with
      | true => exact ⟨_, _, rfl, fun _ _ off => off⟩
      | false =>
        refine ⟨_, _, domainDown_pwr _ e, fun d hd off => ?_⟩
        change bit (setBit s.pwr.on e false) d = false
        rw [bit_setBit _ _ _ _ hd, off, ite_self]

/-- With nothing left to switch the sequencer rests. -/
theorem sequence_rests {s : State} (none : nextSwitch s.pwr = none) : sequence s = s := by
  unfold sequence
  rw [none]
  exact ite_self s

/-- Start-up goes on to another state of the chip, or stays, and leaves the rest. -/
theorem advanceBoot_glbOnly (s : State) : ∃ st, advanceBoot s = { s with glb := { s.glb with state := st } } ∧
    (s.glb.state ≠ 0 → st ≠ 0) := by
  have step (u : State) (c : Bool) (k : BitVec 4) (hk : k ≠ 0) :
      ∃ st, (if c then { u with glb := { u.glb with state := k } } else u) = { u with glb := { u.glb with state := st } } ∧
        (u.glb.state ≠ 0 → st ≠ 0) := by
    cases c
    · exact ⟨_, rfl, id⟩
    · exact ⟨_, rfl, fun _ => hk⟩
  obtain ⟨a, powered, left⟩ := step s (s.glb.state == 1 && s.pwr.busy.isNone) 2 (by decide)
  unfold advanceBoot
  rw [powered]
  obtain ⟨b, tested, left'⟩ := step { s with glb := { s.glb with state := a } } _ 3 (by decide)
  exact ⟨b, tested, left' ∘ left⟩

/-- The PWR block once a core's domain has come on, with its droop control at reset (R515, R542). -/
def coreUp (p : Pwr) (d : Nat) : Pwr := { p with
  busy := none, on := setBit p.on d true, droop := vmod p.droop d fun _ => Droop.reset }

theorem switchDone_core {s : State} {d : Nat} (busy : s.pwr.busy = some (d, true)) (core : d < 16) :
    switchDone s = advanceBoot (sequence { s with pwr := coreUp s.pwr d }) := by
  have up : domainUp (modPwr s fun p => { p with busy := none }) d = { s with pwr := coreUp s.pwr d } := if_pos core
  rw [← up, switchDone, busy]
  rfl

/-- What is next does not depend on the droop loop. -/
theorem nextSwitch_coreUp (p : Pwr) (d : Nat) :
    nextSwitch (coreUp p d) = nextSwitch { p with busy := none, on := setBit p.on d true } := rfl

/-! ### Requests (R513, Table 15-1) -/

theorem domCtlWrite_granted {s : State} {hi : Bool} {v : W32}
    (free : reqRefusal s (if hi then { s.pwr with telReq := bit v 0 } else { s.pwr with req := v }) = none) :
    domCtlWrite s hi v =
      sequence { s with pwr := if hi then { s.pwr with telReq := bit v 0 } else { s.pwr with req := v } } := by
  simp only [domCtlWrite, free]

theorem domCtlWrite_refused {s : State} {hi : Bool} {v : W32} {e d : Nat}
    (bad : reqRefusal s (if hi then { s.pwr with telReq := bit v 0 } else { s.pwr with req := v }) = some (e, d)) :
    domCtlWrite s hi v = { s with pwr := { s.pwr with err := BitVec.ofNat 4 e, errDom := BitVec.ofNat 6 d } } := by
  simp only [domCtlWrite, bad]
  rfl

/-- Core 0, the lowest domain, may not go off while it is not halted: HALTED. -/
theorem reqRefusal_core0 {s : State} {new : Pwr} (was : bit s.pwr.req 0 = true) (goes : bit new.req 0 = false)
    (held : bit new.heldOff 0 = false) (works : (coreAt s 0).state ≠ 0) : reqRefusal s new = some (1, 0) := by
  have working : ((coreAt s 0).state != 0) = true := bne_iff_ne.mpr works
  have halted : offRefusal s new 0 = 1 := (if_pos (by decide)).trans (if_pos (by rw [working]; rfl))
  have leaves : (requested s.pwr 0 && !requested new 0) = true := by simp [requested, was, goes]
  unfold reqRefusal
  rw [List.range_succ_eq_map, List.map_cons, held, leaves, halted]
  rfl

theorem exec_domainRequestWrite {s : State} {via : Via} (hw : mayWrite s via = true) (hi : Bool) (v : W32) :
    exec (.domainRequestWrite hi via v) s = .next (domCtlWrite s hi v) := by
  cases hi <;> exact congrArg Host.Outcome.next (guarded_accepted _ hw rfl)

/-! ### A supply leaves its window (R517, R541) -/

theorem EventsOnly.pwr {s t : State} : EventsOnly s t → t.pwr = s.pwr := by
  rintro ⟨_, _, _, rfl⟩
  rfl

/-- The PWR block once the failed supply of a core's domain is marked. -/
def supplyMarked (p : Pwr) (d : Nat) : Pwr := { p with
  on := setBit p.on d false, fault := true, faultDom := BitVec.ofNat 6 d
  req := if d < 32 then setBit p.req d false else p.req
  telReq := p.telReq && d != 32
  busy := match p.busy with
    | some (b, up) => if b = d then none else some (b, up)
    | none => none }

/-- The sequencer goes on from the marked state. -/
theorem supplyOff_sequence (s : State) (d : Nat) : ∃ u, supplyOff s d = sequence u ∧ u.pwr = supplyMarked s.pwr d := by
  refine ⟨_, rfl, ?_⟩
  rw [(postReg_eventsOnly _ _ _ _ _ _).pwr, modPwr_pwr, domainDown_pwr]
  rfl

/-- A core's domain whose supply fails is off, marked, and no longer requested. -/
theorem supplyOff_core (s : State) {d : Nat} (core : d < 16) : domainOn (supplyOff s d) d = false ∧
    (supplyOff s d).pwr.fault = true ∧ (supplyOff s d).pwr.faultDom.toNat = d ∧ bit (supplyOff s d).pwr.req d = false := by
  obtain ⟨u, e, marked⟩ := supplyOff_sequence s d
  obtain ⟨on, busy, kept, off⟩ := sequence_pwr u
  rw [marked] at kept off
  rw [e, domainOn, kept]
  refine ⟨off d (by omega) (bit_setBit_same _ _ _ (by omega)), rfl, Nat.mod_eq_of_lt (by omega), ?_⟩
  exact (congrArg (bit · d) (if_pos (by omega))).trans (bit_setBit_same _ _ _ (by omega))

theorem supplyFault_core {s : State} {d : Nat} (core : d < 16) (on : domainOn s d = true) :
    supplyFault s d = supplyOff (creset s d) d := by
  have listed : bit s.pwr.on d = true := on
  exact (if_neg (by simp [listed])).trans (if_pos core)

/-- A supply of a domain that is off and not being switched is nobody's. -/
theorem supplyFault_off {s : State} {d : Nat} (off : domainOn s d = false) (still : ∀ x ∈ s.pwr.busy, x.1 ≠ d) :
    supplyFault s d = s := by
  have unlisted : bit s.pwr.on d = false := off
  have idle : (s.pwr.busy.any fun b => b.1 == d) = false := by
    cases busy : s.pwr.busy with
    | none => rfl
    | some x => exact beq_eq_false_iff_ne.mpr (still x busy)
  exact if_pos (by simp [unlisted, idle])

/-! ### The cap and the droop loop (R521, R537) -/

theorem exec_pwrCapWrite {s : State} {via : Via} (hw : mayWrite s via = true) (v : W32) :
    exec (.pwrCapWrite via v) s = .next (capWrite s v) := congrArg _ (guarded_accepted (fun s => capWrite s v) hw rfl)

theorem capWrite_stored {s : State} {v : W32} (least : 100 ≤ bits v 18 10) (most : bits v 18 10 ≤ 400) :
    ∃ p, capWrite s v = { s with pwr := p } ∧ p.cap.toNat = bits v 18 10 ∧ p.evtCap = bit v 17 ∧ p.ceil = s.pwr.ceil := by
  have nonzero : (v.extractLsb' 18 10 == 0) = false := beq_eq_false_iff_ne.mpr fun e => by
    have : bits v 18 10 = 0 := congrArg BitVec.toNat e
    omega
  have inRange : ¬ (v.extractLsb' 18 10 != 0 && (decide ((v.extractLsb' 18 10).toNat < 100) ||
      decide (400 < (v.extractLsb' 18 10).toNat))) = true := by
    change ¬ (_ && (decide (bits v 18 10 < 100) || decide (400 < bits v 18 10))) = true
    simp
    omega
  exact ⟨_, if_neg inRange, rfl, rfl, if_neg (by rw [nonzero]; decide)⟩

theorem capWrite_refused {s : State} {v : W32} (large : 400 < bits v 18 10) :
    capWrite s v = { s with pwr := { s.pwr with capErr := 5 } } := by
  have nonzero : (v.extractLsb' 18 10 != 0) = true := bne_iff_ne.mpr fun e => by
    have : bits v 18 10 = 0 := congrArg BitVec.toNat e
    omega
  have outside : (v.extractLsb' 18 10 != 0 && (decide ((v.extractLsb' 18 10).toNat < 100) ||
      decide (400 < (v.extractLsb' 18 10).toNat))) = true := by
    rw [nonzero, decide_eq_true (show 400 < (v.extractLsb' 18 10).toNat from large)]
    simp
  exact if_pos outside

/-- A released loop whose gate is open takes one step up. -/
theorem stepUp_raises {s : State} {core : CoreId} (loop : s.pwr.loopEn = true) (gate : s.pwr.gateOpen = true)
    (released : 8 * (s.pwr.release.toNat + 1) ≤ (s.pwr.droop.toList.getD core.val Droop.reset).release) :
    (stepUp s core.val).pwr.droop.toList.getD core.val Droop.reset = { s.pwr.droop.toList.getD core.val Droop.reset with
      level := BitVec.ofNat 4 (min 8 ((s.pwr.droop.toList.getD core.val Droop.reset).level.toNat + 1)), release := 0 } :=
  (vmod_getD_same s.pwr.droop core _ Droop.reset).trans (if_pos (by rw [loop, gate]; exact decide_eq_true released))

/-- Settles O55: a change of requests by what `reqRefusal` says of it, the sequencer by `sequence_pwr` and `sequence_rests`, a
supply by `supplyOff_core`. -/
theorem domainsSwitchInOrder : Obligations.DomainsSwitchInOrder := by
  intro s via v core domain
  refine ⟨fun hw => ?requests, fun idle => ?idle, fun d busy core => ?up, fun core on _ => ?fault, fun off still => ?noFault,
    fun on on32 loop gate d hd released low => ?stepUp⟩
  case requests =>
    simp only [exec_domainRequestWrite hw, exec_pwrCapWrite hw]
    refine ⟨fun free => congrArg _ (domCtlWrite_granted (hi := false) free),
      fun free => congrArg _ (domCtlWrite_granted (hi := true) free),
      fun was goes held works => congrArg _ (domCtlWrite_refused (hi := false) (reqRefusal_core0 was goes held works)),
      fun least most => ?_, fun large => congrArg _ (capWrite_refused large)⟩
    obtain ⟨p, e, stored⟩ := capWrite_stored (s := s) least most
    exact ⟨_, congrArg _ e, rfl, stored⟩
  case idle =>
    refine congrArg Host.Outcome.next ?_
    rw [switchDone, idle]
  case up =>
    obtain ⟨st, boot, -⟩ := advanceBoot_glbOnly (sequence { s with pwr := coreUp s.pwr d })
    refine ⟨_, congrArg Host.Outcome.next ((switchDone_core busy core).trans boot), fun p hp rests => ?_⟩
    subst hp
    have still : sequence { s with pwr := coreUp s.pwr d } = { s with pwr := coreUp s.pwr d } :=
      sequence_rests ((nextSwitch_coreUp s.pwr d).trans rests)
    rw [still]
    exact ⟨bit_setBit_same _ _ _ (by omega), rfl, (vmod_getD _ _ _ _ _).trans (if_pos ⟨rfl, core⟩)⟩
  case fault => exact ⟨_, congrArg Host.Outcome.next (supplyFault_core core on), supplyOff_core _ core⟩
  case noFault => exact congrArg _ (supplyFault_off off still)
  case stepUp =>
    subst hd
    have raised := stepUp_raises loop gate released
    refine ⟨_, congrArg Host.Outcome.next (if_pos (by simp [on, on32])), rfl, ?_, by rw [raised]⟩
    rw [raised, Nat.min_eq_right (by omega)]
    exact Nat.mod_eq_of_lt (by omega)

end Sys2Proof.Machine
end

section
/-! PROOFS. Start-up: the fuse map, the boot, READY and the watchdog, and the ports of a chip that faults (R549 to R555). -/

namespace Sys2Proof.Machine

/-! ### The fuse map (R550, R551) -/

theorem domainDown_glb (s : State) (d : Nat) : (domainDown s d).glb = s.glb := by
  unfold domainDown
  dsimp only
  split
  · rfl
  · split
    · refine (foldl_keeps State.glb _ ?_ _ _).trans rfl
      exact fun _ _ => rfl
    · repeat' split
      all_goals rfl

theorem sequence_glb (s : State) : (sequence s).glb = s.glb := by
  unfold sequence
  split
  · rfl
  · split
    · rfl
    · next d up _ =>
      cases up with
      | true => rfl
      | false => exact domainDown_glb _ d

/-- A loaded fuse map that passes its check is in use, and the chip has left RESET. -/
theorem fuseLoadEnd_loaded {s : State} (m : FuseMap) (resets : s.glb.state = 0) (runs : s.glb.resetHeld = false) :
    (fuseLoadEnd s (some m)).glb.fuses = m ∧ (fuseLoadEnd s (some m)).glb.fuseDone = true ∧
      (fuseLoadEnd s (some m)).glb.state ≠ 0 := by
  have loaded : fuseLoadEnd s (some m) =
      advanceBoot (sequence (modGlb s fun g => { g with fuses := m, fuseDone := true, state := 1 })) :=
    if_neg (by simp [resets, runs])
  obtain ⟨st, advanced, left⟩ :=
    advanceBoot_glbOnly (sequence (modGlb s fun g => { g with fuses := m, fuseDone := true, state := 1 }))
  rw [loaded, advanced]
  rw [sequence_glb] at left ⊢
  exact ⟨rfl, rfl, left (by decide : (1 : BitVec 4) ≠ 0)⟩

/-- The state in which the fuse map failed its check. -/
def fuseFailed (s : State) : State := modGlb s fun g => { g with fuseFail := true }

theorem fuseLoadEnd_fails {s : State} (resets : s.glb.state = 0) (runs : s.glb.resetHeld = false) :
    fuseLoadEnd s none = chipFault (fuseFailed s) 9 1 := if_neg (by simp [resets, runs])

/-! ### A chip that faults (R551) -/

/-- Every port of a chip that faults is OFF and disabled. -/
theorem chipFault_ports {s : State} (st cause : BitVec 4) (runs : stopped s = false) {p : Nat} (hp : p < 10) :
    (portAt (chipFault s st cause) p).state = 0 ∧ (portAt (chipFault s st cause) p).enable = false := by
  unfold chipFault
  dsimp only
  rw [if_neg (by simp [runs])]
  simp [portAt, List.getD, hp, toOff]

/-- The fault of a chip that is no MEMBER leaves what the fuse check said. -/
theorem chipFault_fuseFail {s : State} (st cause : BitVec 4) (alone : ¬ s.glb.state = 7#4) :
    (chipFault s st cause).glb.fuseFail = s.glb.fuseFail := by
  unfold chipFault
  dsimp only
  split
  · rfl
  · simp [alone, modGlb, stopBeat]

/-! ### The boot (R550, R552) -/

/-- The boot enables ports. -/
theorem enablePorts_frame (ps : List Nat) (s : State) :
    let t := ps.foldl (fun s p => if domainOn s (20 + p) && !(portAt s p).enable then modPort s p enablePort else s) s
    t.glb = s.glb ∧ t.mem = s.mem ∧ t.cores = s.cores := by
  induction ps generalizing s with
  | nil => exact ⟨rfl, rfl, rfl⟩
  | cons p ps ih =>
    obtain ⟨glb, mem, cores⟩ := ih (if domainOn s (20 + p) && !(portAt s p).enable then modPort s p enablePort else s)
    rw [List.foldl_cons]
    refine ⟨glb.trans ?_, mem.trans ?_, cores.trans ?_⟩ <;> split <;> rfl

/-- The current slot's image is valid and is booted. -/
theorem bootEnd_boots {s : State} {i : FwImage} (waits : s.glb.state = 3) (zero : s.fw.current1 = false)
    (slot : s.fw.slot0 = some i) (wellFormed : i.wellFormed = true) (floor : s.fw.floor.toNat ≤ i.version.toNat) :
    (bootEnd s).glb.state = 4 ∧ (bootEnd s).glb.fwSlot = false ∧ (bootEnd s).glb.fwVersion = i.version ∧
      (bootEnd s).mem = s.mem ∧ (bootEnd s).cores = s.cores := by
  have current : s.fw.slot false = some i := slot
  have valid : imageValid s.fw (some i) = true := by simp [imageValid, wellFormed, floor]
  unfold bootEnd
  simp only [waits, zero, current, valid, bne_self_eq_false, Bool.false_eq_true, if_false, if_true]
  obtain ⟨glb, mem, cores⟩ := enablePorts_frame (List.range 10) (setFwAlt (modGlb s fun g => { g with
    state := 4, fwSlot := false, fwVersion := ((s.fw.slot false).map (·.version)).getD 0 }))
  rw [current] at glb mem cores
  refine ⟨?_, ?_, ?_, mem, cores⟩ <;> rw [glb] <;> rfl

/-- Without an image there is nothing to boot. -/
theorem bootEnd_faults {s : State} (waits : s.glb.state = 3) (none0 : s.fw.slot0 = none) (none1 : s.fw.slot1 = none) :
    bootEnd s = chipFault s 9 2 := by
  have empty (b : Bool) : imageValid s.fw (s.fw.slot b) = false := by
    cases b <;> simp [FwStore.slot, none0, none1, imageValid]
  unfold bootEnd
  simp [waits, empty]

/-! ### READY and the watchdog (R551, R555) -/

theorem chipReady_ready {s : State} (starts : s.glb.state = 4) (holds : waitCode s = 0) (alone : s.glb.join = false) :
    chipReady s = { s with glb := { s.glb with state := 5, wait := 7 } } := by
  unfold chipReady joinChanged
  simp [starts, holds, alone, modGlb]

theorem chipReady_waits {s : State} (waits : waitCode s ≠ 0) : chipReady s = s := 
  if_neg fun ready => waits (eq_of_beq (Bool.and_eq_true_iff.mp ready).2)

theorem exec_watchdogExpiry {s : State} (booted : 3 ≤ s.glb.state.toNat) :
    exec .watchdogExpiry s = .next (chipFault s 9 4) := congrArg Host.Outcome.next (if_pos booted)

/-- Settles O57: each event of the start-up by its lemma above; what a fault leaves is `chipFault_runs` with `chipFault_ports`. -/
theorem startUpAndChipFaults : Obligations.StartUpAndChipFaults := by
  refine fun s m => ⟨fun resets held => ⟨?loaded, ?fails⟩,
    fun waits zero => ⟨fun i slot well floor => ?boots, fun none0 none1 => ?noImage⟩,
    fun starts holds alone => ?ready, fun waits => congrArg Host.Outcome.next (chipReady_waits waits),
    fun booted runs => ?watchdog, rfl⟩
  case loaded => exact ⟨_, rfl, fuseLoadEnd_loaded m resets held⟩
  case fails =>
    have state0 : (fuseFailed s).glb.state = 0 := resets
    have runs : stopped (fuseFailed s) = false := by simp [stopped, state0]
    obtain ⟨state, cause, pin⟩ := chipFault_runs 9 1 runs
    rw [state0] at pin
    exact ⟨_, congrArg Host.Outcome.next (fuseLoadEnd_fails resets held), state, cause, chipFault_fuseFail 9 1 (by simp [state0]),
      pin.trans (Bool.or_false _), fun p hp => chipFault_ports 9 1 runs hp⟩
  case boots => exact ⟨_, rfl, bootEnd_boots waits zero slot well floor⟩
  case noImage =>
    obtain ⟨state, cause, -⟩ := chipFault_runs (s := s) 9 2 (by simp [stopped, waits])
    exact ⟨_, congrArg Host.Outcome.next (bootEnd_faults waits none0 none1), state, cause⟩
  case ready => exact ⟨_, congrArg Host.Outcome.next (chipReady_ready starts holds alone), rfl, rfl⟩
  case watchdog =>
    obtain ⟨state, cause, pin⟩ := chipFault_runs 9 4 runs
    refine ⟨_, exec_watchdogExpiry booted, state, cause, pin, fun p hp => ?_⟩
    obtain ⟨off, -⟩ := chipFault_ports 9 4 runs hp
    exact off

end Sys2Proof.Machine
end

section
/-! PROOFS. Telemetry: the result queue, the fast converter, calibration, software conversions and the registers (R524 to R532,
R544). -/

namespace Sys2Proof.Machine

/-! ### Entries of the result queue (R531, Table 15-4) -/

/-- A field of a word whose fields below it stay below it. -/
theorem bits_ofNat {n lo len below field above : Nat} (small : below < 2 ^ lo) (fits : field < 2 ^ len)
    (size : n = below + 2 ^ lo * (field + 2 ^ len * above)) (word : n < 2 ^ 32) :
    bits (BitVec.ofNat 32 n) lo len = field := by
  have shifted : n / 2 ^ lo = field + 2 ^ len * above := by
    rw [size, Nat.add_mul_div_left _ _ (Nat.two_pow_pos lo), Nat.div_eq_of_lt small, Nat.zero_add]
  rw [bits, BitVec.extractLsb'_toNat, BitVec.toNat_ofNat, Nat.mod_eq_of_lt word, Nat.shiftRight_eq_div_pow, shifted,
    Nat.add_mul_mod_self_left, Nat.mod_eq_of_lt fits]

theorem boolNat_le (b : Bool) : boolNat b ≤ 1 := by cases b <;> decide

theorem stamp_bounds (s : State) : (stamp s).1 < 2 ^ 17 ∧ (stamp s).2.1 < 256 := by
  unfold stamp
  split
  · exact ⟨by decide, by decide⟩
  · split
    · exact ⟨Nat.mod_lt _ (by decide), Nat.mod_lt _ (by decide)⟩
    · exact ⟨Nat.mod_lt _ (by decide), Nat.mod_lt _ (by decide)⟩

/-- What making an entry may change. -/
def EntryOnly (s t : State) : Prop :=
  ∃ q o d l, t = { s with tel := { s.tel with queue := q, ovf := o, dropped := d, lostNext := l } }

theorem EntryOnly.trans {s t u : State} : EntryOnly s t → EntryOnly t u → EntryOnly s u := by
  rintro ⟨_, _, _, _, rfl⟩ ⟨_, _, _, _, rfl⟩
  exact ⟨_, _, _, _, rfl⟩

section
variable (s : State) (channel range : Nat) (settling clip bad uncal : Bool) (value : Nat)

theorem makeEntry_entryOnly : EntryOnly s (makeEntry s channel range settling clip bad uncal value) := by
  unfold makeEntry
  split <;> exact ⟨_, _, _, _, rfl⟩

theorem makeEntry_full (full : 512 ≤ s.tel.queue.length) : makeEntry s channel range settling clip bad uncal value =
    modTel s fun t => { t with dropped := satInc t.dropped, ovf := true, lostNext := true } := if_pos full

/-- With room an entry is queued, with its channel in word 0 and its value in word 1. -/
theorem makeEntry_room (room : s.tel.queue.length < 512) : ∃ e : TelEntry,
    makeEntry s channel range settling clip bad uncal value =
      (modTel s fun t => { t with queue := t.queue ++ [e], lostNext := false }) ∧
    (channel < 32 → range < 4 → bits e.word0 25 5 = channel) ∧ (value < 2 ^ 24 → bits e.word1 0 24 = value) := by
  obtain ⟨beat, slot⟩ := stamp_bounds s
  refine ⟨_, if_neg (Nat.not_le.mpr room), fun small fits => ?_, fun small => ?_⟩
  · have h1 := boolNat_le settling
    have h2 := boolNat_le clip
    have h3 := boolNat_le bad
    have h4 := boolNat_le uncal
    have h5 := boolNat_le s.tel.lostNext
    have h6 := boolNat_le (stamp s).2.2
    simp only [word, List.foldl_cons, List.foldl_nil]
    refine bits_ofNat (below := 2 ^ 23 * range + 2 ^ 22 * boolNat settling + 2 ^ 21 * boolNat clip + 2 ^ 20 * boolNat bad +
      2 ^ 19 * boolNat uncal + 2 ^ 18 * boolNat s.tel.lostNext + 2 ^ 17 * boolNat (stamp s).2.2 + (stamp s).1) (above := 3)
      ?_ small ?_ ?_
    all_goals omega
  · simp only [word, List.foldl_cons, List.foldl_nil]
    exact bits_ofNat (below := 0) (above := (stamp s).2.1) (by decide) small (by omega) (by omega)

end

/-! ### Conversions (R524, R527 to R531) -/

/-- Channel 0 begins a frame, at which LP comes into force (R530). -/
def frameBegun (s : State) (ch : Nat) : State := if ch = 0 then modTel s fun t => { t with lpActing := t.lp } else s

/-- A conversion counted. -/
def sampleCounted (s : State) (ch : Nat) : State :=
  modTel (frameBegun s ch) fun t => { t with counts := vmod t.counts ch (· + 1) }

/-- What a counted and queued sample does to the droop loop, the current gate and the range of its channel. -/
def sampleActs (s : State) (ch range code : Nat) (clip settle bad : Bool) : State :=
  if ch < 16 then (if bad then s else droopSample s ch code)
  else modRange (if ch = 16 && !settle && !bad then gateSample s (code * fullScale 16 range) else s) (ch - 16)
    fun r => rangeSample r code clip

theorem sampleCounted_queue (s : State) (ch : Nat) : (sampleCounted s ch).tel.queue = s.tel.queue ∧
    (sampleCounted s ch).tel.dropped = s.tel.dropped ∧ (sampleCounted s ch).mem = s.mem ∧
    (sampleCounted s ch).cores = s.cores := by
  unfold sampleCounted frameBegun
  split <;> exact ⟨rfl, rfl, rfl, rfl⟩

theorem sampleActs_queue (s : State) (ch range code : Nat) (clip settle bad : Bool) :
    let t := sampleActs s ch range code clip settle bad
    t.tel.queue = s.tel.queue ∧ t.tel.ovf = s.tel.ovf ∧ t.tel.dropped = s.tel.dropped ∧ t.mem = s.mem ∧
      t.cores = s.cores := by
  have droop : (droopSample s ch code).tel.queue = s.tel.queue ∧ (droopSample s ch code).tel.ovf = s.tel.ovf ∧
      (droopSample s ch code).tel.dropped = s.tel.dropped ∧ (droopSample s ch code).mem = s.mem ∧
      (droopSample s ch code).cores = s.cores := by
    unfold droopSample
    split <;> exact ⟨rfl, rfl, rfl, rfl, rfl⟩
  unfold sampleActs
  dsimp only
  split
  · split
    · exact ⟨rfl, rfl, rfl, rfl, rfl⟩
    · exact droop
  · split <;> exact ⟨rfl, rfl, rfl, rfl, rfl⟩

/-- In continuous mode a sample of a selected channel is counted, makes its entry and acts. -/
theorem fastConversion_selected {s : State} {ch : Nat} (on : domainOn s 32 = true) (continuous : s.tel.mode = 1)
    (selected : bit s.tel.sel ch = true) (each : s.tel.qdiv = 0) (slice code : Nat) (clip : Bool) :
    ∃ range settle bad uncal, range < 4 ∧ fastConversion s ch slice code clip false =
      sampleActs (makeEntry (sampleCounted s ch) ch range settle clip bad uncal code) ch range code clip settle bad := by
  have fields : (sampleCounted s ch).tel.sel = s.tel.sel ∧ (sampleCounted s ch).tel.qdiv = s.tel.qdiv := by
    unfold sampleCounted frameBegun
    split <;> exact ⟨rfl, rfl⟩
  have due : (bit (sampleCounted s ch).tel.sel ch && decide ((sampleCounted s ch).tel.counts.toList.getD ch 0 %
      2 ^ (sampleCounted s ch).tel.qdiv.toNat = 0)) = true := by
    obtain ⟨sel, qdiv⟩ := fields
    rw [sel, qdiv, selected, each]
    exact decide_eq_true (Nat.mod_one _)
  let u := frameBegun s ch
  refine ⟨if ch < 16 then 0 else (rangeOf u ch).cur.toNat, settling u ch, bit u.tel.bad slice, !u.tel.convSeen, ?_, ?_⟩
  · split
    · decide
    · exact (rangeOf u ch).cur.isLt
  · refine (if_neg (by simp [on, continuous])).trans ?_
    exact congrArg (sampleActs · ch _ code clip _ _) (if_pos due)

/-- Outside continuous mode a conversion does nothing. -/
theorem fastConversion_idle {s : State} (other : s.tel.mode ≠ 1) (ch slice code : Nat) (clip : Bool) :
    fastConversion s ch slice code clip false = s := if_pos (by
  rw [bne_iff_ne.mpr other, Bool.or_true])

/-- Continuous mode in which a sample of the channel is due an entry. -/
structure SampleDue (s : State) (ch : Nat) : Prop where
  on : domainOn s 32 = true
  continuous : s.tel.mode = 1
  selected : bit s.tel.sel ch = true
  each : s.tel.qdiv = 0

theorem fastConversion_queues {s : State} {ch : Nat} (due : SampleDue s ch) (small : ch < 32) (room : s.tel.queue.length < 512)
    {code : Nat} (value : code < 2 ^ 24) (slice : Nat) (clip : Bool) : ∃ e,
    (fastConversion s ch slice code clip false).tel.queue = s.tel.queue ++ [e] ∧ bits e.word0 25 5 = ch ∧
      bits e.word1 0 24 = code ∧ (fastConversion s ch slice code clip false).mem = s.mem ∧
      (fastConversion s ch slice code clip false).cores = s.cores := by
  obtain ⟨range, settle, bad, uncal, fits, runs⟩ :=
    fastConversion_selected due.on due.continuous due.selected due.each slice code clip
  obtain ⟨queue, -, mem, cores⟩ := sampleCounted_queue s ch
  obtain ⟨e, made, channel, stored⟩ :=
    makeEntry_room (sampleCounted s ch) ch range settle clip bad uncal code (by rw [queue]; exact room)
  obtain ⟨queued, -, -, memKept, coresKept⟩ :=
    sampleActs_queue (makeEntry (sampleCounted s ch) ch range settle clip bad uncal code) ch range code clip settle bad
  rw [← runs, made] at queued memKept coresKept
  refine ⟨e, queued.trans ?_, channel small fits, stored value, memKept.trans mem, coresKept.trans cores⟩
  exact congrArg (· ++ [e]) queue

theorem fastConversion_drops {s : State} {ch : Nat} (due : SampleDue s ch) (full : 512 ≤ s.tel.queue.length) (slice code : Nat)
    (clip : Bool) : (fastConversion s ch slice code clip false).tel.queue = s.tel.queue ∧
      (fastConversion s ch slice code clip false).tel.ovf = true ∧
      (fastConversion s ch slice code clip false).tel.dropped = satInc s.tel.dropped := by
  obtain ⟨range, settle, bad, uncal, -, runs⟩ :=
    fastConversion_selected due.on due.continuous due.selected due.each slice code clip
  obtain ⟨queue, dropped, -, -⟩ := sampleCounted_queue s ch
  have made := makeEntry_full (sampleCounted s ch) ch range settle clip bad uncal code (by rw [queue]; exact full)
  obtain ⟨queueKept, ovfKept, droppedKept, -, -⟩ :=
    sampleActs_queue (makeEntry (sampleCounted s ch) ch range settle clip bad uncal code) ch range code clip settle bad
  rw [← runs, made] at queueKept ovfKept droppedKept
  exact ⟨queueKept.trans queue, ovfKept, droppedKept.trans (congrArg satInc dropped)⟩

/-- A decided step of an autoranging channel takes effect. -/
theorem rangeStep_steps {r : Range} {up : Bool} (due : r.due = some up) (auto : r.auto = true) :
    rangeStep r = r.enter (if up then r.cur + 1 else r.cur - 1) := by
  rw [rangeStep, due]
  exact if_pos auto

theorem modRange_range (s : State) (i : Fin 4) (f : Range → Range) :
    (modRange s i.val f).tel.ranges.toList.getD i.val Range.reset = f (s.tel.ranges.toList.getD i.val Range.reset) :=
  vmod_getD_same s.tel.ranges i f Range.reset

/-! ### Software conversions (R529) -/

/-- The entries of a software conversion change the queue and the counts of samples since a range began. -/
theorem softEntries_tel (i : Nat) (s : State) (chs : List Nat) (codes : List (BitVec 10 × Bool)) :
    ∃ x, softEntries i s chs codes = { s with tel := x } ∧ x.soft = s.tel.soft ∧ x.lpActing = s.tel.lpActing := by
  induction chs generalizing i s codes with
  | nil => exact ⟨_, rfl, rfl, rfl⟩
  | cons ch chs ih =>
    cases codes with
    | nil => exact ⟨_, rfl, rfl, rfl⟩
    | cons c codes =>
      obtain ⟨code, clip⟩ := c
      obtain ⟨_, _, _, _, made⟩ := makeEntry_entryOnly s ch (if ch < 16 then 0 else (rangeOf s ch).cur.toNat)
        (settling s ch) clip (bit s.tel.bad (i % (if s.tel.lpActing then 2 else 8))) (!s.tel.convSeen) code.toNat
      unfold softEntries
      dsimp only
      rw [made]
      split
      · exact ih _ _ codes
      · exact ih _ _ codes

theorem softConversion_ends {s : State} (on : domainOn s 32 = true) (soft : s.tel.soft = true)
    (codes : List (BitVec 10 × Bool)) : ∃ x, softConversion s codes = { s with tel := x } ∧ x.soft = false ∧
      x.lpActing = s.tel.lp := by
  unfold softConversion
  rw [if_neg (by simp [on, soft])]
  exact softEntries_tel 0 (modTel s fun t => { t with lpActing := t.lp, soft := false }) _ codes

/-! ### The queue's head (R532) -/

theorem readOut_head {s : State} (on : domainOn s 32 = true) (via : Via) :
    readOut s via 0xA0008 = (telHeadRead s via).1.emit (.readData via 0xA0008 (telHeadRead s via).2) := by
  have lit : regDark s 0xA0008 = false := (congrArg (!·) on : (!domainOn s 32) = !true)
  have read : readReg s via 0xA0008 = telHeadRead s via := by simp [readReg, lit]
  rw [readOut, read]

section
variable {s : State} {via : Via} (fresh : (latchOf s via).telHi = none)
include fresh

theorem telHeadRead_empty (none : s.tel.queue = []) : telHeadRead s via = (s, 0x80000000) := by
  simp only [telHeadRead, fresh, none]

theorem telHeadRead_takes {e : TelEntry} {r : List TelEntry} (some : s.tel.queue = e :: r) : telHeadRead s via =
    (setLatch { s with tel := { s.tel with queue := r } } { latchOf s via with telHi := .some e.word1 }, e.word0) := by
  simp only [telHeadRead, fresh, some]

end

/-- Once every path's latched word 1 is dropped, none is latched. -/
theorem latchOf_dropped (s : State) (via : Via) :
    (latchOf { s with latches := s.latches.map fun l => { l with telHi := none } } via).telHi = none := by
  unfold latchOf
  rw [List.find?_map]
  cases List.find? ((fun l : Latch => sameLatch l.via via) ∘ fun l => { l with telHi := none }) s.latches <;> rfl

/-! ### Registers (R525, R529, R544) -/

theorem tel_reachable {s : State} {off : Nat} (here : regDomain off = some 32) (on : domainOn s 32 = true) :
    regReachable s off = true := by
  rw [regReachable, here]
  exact on

theorem exec_flush {s : State} {via : Via} (hw : mayWrite s via = true) (on : domainOn s 32 = true) (v : W32) :
    exec (.flush via v) s = .next { s with
      tel := { s.tel with ovf := s.tel.ovf && !bit (v ||| 1) 20, queue := [] }
      latches := s.latches.map fun l => { l with telHi := none } } := by
  have flush : bit (v ||| 1) 0 = true := by rw [bit_or]; exact Bool.or_true _
  refine congrArg Host.Outcome.next ((guarded_accepted _ hw (tel_reachable rfl on)).trans ?_)
  simp only [qStatWrite, flush, if_true]
  rfl

theorem exec_recal {s : State} {via : Via} (hw : mayWrite s via = true) (on : domainOn s 32 = true) (v : W32) :
    exec (.recal via v) s =
      .next (if s.tel.mode != 1 then telErr s 3 else modTel s fun t => { t with conv := false, bad := 0 }) := by
  have recal : bit (v ||| 0x20000000) 29 = true := by rw [bit_or]; exact Bool.or_true _
  exact congrArg Host.Outcome.next ((guarded_accepted _ hw (tel_reachable rfl on)).trans (if_neg (by rw [recal]; decide)))

/-- START lies outside MODE. -/
theorem mode_or_start (v : W32) : (v ||| 0x1000000).extractLsb' 26 2 = v.extractLsb' 26 2 := by
  have mode : (0x1000000 : W32).extractLsb' 26 2 = 0#2 := rfl
  rw [BitVec.extractLsb'_or, mode, BitVec.or_zero]

theorem sel_or_start (v : W32) : (v ||| 0x1000000).setWidth 20 = v.setWidth 20 := by
  have sel : (0x1000000 : W32).setWidth 20 = 0#20 := rfl
  rw [BitVec.setWidth_or, sel, BitVec.or_zero]

theorem exec_start {s : State} {via : Via} (hw : mayWrite s via = true) (on : domainOn s 32 = true) (v : W32) :
    exec (.start via v) s = .next (fastCtlWrite s (v ||| 0x1000000)) :=
  congrArg Host.Outcome.next (guarded_accepted (fun s => fastCtlWrite s (v ||| 0x1000000)) hw (tel_reachable rfl on))

section
variable {s : State} {v : W32}

/-- START in power-down, with the droop loop off and no conversion asked for, asks for one. -/
theorem fastCtlWrite_starts (mode : v.extractLsb' 26 2 = 2#2) (loop : s.pwr.loopEn = false) (idle : s.tel.soft = false) :
    fastCtlWrite s (v ||| 0x1000000) = modTel s fun t => { t with
      mode := 2, lp := bit (v ||| 0x1000000) 25, qdiv := (v ||| 0x1000000).extractLsb' 20 4, sel := v.setWidth 20
      counts := Vector.replicate 20 0, frozen := true, soft := true } := by
  have start : bit (v ||| 0x1000000) 24 = true := by rw [bit_or]; exact Bool.or_true _
  unfold fastCtlWrite
  simp only [mode_or_start, sel_or_start, mode, loop, idle, start]
  simp

/-- START outside power-down is refused. -/
theorem fastCtlWrite_refused (mode : v.extractLsb' 26 2 = 1#2) : fastCtlWrite s (v ||| 0x1000000) = telErr s 3 := by
  have start : bit (v ||| 0x1000000) 24 = true := by rw [bit_or]; exact Bool.or_true _
  unfold fastCtlWrite
  simp only [mode_or_start, mode, start]
  rfl

end

end Sys2Proof.Machine
end

section
/-! PROOFS. The slow converter: MAINS_REF, and windows with their entries, energy table and cap (R533 to R537). -/

namespace Sys2Proof.Machine

/-! ### MAINS_REF (R534) -/

theorem EventsOnly.telMem {s t : State} : EventsOnly s t → t.tel = s.tel ∧ t.mem = s.mem ∧ t.cores = s.cores := by
  rintro ⟨_, _, _, rfl⟩
  exact ⟨rfl, rfl, rfl⟩

theorem mainsLost_locked {s : State} (locked : s.tel.locked = true) :
    (mainsLost s).tel = { s.tel with locked := false, lost := true, periods := [] } ∧ (mainsLost s).mem = s.mem := by
  obtain ⟨tel, mem, -⟩ := (postReg_eventsOnly
    (modTel s fun t => { t with locked := false, lost := true, periods := [] }) 7 none 0xA0018 30 0).telMem
  rw [mainsLost, if_pos locked]
  exact ⟨tel, mem⟩

theorem exec_mainsRefEdge {s : State} (on : domainOn s 32 = true) (p : Nat) : exec (.mainsRefEdge p) s = .next (mainsEdge s p) :=
  congrArg Host.Outcome.next (if_pos on)

theorem mainsEdge_inRange {s : State} {p : Nat} (least : 151500 ≤ p) (most : p ≤ 222200) : ∃ x,
    mainsEdge s p = { s with tel := x } ∧ x.period = BitVec.ofNat 24 p ∧ x.periods = (p :: s.tel.periods).take 4 ∧
      (s.tel.periods.take 3 = [p, p, p] → x.locked = true) := by
  refine ⟨_, if_neg (by simp [least, most]), rfl, rfl, fun same => ?_⟩
  have last : (p :: s.tel.periods).take 4 = [p, p, p, p] := by rw [List.take_succ_cons, same]
  change (s.tel.locked || _) = true
  simp [last]

theorem mainsEdge_outOfRange {s : State} {p : Nat} (out : p < 151500 ∨ 222200 < p) :
    mainsEdge s p = mainsLost (modTel s fun t => { t with period := BitVec.ofNat 24 p }) := if_pos (by simpa using out)

/-! ### The entries of a window (R531) -/

/-- The entries of a window: one for each of its rails. -/
def windowEntries (s : State) (w : SlowWindow) (rails : List Nat) : State :=
  rails.foldl (fun s r => makeEntry s (20 + r) 2 false (!w.locked) false false (w.codes.toList.getD r 0).toNat) s

theorem windowEntries_entryOnly (s : State) (w : SlowWindow) (rails : List Nat) : EntryOnly s (windowEntries s w rails) := by
  induction rails generalizing s with
  | nil => exact ⟨_, _, _, _, rfl⟩
  | cons r rails ih => exact EntryOnly.trans (makeEntry_entryOnly s _ _ _ _ _ _ _) (ih _)

theorem windowEntries_length {s : State} {rails : List Nat} (w : SlowWindow) (room : s.tel.queue.length + rails.length ≤ 512) :
    (windowEntries s w rails).tel.queue.length = s.tel.queue.length + rails.length := by
  induction rails generalizing s with
  | nil => rfl
  | cons r rails ih =>
    rw [List.length_cons] at room ⊢
    obtain ⟨e, made, -, -⟩ :=
      makeEntry_room s (20 + r) 2 false (!w.locked) false false (w.codes.toList.getD r 0).toNat (by omega)
    have longer : (makeEntry s (20 + r) 2 false (!w.locked) false false (w.codes.toList.getD r 0).toNat).tel.queue.length =
        s.tel.queue.length + 1 := by rw [made]; exact List.length_append
    rw [windowEntries, List.foldl_cons]
    refine (ih ?_).trans ?_
    · rw [longer]
      omega
    · rw [longer]
      omega

/-! ### The cap (R537) -/

/-- The ceiling after a window of power `num` / `den` mW. -/
def ceilAfter (p : Pwr) (num den : Nat) : BitVec 4 :=
  if p.cap.toNat = 0 then p.ceil
  else if 1000 * p.cap.toNat * den < num then BitVec.ofNat 4 (max 1 (p.ceil.toNat - 1))
  else if num < 950 * p.cap.toNat * den then (if 1 ≤ p.below then BitVec.ofNat 4 (min 8 (p.ceil.toNat + 1)) else p.ceil)
  else p.ceil

/-- The cap changes the ceiling in the block PWR, and posts at most an event. -/
theorem capStep_ceil (s : State) (num den : Nat) : ∃ p, EventsOnly { s with pwr := p } (capStep s num den) ∧
    p.ceil = ceilAfter s.pwr num den := by
  unfold capStep ceilAfter
  dsimp only [modPwr_pwr]
  by_cases none : s.pwr.cap.toNat = 0
  · rw [if_pos none, if_pos none]
    exact ⟨_, .refl _, rfl⟩
  rw [if_neg none, if_neg none]
  by_cases exceeds : 1000 * s.pwr.cap.toNat * den < num
  · rw [if_pos exceeds, if_pos exceeds]
    exact ⟨_, .ite (postReg_eventsOnly _ 7 .none 0x90014 13 0) (.refl _), rfl⟩
  rw [if_neg exceeds, if_neg exceeds]
  by_cases low : num < 950 * s.pwr.cap.toNat * den
  · rw [if_pos low, if_pos low]
    by_cases second : 1 ≤ s.pwr.below
    · simp only [second, if_true]
      exact ⟨_, .refl _, rfl⟩
    · simp only [second, if_false]
      exact ⟨_, .refl _, rfl⟩
  · rw [if_neg low, if_neg low]
    exact ⟨_, .refl _, rfl⟩

theorem ceilAfter_pos {p : Pwr} (h : 1 ≤ p.ceil.toNat) (num den : Nat) : 1 ≤ (ceilAfter p num den).toNat := by
  have size := p.ceil.isLt
  have step (n : Nat) (low : 1 ≤ n) (high : n < 16) : 1 ≤ (BitVec.ofNat 4 n).toNat := by
    rwa [BitVec.toNat_ofNat, Nat.mod_eq_of_lt high]
  unfold ceilAfter
  split
  · exact h
  · split
    · exact step _ (by omega) (by omega)
    · split
      · split
        · exact step _ (by omega) (by omega)
        · exact h
      · exact h

section
variable {p : Pwr} {num den : Nat} (set : p.cap.toNat ≠ 0)
include set

theorem ceilAfter_over (exceeds : 1000 * p.cap.toNat * den < num) :
    ceilAfter p num den = BitVec.ofNat 4 (max 1 (p.ceil.toNat - 1)) := by
  rw [ceilAfter, if_neg set, if_pos exceeds]

variable (within : num ≤ 1000 * p.cap.toNat * den)
include within

theorem ceilAfter_below (low : num < 950 * p.cap.toNat * den) (second : 1 ≤ p.below) :
    ceilAfter p num den = BitVec.ofNat 4 (min 8 (p.ceil.toNat + 1)) := by
  rw [ceilAfter, if_neg set, if_neg (Nat.not_lt.mpr within), if_pos low, if_pos second]

theorem ceilAfter_stays (kept : 950 * p.cap.toNat * den ≤ num ∨ p.below = 0) : ceilAfter p num den = p.ceil := by
  rw [ceilAfter, if_neg set, if_neg (Nat.not_lt.mpr within)]
  rcases kept with high | first
  · exact if_neg (Nat.not_lt.mpr high)
  · split
    · exact if_neg (by omega)
    · rfl

end

/-! ### The energy table (R535, Table 15-5) -/

theorem length_flatMap_leBytes {α : Type} (l : List α) (k : Nat) (f : α → Nat) :
    (l.flatMap fun x => leBytes k (f x)).length = l.length * k := by
  simp [List.length_flatMap, length_leBytes]

theorem length_energyTable (e : Energy) (capActive : Bool) : (energyTable e capActive).length = 416 := by
  simp only [energyTable, List.length_append, length_flatMap_leBytes, length_leBytes, Vector.length_toList]

theorem energyWrite_off {s : State} (off : s.tel.accMb = 0x1FF) : energyWrite s = s := if_pos (by rw [off]; rfl)

/-- The energy table is written in its own 4 KB. -/
theorem energyWrite_other {s : State} (wf : Memory.wf s.mem = true) {a : Nat}
    (outside : a < 0x100000 * s.tel.accMb.toNat ∨ 0x100000 * s.tel.accMb.toNat + 4096 ≤ a) :
    readByte (energyWrite s).mem a = readByte s.mem a := by
  have skipped (due : Bool) : (if due then
      postReg (modTel s fun t => { t with skipAt := some s.clock }) 7 none 0xA0004 19 0 else s).mem = s.mem := by
    obtain ⟨-, mem, -⟩ := (postReg_eventsOnly (modTel s fun t => { t with skipAt := some s.clock }) 7 none 0xA0004 19 0).telMem
    cases due
    · rfl
    · exact mem
  unfold energyWrite
  dsimp only
  split
  · rfl
  · split
    · exact congrArg (readByte · a) (skipped _)
    · refine cupWrite_other (s := modTel s fun t => { t with energy := { t.energy with seq := t.energy.seq + 2 } }) wf none ?_
      rw [length_energyTable]
      omega

/-! ### Windows -/

/-- The total power of a window's rails in mW, as a fraction. -/
def windowPower (s : State) (w : SlowWindow) : Nat × Nat :=
  (List.range 4).foldl (fun a r =>
    (a.1 * (railPower s w r).2 + (railPower s w r).1 * a.2, a.2 * (railPower s w r).2)) (0, 1)

/-- A window counted: its entries, its energy and the end of its droop samples. -/
def windowCounted (s : State) (w : SlowWindow) : State :=
  modTel (windowEntries s w (List.range 4)) fun t => { t with energy := energyAfter s w, droopSum := 0, droopCount := 0 }

theorem slowWindowEnd_runs {s : State} (w : SlowWindow) (on : domainOn s 32 = true) (en : s.tel.en = true) :
    slowWindowEnd s w =
      (energyWrite (capStep (windowCounted s w) (windowPower s w).1 (windowPower s w).2)).drawn 26 :=
  if_neg (by simp [on, en])

theorem windowCounted_kept (s : State) (w : SlowWindow) : (windowCounted s w).mem = s.mem ∧
    (windowCounted s w).cores = s.cores ∧
    (windowCounted s w).pwr = s.pwr ∧ (windowCounted s w).tel.accMb = s.tel.accMb := by
  obtain ⟨_, _, _, _, made⟩ := windowEntries_entryOnly s w (List.range 4)
  rw [windowCounted, made]
  exact ⟨rfl, rfl, rfl, rfl⟩

theorem windowCounted_counts {s : State} (w : SlowWindow) (room : s.tel.queue.length ≤ 508) :
    (windowCounted s w).tel.energy.windows = s.tel.energy.windows + 1 ∧
      (windowCounted s w).tel.queue.length = s.tel.queue.length + 4 := by
  have four : (List.range 4).length = 4 := rfl
  have length := windowEntries_length (s := s) (rails := List.range 4) w (by omega)
  rw [four] at length
  rw [windowCounted, modTel_tel]
  exact ⟨rfl, length⟩

/-- The cap's step leaves the memory, the cores and telemetry as they are. -/
theorem capStep_kept (s : State) (num den : Nat) : (capStep s num den).tel = s.tel ∧ (capStep s num den).mem = s.mem ∧
    (capStep s num den).cores = s.cores ∧ (capStep s num den).pwr.ceil = ceilAfter s.pwr num den := by
  obtain ⟨p, events, ceil⟩ := capStep_ceil s num den
  obtain ⟨tel, mem, cores⟩ := events.telMem
  exact ⟨tel, mem, cores, (congrArg Pwr.ceil events.pwr).trans ceil⟩

/-- A window that writes no energy table. -/
theorem slowWindowEnd_noTable {s : State} (w : SlowWindow) (on : domainOn s 32 = true) (en : s.tel.en = true)
    (off : s.tel.accMb = 0x1FF) (room : s.tel.queue.length ≤ 508) :
    let t := slowWindowEnd s w
    t.tel.energy.windows = s.tel.energy.windows + 1 ∧ t.tel.queue.length = s.tel.queue.length + 4 ∧ t.mem = s.mem ∧
      t.cores = s.cores ∧ t.pwr.ceil = ceilAfter s.pwr (windowPower s w).1 (windowPower s w).2 := by
  have runs := slowWindowEnd_runs w on en
  have counts := windowCounted_counts w room
  have before := windowCounted_kept s w
  generalize windowCounted s w = u at runs counts before
  obtain ⟨mem, cores, pwr, acc⟩ := before
  obtain ⟨telKept, memKept, coresKept, ceil⟩ := capStep_kept u (windowPower s w).1 (windowPower s w).2
  rw [energyWrite_off (by rw [telKept, acc, off])] at runs
  rw [← pwr, ← mem, ← cores, ← memKept, ← coresKept, ← ceil, runs]
  rw [← telKept] at counts
  obtain ⟨windows, queue⟩ := counts
  exact ⟨windows, queue, rfl, rfl, rfl⟩

/-- A window writes at most the energy table. -/
theorem slowWindowEnd_other {s : State} (w : SlowWindow) (on : domainOn s 32 = true) (en : s.tel.en = true)
    (wf : Memory.wf s.mem = true) {a : Nat}
    (outside : a < 0x100000 * s.tel.accMb.toNat ∨ 0x100000 * s.tel.accMb.toNat + 4096 ≤ a) :
    readByte (slowWindowEnd s w).mem a = readByte s.mem a := by
  have runs := slowWindowEnd_runs w on en
  have before := windowCounted_kept s w
  generalize windowCounted s w = u at runs before
  obtain ⟨mem, -, -, acc⟩ := before
  obtain ⟨telKept, memKept, -, -⟩ := capStep_kept u (windowPower s w).1 (windowPower s w).2
  rw [runs, ← mem, ← memKept]
  refine energyWrite_other ?_ ?_
  · rw [memKept, mem]
    exact wf
  · rwa [telKept, acc]

/-- Settles O56: the fast converter by `fastConversion_queues` and its neighbours, MAINS_REF by whether a period is in range, a
window by `slowWindowEnd_noTable` with the cases of `ceilAfter`, and `slowWindowEnd_other`. -/
theorem telemetryWindowsAndMains : Obligations.TelemetryWindowsAndMains := by
  refine ⟨fun s via v ch range slice code clip codes on => ?fast, fun s p w on =>
    ⟨fun least most => ?inRange, fun out locked => ?outOfRange, fun locked => ?timeout,
      fun unlocked => congrArg Host.Outcome.next (if_neg (by simp [unlocked])), fun en off room => ?window,
      fun en wf => ⟨_, rfl, fun a outside => slowWindowEnd_other w on en wf outside⟩,
      fun off => congrArg Host.Outcome.next (if_pos (by simp [off]))⟩⟩
  case fast =>
    refine ⟨fun other => congrArg Host.Outcome.next (fastConversion_idle other _ _ _ _),
      fun continuous selected each room => ?queues, fun continuous selected each full => ?drops,
      fun r up hr continuous due auto => ?steps, fun continuous => congrArg Host.Outcome.next (if_pos (by simp [on, continuous])),
      fun idle => congrArg Host.Outcome.next (if_pos (by simp [idle])), fun soft => ?soft, fun none fresh => ?empty,
      fun e r some fresh => ?takes, fun hw => ⟨fun mode loop idle => ?starts, fun mode => ?refused, fun continuous => ?recal,
        fun other => ?noRecal, ?flush⟩⟩
    case queues =>
      obtain ⟨e, facts⟩ := fastConversion_queues ⟨on, continuous, selected, each⟩ (by omega) room
        (code.isLt.trans (by decide)) slice.val clip
      exact ⟨_, e, rfl, facts⟩
    case drops => exact ⟨_, rfl, fastConversion_drops ⟨on, continuous, selected, each⟩ full slice.val code.toNat clip⟩
    case steps =>
      have entered : (modRange s range.val rangeStep).tel.ranges.toList.getD range.val Range.reset =
          r.enter (if up then r.cur + 1 else r.cur - 1) := by
        rw [modRange_range, ← hr, rangeStep_steps due auto]
      exact ⟨_, congrArg Host.Outcome.next (if_pos (by simp [on, continuous])), rfl, congrArg Range.cur entered,
        congrArg Range.held entered⟩
    case soft =>
      obtain ⟨x, ends, idle, acting⟩ := softConversion_ends on soft codes
      exact ⟨_, congrArg Host.Outcome.next ends, rfl, idle, acting⟩
    case empty =>
      refine congrArg Host.Outcome.next ((readOut_head on via).trans ?_)
      rw [telHeadRead_empty fresh none]
    case takes =>
      have taken := readOut_head on via
      rw [telHeadRead_takes fresh some] at taken
      exact ⟨_, congrArg Host.Outcome.next taken, rfl, rfl, congrArg Latch.telHi
        (latchOf_setLatch (l := { latchOf s via with telHi := .some e.word1 }) (sameLatch_latchOf s via))⟩
    case starts =>
      have starts := fastCtlWrite_starts (s := s) (v := v) (BitVec.eq_of_toNat_eq mode) loop idle
      refine ⟨_, (exec_start hw on v).trans (congrArg Host.Outcome.next starts), rfl, rfl, rfl, rfl⟩
    case refused =>
      exact (exec_start hw on v).trans (congrArg Host.Outcome.next (fastCtlWrite_refused (BitVec.eq_of_toNat_eq mode)))
    case recal =>
      exact (exec_recal hw on v).trans (congrArg Host.Outcome.next (if_neg (by simp [continuous])))
    case noRecal =>
      exact (exec_recal hw on v).trans (congrArg Host.Outcome.next (if_pos (bne_iff_ne.mpr other)))
    case flush => exact ⟨_, exec_flush hw on v, rfl, latchOf_dropped _ via, rfl⟩
  case inRange =>
    obtain ⟨x, edge, facts⟩ := mainsEdge_inRange (s := s) least most
    exact ⟨_, (exec_mainsRefEdge on p).trans (congrArg Host.Outcome.next edge), rfl, facts⟩
  case outOfRange =>
    obtain ⟨tel, mem⟩ := mainsLost_locked (s := modTel s fun t => { t with period := BitVec.ofNat 24 p }) locked
    refine ⟨_, (exec_mainsRefEdge on p).trans (congrArg Host.Outcome.next (mainsEdge_outOfRange out)), ?_, ?_, ?_, mem⟩ <;>
      rw [tel]
  case timeout =>
    obtain ⟨tel, mem⟩ := mainsLost_locked locked
    refine ⟨_, congrArg Host.Outcome.next (if_pos (by simp [on, locked])), ?_, ?_, mem⟩ <;> rw [tel]
  case window =>
    obtain ⟨windows, queue, mem, cores, ceil⟩ := slowWindowEnd_noTable w on en off room
    refine ⟨_, rfl, windows, queue, mem, cores, fun none => ?_, fun least => ?_, fun cap num den hcap set total => ?_⟩
    · rw [ceil, ceilAfter, none]
      rfl
    · rw [ceil]
      exact ceilAfter_pos least _ _
    · have power : windowPower s w = (num, den) := total.symm
      subst hcap
      rw [ceil, power]
      exact ⟨ceilAfter_over set, ceilAfter_below set, ceilAfter_stays set⟩

end Sys2Proof.Machine
end

section
/-! PROOFS. No register write but a reset of the chip, and no register read, changes the KBT sessions (R493). -/

namespace Sys2Proof.Machine

@[simp] theorem foldl_sessions {α : Type} (f : State → α → State) (l : List α) (s : State)
    (h : ∀ s x, (f s x).hst.sessions = s.hst.sessions) : (l.foldl f s).hst.sessions = s.hst.sessions :=
  foldl_keeps (fun s : State => s.hst.sessions) f h l s

/-! ### Paths, commands and the service root's decisions (R442 to R475) -/

@[simp] theorem bindPath_sessions (s : State) (v : Via) (a : Agent) : (bindPath s v a).hst.sessions = s.hst.sessions := by
  unfold bindPath
  (repeat' split) <;> simp

@[simp] theorem setOwnErrOf_sessions (s : State) (p : PathKind) (e : BitVec 4) :
    (setOwnErrOf s p e).hst.sessions = s.hst.sessions := by
  unfold setOwnErrOf
  (repeat' split) <;> simp

@[simp] theorem setOwnErr_sessions (s : State) (v : Via) (e : BitVec 4) :
    (setOwnErr s v e).hst.sessions = s.hst.sessions := by simp [setOwnErr]

@[simp] theorem modRoot_sessions (s : State) (f : RootView → RootView) : (modRoot s f).hst.sessions = s.hst.sessions := rfl

@[simp] theorem sendPrio_sessions (s : State) (dest : Coord) (b : Body) :
    (sendPrio s dest b).hst.sessions = s.hst.sessions := by simp [sendPrio]

@[simp] theorem issueOrder_sessions (s : State) (f : OrderFrame) :
    (issueOrder s f).hst.sessions = s.hst.sessions := by simp [issueOrder]

@[simp] theorem accept_sessions (s : State) (f : ReqFrame) (kind : Nat) (agent : Agent) (arg : W64) :
    (accept s f kind agent arg).hst.sessions = s.hst.sessions := by simp [accept]

@[simp] theorem refuseCommand_sessions (s : State) (p : PathKind) (kind : Nat) (e : BitVec 4) :
    (refuseCommand s p kind e).hst.sessions = s.hst.sessions := by simp [refuseCommand]

@[simp] theorem settle_sessions (s : State) (f : OrderFrame) : (settle s f).hst.sessions = s.hst.sessions := rfl

@[simp] theorem refusalIn_sessions (s : State) (f : OrderFrame) : (refusalIn s f).hst.sessions = s.hst.sessions := by
  unfold refusalIn
  (repeat' split) <;> simp

@[simp] theorem refuseReq_sessions (s : State) (f : ReqFrame) (code : Nat) :
    (refuseReq s f code).hst.sessions = s.hst.sessions := by simp [refuseReq]

@[simp] theorem decideRenew_sessions (s : State) (f : ReqFrame) : (decideRenew s f).hst.sessions = s.hst.sessions := by
  unfold decideRenew
  dsimp only
  split
  · exact refuseReq_sessions s f 4
  · exact (accept_sessions _ f 2 f.agent 0).trans (modRoot_sessions s _)

@[simp] theorem decideClaim_sessions (s : State) (f : ReqFrame) : (decideClaim s f).hst.sessions = s.hst.sessions := by
  unfold decideClaim
  dsimp only
  split <;> simp

@[simp] theorem passOwner_sessions (s : State) (st : BitVec 4) (a : Agent) (e : W64) :
    (passOwner s st a e).hst.sessions = s.hst.sessions := rfl

@[simp] theorem decideReq_sessions (s : State) (f : ReqFrame) : (decide' s f).hst.sessions = s.hst.sessions := by
  unfold decide'
  dsimp only
  (repeat' split) <;> simp

@[simp] theorem reqIn_sessions (s : State) (f : ReqFrame) : (reqIn s f).hst.sessions = s.hst.sessions := by
  unfold reqIn
  (repeat' split) <;> simp

@[simp] theorem submit_sessions (s : State) (p : PathKind) (kind pref : Nat) (a : Agent) (arg : W64) :
    (submit s p kind pref a arg).hst.sessions = s.hst.sessions := by simp [submit]

@[simp] theorem ownClaimWrite_sessions (s : State) (v : Via) (w : W32) :
    (ownClaimWrite s v w).hst.sessions = s.hst.sessions := by
  unfold ownClaimWrite
  (repeat' split) <;> simp

/-! ### Cores and ports -/

@[simp] theorem cupZero_sessions (s : State) (a n : Nat) : (cupZero s a n).hst.sessions = s.hst.sessions := rfl

@[simp] theorem setCounter_sessions (s : State) (core ctr : Nat) (v : W32) :
    (setCounter s core ctr v).hst.sessions = s.hst.sessions := rfl

@[simp] theorem counterWrite_sessions (s : State) (core ctr : Nat) (v : W32) :
    (counterWrite s core ctr v).hst.sessions = s.hst.sessions := by simp [counterWrite]

@[simp] theorem corErr_sessions (s : State) (n : Nat) (e : BitVec 4) : (corErr s n e).hst.sessions = s.hst.sessions := rfl

@[simp] theorem corCtlWrite_sessions (s : State) (n : Nat) (v : W32) : (corCtlWrite s n v).hst.sessions = s.hst.sessions := by
  unfold corCtlWrite
  (repeat' split) <;> simp

@[simp] theorem corPcWrite_sessions (s : State) (n : Nat) (v : W32) :
    (corPcWrite s n v).hst.sessions = s.hst.sessions := by simp [corPcWrite]

@[simp] theorem fdisWrite_sessions (s : State) (n : Nat) (v : W32) : (fdisWrite s n v).hst.sessions = s.hst.sessions := rfl

@[simp] theorem cpbModeWrite_sessions (s : State) (n : Nat) (v : W32) :
    (cpbModeWrite s n v).hst.sessions = s.hst.sessions := by simp [cpbModeWrite]

@[simp] theorem corWrite_sessions (s : State) (n o : Nat) (v : W32) : (corWrite s n o v).hst.sessions = s.hst.sessions := by
  unfold corWrite
  (repeat' split) <;> simp

@[simp] theorem enterIdent_sessions (s : State) (p : Nat) (f : Port → Port) :
    (enterIdent s p f).hst.sessions = s.hst.sessions := rfl

@[simp] theorem afvCtlWrite_sessions (s : State) (p : Nat) (v : W32) :
    (afvCtlWrite s p v).hst.sessions = s.hst.sessions := by simp [afvCtlWrite]

@[simp] theorem afvPwrWrite_sessions (s : State) (p : Nat) (v : W32) : (afvPwrWrite s p v).hst.sessions = s.hst.sessions := rfl

@[simp] theorem afvLoopWrite_sessions (s : State) (p : Nat) (v : W32) :
    (afvLoopWrite s p v).hst.sessions = s.hst.sessions := by simp [afvLoopWrite]

@[simp] theorem afvWrite_sessions (s : State) (p o : Nat) (v : W32) : (afvWrite s p o v).hst.sessions = s.hst.sessions := by
  unfold afvWrite
  (repeat' split) <;> simp

/-! ### GLB, the beat unit and the stage -/

@[simp] theorem lockedErr_sessions (s : State) : (lockedErr s).hst.sessions = s.hst.sessions := by simp [lockedErr]

@[simp] theorem modStaged_sessions (s : State) (f : Staged → Staged) : (modStaged s f).hst.sessions = s.hst.sessions := rfl

@[simp] theorem joinChanged_sessions (s : State) : (joinChanged s).hst.sessions = s.hst.sessions := by simp [joinChanged]

@[simp] theorem glbStateWrite_sessions (s : State) (w : W32) :
    (glbStateWrite s w).hst.sessions = s.hst.sessions := by simp [glbStateWrite]

@[simp] theorem decideFence_sessions (s : State) (tray cause : Nat) :
    (decideFence s tray cause).hst.sessions = s.hst.sessions := by
  unfold decideFence
  (repeat' split) <;> simp

@[simp] theorem fenceReqIn_sessions (s : State) (f : FenceReqFrame) :
    (fenceReqIn s f).hst.sessions = s.hst.sessions := by simp [fenceReqIn]

@[simp] theorem beatErr_sessions (s : State) (e : BitVec 4) : (beatErr s e).hst.sessions = s.hst.sessions := rfl

@[simp] theorem startBeat_sessions (s : State) : (startBeat s).hst.sessions = s.hst.sessions := rfl

@[simp] theorem stopBeat_sessions (s : State) : (stopBeat s).hst.sessions = s.hst.sessions := rfl

@[simp] theorem beatCtlWrite_sessions (s : State) (v : W32) :
    (beatCtlWrite s v).hst.sessions = s.hst.sessions := by simp [beatCtlWrite]

@[simp] theorem beatPeriodWrite_sessions (s : State) (w : W32) :
    (beatPeriodWrite s w).hst.sessions = s.hst.sessions := by simp [beatPeriodWrite]

@[simp] theorem beatGuardWrite_sessions (s : State) (v : W32) : (beatGuardWrite s v).hst.sessions = s.hst.sessions := rfl

@[simp] theorem modStage_sessions (s : State) (f : Stage → Stage) : (modStage s f).hst.sessions = s.hst.sessions := rfl

@[simp] theorem stageErr_sessions (s : State) (e : BitVec 4) : (stageErr s e).hst.sessions = s.hst.sessions := rfl

@[simp] theorem stageCommand_sessions (s : State) (v : Via) (cmd : Nat) :
    (stageCommand s v cmd).hst.sessions = s.hst.sessions := by simp [stageCommand]

@[simp] theorem stageCtlWrite_sessions (s : State) (v : Via) (w : W32) :
    (stageCtlWrite s v w).hst.sessions = s.hst.sessions := by simp [stageCtlWrite]

@[simp] theorem stageStatWrite_sessions (s : State) (w : W32) : (stageStatWrite s w).hst.sessions = s.hst.sessions := rfl

@[simp] theorem stageCommitWrite_sessions (s : State) (hi : Bool) (w : W32) :
    (stageCommitWrite s hi w).hst.sessions = s.hst.sessions := by simp [stageCommitWrite]

/-! ### The table of the installation, the Hutch and the WRG -/

@[simp] theorem instErr_sessions (s : State) (e : BitVec 4) : (instErr s e).hst.sessions = s.hst.sessions := rfl

@[simp] theorem leaveReady_sessions (s : State) : (leaveReady s).hst.sessions = s.hst.sessions := by simp [leaveReady]

@[simp] theorem instLoad_sessions (s : State) : (instLoad s).hst.sessions = s.hst.sessions := by simp [instLoad]

@[simp] theorem instAnchor_sessions (s : State) : (instAnchor s).hst.sessions = s.hst.sessions := by
  unfold instAnchor
  (repeat' split) <;> simp

@[simp] theorem startCheck_sessions (s : State) : (startCheck s).hst.sessions = s.hst.sessions := rfl

@[simp] theorem instVerify_sessions (s : State) : (instVerify s).hst.sessions = s.hst.sessions := by simp [instVerify]

@[simp] theorem instWrite_sessions (s : State) (v : W32) : (instWrite s v).hst.sessions = s.hst.sessions := by simp [instWrite]

@[simp] theorem hutCtlWrite_sessions (s : State) (v : W32) : (hutCtlWrite s v).hst.sessions = s.hst.sessions := rfl

@[simp] theorem grpBaseWrite_sessions (s : State) (v : W32) :
    (grpBaseWrite s v).hst.sessions = s.hst.sessions := by simp [grpBaseWrite]

@[simp] theorem resErrWrite_sessions (s : State) (v : W32) : (resErrWrite s v).hst.sessions = s.hst.sessions := rfl

@[simp] theorem exactWrite_sessions (s : State) (v : W32) :
    (exactWrite s v).hst.sessions = s.hst.sessions := by simp [exactWrite]

@[simp] theorem wrgErr_sessions (s : State) (e : BitVec 4) : (wrgErr s e).hst.sessions = s.hst.sessions := rfl

@[simp] theorem zeroRegions_sessions (s : State) : (zeroRegions s).hst.sessions = s.hst.sessions := rfl

@[simp] theorem advanceIntake_sessions (s : State) (t : Nat) :
    (advanceIntake s t).hst.sessions = s.hst.sessions := by simp [advanceIntake]

@[simp] theorem releaseHeld_sessions (s : State) : (releaseHeld s).hst.sessions = s.hst.sessions := by
  unfold releaseHeld
  (repeat' split) <;> simp

@[simp] theorem noteHalt_sessions (s : State) (cause : BitVec 4) (b : W64) :
    (noteHalt s cause b).hst.sessions = s.hst.sessions := rfl

@[simp] theorem meetHalt_sessions (s : State) (cause : BitVec 4) (b : W64) :
    (meetHalt s cause b).hst.sessions = s.hst.sessions := by simp [meetHalt]

@[simp] theorem homeRead_sessions (s : State) (g a n : Nat) :
    (homeRead s g a n).hst.sessions = s.hst.sessions := by simp [homeRead]

@[simp] theorem noteDir_sessions (s : State) (d : RingDir) : (noteDir s d).hst.sessions = s.hst.sessions := by
  unfold noteDir
  simp

@[simp] theorem refuse_sessions (s : State) (cause : BitVec 4) (send : Bool) :
    (refuse s cause send).hst.sessions = s.hst.sessions := by simp [refuse]

@[simp] theorem judgeRecords_sessions (s : State) : (judgeRecords s).hst.sessions = s.hst.sessions := by
  unfold judgeRecords
  (repeat' split) <;> simp

@[simp] theorem startForm_sessions (s : State) : (startForm s).hst.sessions = s.hst.sessions := by simp [startForm]

@[simp] theorem wrgCtlWrite_sessions (s : State) (v : W32) :
    (wrgCtlWrite s v).hst.sessions = s.hst.sessions := by simp [wrgCtlWrite]

@[simp] theorem wrgVersionWrite_sessions (s : State) (w : W32) :
    (wrgVersionWrite s w).hst.sessions = s.hst.sessions := by simp [wrgVersionWrite]

@[simp] theorem wrgStatWrite_sessions (s : State) (v : W32) : (wrgStatWrite s v).hst.sessions = s.hst.sessions := rfl

/-! ### Other blocks -/

@[simp] theorem upkCtlWrite_sessions (s : State) (v : W32) :
    (upkCtlWrite s v).hst.sessions = s.hst.sessions := by simp [upkCtlWrite]

@[simp] theorem upkStatWrite_sessions (s : State) (v : W32) : (upkStatWrite s v).hst.sessions = s.hst.sessions := rfl

@[simp] theorem armCtlWrite_sessions (s : State) (v : W32) : (armCtlWrite s v).hst.sessions = s.hst.sessions := rfl

@[simp] theorem armErrWrite_sessions (s : State) (v : W32) : (armErrWrite s v).hst.sessions = s.hst.sessions := rfl

@[simp] theorem domainDown_sessions (s : State) (d : Nat) :
    (domainDown s d).hst.sessions = s.hst.sessions := by simp [domainDown]

@[simp] theorem sequence_sessions (s : State) : (sequence s).hst.sessions = s.hst.sessions := by
  unfold sequence
  (repeat' split) <;> simp

@[simp] theorem domCtlWrite_sessions (s : State) (hi : Bool) (v : W32) :
    (domCtlWrite s hi v).hst.sessions = s.hst.sessions := by
  unfold domCtlWrite
  dsimp only
  generalize reqRefusal s _ = refusal
  cases refusal <;> simp

@[simp] theorem domStatWrite_sessions (s : State) (v : W32) : (domStatWrite s v).hst.sessions = s.hst.sessions := rfl

@[simp] theorem rampWrite_sessions (s : State) (v : W32) : (rampWrite s v).hst.sessions = s.hst.sessions := by simp [rampWrite]

@[simp] theorem capWrite_sessions (s : State) (v : W32) : (capWrite s v).hst.sessions = s.hst.sessions := by simp [capWrite]

@[simp] theorem telErr_sessions (s : State) (e : BitVec 4) : (telErr s e).hst.sessions = s.hst.sessions := rfl

@[simp] theorem fastCtlWrite_sessions (s : State) (v : W32) :
    (fastCtlWrite s v).hst.sessions = s.hst.sessions := by simp [fastCtlWrite]

@[simp] theorem slowCtlWrite_sessions (s : State) (v : W32) :
    (slowCtlWrite s v).hst.sessions = s.hst.sessions := by simp [slowCtlWrite]

@[simp] theorem qStatWrite_sessions (s : State) (v : W32) :
    (qStatWrite s v).hst.sessions = s.hst.sessions := by simp [qStatWrite]

@[simp] theorem rangeWrite_sessions (s : State) (v : W32) : (rangeWrite s v).hst.sessions = s.hst.sessions := by
  unfold rangeWrite
  split
  · rfl
  · exact foldl_sessions _ _ _ fun _ _ => rfl

@[simp] theorem calStatWrite_sessions (s : State) (v : W32) :
    (calStatWrite s v).hst.sessions = s.hst.sessions := by simp [calStatWrite]

@[simp] theorem mainsWrite_sessions (s : State) (v : W32) : (mainsWrite s v).hst.sessions = s.hst.sessions := rfl

@[simp] theorem ethCtlWrite_sessions (s : State) (v : W32) :
    (ethCtlWrite s v).hst.sessions = s.hst.sessions := by simp [ethCtlWrite]

@[simp] theorem modIntake_sessions (s : State) (t : Nat) (f : Intake → Intake) :
    (modIntake s t f).hst.sessions = s.hst.sessions := rfl

@[simp] theorem intakeErr_sessions (s : State) (e : BitVec 4) : (intakeErr s e).hst.sessions = s.hst.sessions := rfl

@[simp] theorem intakeStart_sessions (s : State) (t : Nat) (i : Intake) :
    (intakeStart s t i).hst.sessions = s.hst.sessions := by simp [intakeStart]

@[simp] theorem intakeCtlWrite_sessions (s : State) (t : Nat) (v : W32) :
    (intakeCtlWrite s t v).hst.sessions = s.hst.sessions := by simp [intakeCtlWrite]

@[simp] theorem queueWrite_sessions (s : State) (fn o : Nat) (v : W32) :
    (queueWrite s fn o v).hst.sessions = s.hst.sessions := by
  unfold queueWrite
  (repeat' split) <;> simp

@[simp] theorem highWrite_sessions (s : State) (off : Nat) (w : W32) : (highWrite s off w).hst.sessions = s.hst.sessions := by
  unfold highWrite
  (repeat' split) <;> simp

/-! ### Register writes and reads -/

/-- A register write on a path leaves the KBT sessions as they are, unless it resets the chip, which ends them all. -/
def SessionsHeld (s t : State) : Prop := t.hst.sessions = s.hst.sessions ∨ t.hst.sessions = []

theorem toRoles_sessions (s : State) (b : Body) {f : State → State} (h : ∀ s, (f s).hst.sessions = s.hst.sessions) :
    (toRoles s b f).hst.sessions = s.hst.sessions := by
  simp [toRoles, h]

theorem glbResetWrite_sessionsHeld (s : State) (v : W32) : SessionsHeld s (glbResetWrite s v) := by
  unfold glbResetWrite
  dsimp only
  split
  · exact .inl rfl
  split
  · exact .inl rfl
  split
  · exact .inr rfl
  split
  · split
    · exact .inl rfl
    · exact .inl (toRoles_sessions s _ fun s => fenceReqIn_sessions s _)
  split
  · repeat' split
    all_goals exact .inl rfl
  · exact .inl rfl

theorem lowWrite_sessionsHeld (s : State) (v : Via) (off : Nat) (w : W32) : SessionsHeld s (lowWrite s v off w) := by
  unfold lowWrite
  split
  case h_2 => exact glbResetWrite_sessionsHeld s w
  all_goals exact .inl (by simp)

theorem blockWrite_sessionsHeld (s : State) (v : Via) (off : Nat) (w : W32) : SessionsHeld s (blockWrite s v off w) := by
  unfold blockWrite
  repeat' split
  · exact .inl (corWrite_sessions s _ _ w)
  · exact .inl (afvWrite_sessions s _ _ w)
  · exact lowWrite_sessionsHeld s v off w
  · exact .inl (highWrite_sessions s off w)

theorem registerWrite_sessionsHeld (s : State) (v : Via) (off : Nat) (w : W32) : SessionsHeld s (registerWrite s v off w) := by
  unfold registerWrite guarded
  repeat' split
  · exact .inl rfl
  · exact .inl (ownClaimWrite_sessions s v w)
  · exact blockWrite_sessionsHeld s v off w
  · exact .inl rfl
  · exact .inl (setOwnErr_sessions s v 1)

theorem ReadOnly.sessions {s t : State} : ReadOnly s t → t.hst.sessions = s.hst.sessions := by
  rintro ⟨_, _, rfl⟩
  rfl

theorem readReg_sessions (s : State) (v : Via) (off : Nat) : (readReg s v off).1.hst.sessions = s.hst.sessions := by
  unfold readReg
  split
  · rfl
  · split
    · exact (telHeadRead_readOnly s v).sessions
    · refine (readEffect_readOnly _ v off).sessions.trans ?_
      split <;> simp

end Sys2Proof.Machine
end

section
/-! PROOFS. KBT: sessions, messages in order, and the timers (R491 to R494). -/

namespace Sys2Proof.Machine

/-! ### Sessions -/

theorem sessionOf_id {s : State} {id : W32} {x : Session} (h : sessionOf s id = some x) : x.id = id := by
  have found : (x.id == id) = true := List.find?_some (p := fun y : Session => y.id == id) h
  exact eq_of_beq found

theorem sessionOf_congr {s t : State} (h : t.hst.sessions = s.hst.sessions) (id : W32) : sessionOf t id = sessionOf s id := by
  rw [sessionOf, h, sessionOf]

/-- A session touched by a message. -/
def touched (s : State) (x : Session) (h : KbtHdr) : Session :=
  { x with usedAt := s.clock, peerAddr := h.srcAddr, peerPort := h.srcPort }

theorem touched_id (s : State) (x : Session) (h : KbtHdr) : (touched s x h).id = x.id := rfl

theorem sessionOf_kbtTouch (s : State) (x : Session) (h : KbtHdr) : sessionOf (kbtTouch s x h) x.id = some (touched s x h) :=
  List.find?_cons_of_pos (beq_self_eq_true x.id)

theorem sessionOf_modSession {s : State} {id : W32} {f : Session → Session} (keeps : ∀ x, (f x).id = x.id) :
    sessionOf (modSession s id f) id = (sessionOf s id).map f := by
  have same (x : Session) : ((if x.id == id then f x else x).id == id) = (x.id == id) := by
    split
    · rw [keeps]
    · rfl
  have found : (sessionOf s id).map (fun x => if x.id == id then f x else x) = (sessionOf s id).map f := by
    cases h : sessionOf s id with
    | none => rfl
    | some x => exact congrArg some (if_pos (beq_iff_eq.mpr (sessionOf_id h)))
  rw [← found]
  change List.find? _ (List.map _ _) = _
  rw [List.find?_map]
  simp only [Function.comp_def, same]
  rfl

/-- The session of an id, where there is one, holds no message and is due no acknowledgement. -/
def Quiet (s : State) (id : W32) : Prop := ∀ x, sessionOf s id = some x → x.held = [] ∧ x.sinceAck < 16

section
variable {s t : State} {id : W32} (quiet : Quiet s id)
include quiet

theorem Quiet.held (h : SessionsHeld s t) : Quiet t id := by
  rcases h with same | none
  · intro x hx
    exact quiet x ((sessionOf_congr same id).symm.trans hx)
  · intro x hx
    rw [sessionOf, none] at hx
    cases hx

theorem Quiet.modSession {f : Session → Session}
    (keeps : ∀ x, (f x).id = x.id ∧ (f x).held = x.held ∧ (f x).sinceAck = x.sinceAck) :
    Quiet (modSession s id f) id := by
  intro x hx
  rw [sessionOf_modSession fun x => (keeps x).1, Option.map_eq_some_iff] at hx
  obtain ⟨y, hy, rfl⟩ := hx
  obtain ⟨-, held, count⟩ := keeps y
  rw [held, count]
  exact quiet y hy

/-- Nothing is held that a gap no longer stops. -/
theorem Quiet.drain (n : Nat) : kbtDrain id n s = s := by
  cases n with
  | zero => rfl
  | succ n =>
    unfold kbtDrain
    cases h : sessionOf s id with
    | none => rfl
    | some x =>
      obtain ⟨held, -⟩ := quiet x h
      simp [held]

end

theorem kbtTell_sessions (s : State) (id : W32) (typ : Nat) (ctx : Byte) (addr arg : W32) (payload : List Byte) :
    (kbtTell s id typ ctx addr arg payload).hst.sessions = s.hst.sessions := by
  unfold kbtTell
  split <;> rfl

/-- A session that has sent a numbered message. -/
def sent (m : KbtMsg) (x : Session) : Session := { x with nextTx := x.nextTx + 1, unacked := x.unacked ++ [m] }

theorem Quiet.kbtSend {s : State} {id : W32} (quiet : Quiet s id) (typ : Nat) (ctx : Byte) (addr arg : W32) (payload : List Byte) :
    Quiet (kbtSend s id typ ctx addr arg payload) id := by
  unfold Machine.kbtSend
  split
  · exact quiet
  · next x _ =>
    exact (quiet.modSession (f := sent (kbtMsg x typ ctx x.nextTx addr arg payload)) fun _ => ⟨rfl, rfl, rfl⟩).held (.inl rfl)

/-! ### A message of a known session (R493) -/

/-- A session that counts a message in order: the next SEQ is one more, and so are the messages since the last ACK. -/
def counted (y : Session) : Session := { y with nextRx := y.nextRx + 1, sinceAck := y.sinceAck + 1 }

/-- The state in which a message in order has been counted. -/
def messageCounted (s : State) (x : Session) (h : KbtHdr) : State := modSession (kbtTouch s x h) h.session counted

theorem kbtNext_quiet {s t : State} {m : KbtMsg} (acts : kbtAct (modSession s m.hdr.session counted) m = t)
    (quiet : Quiet t m.hdr.session) : kbtNext s m = t := by
  unfold counted at acts
  unfold kbtNext
  dsimp only
  rw [acts]
  split
  · next y hy =>
    obtain ⟨-, few⟩ := quiet y hy
    exact if_neg (Nat.not_le.mpr few)
  · rfl

section
variable {s : State} {m : KbtMsg} {x : Session} (on : kbtOn s = true) (known : sessionOf s m.hdr.session = some x)
include known

theorem sessionOf_touched : sessionOf (kbtTouch s x m.hdr) m.hdr.session = some (touched s x m.hdr) := by
  rw [← sessionOf_id known]
  exact sessionOf_kbtTouch s x m.hdr

theorem messageCounted_quiet (empty : x.held = []) (few : x.sinceAck < 15) : Quiet (messageCounted s x m.hdr) m.hdr.session := by
  intro y hy
  rw [messageCounted, sessionOf_modSession (f := counted) fun _ => rfl, sessionOf_touched known] at hy
  obtain rfl := Option.some.inj hy
  exact ⟨empty, Nat.succ_lt_succ few⟩

include on

theorem kbtIn_known : kbtIn s m = kbtAccept (kbtTouch s x m.hdr) m := by
  have opened : kbtOpen s m.hdr = some (kbtTouch s x m.hdr) := by simp only [kbtOpen, known]
  rw [kbtIn, opened]
  exact if_neg (by simp [on])

/-- A message in order acts on the counted session, and where that stays quiet nothing else happens. -/
theorem kbtIn_inOrder (order : m.hdr.seq = x.nextRx) (quiet : Quiet (kbtAct (messageCounted s x m.hdr) m) m.hdr.session) :
    kbtIn s m = kbtAct (messageCounted s x m.hdr) m := by
  have inOrder : (m.hdr.seq - (touched s x m.hdr).nextRx).toNat = 0 := by
    rw [order]
    exact congrArg BitVec.toNat (BitVec.sub_self x.nextRx)
  rw [kbtIn_known on known, kbtAccept, sessionOf_touched known]
  refine (if_pos inOrder).trans ?_
  rw [kbtNext_quiet rfl quiet, touched_id, sessionOf_id known]
  exact quiet.drain 64

/-- A duplicate is acknowledged again. -/
theorem kbtIn_duplicate (duplicate : 2 ^ 31 ≤ (m.hdr.seq - x.nextRx).toNat) :
    kbtIn s m = kbtSendAck (kbtTouch s x m.hdr) m.hdr.session := by
  have behind : 2 ^ 31 ≤ (m.hdr.seq - (touched s x m.hdr).nextRx).toNat := duplicate
  rw [kbtIn_known on known, kbtAccept, sessionOf_touched known]
  refine (if_neg (Nat.ne_of_gt (lt_of_lt_of_le (Nat.two_pow_pos 31) behind))).trans ((if_pos behind).trans ?_)
  rw [touched_id, sessionOf_id known]

theorem kbtAckIn_known : kbtAckIn s m = kbtRelease (kbtTouch s x m.hdr) m.hdr.session (m.hdr.arg + 1) := by
  rw [kbtAckIn, known, ← sessionOf_id known]
  exact if_neg (by simp [on])

theorem kbtNakIn_known :
    kbtNakIn s m = kbtRetransmit (kbtRelease (kbtTouch s x m.hdr) m.hdr.session m.hdr.arg) m.hdr.session := by
  rw [kbtNakIn, known, ← sessionOf_id known]
  exact if_neg (by simp [on])

end

end Sys2Proof.Machine
end

section
/-! PROOFS. What KBT messages do, and the timers of a session (R491 to R494). -/

namespace Sys2Proof.Machine

/-! ### What messages do -/

section
variable {w : State} {m : KbtMsg}

theorem kbtCsrReadAct_aligned (aligned : csrAddr m.hdr.addr = true) : kbtCsrReadAct w m =
    kbtTell (readReg w (kbtVia m) m.hdr.addr.toNat).1 m.hdr.session kbtCsrData m.hdr.ctx m.hdr.addr
      (readReg w (kbtVia m) m.hdr.addr.toNat).2 [] := if_neg (by simp [aligned])

theorem kbtCsrWriteAct_aligned (aligned : csrAddr m.hdr.addr = true)
    (rights : writeRefused w (kbtVia m) m.hdr.addr.toNat = false) :
    kbtCsrWriteAct w m = registerWrite w (kbtVia m) m.hdr.addr.toNat m.hdr.arg := by
  unfold kbtCsrWriteAct
  dsimp only
  rw [if_neg (by simp [aligned]), if_neg (by simp [rights])]

theorem kbtWriteAct_granted (address : m.hdr.addr.toNat % 8 = 0) (whole : m.payload.length % 8 = 0)
    (length : m.hdr.len.toNat = m.payload.length) (rights : mayWrite w (kbtVia m) = true) (plain : m.hdr.ctx = 0xFF)
    (inside : hostWriteOk w none m.hdr.addr.toNat m.payload.length = true) :
    kbtWriteAct w m = hostWrite w m.hdr.addr.toNat m.payload := by
  have management : kbtCtx m = none := if_pos plain
  unfold kbtWriteAct
  dsimp only
  rw [if_neg (by simp [address, whole, length]), if_neg (by simp [rights]), if_neg (by simp [management, inside])]

/-- The request that a REQUEST message of a context hands in. -/
def kbtRequestOf (m : KbtMsg) (small : m.hdr.ctx.toNat < 16) : IntakeReq :=
  ⟨⟨m.hdr.ctx.toNat, small⟩, false, BitVec.ofNat 64 (ofLe (m.payload.take 8)), m.payload.drop 8,
    beBytes 16 m.hdr.srcAddr.toNat ++ leBytes 2 m.hdr.srcPort.toNat ++ leBytes 4 m.hdr.session.toNat ++ [0, 0]⟩

theorem kbtRequestAct_submits (named : 8 ≤ m.payload.length) (length : m.hdr.len.toNat = m.payload.length)
    (small : m.hdr.ctx.toNat < 16) : kbtRequestAct w m = submitRequest w (kbtRequestOf m small) := by
  unfold kbtRequestAct
  dsimp only
  rw [if_neg (by simp [named, length]), dif_pos small]
  rfl

theorem length_hostRead (s : State) (a n : Nat) : (hostRead s a n).2.length = n := by simp [hostRead]

/-- A READ of 64 bytes is answered in one DATA message. -/
theorem kbtReadAct_one (address : m.hdr.addr.toNat % 8 = 0) (length : m.hdr.len.toNat = 64) (plain : m.hdr.ctx = 0xFF)
    (inside : hostReadOk w none m.hdr.addr.toNat 64 = true) : kbtReadAct w m =
      kbtSend (hostRead w m.hdr.addr.toNat 64).1 m.hdr.session kbtData m.hdr.ctx m.hdr.addr 0
        (hostRead w m.hdr.addr.toNat 64).2 := by
  have management : kbtCtx m = none := if_pos plain
  have one : List.range ((64 + 8191) / 8192) = [0] := rfl
  have whole : ((hostRead w m.hdr.addr.toNat 64).2.drop (8192 * 0)).take 8192 = (hostRead w m.hdr.addr.toNat 64).2 :=
    List.take_of_length_le (by rw [Nat.mul_zero, List.drop_zero, length_hostRead]; decide)
  have same : BitVec.ofNat 32 (m.hdr.addr.toNat + 8192 * 0) = m.hdr.addr := by simp
  unfold kbtReadAct
  dsimp only
  rw [length, management, if_neg (by simp [address, inside]), one, List.foldl_cons, List.foldl_nil, whole, same]

end

theorem hostRead_sessions (s : State) (a n : Nat) : (hostRead s a n).1.hst.sessions = s.hst.sessions := by simp

theorem hostWrite_sessions (s : State) (a : Nat) (bs : List Byte) : (hostWrite s a bs).hst.sessions = s.hst.sessions := by simp

/-- A message in order, its session and the state in which it has been counted. -/
structure InOrder (s : State) (m : KbtMsg) (x : Session) : Prop where
  on : kbtOn s = true
  known : sessionOf s m.hdr.session = some x
  order : m.hdr.seq = x.nextRx
  empty : x.held = []
  few : x.sinceAck < 15

theorem InOrder.quiet {s : State} {m : KbtMsg} {x : Session} (h : InOrder s m x) :
    Quiet (messageCounted s x m.hdr) m.hdr.session := messageCounted_quiet h.known h.empty h.few

/-- A message in order of a type does what its type says, where that leaves the session quiet. -/
theorem InOrder.acts {s t : State} {m : KbtMsg} {x : Session} (h : InOrder s m x) {typ : Nat}
    (act : kbtAct (messageCounted s x m.hdr) { m with typ := typ } = t) (quiet : Quiet t m.hdr.session) :
    (.next (kbtIn s { m with typ := typ }) : Host.Outcome State Fault Refusal) = .next t := by
  subst act
  exact congrArg Host.Outcome.next (kbtIn_inOrder (m := { m with typ := typ }) h.on h.known h.order quiet)

/-! ### Timers (R493) -/

/-- A session that has tried once more. -/
def triedAgain (x : Session) : Session := { x with tries := x.tries + 1 }

/-- Messages sent again. -/
theorem resent (ms : List KbtMsg) (s : State) : ∃ o, ms.foldl (fun s m => s.emit (.kbt m)) s = { s with outs := o } ∧
    (∀ m ∈ ms, Out.kbt m ∈ o) ∧ ∀ x ∈ s.outs, x ∈ o := by
  induction ms generalizing s with
  | nil => exact ⟨_, rfl, by simp, fun _ h => h⟩
  | cons m ms ih =>
    obtain ⟨o, e, sent, old⟩ := ih (s.emit (.kbt m))
    refine ⟨o, e, fun k hk => ?_, fun x hx => old x (List.mem_cons_of_mem _ hx)⟩
    rcases List.mem_cons.mp hk with rfl | later
    · exact old _ List.mem_cons_self
    · exact sent k later

section
variable {s : State} {id : W32} {x : Session} (known : sessionOf s id = some x)
include known

theorem kbtRetransmit_rests (acked : x.unacked = []) : kbtRetransmit s id = s := by
  rw [kbtRetransmit, known]
  exact if_pos (by simp [acked])

theorem kbtRetransmit_runs (owed : x.unacked ≠ []) (link : s.hst.link = true) : kbtRetransmit s id =
    if 8 ≤ x.tries then kbtAbandon s id
    else x.unacked.foldl (fun s m => s.emit (.kbt m)) (modSession s id triedAgain) := by
  rw [kbtRetransmit, known]
  exact if_neg (by simp [owed, link])

theorem kbtRetransmit_sends (owed : x.unacked ≠ []) (link : s.hst.link = true) (few : x.tries < 8) :
    (∀ m ∈ x.unacked, Out.kbt m ∈ (kbtRetransmit s id).outs) ∧ (kbtRetransmit s id).mem = s.mem ∧
      (kbtRetransmit s id).own = s.own ∧ sessionOf (kbtRetransmit s id) id = some (triedAgain x) := by
  obtain ⟨o, again, sent, -⟩ := resent x.unacked (modSession s id triedAgain)
  have found := sessionOf_modSession (s := s) (id := id) (f := triedAgain) fun _ => rfl
  rw [known] at found
  rw [kbtRetransmit_runs known owed link, if_neg (Nat.not_le.mpr few), again]
  exact ⟨sent, rfl, rfl, found⟩

theorem kbtRetransmit_abandons (owed : x.unacked ≠ []) (link : s.hst.link = true) (many : 8 ≤ x.tries) :
    kbtRetransmit s id = kbtAbandon s id := by
  rw [kbtRetransmit_runs known owed link, if_pos many]

/-- An ACK of what has been received in order is sent. -/
theorem kbtSendAck_sends : ∃ m, (kbtSendAck s id).outs = .kbt m :: s.outs ∧ m.typ = kbtAck ∧ m.hdr.arg = x.nextRx - 1 ∧
    m.hdr.session = x.id ∧ sessionOf (kbtSendAck s id) id = some { x with sinceAck := 0 } ∧ (kbtSendAck s id).mem = s.mem := by
  have tells : kbtTell s id kbtAck 0xFF 0 (x.nextRx - 1) [] = (s.drawn 1).emit
      (.kbt (kbtMsg x kbtAck 0xFF (BitVec.ofNat 32 (Config.freeNat s.draw)) 0 (x.nextRx - 1) [])) := by
    simp only [kbtTell, known]
  have found := sessionOf_modSession (s := kbtTell s id kbtAck 0xFF 0 (x.nextRx - 1) []) (id := id)
    (f := fun x => { x with sinceAck := 0 }) fun _ => rfl
  rw [sessionOf_congr (kbtTell_sessions s id kbtAck 0xFF 0 (x.nextRx - 1) []), known, tells] at found
  simp only [kbtSendAck, known, tells]
  exact ⟨_, rfl, rfl, rfl, rfl, found, rfl⟩

end

/-- The state without a session and what was latched for it. -/
def sessionEnded (s : State) (id : W32) : State :=
  { modHst s fun h => { h with sessions := h.sessions.filter fun x => x.id != id } with
    latches := s.latches.filter fun l => !sameLatch l.via (.kbt id 0) }

theorem kbtAbandon_ends (s : State) (id : W32) : sessionOf (kbtAbandon s id) id = none ∧ (kbtAbandon s id).mem = s.mem := by
  unfold kbtAbandon
  refine ⟨?_, by simp⟩
  obtain ⟨-, sessions, -⟩ := postNone_bystanders (sessionEnded s id) 8 none 0
  refine (sessionOf_congr sessions id).trans ?_
  simp [sessionEnded, sessionOf, List.find?_filter]

/-- Settles O53: each message in order by what its type does on the counted session, which stays quiet by
`registerWrite_sessionsHeld` and its neighbours; the timers by what the session owes. -/
theorem kbtMessagesAndTimers : Obligations.KbtMessagesAndTimers := by
  refine ⟨fun s m x => ⟨fun off => ?off, fun on known u hu => ?known⟩, fun s id x known =>
    ⟨fun owed link few => ?again, fun owed link many => ?abandoned, fun acked => ?acked, fun none => ?none, fun some => ?ack⟩⟩
  case off =>
    have closed (typ : Nat) : kbtIn s { m with typ := typ } = s := if_pos (by simp [off])
    have ack : kbtAckIn s m = s := if_pos (by simp [off])
    have nak : kbtNakIn s m = s := if_pos (by simp [off])
    simp only [List.forall_mem_cons, List.not_mem_nil, false_imp_iff, implies_true, and_true]
    exact ⟨congrArg _ (closed _), congrArg _ (closed _), congrArg _ (closed _), congrArg _ (closed _), congrArg _ (closed _),
      congrArg _ (closed _), congrArg _ ack, congrArg _ nak⟩
  case known =>
    subst hu
    refine ⟨fun order empty few w hw => ?inOrder, fun duplicate => ?duplicate, congrArg _ (kbtAckIn_known on known),
      congrArg _ (kbtNakIn_known on known)⟩
    case duplicate => exact congrArg _ (kbtIn_duplicate (m := { m with typ := kbtCsrWrite }) on known duplicate)
    case inOrder =>
      have message : InOrder s m x := ⟨on, known, order, empty, few⟩
      have quiet := message.quiet
      have counts : w = messageCounted s x m.hdr := hw
      have effect {t : State} {typ : Nat} (act : kbtAct w { m with typ := typ } = t) (quiet : Quiet t m.hdr.session) :=
        message.acts (counts ▸ act) quiet
      rw [← counts] at quiet
      refine ⟨effect rfl (quiet.held (.inl (kbtTell_sessions ..))), fun aligned => ⟨?reads, fun rights => ?writes⟩,
        fun address whole length rights plain inside => ?cupboard, fun named length small => ?request,
        fun address length plain inside => ?data⟩
      case reads =>
        exact effect (kbtCsrReadAct_aligned aligned)
          (quiet.held (.inl ((kbtTell_sessions ..).trans (readReg_sessions w _ _))))
      case writes => exact effect (kbtCsrWriteAct_aligned aligned rights) (quiet.held (registerWrite_sessionsHeld w _ _ _))
      case cupboard =>
        exact effect (kbtWriteAct_granted address whole length rights plain inside)
          (quiet.held (.inl (hostWrite_sessions w _ _)))
      case request =>
        refine ⟨_, kbtRequestOf m small, effect (kbtRequestAct_submits named length small) (quiet.held (.inl rfl)), ?_, rfl, rfl,
          rfl, ?_⟩ <;> subst counts <;> rfl
      case data =>
        exact effect (kbtReadAct_one address length plain inside)
          ((quiet.held (.inl (hostRead_sessions w _ _))).kbtSend _ _ _ _ _)
  case again =>
    obtain ⟨sent, mem, own, found⟩ := kbtRetransmit_sends known owed link few
    exact ⟨_, rfl, sent, mem, own, _, found, rfl, rfl⟩
  case abandoned =>
    exact ⟨_, congrArg Host.Outcome.next (kbtRetransmit_abandons known owed link many), kbtAbandon_ends s id⟩
  case acked => exact congrArg Host.Outcome.next (kbtRetransmit_rests known acked)
  case none =>
    refine congrArg Host.Outcome.next ?_
    rw [known]
    exact if_pos none
  case ack =>
    obtain ⟨m, outs, typ, arg, session, found, mem⟩ := kbtSendAck_sends known
    refine ⟨_, m, _, congrArg Host.Outcome.next ?_, outs, typ, arg, session, found, rfl, mem⟩
    rw [known]
    exact if_neg some

end Sys2Proof.Machine
end

section
/-! PROOFS. ALU (R139, R173, Tables 5-6 and 5-9). -/

namespace Sys2Proof.Machine

theorem exec_alu {s : State} {core : CoreId} {g : Guard} {f : FieldsR} (h : issues s core.val g (.alu f) = true) :
    exec (.alu core g f) s = .next (doAlu s core.val f) := next_issue h

theorem fn_le_of_issues_alu {s : State} {n : Nat} {g : Guard} {f : FieldsR} (i : issues s n g (.alu f) = true) :
    f.fn.toNat ≤ 16 :=
  of_decide_eq_true (legal_of_issues i)

/-- The functions of ALU that return later: the multiplications and the divisions (Table 5-9). -/
theorem aluSlow_iff {fn : Nat} (h : fn ≤ 16) : aluSlow fn = true ↔ fn ∈ [2, 3, 4, 15, 16] := by
  simp only [aluSlow, Bool.or_eq_true, Bool.and_eq_true, decide_eq_true_eq, List.mem_cons, List.not_mem_nil, or_false]
  omega

theorem aluDivides_iff {fn : Nat} (h : fn ≤ 16) : 15 ≤ fn ↔ fn ∈ [15, 16] := by
  simp only [List.mem_cons, List.not_mem_nil, or_false]
  omega

/-! ### Minimum, maximum and division (Table 5-6) -/

theorem aluValue_min (x y : W64) : (aluValue 11 x y).toInt = min x.toInt y.toInt := (apply_ite BitVec.toInt ..).trans rfl

theorem aluValue_max (x y : W64) : (aluValue 12 x y).toInt = max x.toInt y.toInt := (apply_ite BitVec.toInt ..).trans rfl

theorem aluValue_minu (x y : W64) : (aluValue 13 x y).toNat = min x.toNat y.toNat := (apply_ite BitVec.toNat ..).trans rfl

theorem aluValue_maxu (x y : W64) : (aluValue 14 x y).toNat = max x.toNat y.toNat := (apply_ite BitVec.toNat ..).trans rfl

theorem aluValue_divu (x y : W64) :
    if y = 0 then aluValue 15 x y = BitVec.allOnes 64 else (aluValue 15 x y).toNat = x.toNat / y.toNat := by
  split
  · next zero => exact if_pos zero
  · next pos => exact (congrArg BitVec.toNat (if_neg pos)).trans BitVec.toNat_udiv

theorem aluValue_remu (x y : W64) :
    if y = 0 then aluValue 16 x y = x else (aluValue 16 x y).toNat = x.toNat % y.toNat := by
  split
  · next zero => exact if_pos zero
  · next pos => exact (congrArg BitVec.toNat (if_neg pos)).trans BitVec.toNat_umod

/-! ### Where the value goes (Table 5-9) -/

/-- A function of 1 clock writes sd; another returns later, a division apart from the rest (R188). -/
theorem doAlu_eq {s : State} {n : Nat} {f : FieldsR} (range : f.fn.toNat ≤ 16) {v : W64}
    (hv : aluValue f.fn.toNat (getS (coreAt s n) f.a) (getS (coreAt s n) f.b) = v) :
    doAlu s n f = modCore s n fun c =>
      if f.fn.toNat ∈ [2, 3, 4, 15, 16] then retire (later c false (decide (f.fn.toNat ∈ [15, 16])) f.d v)
      else retire (setS c f.d v) := by
  refine modCore_congr ?_
  dsimp only
  rw [hv, apply_ite retire]
  simp only [aluSlow_iff range, aluDivides_iff range]

/-- Settles O21, by `aluValue` function by function and `doAlu_eq`. -/
theorem aluTakesItsFunction : Obligations.AluTakesItsFunction := by
  rintro s core g f i x y rfl rfl
  refine ⟨aluValue f.fn.toNat (getS (coreAt s core.val) f.a) (getS (coreAt s core.val) f.b), fun e => ?_, fun e => ?_,
    fun e => ?_, fun e => ?_, fun e => ?_, fun e => ?_, fun e => ?_, fun e => ?_, fun e => ?_, fun e => ?_, fun e => ?_,
    fun e => ?min, fun e => ?max, fun e => ?minu, fun e => ?maxu, fun e => ?divu, fun e => ?remu, ?effect⟩
  case min => rw [e, aluValue_min]
  case max => rw [e, aluValue_max]
  case minu => rw [e, aluValue_minu]
  case maxu => rw [e, aluValue_maxu]
  case divu => rw [e]; exact aluValue_divu _ _
  case remu => rw [e]; exact aluValue_remu _ _
  case effect => exact (exec_alu i).trans (congrArg _ (doAlu_eq (fn_le_of_issues_alu i) rfl))
  all_goals
    rw [e]
    rfl

end Sys2Proof.Machine
end

section
/-! PROOFS. A unit's record, and WAITC, WAITB and FENCE at their place (R141, R179, R182, R183, R317). -/

namespace Sys2Proof.Machine

/-! ### Records in vectors -/

/-- Two changes of an element that agree on the element as it stands are one. -/
theorem vmod_congr {α : Type} {n : Nat} (v : Vector α n) (i : Nat) (d : α) {f g : α → α}
    (h : f (v.toList.getD i d) = g (v.toList.getD i d)) : vmod v i f = vmod v i g := by
  apply Vector.ext
  intro j hj
  rw [vmod_get v i f j hj, vmod_get v i g j hj]
  split
  · next e =>
    subst e
    simpa [List.getD, hj] using h
  · rfl

/-- A unit in a core's record. -/
def coreUnit (c : Core) (u : Nat) : CUnit := c.units.toList.getD u CUnit.empty

theorem modUnit_congr {c : Core} {u : Nat} {f g : CUnit → CUnit} (h : f (coreUnit c u) = g (coreUnit c u)) :
    modUnit c u f = modUnit c u g := by
  rw [modUnit, vmod_congr c.units u CUnit.empty h, modUnit]

/-- The wait at the head leaves the queue (R179, R182). -/
theorem popHead_eq {c : Core} {u : Nat} {e : QEntry} {rest : List QEntry} (h : (coreUnit c u).queue = e :: rest) :
    popHead c u = modUnit c u fun y => { y with queue := rest } := by
  refine modUnit_congr ?_
  rw [h]
  rfl

theorem modCore_ite {p : Prop} [Decidable p] (s : State) (n : Nat) (f g : Core → Core) :
    (if p then modCore s n f else modCore s n g) = modCore s n fun c => if p then f c else g c := by
  split <;> rfl

section
variable {s : State} {core : CoreId} {g : Guard}

theorem exec_waitc {f : FieldsWC} (h : issues s core.val g (.waitc f) = true) :
    exec (.waitc core g f) s = .next (doWaitc s core.val f) := next_issue h

theorem exec_waitb {f : FieldsWB} (h : issues s core.val g (.waitb f) = true) :
    exec (.waitb core g f) s = .next (doWaitb s core.val f) := next_issue h

theorem exec_fence {m : Byte} (h : issues s core.val g (.fence m) = true) :
    exec (.fence core g m) s = .next (doFence s core.val m) := next_issue h

end

/-! ### WAITC (R141, R179, R317) -/

/-- The value that a WAITC compares with. -/
def waitcValue (c : Core) (f : FieldsWC) : W32 := if f.vsrc then (getS c f.b).setWidth 32 else f.imm

theorem waitcHolds_iff (value : W32) (eq : Bool) (v : W32) :
    waitcHolds value eq v = true ↔ if eq then value = v else (value - v).toNat < 2 ^ 31 := by
  cases eq <;> simp [waitcHolds]

section
variable {s : State} {n : Nat} {f : FieldsWC}

theorem doWaitc_queued (h : f.place ≠ 0) : doWaitc s n f =
    modCore s n fun c => retire (enqUnit c (f.place.toNat - 1) (.waitc f.ctr f.eq (waitcValue (coreAt s n) f))) := by
  have unit : unitOf (.waitc f) = some (f.place.toNat - 1) := if_neg (by simpa using h)
  rw [doWaitc, unit, waitcValue]

/-- A WAITC of the CP. -/
theorem doWaitc_cp (h : f.place = 0) {t : State} {k : Counter}
    (ht : touchCounter s n f.ctr.toNat = t) (hk : counterAt t n f.ctr.toNat = k) : doWaitc s n f =
      if !k.valid then cpFault t n 7 0 (f.ctr.setWidth 32)
      else if waitcHolds k.value f.eq (waitcValue (coreAt s n) f) then modCore t n retire
      else modCore t n fun c => { c with wait := .waitc f.ctr f.eq (waitcValue (coreAt s n) f) } := by
  have cp : unitOf (.waitc f) = none := if_pos (by rw [h]; rfl)
  rw [doWaitc, cp]
  dsimp only
  rw [ht, hk, waitcValue]

/-- A WAITC of the CP whose counter is valid retires or waits. -/
theorem doWaitc_valid (h : f.place = 0)
    (sound : (counterAt s n f.ctr.toNat).upset = false) (valid : (counterAt s n f.ctr.toNat).valid = true) :
    doWaitc s n f = modCore s n fun c =>
      if (if f.eq then (counterAt s n f.ctr.toNat).value = waitcValue (coreAt s n) f
        else ((counterAt s n f.ctr.toNat).value - waitcValue (coreAt s n) f).toNat < 2 ^ 31)
      then retire c else { c with wait := .waitc f.ctr f.eq (waitcValue (coreAt s n) f) } := by
  rw [doWaitc_cp h (touchCounter_sound sound) rfl, valid, if_neg (by decide), modCore_ite]
  simp only [waitcHolds_iff]

end

/-- A parity error found by a WAITC of the CP. -/
theorem doWaitc_upset {s : State} {core : CoreId} {f : FieldsWC} (h : f.place = 0)
    (upset : (counterAt s core.val f.ctr.toNat).upset = true) :
    doWaitc s core.val f = cpFault (counterParity s core.val f.ctr.toNat) core.val 7 0 (f.ctr.setWidth 32) := by
  rw [doWaitc_cp h (touchCounter_upset upset) (counterAt_counterParity s core f.ctr)]
  rfl

/-! ### WAITB (R182) -/

section
variable {s : State} {n : Nat} {f : FieldsWB}

/-- The beat that a WAITB with MODE = ABS names. -/
def waitbValue (c : Core) (f : FieldsWB) : W64 := if f.mode = 1 then getS c f.b else 0

theorem doWaitb_refused (h : formed s = false ∨ (f.mode = 2 ∧ s.wrg.posValid = false)) :
    doWaitb s n f = cpFault s n 8 0 0 := by
  refine if_pos ?_
  rcases h with h | ⟨lap, h⟩
  · simp [h]
  · simp [lap, h]

/-- A WAITB in a formed partition, for LAP with a ring position: in its unit's queue or at the CP. -/
theorem doWaitb_placed (part : formed s = true) (pos : f.mode = 2 → s.wrg.posValid = true) : doWaitb s n f =
    match unitOf (.waitb f) with
    | some u => modCore s n fun c =>
        retire (enqUnit c u (.waitb f.mode.toNat (waitbValue (coreAt s n) f) s.beat.count))
    | none =>
      if waitbHolds s f.mode.toNat (waitbValue (coreAt s n) f) s.beat.count then modCore s n retire
      else modCore s n fun c => { c with wait := .waitb f.mode.toNat (waitbValue (coreAt s n) f) s.beat.count } := by
  have value : (if f.mode == 1 then getS (coreAt s n) f.b else 0) = waitbValue (coreAt s n) f := by
    simp only [waitbValue, beq_iff_eq]
  have lap (h : f.mode.toNat = 2) : s.wrg.posValid = true := pos (BitVec.eq_of_toNat_eq h)
  rw [doWaitb]
  rw [value]
  exact if_neg (by simpa [part] using lap)

theorem doWaitb_queued (part : formed s = true) (pos : f.mode = 2 → s.wrg.posValid = true) (h : f.place ≠ 0) :
    doWaitb s n f = modCore s n fun c => retire (enqUnit c (f.place.toNat - 1)
      (.waitb f.mode.toNat (if f.mode = 1 then getS c f.b else 0) s.beat.count)) := by
  have unit : unitOf (.waitb f) = some (f.place.toNat - 1) := if_neg (by simpa using h)
  rw [doWaitb_placed part pos, unit]
  exact modCore_congr rfl

theorem doWaitb_cp (part : formed s = true) (pos : f.mode = 2 → s.wrg.posValid = true) (h : f.place = 0) :
    doWaitb s n f = modCore s n fun c =>
      if waitbHolds s f.mode.toNat (waitbValue (coreAt s n) f) s.beat.count then retire c
      else { c with wait := .waitb f.mode.toNat (waitbValue (coreAt s n) f) s.beat.count } := by
  have cp : unitOf (.waitb f) = none := if_pos (by rw [h]; rfl)
  rw [doWaitb_placed part pos, cp]
  exact modCore_ite s n _ _

/-- NEXT and LAP of the present beat: the wait has to see a later one. -/
theorem doWaitb_later (part : formed s = true) (pos : f.mode = 2 → s.wrg.posValid = true) (h : f.place = 0)
    (mode : f.mode = 0 ∨ f.mode = 2) :
    doWaitb s n f = modCore s n fun c => { c with wait := .waitb f.mode.toNat 0 s.beat.count } := by
  have value : waitbValue (coreAt s n) f = 0 := if_neg (by rcases mode with e | e <;> rw [e] <;> decide)
  have early : waitbHolds s f.mode.toNat 0 s.beat.count = false := by
    rcases mode with e | e <;> simp [e, waitbHolds]
  rw [doWaitb_cp part pos h, value, early]
  rfl

/-- ABS. -/
theorem doWaitb_abs (part : formed s = true) (h : f.place = 0) (mode : f.mode = 1) :
    doWaitb s n f = modCore s n fun c =>
      if (getS c f.b).toNat ≤ s.beat.count.toNat then retire c
      else { c with wait := .waitb 1 (getS c f.b) s.beat.count } := by
  have value : waitbValue (coreAt s n) f = getS (coreAt s n) f.b := if_pos mode
  have abs : f.mode.toNat = 1 := congrArg BitVec.toNat mode
  rw [doWaitb_cp part (by rw [mode]; intro e; cases e) h, value, abs]
  refine modCore_congr ?_
  simp only [waitbHolds, decide_eq_true_eq]

end

/-! ### Completions (R141, R179, R182, R196) -/

section
variable {s : State} {n : Nat}

theorem waitcComplete_cp {ctr : Byte} {eq : Bool} {v : W32} (h : (coreAt s n).wait = .waitc ctr eq v)
    (sound : (counterAt s n ctr.toNat).upset = false) (valid : (counterAt s n ctr.toNat).valid = true) :
    waitcComplete s n 0 = if waitcHolds (counterAt s n ctr.toNat).value eq v then modCore s n retire else s := by
  rw [waitcComplete, if_pos rfl, h]
  dsimp only
  rw [touchCounter_sound sound, valid]
  rfl

theorem waitbComplete_cp {mode : Nat} {v b : W64} (h : (coreAt s n).wait = .waitb mode v b) :
    waitbComplete s n 0 = if waitbHolds s mode v b then modCore s n retire else s := by
  rw [waitbComplete, if_pos rfl, h]

variable {u : Nat} {e : QEntry} {rest : List QEntry} (q : (coreUnit (coreAt s n) u).queue = e :: rest)
  (on : offline (coreAt s n) u = false)
include q on

theorem waitcComplete_unit {ctr : Byte} {eq : Bool} {v : W32} (h : e.work = .waitc ctr eq v)
    (sound : (counterAt s n ctr.toNat).upset = false) (valid : (counterAt s n ctr.toNat).valid = true)
    (holds : waitcHolds (counterAt s n ctr.toNat).value eq v = true) :
    waitcComplete s n (u + 1) = modCore s n fun c => modUnit c u fun y => { y with queue := rest } := by
  rw [waitcComplete, if_neg (Nat.succ_ne_zero u)]
  dsimp only
  rw [Nat.add_sub_cancel, show (coreAt s n).units.toList.getD u CUnit.empty = coreUnit (coreAt s n) u from rfl, q]
  dsimp only
  rw [h]
  dsimp only
  rw [on, touchCounter_sound sound, valid, holds]
  exact modCore_congr (popHead_eq q)

theorem waitbComplete_unit {mode : Nat} {v b : W64} (h : e.work = .waitb mode v b) (holds : waitbHolds s mode v b = true) :
    waitbComplete s n (u + 1) = modCore s n fun c => modUnit c u fun y => { y with queue := rest } := by
  rw [waitbComplete, if_neg (Nat.succ_ne_zero u)]
  dsimp only
  rw [Nat.add_sub_cancel, show (coreAt s n).units.toList.getD u CUnit.empty = coreUnit (coreAt s n) u from rfl, q]
  dsimp only
  rw [h]
  dsimp only
  rw [on, holds]
  exact modCore_congr (popHead_eq q)

end

theorem mayIssue_waiting {c : Core} (h : c.wait ≠ .none) : mayIssue c = false := by
  rw [mayIssue, beq_false_of_ne h, Bool.and_false]

/-- Settles O26: WAITC and WAITB at issue by place and mode, their completions at the CP and at a unit's head, and a waiting
CP by `mayIssue_waiting`. -/
theorem waitsHoldIssueUntilTheirCondition : Obligations.WaitsHoldIssueUntilTheirCondition := by
  rintro s core g f b m w rfl
  refine ⟨fun i k hk => ?waitc, fun i => ?waitb, fun i => ?fence, fun ctr eq v h sound valid => ?waitcCp,
    fun mode v at' h => ?waitbCp, fun u e rest q on => ⟨?waitcUnit, ?waitbUnit⟩, fun h holds => ?fenceCp, fun h i => ?stall⟩
  case waitc =>
    subst hk
    refine ⟨fun h => ?_, fun h upset => ?_, fun h sound invalid => ?_, fun h sound valid => ?_⟩
    · rw [exec_waitc i, doWaitc_queued h]
      rfl
    · rw [exec_waitc i, doWaitc_upset h upset]
    · rw [exec_waitc i, doWaitc_cp h (touchCounter_sound sound) rfl, invalid]
      rfl
    · rw [exec_waitc i, doWaitc_valid h sound valid]
      rfl
  case waitb =>
    refine ⟨fun h => ?_, fun part h next => ?_, fun part h abs => ?_, fun part h lap pos => ?_, fun part h pos => ?_⟩
    · rw [exec_waitb i, doWaitb_refused h]
    · rw [exec_waitb i, doWaitb_later part (by rw [next]; intro e; cases e) h (.inl next), next]
      rfl
    · rw [exec_waitb i, doWaitb_abs part h abs]
    · rw [exec_waitb i, doWaitb_later part (fun _ => pos) h (.inr lap), lap]
      rfl
    · rw [exec_waitb i, doWaitb_queued part pos h]
  case fence => exact exec_fence i
  case waitcCp =>
    have complete : exec (.waitcComplete core 0) s = .next (waitcComplete s core.val 0) := rfl
    rw [complete, waitcComplete_cp h sound valid]
    exact ⟨fun holds => by rw [holds]; rfl, fun fails => by rw [fails]; rfl⟩
  case waitbCp =>
    have complete : exec (.waitbComplete core 0) s = .next (waitbComplete s core.val 0) := rfl
    rw [complete, waitbComplete_cp h]
    exact ⟨fun holds => by rw [holds]; rfl, fun fails => by rw [fails]; rfl⟩
  case waitcUnit =>
    intro ctr eq v h sound valid holds
    exact congrArg Host.Outcome.next (waitcComplete_unit q on h sound valid holds)
  case waitbUnit =>
    intro mode v at' h holds
    exact congrArg Host.Outcome.next (waitbComplete_unit q on h holds)
  case fenceCp =>
    refine congrArg Host.Outcome.next (modCore_congr ?_)
    rw [h]
    exact if_pos holds
  case stall => exact issue_waits g i (mayIssue_waiting h)

end Sys2Proof.Machine
end

section
/-! PROOFS. T- and C-class instructions enter the queue of their unit, and TFLG (R137, R169, R202, R216 to R218, R222 to
R225). -/

namespace Sys2Proof.Machine

/-! ### Descriptors checked at issue (R169) -/

theorem descFault_none {s : State} {n : Nat} {l : List (Option TD)} (h : ∀ t ∈ l, tdFault s n t = none) :
    descFault s n l = none := List.findSome?_eq_none_iff.mpr h

theorem enqueueOp_faults {s : State} {n : Nat} {i : Isa} {used : List (Option TD)} {k : Capture} {x : W64}
    {e : Nat × Nat × W32} (h : descFault s n used = some e) :
    enqueueOp s n i used k x = cpFault s n e.1 e.2.1 e.2.2 := by
  rw [enqueueOp, h]

theorem enqueueOp_enters {s : State} {n u : Nat} {i : Isa} {used : List (Option TD)} {k : Capture} {x : W64}
    (h : ∀ t ∈ used, tdFault s n t = none) (hu : unitOf i = some u) :
    enqueueOp s n i used k x = modCore s n fun c => retire (enqUnit c u (.op i k.d k.a k.b k.c k.e x)) := by
  rw [enqueueOp, descFault_none h, hu]

theorem unitOf_tm (op : TmOp) (f : FieldsTM) : unitOf (.tm op f) = some (if op = .smv then 4 else f.unit.toNat) := by
  cases op <;> rfl

/-! ### The rows -/

section
variable {s : State} {core : CoreId} {g : Guard}

/-- The rows of layout TM. -/
theorem exec_tm {f : FieldsTM} {p : (CoreId → Guard → FieldsTM → Instr) × TmOp}
    (hp : p ∈ [(Instr.tmul, TmOp.tmul), (Instr.tl1, TmOp.tl1), (Instr.tl2, TmOp.tl2), (Instr.tminp, TmOp.tminp),
      (Instr.tmaxp, TmOp.tmaxp), (Instr.tham, TmOp.tham), (Instr.tccnt, TmOp.tccnt), (Instr.smv, TmOp.smv)])
    (h : issues s core.val g (.tm p.2 f) = true) : exec (p.1 core g f) s = .next (doTm s core.val p.2 f) := by
  simp only [List.mem_cons, List.not_mem_nil, or_false] at hp
  rcases hp with rfl | rfl | rfl | rfl | rfl | rfl | rfl | rfl
  all_goals exact next_issue h

theorem exec_vec {v : FieldsV} (h : issues s core.val g (.vec v) = true) :
    exec (.vec core g v) s = .next (doVec s core.val v) := next_issue h

/-- The rows of layout CX. -/
theorem exec_cx {f : FieldsCX} {i : (CoreId → Guard → FieldsCX → Instr) × (FieldsCX → Isa)}
    (hi : i ∈ [(Instr.tmulGather, Isa.gather), (Instr.tmulScatter, Isa.scatter)])
    (h : issues s core.val g (i.2 f) = true) :
    exec (i.1 core g f) s = .next (doCx s core.val (i.2 f) f) ∧ unitOf (i.2 f) = some f.unit.toNat := by
  simp only [List.mem_cons, List.not_mem_nil, or_false] at hi
  rcases hi with rfl | rfl
  all_goals exact ⟨next_issue h, rfl⟩

theorem exec_call {l : FieldsCL} (h : issues s core.val g (.call l) = true) :
    exec (.call core g l) s = .next (doCall s core.val l) := next_issue h

theorem exec_cpri {p : FieldsCP} (h : issues s core.val g (.cpri p) = true) :
    exec (.cpri core g p) s = .next (doCpri s core.val p) := next_issue h

theorem exec_tflg {w : FieldsFL} (h : issues s core.val g (.tflg w) = true) :
    exec (.tflg core g w) s = .next (doTflg s core.val w) := next_issue h

end

/-! ### CPRI and TFLG (R216, R225) -/

theorem doCpri_eq (s : State) (n : Nat) (p : FieldsCP) : doCpri s n p = modCore s n fun c => retire
    { enqUnit c p.unit.toNat (.op (.cpri p) none none none none none (if p.op = 0 then 0 else getS c p.b)) with
      sPend := setBit c.sPend p.d.toNat true, cpriOut := c.cpriOut + 1 } := by
  refine modCore_congr ?_
  simp only [beq_iff_eq]

section
variable {s : State} {n : Nat} {w : FieldsFL}

theorem doTflg_queued (h : w.place ≠ 0) : doTflg s n w = modCore s n fun c => retire
    { enqUnit c (w.place.toNat - 1) (.tflg w.d) with sPend := setBit c.sPend w.d.toNat true } := by
  have unit : unitOf (.tflg w) = some (w.place.toNat - 1) := if_neg (by simpa using h)
  rw [doTflg, unit]

/-- A TFLG of the CP with no other waiting. -/
theorem doTflg_cp (h : w.place = 0) (alone : (coreAt s n).tflgCp = []) : doTflg s n w = modCore s n fun c => retire
    (settleTflg 32 { c with tflgCp := [(w.d, c.cpriOut)], sPend := setBit c.sPend w.d.toNat true }) := by
  have cp : unitOf (.tflg w) = none := if_pos (by rw [h]; rfl)
  rw [doTflg, cp]
  refine modCore_congr ?_
  dsimp only
  rw [alone]
  rfl

end

/-- The first TFLG.CP waits while a CPRI issued before it is outstanding. -/
theorem settleTflg_held {c : Core} {d : BitVec 5} {k : Nat} (hk : k ≠ 0) (h : c.tflgCp = [(d, k)]) (fuel : Nat) :
    settleTflg (fuel + 1) c = c := by
  obtain ⟨j, rfl⟩ := Nat.exists_eq_succ_of_ne_zero hk
  rw [settleTflg, h]
  rfl

/-- A lone TFLG.CP that nothing holds returns the flag word and clears it. -/
theorem settleTflg_due {c : Core} {d : BitVec 5} (h : c.tflgCp = [(d, 0)]) (fuel : Nat) :
    settleTflg (fuel + 2) c = { putS c d (flagBits c.cpFlags) with cpFlags := .clear, tflgCp := [] } := by
  rw [settleTflg, h]
  rfl

theorem getS_putS_same (c : Core) (r : BitVec 5) (v : W64) : getS (putS c r v) r = v := getS_setS_same c r v

/-- Settles O29, by `enqueueOp_faults` and `enqueueOp_enters`, and TFLG of the CP by `settleTflg_held` and
`settleTflg_due`. -/
theorem queuedInstructionsEnterTheirUnit : Obligations.QueuedInstructionsEnterTheirUnit := by
  constructor
  · rintro s core g f v _ _ rfl rfl
    refine ⟨fun p hp i l hl => ⟨fun e fault => ?_, fun ok => ?_⟩,
      fun i ua ub uc us l uses hl => ⟨fun e fault => ?_, fun ok => ?_⟩⟩
    · subst hl
      rw [exec_tm hp i, doTm, enqueueOp_faults fault]
    · subst hl
      rw [exec_tm hp i, doTm, enqueueOp_enters ok (unitOf_tm p.2 f)]
      exact congrArg _ (modCore_congr rfl)
    · subst hl
      rw [exec_vec i, doVec, uses]
      exact congrArg _ (enqueueOp_faults fault)
    · subst hl
      rw [exec_vec i, doVec, uses]
      exact congrArg _ ((enqueueOp_enters ok rfl).trans (modCore_congr rfl))
  · rintro s core g f l p w _ _ rfl rfl
    refine ⟨fun i hi h used hl => ⟨fun e fault => ?_, fun ok => ?_⟩, fun h => ⟨fun e fault => ?_, fun d a => ?_⟩,
      fun h => ?_, fun h => ⟨fun queued => ?_, fun cp out alone => ?_, fun cp none alone => ?flags⟩⟩
    · subst hl
      rw [(exec_cx hi h).1, doCx, enqueueOp_faults fault]
    · subst hl
      rw [(exec_cx hi h).1, doCx, enqueueOp_enters ok (exec_cx hi h).2]
    · rw [exec_call h, doCall, enqueueOp_faults fault]
    · have ok : ∀ t ∈ [getTd (coreAt s core.val) l.d, getTd (coreAt s core.val) l.a], tdFault s core.val t = none := by
        simpa using ⟨d, a⟩
      rw [exec_call h, doCall, enqueueOp_enters ok rfl]
    · rw [exec_cpri h, doCpri_eq]
    · rw [exec_tflg h, doTflg_queued queued]
    · rw [exec_tflg h, doTflg_cp cp alone]
      refine congrArg _ (modCore_congr ?_)
      rw [settleTflg_held out rfl]
    case flags =>
      have after := coreAt_modCore_same s core fun c => retire
        (settleTflg 32 { c with tflgCp := [(w.d, c.cpriOut)], sPend := setBit c.sPend w.d.toNat true })
      rw [settleTflg_due (by rw [none])] at after
      refine ⟨_, (exec_tflg h).trans (congrArg _ (doTflg_cp cp alone)), sameButCore_modCore s _ _, ?_,
        (congrArg Core.cpFlags after :), (congrArg Core.tflgCp after :), (congrArg Core.pc after :)⟩
      rw [after, getS_retire]
      exact getS_putS_same _ _ _

end Sys2Proof.Machine
end

section
/-! PROOFS. What a precise fault leaves of its core, which cores an instruction touches, and what the CP fetches (R133, R170,
R175, R189, R191 to R193). -/

namespace Sys2Proof.Machine

/-! ### Faults (R193, R194) -/

@[simp] theorem postCore_cores (s : State) (n kind : Nat) (b : EvtBody) : (postCore s n kind b).cores = s.cores := by
  obtain ⟨_, _, _, e⟩ := post_eventsOnly s 0 kind (some ⟨(coreAt s n).ctx.toNat, (coreAt s n).ctx.isLt⟩) b
  rw [postCore, e]

/-- Of the cores, a fault record changes the count of records of its own. -/
theorem postFault_cores (s : State) (n code sub agent : Nat) (precise : Bool) (instr detail : W32) :
    ∃ k, (postFault s n code sub agent precise instr detail).cores = (modCore s n fun c => { c with faults := k }).cores := by
  unfold postFault
  dsimp only
  split
  · exact ⟨(coreAt s n).faults, congrArg State.cores (modCore_eq_self rfl).symm⟩
  · exact ⟨(coreAt s n).faults + 1, (postCore_cores _ _ _ _).trans (congrArg State.cores (modCore_congr rfl))⟩

theorem coreAt_of_cores {s t : State} (h : t.cores = s.cores) (n : Nat) : coreAt t n = coreAt s n := by
  rw [coreAt, h, coreAt]

/-- A core after a precise fault. -/
theorem coreAt_cpFault (s : State) (core : CoreId) (code sub : Nat) (detail : W32) :
    ∃ k, coreAt (cpFault s core.val code sub detail) core.val =
      { dropWait (coreAt s core.val) with state := 4, stopNext := 4, faults := k } := by
  obtain ⟨k, posted⟩ := postFault_cores s core.val code sub 0 true (coreAt s core.val).pc detail
  refine ⟨k, ?_⟩
  rw [cpFault, coreAt_modCore_same, coreAt_of_cores posted, coreAt_modCore_same]
  rfl

/-! ### One core touched -/

/-- Every core but `n` is the same in both states. -/
def OthersStand (n : Nat) (s t : State) : Prop := ∀ m, m ≠ n → coreAt t m = coreAt s m

theorem OthersStand.refl (n : Nat) (s : State) : OthersStand n s s := fun _ _ => rfl

theorem OthersStand.trans {n : Nat} {s t u : State} (st : OthersStand n s t) (tu : OthersStand n t u) :
    OthersStand n s u := fun m h => (tu m h).trans (st m h)

theorem OthersStand.ite {n : Nat} {s t u : State} {c : Prop} [Decidable c] (ht : OthersStand n s t)
    (hu : OthersStand n s u) : OthersStand n s (if c then t else u) := by
  split
  · exact ht
  · exact hu

theorem OthersStand.of_cores {n : Nat} {s t : State} (h : t.cores = s.cores) : OthersStand n s t :=
  fun m _ => coreAt_of_cores h m

theorem modCore_others (s : State) (n : Nat) (f : Core → Core) : OthersStand n s (modCore s n f) :=
  fun _ h => coreAt_modCore_other s f h.symm

theorem postFault_others (s : State) (n code sub agent : Nat) (precise : Bool) (instr detail : W32) :
    OthersStand n s (postFault s n code sub agent precise instr detail) := by
  obtain ⟨_, posted⟩ := postFault_cores s n code sub agent precise instr detail
  exact (modCore_others s n _).trans (.of_cores posted)

theorem cpFault_others (s : State) (n code sub : Nat) (detail : W32) : OthersStand n s (cpFault s n code sub detail) :=
  (postFault_others s n _ _ _ _ _ _).trans (modCore_others _ n _)

theorem counterParity_others (s : State) (n ctr : Nat) : OthersStand n s (counterParity s n ctr) :=
  (modCore_others s n _).trans (.of_cores (postNone_cores _ _ _ _))

theorem touchCounter_others (s : State) (n ctr : Nat) : OthersStand n s (touchCounter s n ctr) :=
  .ite (counterParity_others s n ctr) (.refl n s)

/-! ### Reads of a cupboard without errors and without a ring (R104, R325) -/

/-- No ring is in force: no bytes lie in a ring slot. -/
theorem ringView_off {s : State} (h : s.wrg.enable = false) (a n : Nat) : ringView s a n = ⟨false, false, []⟩ := by
  have slots (c : Nat) (v : RingView) (l : List Nat) : l.foldl (fun v i =>
      let lo := sliceAddr c (0x1400000 + 0x60000 * i)
      let hi := if i = 8 then sliceAddr c 0x1800000 else lo + 0x60000
      let from' := max a lo
      let hi' := min (a + n) hi
      if !s.wrg.enable || hi' ≤ from' then v
      else if i = 8 then v.join ⟨true, false, []⟩
      else v.join (slotView s c (4 ≤ i) (i % 4) (hi' - lo))) v = v :=
    foldl_keeps id _ (fun v i => by simp [h]) l v
  exact foldl_keeps id _ (fun v c => slots c v _) _ _

theorem correctRead_clean {s : State} (h : s.ce = []) (a n : Nat) : correctRead s a n = s := by
  rw [correctRead, h]
  exact congrArg (fun e => { s with ce := e }) h.symm

/-- Such a read changes nothing. -/
theorem cpRead_clean {s : State} (ue : s.ue = []) (ce : s.ce = []) (ring : s.wrg.enable = false) (n a k : Nat) :
    (cpRead s n a k).1 = s := by
  have sound : cpUe s n a k = none := by rw [cpUe, ue]; rfl
  unfold cpRead
  dsimp only
  split
  · rfl
  · rw [ringView_off ring, sound]
    exact correctRead_clean ce a k

/-! ### Which cores an instruction touches -/

section
variable {s : State} (n : Nat)

theorem enqueueOp_others (i : Isa) (used : List (Option TD)) (k : Capture) (x : W64) :
    OthersStand n s (enqueueOp s n i used k x) := by
  unfold enqueueOp
  split
  · exact cpFault_others s n _ _ _
  · exact modCore_others s n _
  · exact .refl n s

theorem doTdbase_others (f : FieldsI) : OthersStand n s (doTdbase s n f) := by
  refine .ite (cpFault_others s n 2 0 _) ?_
  split
  · exact cpFault_others s n 5 0 0
  · exact .ite (cpFault_others s n 5 0 0) (modCore_others s n _)

theorem doWaitc_others (f : FieldsWC) : OthersStand n s (doWaitc s n f) := by
  unfold doWaitc
  dsimp only
  split
  · exact modCore_others s n _
  · exact (touchCounter_others s n _).trans
      (.ite (cpFault_others _ n 7 0 _) (.ite (modCore_others _ n _) (modCore_others _ n _)))

theorem doWaitb_others (f : FieldsWB) : OthersStand n s (doWaitb s n f) := by
  refine .ite (cpFault_others s n 8 0 0) ?_
  split
  · exact modCore_others s n _
  · exact .ite (modCore_others s n _) (modCore_others s n _)

theorem doSignal_others (f : FieldsSG) : OthersStand n s (doSignal s n f) :=
  (OthersStand.of_cores (postCore_cores s n 2 _)).trans (modCore_others _ n _)

theorem doPut_others (f : FieldsPT) : OthersStand n s (doPut s n f) :=
  .ite (cpFault_others s n 2 0 _) (.ite (cpFault_others s n 3 5 _) (.ite (cpFault_others s n 6 0 _)
    (.ite (cpFault_others s n 3 5 _) (modCore_others s n _))))

variable (ue : s.ue = []) (ce : s.ce = []) (ring : s.wrg.enable = false)
include ue ce ring

theorem cpRead_others {t : State} {a k : Nat} {r : Except (Nat × Nat × W32) (List Byte)} (h : cpRead s n a k = (t, r)) :
    OthersStand n s t := by
  have same : t = s := (congrArg Prod.fst h).symm.trans (cpRead_clean ue ce ring n a k)
  rw [same]
  exact .refl n s

theorem doLd_others (f : FieldsI) : OthersStand n s (doLd s n f) := by
  refine .ite (cpFault_others s n 2 0 _) (.ite (.refl n s) ?_)
  split
  · next read => exact (cpRead_others n ue ce ring read).trans (cpFault_others _ n _ _ _)
  · next read => exact (cpRead_others n ue ce ring read).trans (modCore_others _ n _)

theorem doTdld_others (f : FieldsI) : OthersStand n s (doTdld s n f) := by
  refine .ite (cpFault_others s n 2 0 _) (.ite (.refl n s) ?_)
  split
  · next read => exact (cpRead_others n ue ce ring read).trans (cpFault_others _ n _ _ _)
  · next read =>
    refine (cpRead_others n ue ce ring read).trans ?_
    split
    · exact cpFault_others _ n 5 0 _
    · exact modCore_others _ n _

theorem doMove_others (f : FieldsMV) : OthersStand n s (doMove s n f) := by
  refine .ite (cpFault_others s n 2 0 _) (.ite (.refl n s) ?_)
  split
  · next read => exact (cpRead_others n ue ce ring read).trans (cpFault_others _ n _ _ _)
  · next read => exact (cpRead_others n ue ce ring read).trans (modCore_others _ n _)

/-- The effect of an instruction touches its own core alone. -/
theorem effect_others (i : Isa) : OthersStand n s (effect s n i) := by
  cases i with
  | ill => exact cpFault_others s n 1 0 0
  | ld f => exact doLd_others n ue ce ring f
  | tdld f => exact doTdld_others n ue ce ring f
  | move f => exact doMove_others n ue ce ring f
  | st f => exact .ite (cpFault_others s n 2 0 _) (.ite (cpFault_others s n 3 1 _) (modCore_others s n _))
  | tdst f => exact .ite (cpFault_others s n 2 0 _) (.ite (cpFault_others s n 3 1 _) (modCore_others s n _))
  | tdbase f => exact doTdbase_others n f
  | jalr f => exact .ite (cpFault_others s n 2 0 _) (modCore_others s n _)
  | waitc f => exact doWaitc_others n f
  | waitb f => exact doWaitb_others n f
  | cset f => exact .ite (cpFault_others s n 7 0 _) ((modCore_others s n _).trans (modCore_others _ n _))
  | cadd f =>
    exact (touchCounter_others s n _).trans
      (.ite (cpFault_others _ n 7 0 _) ((modCore_others _ n _).trans (modCore_others _ n _)))
  | cread f => exact (touchCounter_others s n _).trans (modCore_others _ n _)
  | signal f => exact doSignal_others n f
  | put f => exact doPut_others n f
  | tm op f => exact enqueueOp_others n _ _ _ _
  | vec f => exact enqueueOp_others n _ _ _ _
  | gather f => exact enqueueOp_others n _ _ _ _
  | scatter f => exact enqueueOp_others n _ _ _ _
  | call f => exact enqueueOp_others n _ _ _ _
  | alu | alui | cmp | cmpi | plog | aop | rdc | j | jal | djnz | fence | tdchk | endp | nop | tflg | cpri =>
    exact modCore_others s n _

theorem issue_others (g : Guard) (i : Isa) : OthersStand n s (issue s n g i) := by
  rcases issueWith_cases s n g i fun s => effect s n i with h | ⟨-, h⟩ | ⟨-, h⟩ | ⟨-, h⟩
  · rw [issue, h]
    exact .refl n s
  · rw [issue, h]
    exact cpFault_others s n 1 0 0
  · rw [issue, h]
    exact modCore_others s n _
  · rw [issue, h]
    exact effect_others n ue ce ring i

end

/-! ### The fetch (R133, R175, R189) -/

section
variable {s : State} {core : CoreId}

/-- The fetch passes: the core may issue, and the instruction lies in frames of its context without a fill and without an
uncorrectable word. -/
structure Fetches (s : State) (n : Nat) : Prop where
  runs : mayIssue (coreAt s n) = true
  inside : firstBad s (coreAt s n).pc.toNat 8 (writableKind (coreAt s n).ctx.toNat) = none
  filled : filling s (coreAt s n).pc.toNat 8 = false
  sound : cpUe s n (coreAt s n).pc.toNat 8 = none

theorem fetchIssue_idle {n : Nat} (h : mayIssue (coreAt s n) = false) : fetchIssue s n = s := if_pos (by rw [h]; rfl)

theorem fetchIssue_outside {n : Nat} (h : mayIssue (coreAt s n) = true)
    (bad : (firstBad s (coreAt s n).pc.toNat 8 (writableKind (coreAt s n).ctx.toNat)).isSome = true) :
    fetchIssue s n = cpFault s n 3 0 (coreAt s n).pc :=
  (if_neg (by rw [h]; decide)).trans (if_pos bad)

theorem fetchIssue_waits {n : Nat} (h : mayIssue (coreAt s n) = true)
    (inside : firstBad s (coreAt s n).pc.toNat 8 (writableKind (coreAt s n).ctx.toNat) = none)
    (fill : filling s (coreAt s n).pc.toNat 8 = true) : fetchIssue s n = s :=
  (if_neg (by rw [h]; decide)).trans ((if_neg (by rw [inside]; decide)).trans (if_pos fill))

/-- A fetch that passes: the word fetched decides. -/
theorem fetchIssue_eq {n : Nat} (ok : Fetches s n) {u : State} {w : W64}
    (h : fetchWord (correctRead s (coreAt s n).pc.toNat 8) n = (u, w)) : fetchIssue s n =
      match isaDecode w with
      | none => cpFault u n 1 0 0
      | some i => issue u n (wordGuard w) i := by
  rw [fetchIssue]
  dsimp only
  rw [ok.runs, ok.inside, ok.filled, ok.sound, h]
  rfl

/-- The fetch changes what its core has fetched, and the free-value counter. -/
theorem fetchWord_state (s : State) (n : Nat) :
    ∃ d, (fetchWord s n).1 = { modCore s n (fetchFresh s.mem) with draw := d } := by
  unfold fetchWord
  dsimp only
  split
  · exact ⟨s.draw, rfl⟩
  · exact ⟨s.draw + 1, rfl⟩

/-- Where no own store waits in what was fetched ahead, the word is the one that the fetch sees. -/
theorem fetchWord_word (h : (fetchFresh s.mem (coreAt s core.val)).ahead = []) : (fetchWord s core.val).2 =
    BitVec.ofNat 64 (readLe (fetchFresh s.mem (coreAt s core.val)).imem
      (fetchFresh s.mem (coreAt s core.val)).pc.toNat 8) := by
  rw [fetchWord]
  dsimp only
  rw [coreAt_modCore_same, h]
  rfl

theorem fetchFresh_again {c : Core} (m : List Host.Cell) (h : c.refetch = true) (none : c.ahead = []) :
    fetchFresh m c = { c with refetch := false, imem := overStores m c.stores } := by
  rw [fetchFresh, if_pos h, none]
  rfl

theorem fetchFresh_before {c : Core} (m : List Host.Cell) (h : c.refetch = false) : fetchFresh m c = c :=
  if_neg (by rw [h]; decide)

theorem fetchFresh_keeps (m : List Host.Cell) (c : Core) : (fetchFresh m c).pc = c.pc ∧ (fetchFresh m c).s = c.s := by
  unfold fetchFresh
  split <;> exact ⟨rfl, rfl⟩

end

/-- What a fetch that passes leaves, and the word that it finds where no own store waits in what was fetched ahead. -/
theorem fetchWord_of_correctRead {s u : State} {core : CoreId} {w : W64} {a k : Nat}
    (h : fetchWord (correctRead s a k) core.val = (u, w)) :
    u.mem = s.mem ∧ (coreAt u core.val).pc = (coreAt s core.val).pc ∧ (coreAt u core.val).s = (coreAt s core.val).s ∧
    ((coreAt s core.val).ahead = [] → (coreAt s core.val).refetch = true →
      w = BitVec.ofNat 64 (readLe (overStores s.mem (coreAt s core.val).stores) (coreAt s core.val).pc.toNat 8)) ∧
    ((coreAt s core.val).ahead = [] → (coreAt s core.val).refetch = false →
      w = BitVec.ofNat 64 (readLe (coreAt s core.val).imem (coreAt s core.val).pc.toNat 8)) := by
  have mem : (correctRead s a k).mem = s.mem := (correctRead_frame s a k).2
  obtain ⟨b, slice⟩ := correctRead_slicesOnly s a k core.val
  obtain ⟨d, state⟩ := fetchWord_state (correctRead s a k) core.val
  have hu : u = { modCore (correctRead s a k) core.val (fetchFresh s.mem) with draw := d } := by
    rw [← mem, ← state, h]
  have hw : w = (fetchWord (correctRead s a k) core.val).2 := by rw [h]
  have after : coreAt u core.val = fetchFresh s.mem { coreAt s core.val with cpb := b } := by
    rw [hu, ← slice]
    exact coreAt_modCore_same _ core _
  obtain ⟨pc, scalars⟩ := fetchFresh_keeps s.mem { coreAt s core.val with cpb := b }
  refine ⟨by rw [hu]; exact mem, by rw [after, pc], by rw [after, scalars], fun none again => ?_, fun none before => ?_⟩
  · have fresh := fetchFresh_again (c := { coreAt s core.val with cpb := b }) s.mem again none
    rw [hw, fetchWord_word (by rw [mem, slice, fresh]; exact none), mem, slice, fresh]
  · have fresh := fetchFresh_before (c := { coreAt s core.val with cpb := b }) s.mem before
    rw [hw, fetchWord_word (by rw [mem, slice, fresh]; exact none), mem, slice, fresh]

/-- Settles O30: the fetch by its four outcomes and `fetchWord_of_correctRead`, the judgement at issue by the laws of `issue`,
and the cores an instruction touches by `issue_others`. -/
theorem issueFetchesAndJudges : Obligations.IssueFetchesAndJudges := by
  rintro s core g _ rfl
  refine ⟨fun runs inside fill => ?_, fun u w runs inside filled sound h => ?fetch, fun runs bad => ?_, fun idle => ?_,
    fun i runs ok free skip => issue_skipped runs ok free skip, fun i runs bad => issue_illegal g runs bad,
    fun i idle => issue_waits g i idle, fun runs => ?ill,
    fun i => ⟨(issue_frame s core.val g i).2, fun ue ce ring => issue_others core.val ue ce ring g i⟩⟩
  · exact congrArg Host.Outcome.next (fetchIssue_waits runs inside fill)
  case fetch =>
    have fetched : exec (.instructionIssue core) s = .next (fetchIssue s core.val) := rfl
    rw [fetched, fetchIssue_eq ⟨runs, inside, filled, sound⟩ h]
    exact ⟨fun i hi => by rw [hi], fun undefined => by rw [undefined], fetchWord_of_correctRead h⟩
  · exact congrArg Host.Outcome.next (fetchIssue_outside runs bad)
  · exact congrArg Host.Outcome.next (fetchIssue_idle idle)
  case ill =>
    obtain ⟨k, after⟩ := coreAt_cpFault s core 1 0 0
    exact ⟨_, congrArg Host.Outcome.next (issue_illegal g (i := .ill) runs rfl), congrArg Core.state after,
      congrArg Core.stopNext after, (congrArg Core.pc after :), (congrArg Core.s after :), (cpFault_frame s core.val 1 0 0).2⟩

end Sys2Proof.Machine
end

section
/-! PROOFS. COR_CTL: RUN, STEP, HALT, CRESET and STALL_CLR (R133 to R136, R153, R157, Table 4-10). -/

namespace Sys2Proof.Machine

/-! ### The word written -/

/-- A command bit set beside the field CTX leaves that field as it is. -/
theorem ctxField_or (v : W32) {k : W32} (h : k.extractLsb' 24 4 = 0) : (v ||| k).extractLsb' 24 4 = v.extractLsb' 24 4 := by
  rw [BitVec.extractLsb'_or, h]
  exact BitVec.or_zero

theorem ctxBits_or (v : W32) {k : W32} (h : k.extractLsb' 24 4 = 0) : bits (v ||| k) 24 4 = bits v 24 4 := by
  rw [bits, ctxField_or v h, bits]

/-- The command bits of the words that the commands set. -/
theorem commandBits : (bit 1#32 0 = true ∧ bit 1#32 1 = false ∧ bit 1#32 2 = false ∧ bit 1#32 3 = false) ∧
    (bit 2#32 1 = true ∧ bit 2#32 2 = false ∧ bit 2#32 3 = false) ∧ (bit 4#32 2 = true ∧ bit 4#32 3 = false) ∧
    bit 8#32 3 = true := by decide

theorem ctlCommand_run {v : W32} (halt : bit v 1 = false) (step : bit v 2 = false) (creset : bit v 3 = false) :
    ctlCommand (v ||| 1) = some 0 := by simp [ctlCommand, halt, step, creset, commandBits]

theorem ctlCommand_halt {v : W32} (step : bit v 2 = false) (creset : bit v 3 = false) : ctlCommand (v ||| 2) = some 1 := by
  simp [ctlCommand, step, creset, commandBits]

theorem ctlCommand_step {v : W32} (creset : bit v 3 = false) : ctlCommand (v ||| 4) = some 2 := by
  simp [ctlCommand, creset, commandBits]

theorem ctlCommand_creset (v : W32) : ctlCommand (v ||| 8) = some 3 := by simp [ctlCommand, commandBits]

/-- A word without a command bit. -/
theorem ctlCommand_none {v : W32} (h : bits v 0 4 = 0) : ctlCommand (v ||| 0x8000) = none := by
  have clear : (v ||| 0x8000).extractLsb' 0 4 = 0 := by
    rw [BitVec.extractLsb'_or, show v.extractLsb' 0 4 = 0 from BitVec.eq_of_toNat_eq h]
    rfl
  have low (i : Nat) (hi : i < 4) : bit (v ||| 0x8000) i = false := by
    have read := congrArg (fun x => x.getLsbD i) clear
    rw [BitVec.getLsbD_extractLsb'] at read
    rw [bit]
    simpa only [hi, decide_true, Bool.true_and, Nat.zero_add, BitVec.ofNat_eq_ofNat, BitVec.getLsbD_zero] using read
  rw [ctlCommand, List.find?_eq_none]
  intro i hi
  rw [low i (by simp only [List.mem_cons, List.not_mem_nil, or_false] at hi; omega)]
  decide

/-! ### Accepted and refused (Table 4-10) -/

/-- COR_CTL lies in its core's domain (Table 18-1). -/
theorem corCtl_reachable (s : State) (n : CoreId) : regReachable s (corReg n.val 0) = domainOn s n.val := by
  have ho : 0 < 0x10000 := by decide
  simp [regReachable, regDomain_corReg n ho, corReg_range n ho, corReg_core n ho, corReg_offset n ho]

section
variable {s : State} {core : CoreId} {via : Via} {v : W32}

/-- A write of COR_CTL whose authority is given, of a core whose domain is on. -/
theorem corCtl_accepted (w : mayWrite s via = true) (on : domainOn s core.val = true) :
    guarded s via (corReg core.val 0) (fun s => corCtlWrite s core.val v) = corCtlWrite s core.val v :=
  guarded_accepted _ w ((corCtl_reachable s core).trans on)

/-- What RUN and STEP demand of a core: HALTED, in a context that exists, with its PC in that context's space. -/
theorem ctlRefusal_starts {n : Nat} (halted : (coreAt s n).state = 0) (ctx : ctxExists s (bits v 24 4) = true)
    (space : inSpace s (bits v 24 4) (coreAt s n).pc.toNat 8 = true) : ctlRefusal s n v = 0 := by
  simp [ctlRefusal, halted, ctx, space]

theorem ctlRefusal_running {n : Nat} (h : (coreAt s n).state ≠ 0) (run : ctlCommand v = some 0) : ctlRefusal s n v = 1 := by
  have running : ((coreAt s n).state != 0) = true := by simpa using h
  rw [ctlRefusal, run, running]
  rfl

/-- A command that starts nothing, in the core's own context, is not refused. -/
theorem ctlRefusal_stays {n : Nat} (ctx : bits v 24 4 = (coreAt s n).ctx.toNat) (run : ctlCommand v ≠ some 0)
    (step : ctlCommand v ≠ some 2) : ctlRefusal s n v = 0 := by
  simp [ctlRefusal, ctx, run, step]

theorem corCtlWrite_refused {n : Nat} {e : BitVec 4} (h : ctlRefusal s n v = e) (he : e ≠ 0) :
    corCtlWrite s n v = corErr s n e := by
  rw [corCtlWrite, h]
  exact if_pos (by simpa using he)

/-- The core as the fields of COR_CTL leave it, and then the command. -/
theorem corCtlWrite_eq {n : Nat} (h : ctlRefusal s n v = 0) : corCtlWrite s n v =
    let t := modCore s n fun c => ctlFields c v
    match ctlCommand v with
    | some 3 => creset t n
    | some 2 => if stopped t then t else modCore t n fun c => startCore c true
    | some 1 => modCore t n haltCore
    | some 0 => if stopped t then t else modCore t n fun c => startCore c false
    | _ => t := by
  rw [corCtlWrite, h]
  rfl

theorem corCtlWrite_fields {n : Nat} (h : ctlRefusal s n v = 0) (none : ctlCommand v = none) :
    corCtlWrite s n v = modCore s n fun c => ctlFields c v := by
  rw [corCtlWrite_eq h, none]

theorem corCtlWrite_creset {n : Nat} (h : ctlRefusal s n v = 0) (reset : ctlCommand v = some 3) :
    corCtlWrite s n v = creset (modCore s n fun c => ctlFields c v) n := by
  rw [corCtlWrite_eq h, reset]
  rfl

theorem corCtlWrite_halt {n : Nat} (h : ctlRefusal s n v = 0) (halt : ctlCommand v = some 1) :
    corCtlWrite s n v = modCore s n fun c => haltCore (ctlFields c v) := by
  rw [corCtlWrite_eq h, halt]
  exact modCore_modCore s n _ _

theorem corCtlWrite_run {n : Nat} (h : ctlRefusal s n v = 0) (run : ctlCommand v = some 0) (on : stopped s = false) :
    corCtlWrite s n v = modCore s n fun c => startCore (ctlFields c v) false := by
  rw [corCtlWrite_eq h, run]
  exact (if_neg (Bool.eq_false_iff.mp on)).trans (modCore_modCore s n _ _)

theorem corCtlWrite_step {n : Nat} (h : ctlRefusal s n v = 0) (step : ctlCommand v = some 2) (on : stopped s = false) :
    corCtlWrite s n v = modCore s n fun c => startCore (ctlFields c v) true := by
  rw [corCtlWrite_eq h, step]
  exact (if_neg (Bool.eq_false_iff.mp on)).trans (modCore_modCore s n _ _)

end

theorem startCore_tested {c : Core} (h : c.selfTested = true) (single : Bool) : startCore c single =
    { dropWait c with state := if single then 2 else 1, stopNext := 0, refetch := true, ahead := [] } := if_pos h

/-- RUN and STEP of a core that they accept: it runs in the context named, with its PC and registers as they were. -/
theorem corCtlWrite_starts {s : State} {core : CoreId} {v k : W32} {single : Bool} (halted : (coreAt s core.val).state = 0)
    (tested : (coreAt s core.val).selfTested = true) (runs : stopped s = false) (ctx : ctxExists s (bits v 24 4) = true)
    (space : inSpace s (bits v 24 4) (coreAt s core.val).pc.toNat 8 = true) (hk : k.extractLsb' 24 4 = 0)
    (command : ctlCommand (v ||| k) = some (if single then 2 else 0)) :
    ∃ t, corCtlWrite s core.val (v ||| k) = t ∧ sameButCore s t core.val ∧
      (coreAt t core.val).state = (if single then 2 else 1) ∧ (coreAt t core.val).pc = (coreAt s core.val).pc ∧
      (coreAt t core.val).ctx = v.extractLsb' 24 4 ∧ (coreAt t core.val).s = (coreAt s core.val).s := by
  have named := ctxBits_or v hk
  have ok : ctlRefusal s core.val (v ||| k) = 0 := ctlRefusal_starts halted (named ▸ ctx) (named ▸ space)
  have after := coreAt_modCore_same s core fun c => startCore (ctlFields c (v ||| k)) single
  rw [startCore_tested (c := ctlFields _ _) tested] at after
  have starts : corCtlWrite s core.val (v ||| k) =
      modCore s core.val fun c => startCore (ctlFields c (v ||| k)) single := by
    cases single
    · exact corCtlWrite_run ok command runs
    · exact corCtlWrite_step ok command runs
  exact ⟨_, starts, sameButCore_modCore s _ _, congrArg Core.state after, (congrArg Core.pc after :),
    (congrArg Core.ctx after).trans (ctxField_or v hk), (congrArg Core.s after :)⟩

theorem haltCore_running {c : Core} (h : c.state = 1 ∨ c.state = 2) :
    haltCore c = { dropWait c with state := 3, stopNext := 1 } := if_pos (by simpa using h)

/-! ### The core reset (R136) -/

theorem emptyArrays_clear (c : Core) (hit : Nat → Bool) (t : Fin 4) :
    (emptyArrays c hit fun _ => false).arrays[t] = c.arrays[t].clear := by
  simp [emptyArrays]

/-- A core without work, with the STOP code of a reset, or draining towards it. -/
structure IsReset (c : Core) : Prop where
  queues : ∀ u < 6, (coreUnit c u).queue = [] ∧ (coreUnit c u).flight = []
  movers : ∀ m < 4, c.movers.toList.getD m [] = []
  arrays : ∀ u : Fin 4, c.arrays[u].loaded = false ∧ c.arrays[u].tile = []
  pending : c.sPend = 0
  wait : c.wait = .none
  stop : c.state = 0 ∧ c.stop = 5 ∨ c.state = 3 ∧ c.stopNext = 5

/-- A core that a reset leaves, by the trestles whose instruction was abandoned. -/
def resetCore (c : Core) (hit : Nat → Bool) : Core :=
  let c := { dropWait c with
    units := c.units.map fun y => { y with queue := [], flight := [] }
    movers := Vector.replicate 4 []
    sPend := 0, aPend := 0, pPend := 0, rets := [], tflgCp := [], cpriOut := 0 }
  let c := emptyArrays c hit fun _ => false
  if c.state == 0 then { c with stop := 5 } else { c with state := 3, stopNext := 5 }

/-- A core reset abandons what runs, and then empties the core. -/
theorem creset_eq (s : State) (n : Nat) : ∃ t hit, creset s n = modCore t n fun c => resetCore c hit := ⟨_, _, rfl⟩

/-- Every unit of a core with its queue and its flight emptied. -/
theorem emptied_units (v : Vector CUnit 6) {u : Nat} (h : u < 6) :
    ((v.map fun y => { y with queue := [], flight := [] }).toList.getD u CUnit.empty).queue = [] ∧
      ((v.map fun y => { y with queue := [], flight := [] }).toList.getD u CUnit.empty).flight = [] := by
  simp [List.getD, h]

theorem resetCore_isReset (c : Core) (hit : Nat → Bool) : IsReset (resetCore c hit) := by
  have emptied (d : Core) (f : Nat → Bool) (t : Fin 4) : (emptyArrays d f fun _ => false).arrays[t].loaded = false ∧
      (emptyArrays d f fun _ => false).arrays[t].tile = [] := by
    rw [emptyArrays_clear]
    exact ⟨rfl, rfl⟩
  have movers (m : Nat) (h : m < 4) : (Vector.replicate 4 ([] : List Xfer)).toList.getD m [] = [] := by
    match m, h with
    | 0, _ | 1, _ | 2, _ | 3, _ => rfl
  unfold resetCore
  dsimp only
  split
  · next halted =>
    exact ⟨fun u h => emptied_units c.units h, movers, emptied _ hit, rfl, rfl, .inl ⟨by simpa using halted, rfl⟩⟩
  · exact ⟨fun u h => emptied_units c.units h, movers, emptied _ hit, rfl, rfl, .inr ⟨rfl, rfl⟩⟩

/-- Settles O31: each command by `corCtlWrite`, and the reset core by `resetCore_isReset`. -/
theorem coreControlCommands : Obligations.CoreControlCommands := by
  rintro s core via v w on _ _ rfl rfl
  refine ⟨fun b1 b2 b3 halted tested runs ctx space => ?run, fun b3 halted tested runs ctx space => ?step,
    fun b1 b2 b3 busy => ?refused, fun own b2 b3 busy => ?halt, fun own => ?creset, fun own none => ?stall⟩
  case run =>
    obtain ⟨t, starts, rest⟩ :=
      corCtlWrite_starts (k := 1) (single := false) halted tested runs ctx space rfl (ctlCommand_run b1 b2 b3)
    exact ⟨t, congrArg Host.Outcome.next ((corCtl_accepted w on).trans starts), rest⟩
  case step =>
    obtain ⟨t, starts, rest⟩ :=
      corCtlWrite_starts (k := 4) (single := true) halted tested runs ctx space rfl (ctlCommand_step b3)
    exact ⟨t, congrArg Host.Outcome.next ((corCtl_accepted w on).trans starts), rest⟩
  case refused =>
    have refusal := ctlRefusal_running busy (ctlCommand_run b1 b2 b3)
    exact congrArg Host.Outcome.next ((corCtl_accepted w on).trans (corCtlWrite_refused refusal (by decide)))
  case halt =>
    have command := ctlCommand_halt b2 b3
    have ok : ctlRefusal s core.val (v ||| 2) = 0 :=
      ctlRefusal_stays ((ctxBits_or v rfl).trans own) (by rw [command]; decide) (by rw [command]; decide)
    have after := coreAt_modCore_same s core fun c => haltCore (ctlFields c (v ||| 2))
    rw [haltCore_running (c := ctlFields _ _) busy] at after
    exact ⟨_, congrArg Host.Outcome.next ((corCtl_accepted w on).trans (corCtlWrite_halt ok command)),
      sameButCore_modCore s _ _, congrArg Core.state after, congrArg Core.stopNext after, congrArg Core.wait after,
      (congrArg Core.pc after :), (congrArg Core.units after :), (congrArg Core.movers after :)⟩
  case creset =>
    have command := ctlCommand_creset v
    have ok : ctlRefusal s core.val (v ||| 8) = 0 :=
      ctlRefusal_stays ((ctxBits_or v rfl).trans own) (by rw [command]; decide) (by rw [command]; decide)
    obtain ⟨t, hit, reset⟩ := creset_eq (modCore s core.val fun c => ctlFields c (v ||| 8)) core.val
    obtain ⟨queues, movers, arrays, pending, wait, stop⟩ := resetCore_isReset (coreAt t core.val) hit
    refine ⟨_, congrArg Host.Outcome.next ((corCtl_accepted w on).trans ((corCtlWrite_creset ok command).trans reset)), ?_⟩
    simp only [xfers, coreAt_modCore_same]
    exact ⟨queues, movers, arrays, pending, wait, stop⟩
  case stall =>
    have command := ctlCommand_none none
    have ok : ctlRefusal s core.val (v ||| 0x8000) = 0 :=
      ctlRefusal_stays ((ctxBits_or v rfl).trans own) (by rw [command]; decide) (by rw [command]; decide)
    have after := coreAt_modCore_same s core fun c => ctlFields c (v ||| 0x8000)
    have clear : bit (v ||| 0x8000) 15 = true := by rw [bit_or]; exact Bool.or_true _
    exact ⟨_, congrArg Host.Outcome.next ((corCtl_accepted w on).trans (corCtlWrite_fields ok command)),
      sameButCore_modCore s _ _, (congrArg Core.stall after).trans (if_pos clear), (congrArg Core.state after :),
      (congrArg Core.pc after :), (congrArg Core.s after :)⟩

end Sys2Proof.Machine
end

section
/-! PROOFS. The transfers of a mover, and the landing of remote rows (R145, R146, R158, R319, R320, R331, R377, R378). -/

namespace Sys2Proof.Machine

/-! ### Transfers of a mover -/

theorem xfers_of_cores {s t : State} (h : t.cores = s.cores) (n m : Nat) : xfers t n m = xfers s n m := by
  rw [xfers, coreAt_of_cores h, xfers]

theorem xfers_setXfers {s : State} {n m : Nat} (hn : n < 16) (hm : m < 4) (l : List Xfer) :
    xfers (setXfers s n m l) n m = l := by
  rw [xfers, setXfers, coreAt_modCore, if_pos ⟨rfl, hn⟩, vmod_getD, if_pos ⟨rfl, hm⟩]

theorem xfers_modXfer {s : State} {n m : Nat} (hn : n < 16) (hm : m < 4) (tag : W16) (f : Xfer → Xfer) :
    xfers (modXfer s n m tag f) n m = (xfers s n m).map fun x => if x.tag = tag then f x else x := by
  simp only [modXfer, xfers_setXfers hn hm, beq_iff_eq]

/-! ### Pieces held and written (R320, R377) -/

/-- The pieces held of a transfer's row. -/
def heldPieces (s : State) (src : Coord) (tag : W16) : List BulkData :=
  ((s.hut.landing.find? (sameXfer src tag)).map (·.pieces)).getD []

theorem heldPieces_eq (s : State) (src : Coord) (tag : W16) :
    (match s.hut.landing.find? (sameXfer src tag) with
      | some l => l.pieces
      | none => []) = heldPieces s src tag := by
  unfold heldPieces
  cases s.hut.landing.find? (sameXfer src tag) <;> rfl

theorem find_dropped (l : List LandingRow) (src : Coord) (tag : W16) :
    (l.filter fun x => !sameXfer src tag x).find? (sameXfer src tag) = none := by
  rw [List.find?_eq_none]
  intro x hx
  simpa using (List.mem_filter.mp hx).2

/-- A row held anew is the one found. -/
theorem find_held (l : List LandingRow) (src : Coord) (tag : W16) (ps : List BulkData) :
    ((l.filter fun x => !sameXfer src tag x) ++ [(⟨src, tag, ps⟩ : LandingRow)]).find? (sameXfer src tag) =
      some ⟨src, tag, ps⟩ := by
  have hit : sameXfer src tag (⟨src, tag, ps⟩ : LandingRow) = true := by simp [sameXfer]
  rw [List.find?_append, find_dropped, List.find?_cons, hit]
  rfl

theorem cupWriteRow_mem (s : State) (a : Nat) (bs : List Byte) (bad : List Nat) :
    (cupWriteRow s a bs bad).mem = (cupWrite s a bs none).mem :=
  foldl_keeps State.mem (fun s o => poisonWord s ((a + o) / 8)) (fun _ _ => rfl) bad _

/-- A row lands within its bytes. -/
theorem cupWriteRow_other {s : State} (wf : Memory.wf s.mem = true) {a x : Nat} {bs : List Byte} (bad : List Nat)
    (hx : x < a ∨ a + bs.length ≤ x) : readByte (cupWriteRow s a bs bad).mem x = readByte s.mem x := by
  rw [cupWriteRow_mem, cupWrite_other wf none hx]

/-- Where no word is uncorrectable, the bytes of the row land. -/
theorem cupWriteRow_puts {s : State} (wf : Memory.wf s.mem = true) (sound : s.ue = []) {a j : Nat} {bs : List Byte}
    (bad : List Nat) (hj : j < bs.length) : readByte (cupWriteRow s a bs bad).mem (a + j) = bs.getD j 0 := by
  rw [cupWriteRow_mem, cupWrite_sound sound, readByte_writeBytes a bs _ wf, if_pos (by omega), Nat.add_sub_cancel_left]

/-! ### A piece arrives (R319, R320, R331) -/

section
variable {s : State} {src : Coord} {ctx : Nat} {epoch : W16} {f : BulkData}

theorem bulkLands_outside (h : formed s = false) : bulkLands s src ctx epoch f = s := if_pos (by rw [h]; rfl)

section
variable (part : formed s = true)
include part

theorem bulkLands_recorded (known : s.hut.records.any (sameRecord src f.tag) = true) :
    bulkLands s src ctx epoch f = if f.xferEnd then dropRecord s src f.tag else s := by
  rw [bulkLands, part, known]
  rfl

variable (unknown : s.hut.records.any (sameRecord src f.tag) = false)
include unknown

/-- Of another epoch, or outside the frames that take remote rows. -/
theorem bulkLands_refused
    (h : epoch ≠ s.own.epoch.setWidth 16 ∨ inFrames s f.addr.toNat f.data.length (landKind ctx) = false) :
    bulkLands s src ctx epoch f =
      let t := inject (dropRow s src f.tag) src 0 (.bulkCtl ⟨f.tag, true, f.row⟩)
      if f.xferEnd || 256 ≤ t.hut.records.length then t
      else { t with hut := { t.hut with records := t.hut.records ++ [⟨src, f.tag⟩] } } := by
  have refused : (epoch != s.own.epoch.setWidth 16 || !inFrames s f.addr.toNat f.data.length (landKind ctx)) = true := by
    simpa using h
  rw [bulkLands, part, unknown, refused]
  rfl

variable (now : epoch = s.own.epoch.setWidth 16) (inside : inFrames s f.addr.toNat f.data.length (landKind ctx) = true)
include now inside

/-- A piece that passes is held, or with the last of its row the row lands, is counted and answered. -/
theorem bulkLands_passes : bulkLands s src ctx epoch f =
    let ps := heldPieces s src f.tag ++ [f]
    let t := dropRow s src f.tag
    if !f.rowEnd then { t with hut := { t.hut with landing := t.hut.landing ++ [⟨src, f.tag, ps⟩] } }
    else
      let u := landPieces t ps
      let w := if f.cntEn then bumpCounter u (sliceOf ((ps.head?.map fun p => p.addr.toNat).getD 0)) f.cnt.toNat else u
      if f.xferEnd then inject w src 0 (.bulkCtl ⟨f.tag, false, 0⟩) else w := by
  have passes : (epoch != s.own.epoch.setWidth 16 || !inFrames s f.addr.toNat f.data.length (landKind ctx)) = false := by
    simp [now, inside]
  rw [bulkLands, part, unknown, passes, ← heldPieces_eq]
  rfl

/-- With the last piece of a row of which none was held, the memory takes that piece. -/
theorem bulkLands_mem (last : f.rowEnd = true) (alone : s.hut.landing.find? (sameXfer src f.tag) = none) :
    (bulkLands s src ctx epoch f).mem = (cupWriteRow (dropRow s src f.tag) f.addr.toNat f.data f.bad).mem := by
  have held : heldPieces s src f.tag = [] := by rw [heldPieces, alone]; rfl
  rw [bulkLands_passes part unknown now inside, held, last]
  dsimp only
  have counted (u : State) (c k : Nat) : (if f.cntEn then bumpCounter u c k else u).mem = u.mem := by
    split
    · exact (bumpCounter_frame u c k).2
    · rfl
  have answered (u : State) : (if f.xferEnd then inject u src 0 (.bulkCtl ⟨f.tag, false, 0⟩) else u).mem = u.mem := by
    split
    · exact (inject_frame u src 0 _).2
    · rfl
  exact (answered _).trans (counted _ _ _)

end

end

/-! ### A refusal (R158, R320) -/

theorem misroute_hut (s : State) (ev : Bool) : ∃ k, (misroute s ev).hut = { s.hut with misroute := k } := by
  refine ⟨satInc s.hut.misroute, ?_⟩
  unfold misroute
  dsimp only
  split
  · generalize counted : { s with hut := { s.hut with misroute := satInc s.hut.misroute } } = t
    obtain ⟨_, _, _, e⟩ := postReg_eventsOnly t 5 none 0x40004 8 0
    rw [e, ← counted]
  · rfl

/-- Of the Hutch, sending a frame changes the count of misrouted ones alone. -/
theorem inject_hut (s : State) (dest : Coord) (ctx : Nat) (b : Body) :
    ∃ k, (inject s dest ctx b).hut = { s.hut with misroute := k } := by
  unfold inject forward
  split
  · split
    · exact ⟨_, rfl⟩
    · split
      · exact ⟨_, rfl⟩
      · exact ⟨_, rfl⟩
      · exact misroute_hut s true
  · exact ⟨_, rfl⟩

@[simp] theorem inject_cores (s : State) (dest : Coord) (ctx : Nat) (b : Body) : (inject s dest ctx b).cores = s.cores := by
  obtain ⟨_, _, _, _, _, e⟩ := inject_sentOnly s dest ctx b
  rw [e]

/-- A piece refused writes nothing, drops what is held of its row and is remembered, but for the last of a transfer and where
the records are full. -/
theorem bulkLands_remembers {s : State} {src : Coord} {ctx : Nat} {epoch : W16} {f : BulkData} (part : formed s = true)
    (unknown : s.hut.records.any (sameRecord src f.tag) = false)
    (h : epoch ≠ s.own.epoch.setWidth 16 ∨ inFrames s f.addr.toNat f.data.length (landKind ctx) = false) :
    ∀ t, t = bulkLands s src ctx epoch f → t.mem = s.mem ∧ t.cores = s.cores ∧
      t.hut.records = (if f.xferEnd = true ∨ 256 ≤ s.hut.records.length then s.hut.records
        else s.hut.records ++ [⟨src, f.tag⟩]) ∧
      t.hut.landing = s.hut.landing.filter fun l => !sameXfer src f.tag l := by
  rintro t rfl
  rw [bulkLands_refused part unknown h]
  have mem := (inject_frame (dropRow s src f.tag) src 0 (.bulkCtl ⟨f.tag, true, f.row⟩)).2
  have cores := inject_cores (dropRow s src f.tag) src 0 (.bulkCtl ⟨f.tag, true, f.row⟩)
  obtain ⟨k, hut⟩ := inject_hut (dropRow s src f.tag) src 0 (.bulkCtl ⟨f.tag, true, f.row⟩)
  have records := congrArg Hut.records hut
  have landing := congrArg Hut.landing hut
  dsimp only
  generalize inject (dropRow s src f.tag) src 0 (.bulkCtl ⟨f.tag, true, f.row⟩) = t at mem cores records landing ⊢
  have full : (f.xferEnd || decide (256 ≤ t.hut.records.length)) = true ↔
      f.xferEnd = true ∨ 256 ≤ s.hut.records.length := by
    rw [records, Bool.or_eq_true, decide_eq_true_eq]
    rfl
  by_cases known : f.xferEnd = true ∨ 256 ≤ s.hut.records.length
  · rw [if_pos (full.mpr known), if_pos known]
    exact ⟨mem, cores, records, landing⟩
  · rw [if_neg (mt full.mp known), if_neg known]
    exact ⟨mem, cores, congrArg (· ++ [⟨src, f.tag⟩]) records, landing⟩

/-! ### Replies (R146, R158) -/

section
variable {s : State} {src : Coord} {b : BulkCtl}

theorem landedReply_unknown (h : xferOf s src b.tag = none) : landedReply s src b = s := by rw [landedReply, h]

theorem refusedReply_unknown (h : xferOf s src b.tag = none) : refusedReply s src b = s := by rw [refusedReply, h]

variable {x : Xfer} (h : xferOf s src b.tag = some x)
include h

theorem landedReply_eq : landedReply s src b =
    if x.srcRead && !x.refused then freeXfer s (bits b.tag 12 4) (bits b.tag 10 2) x else s := by
  rw [landedReply, h]

theorem refusedReply_again (again : x.refused = true) : refusedReply s src b = s := by
  rw [refusedReply, h]
  exact if_pos again

theorem refusedReply_first (first : x.refused = false) {u : State}
    (hu : u = post (modXfer s (bits b.tag 12 4) (bits b.tag 10 2) x.tag fun z => { z with refused := true }) 0 5
      (some ⟨x.ctx.toNat, x.ctx.isLt⟩) (.refused b)) : refusedReply s src b =
    if x.srcRead && !unsent u x.tag then freeXfer u (bits b.tag 12 4) (bits b.tag 10 2) { x with refused := true }
    else u := by
  rw [refusedReply, h, hu]
  exact if_neg (by rw [first]; decide)

end

/-- After 1 ms without a piece the record is released, and what is held lands. -/
theorem recordTimeout_eq (s : State) (src : Coord) (tag : W16) : recordTimeout s src tag =
    landPieces (dropRow (dropRecord s src tag) src tag) (heldPieces s src tag) := by
  rw [← heldPieces_eq]
  rfl

/-- Settles O36: pieces by `bulkLands_passes` and `bulkLands_remembers`, replies by `landedReply_eq` and
`refusedReply_first`, the timeout by `recordTimeout_eq`. -/
theorem remoteRowsLandOrAreRefused : Obligations.RemoteRowsLandOrAreRefused := by
  intro s src ctx epoch f b tag x
  have arrives : exec (.bulkData src ⟨ctx, epoch⟩ f) s = .next (bulkLands s src ctx.val epoch f) := rfl
  rw [arrives]
  refine ⟨fun out => ?_, fun part known => ?_,
    fun part unknown => ⟨fun now inside ps u w hps hu hw => ?passes, fun refused => ?refused⟩, fun none => ⟨?_, ?_⟩, fun found n m hn hm => ?reply, ?timeout, fun none => ?released⟩
  · rw [bulkLands_outside out]
  · rw [bulkLands_recorded part known]
  case passes =>
    have lands := bulkLands_passes part unknown now inside
    have hps : heldPieces s src f.tag ++ [f] = ps := hps.symm
    refine ⟨fun more => ⟨_, rfl, ?_⟩, fun last => ⟨fun more => ?_, fun ends => ?_, fun alone wf => ⟨_, rfl, ?_⟩⟩⟩
    · rw [lands, hps, more]
      exact ⟨rfl, rfl, find_held s.hut.landing src f.tag ps⟩
    · rw [lands, hps, last, more, hw, hu]
      rfl
    · rw [lands, hps, last, ends, hw, hu]
      rfl
    · rw [bulkLands_mem part unknown now inside last alone]
      have wf' : Memory.wf (dropRow s src f.tag).mem = true := wf
      exact ⟨fun a ha => cupWriteRow_other wf' f.bad ha, fun sound _ _ _ _ j hj => cupWriteRow_puts wf' sound f.bad hj⟩
  case refused => exact ⟨_, rfl, bulkLands_remembers part unknown refused _ rfl⟩
  · exact congrArg Host.Outcome.next (landedReply_unknown none)
  · exact congrArg Host.Outcome.next (refusedReply_unknown none)
  case reply =>
    subst hn hm
    have landed : exec (.landed src b) s = .next (landedReply s src b) := rfl
    have refused : exec (.refused src b) s = .next (refusedReply s src b) := rfl
    rw [landed, refused, landedReply_eq found]
    refine ⟨fun first read => ?_, fun h => ?_, fun again => ?_, fun first u hu => ?first⟩
    · rw [first, read]
      rfl
    · rw [if_neg (by rcases h with h | h <;> simp [h])]
    · rw [refusedReply_again found again]
    case first =>
      rw [refusedReply_first found first hu]
      refine ⟨fun h => ?_, fun read sent => ?_, ?_, ?_⟩
      · rw [if_neg (by rcases h with h | h <;> simp [h])]
      · rw [read, sent]
        rfl
      · rw [hu]
        exact (post_frame _ _ _ _ _).2
      · obtain ⟨_, _, _, posted⟩ := post_eventsOnly
          (modXfer s (bits b.tag 12 4) (bits b.tag 10 2) x.tag fun z => { z with refused := true }) 0 5
          (some ⟨x.ctx.toNat, x.ctx.isLt⟩) (.refused b)
        rw [xfers_of_cores (congrArg State.cores (hu.trans posted))]
        exact xfers_modXfer (BitVec.isLt _) (BitVec.isLt _) _ _
  case timeout => exact congrArg Host.Outcome.next (recordTimeout_eq s src tag)
  case released =>
    have held : heldPieces s src tag = [] := by rw [heldPieces, none]; rfl
    refine ⟨_, rfl, ?_⟩
    rw [recordTimeout_eq, held]
    exact ⟨rfl, rfl, rfl⟩

end Sys2Proof.Machine
end

section
/-! PROOFS. What is held of the last row of a local transfer, where two transfers of a mover share a TAG (R143 to R147). -/

namespace Sys2Proof.Machine

/-! ### What leaves the transfers of a mover alone -/

/-- Every core's transfers stand as they are. -/
def XfersKept (s t : State) : Prop := ∀ n m, xfers t n m = xfers s n m

theorem XfersKept.trans {s t u : State} (st : XfersKept s t) (tu : XfersKept t u) : XfersKept s u :=
  fun n m => (tu n m).trans (st n m)

theorem SlicesOnly.xfersKept {s t : State} (h : SlicesOnly s t) : XfersKept s t := by
  intro n m
  obtain ⟨b, hb⟩ := h n
  rw [xfers, hb, xfers]

/-- A change of a core that leaves its movers alone leaves every transfer alone. -/
theorem modCore_xfersKept (s : State) (n : Nat) {f : Core → Core} (h : ∀ c, (f c).movers = c.movers) :
    XfersKept s (modCore s n f) := by
  intro i m
  rw [xfers, coreAt_modCore]
  split
  · rw [h, xfers]
  · rfl

theorem counterParity_xfersKept (s : State) (n ctr : Nat) : XfersKept s (counterParity s n ctr) := by
  have cleared := modCore_xfersKept s n (f := fun c => putCounter c ctr ⟨0, false, false⟩) fun _ => rfl
  exact cleared.trans fun i m => xfers_of_cores (postNone_cores _ _ _ _) i m

theorem touchCounter_xfersKept (s : State) (n ctr : Nat) : XfersKept s (touchCounter s n ctr) := by
  unfold touchCounter
  split
  · exact counterParity_xfersKept s n ctr
  · exact fun _ _ => rfl

theorem bumpCounter_xfersKept (s : State) (n ctr : Nat) : XfersKept s (bumpCounter s n ctr) := by
  unfold bumpCounter
  split
  · exact (touchCounter_xfersKept s n ctr).trans (modCore_xfersKept _ n fun _ => rfl)
  · exact fun _ _ => rfl

theorem srcCount_xfersKept (s : State) (n : Nat) (x : Xfer) : XfersKept s (srcCount s n x) := by
  unfold srcCount
  split
  · exact bumpCounter_xfersKept s _ _
  · exact fun _ _ => rfl

theorem noteRead_slicesOnly (s : State) (a n : Nat) (core : Option Nat) (reader : Nat) :
    SlicesOnly s (noteRead s a n core reader) :=
  (correctRead_slicesOnly s a n).trans (.foldl (fun s _ => noteUe_slicesOnly s _ core reader) _ _)

theorem ringOverrun_slicesOnly (s : State) (n : Nat) : SlicesOnly s (ringOverrun s n) :=
  .of_cores (postReg_cores { s with wrg := { s.wrg with overrun := true } } 2 none 0x60018 21 _)

theorem rowNotes_slicesOnly (s : State) (n a len : Nat) : SlicesOnly s (rowNotes s n a len) := by
  have read := noteRead_slicesOnly s a len (some n) readerMover
  have noted := read.trans (noteUe_slicesOnly _ a (some n) readerMover)
  exact .ite read (.ite (noted.trans (ringOverrun_slicesOnly _ n)) noted)

/-! ### The last row is held -/

/-- The transfer whose last row a mover reads now: a local MOVE whose earlier rows have landed, with no fill and no sealed
slot in its way. -/
structure ReadsLastRow (s : State) (n m : Nat) (x : Xfer) : Prop where
  found : (xfers s n m).find? (fun x => x.started && !x.srcRead) = some x
  free : (List.range x.rows).any (rowWaits s x) = false
  near : x.desc.remote = false
  last : x.rowsLanded + 1 = x.rows
  move : x.put = none
  unsealed : firstSealed s x.ctx.toNat (x.srcAt x.rowsLanded).toNat x.rowLen = none

/-- Every transfer with the TAG is marked as read, and holds as many bytes as its own descriptor gives a row. -/
theorem xfers_sourceRead {s : State} {n m a d : Nat} {x : Xfer} (h : ReadsLastRow s n m x)
    (ha : a = (x.srcAt x.rowsLanded).toNat) (hd : d = (x.dstAt x.rowsLanded).toNat) (hn : n < 16) (hm : m < 4) :
    ∃ bad, xfers (sourceRead s n m) n m = (xfers s n m).map fun z => if z.tag = x.tag then
      { z with srcRead := true, lastRow := readBytes (copyWords (x.rowLen / 8) s n a d).mem d z.rowLen, lastBad := bad }
      else z := by
  subst ha hd
  have landed : ¬ (x.rowsLanded + 1 != x.rows) = true := by simpa using h.last
  rw [sourceRead, h.found]
  dsimp only
  rw [if_neg (Bool.eq_false_iff.mp h.free), if_neg (Bool.eq_false_iff.mp h.near), if_neg landed, h.move]
  dsimp only
  rw [h.unsealed]
  dsimp only
  rw [srcCount_xfersKept _ _ _ n m, xfers_modXfer hn hm, (rowNotes_slicesOnly s n _ x.rowLen).xfersKept n m]
  exact ⟨_, rfl⟩

/-! ### Two transfers with one TAG -/

/-- A local transfer of one row of `len` bytes from address 0 to `0x100`, started, with TAG 0. -/
def oneRow (len : W32) : Xfer :=
  ⟨0, ⟨0, 0x100, 0, len, 1, 0, 0, 0⟩, 0, none, false, 0, 0, 0, true, false, [], [], 0, false⟩

/-- Two transfers on a mover whose TAGs agree and whose rows are 8 and 16 bytes long. -/
def twinTags : State := setXfers State.reset 0 0 [oneRow 8, oneRow 16]

theorem twinTags_reads : ReadsLastRow twinTags 0 0 (oneRow 8) where
  found := by rw [twinTags, xfers_setXfers (by decide) (by decide)]; rfl
  free := by decide
  near := by decide
  last := by decide
  move := rfl
  unsealed := by decide

/-- Refutes O35: of two transfers with one TAG, the source read marks both, and the longer then holds a row of its own
length, not of the length of the row that was read. -/
theorem not_moversCopyRowByRow : ¬ Obligations.MoversCopyRowByRow := by
  intro h
  obtain ⟨-, -, read, -, -⟩ := h twinTags 0 0 (oneRow 8) 0 0 rfl rfl
  obtain ⟨-, near, -⟩ := read twinTags_reads.found
  obtain ⟨-, last⟩ := near twinTags_reads.free twinTags_reads.near
  obtain ⟨-, move⟩ := last twinTags_reads.last
  obtain ⟨-, held⟩ := move rfl _ _ rfl rfl
  obtain ⟨t, bad, ht, -, claimed⟩ := held twinTags_reads.unsealed
  obtain ⟨bad', actual⟩ := xfers_sourceRead twinTags_reads rfl rfl (by decide) (by decide)
  have ht : sourceRead twinTags 0 0 = t := Host.Outcome.next.inj ht
  rw [ht, claimed] at actual
  have both : xfers twinTags 0 0 = [oneRow 8, oneRow 16] := xfers_setXfers (by decide) (by decide) _
  have lengths := congrArg (List.map fun x => x.lastRow.length) actual
  rw [both] at lengths
  simp only [List.map_cons, List.map_nil, oneRow, if_true, length_readBytes, List.cons.injEq] at lengths
  exact absurd lengths.2.1 (by decide)

end Sys2Proof.Machine
end

section
/-! PROOFS. The head of a unit's queue starts and is released, and the oldest in flight completes (R138, R209, R214, R216,
R229, R252, R263, R310). -/

namespace Sys2Proof.Machine

/-! ### A unit changed -/

theorem coreUnit_modUnit {c : Core} {u : Nat} (h : u < 6) (f : CUnit → CUnit) :
    coreUnit (modUnit c u f) u = f (coreUnit c u) := by
  rw [coreUnit, modUnit, vmod_getD, if_pos ⟨rfl, h⟩, coreUnit]

theorem modUnit_modUnit (c : Core) (u : Nat) (f g : CUnit → CUnit) :
    modUnit (modUnit c u f) u g = modUnit c u fun y => g (f y) := by
  have : vmod (vmod c.units u f) u g = vmod c.units u fun y => g (f y) := by
    apply Vector.ext
    intro i hi
    simp only [vmod_get _ _ _ _ hi]
    split <;> rfl
  simp only [modUnit, this]

theorem unitAt_modUnit (s : State) (core : CoreId) {u : Nat} (h : u < 6) (f : CUnit → CUnit) :
    unitAt (modCore s core.val fun c => modUnit c u f) core.val u = f (unitAt s core.val u) := by
  rw [unitAt, coreAt_modCore_same]
  exact coreUnit_modUnit h f

/-! ### An instruction begins (R209) -/

/-- The cores stand, and the entry is the same but for how far its instruction has come. -/
structure EntryKept (s : State) (x : QEntry) (r : State × QEntry) : Prop where
  cores : r.1.cores = s.cores
  started : r.2.started = x.started
  work : r.2.work = x.work
  pc : r.2.pc = x.pc
  sigma : r.2.sigma = x.sigma

theorem settled_cores (s : State) (fmt : Nat) (invalid : Bool) (es : List Elem) :
    (settled s fmt invalid es).1.cores = s.cores := by
  unfold settled
  split <;> rfl

theorem pushPiece_kept (s : State) (x : QEntry) (d : TD) (p : List ((Nat × Nat) × Elem)) :
    EntryKept s x (pushPiece s x d p) := ⟨settled_cores s _ _ _, rfl, rfl, rfl, rfl⟩

theorem pushPieces_kept (s : State) (x : QEntry) (d : TD) (ps : List (List ((Nat × Nat) × Elem))) :
    EntryKept s x (pushPieces s x d ps) := by
  rw [pushPieces]
  induction ps generalizing s x with
  | nil => exact ⟨rfl, rfl, rfl, rfl, rfl⟩
  | cons p ps ih =>
    obtain ⟨cores, started, work, pc, sigma⟩ := pushPiece_kept s x d p
    obtain ⟨cores', started', work', pc', sigma'⟩ := ih (pushPiece s x d p).1 (pushPiece s x d p).2
    exact ⟨cores'.trans cores, started'.trans started, work'.trans work, pc'.trans pc, sigma'.trans sigma⟩

/-- The entry as it begins: started, under the scale of the Hutch (R284). -/
theorem beginEntry_kept (s : State) (u : Nat) (x : QEntry) (i : Isa) (o : Ops) (sh : Nat × Nat × Nat) :
    EntryKept s { x with started := true, sigma := s.hut.scale } (beginEntry s u x i o sh) := by
  unfold beginEntry
  dsimp only
  split
  · split
    · obtain ⟨cores, started, work, pc, sigma⟩ := pushPieces_kept s _ _ _
      exact ⟨cores, started, work, pc, sigma⟩
    · exact ⟨rfl, rfl, rfl, rfl, rfl⟩
  · exact ⟨rfl, rfl, rfl, rfl, rfl⟩

/-! ### The head of a queue (R138, R209, R252, R263) -/

/-- A T-class instruction at the head of a unit's queue. -/
structure HeadOf (s : State) (n u : Nat) (x : QEntry) (r : List QEntry) (i : Isa) (o : Ops) (v : W64) : Prop where
  queue : (unitAt s n u).queue = x :: r
  work : x.work = .op i o.d o.a o.b o.c o.e v
  tensor : isClassC i = false

section
variable {s : State} {n u : Nat} {x : QEntry} {r : List QEntry} {i : Isa} {o : Ops} {v : W64}
  (head : HeadOf s n u x r i o v)
include head

theorem unitStart_offline (fresh : x.started = false) (off : offline (coreAt s n) u = true) :
    unitStart s n u = unitOffline s n u x.pc := by
  rw [unitStart]
  dsimp only
  rw [head.queue]
  dsimp only
  rw [if_neg (Bool.eq_false_iff.mp fresh), if_pos off]

/-- An instruction at the head of an enabled unit: its checks, then the interlock. -/
theorem unitStart_eq (fresh : x.started = false) (on : offline (coreAt s n) u = false) : unitStart s n u =
    match unitCheck s n u i o v with
    | some sub => unitFault s n u 9 sub x.pc 0
    | none =>
      if interlocked (unitAt s n u) i o (shapeOf s i o v) then s
      else setHead (beginEntry s u x i o (shapeOf s i o v)).1 n u (beginEntry s u x i o (shapeOf s i o v)).2 := by
  rw [unitStart]
  dsimp only
  rw [head.queue]
  dsimp only
  rw [if_neg (Bool.eq_false_iff.mp fresh), if_neg (Bool.eq_false_iff.mp on), head.work]
  dsimp only
  rw [head.tensor]
  rfl

theorem unitRelease_waits (fill : entryFilling s x = true) : unitRelease s n u = s := by
  rw [unitRelease, head.queue]
  dsimp only
  rw [head.work]
  dsimp only
  rw [if_pos (by simp [fill])]

/-- The instruction forms the rest of its pieces and leaves the queue, or meets a read that is refused. -/
theorem unitRelease_eq (started : x.started = true) (free : entryFilling s x = false) : unitRelease s n u =
    let p := finishEntry s n u x
    if p.refused then refuseRead p.state n u p.entry
    else modCore p.state n fun c => modUnit c u fun y => { y with queue := r, flight := y.flight ++ [p.entry] } := by
  rw [unitRelease, head.queue]
  dsimp only
  rw [head.work]
  dsimp only
  rw [if_neg (by simp [started, free]), head.tensor]
  rfl

end

/-- A head that starts stands, started, where it stood; nothing else of the unit and none of the arrays changes. -/
theorem unitStart_starts {s : State} {core : CoreId} {u : Nat} {x : QEntry} {r : List QEntry} {i : Isa} {o : Ops} {v : W64}
    (head : HeadOf s core.val u x r i o v) (hu : u < 6) (fresh : x.started = false)
    (on : offline (coreAt s core.val) u = false) (ok : unitCheck s core.val u i o v = none)
    (clear : interlocked (unitAt s core.val u) i o (shapeOf s i o v) = false) :
    ∃ t z, unitStart s core.val u = t ∧ t.mem = s.mem ∧ (unitAt t core.val u).queue = z :: r ∧
      (unitAt t core.val u).flight = (unitAt s core.val u).flight ∧ z.started = true ∧ z.work = x.work ∧ z.pc = x.pc ∧
      z.sigma = s.hut.scale ∧ (coreAt t core.val).arrays = (coreAt s core.val).arrays := by
  obtain ⟨cores, started, work, pc, sigma⟩ := beginEntry_kept s u x i o (shapeOf s i o v)
  have mem := (beginEntry_frame s u x i o (shapeOf s i o v)).2
  have starts := unitStart_eq head fresh on
  rw [ok] at starts
  dsimp only at starts
  rw [if_neg (Bool.eq_false_iff.mp clear)] at starts
  generalize beginEntry s u x i o (shapeOf s i o v) = p at *
  have same : coreAt p.1 core.val = coreAt s core.val := coreAt_of_cores cores _
  have unit : unitAt p.1 core.val u = unitAt s core.val u := by rw [unitAt, same, unitAt]
  have after : unitAt (setHead p.1 core.val u p.2) core.val u = { unitAt s core.val u with queue := p.2 :: r } := by
    rw [setHead, unitAt_modUnit _ _ hu, unit, head.queue]
    rfl
  refine ⟨_, p.2, starts, mem, congrArg CUnit.queue after, (congrArg CUnit.flight after :), started, work, pc, sigma, ?_⟩
  rw [setHead, coreAt_modCore_same]
  exact (congrArg Core.arrays same :)

/-- The array of a disabled trestle is empty after the fault. -/
theorem unitOffline_empties (s : State) (core : CoreId) (pc : W32) (t : Fin 4) :
    ((coreAt (unitOffline s core.val t.val pc) core.val).arrays[t]).loaded = false := by
  rw [unitOffline, coreAt_modCore_same]
  have emptied := vmod_get_same (coreAt (unitFault s core.val t.val 9 9 pc 0) core.val).arrays t.val TrsArray.clear t.isLt
  exact congrArg TrsArray.loaded emptied

/-! ### Completion (R140, R216, R255) -/

theorem canComplete_plain {s : State} {x : QEntry} {i : Isa} {o : Ops} {v : W64} (alone : Bool)
    (work : x.work = .op i o.d o.a o.b o.c o.e v) (tensor : isClassC i = false) (started : x.started = true)
    (free : entryFilling s x = false) : canComplete s alone x = true := by
  have other : isCpri x = false := by
    rw [isCpri, work]
    cases i with
    | cpri f => cases tensor
    | _ => rfl
  rw [canComplete, work]
  dsimp only
  rw [started, free, other, tensor]
  rfl

section
variable {s : State} {n u : Nat} {x : QEntry} {r : List QEntry}

/-- The oldest in flight completes next, where every later one that can keeps the order. -/
theorem nextComplete_oldest (flight : (unitAt s n u).flight = x :: r) (able : canComplete s false x = true)
    (ordered : ∀ z ∈ r ++ (unitAt s n u).queue.take 1, canComplete s false z = true → inOrder z = true) :
    nextComplete s n u = some x := by
  have late : ((r ++ (unitAt s n u).queue.take 1).filter (canComplete s false)).filter (fun z => !inOrder z) = [] := by
    rw [List.filter_eq_nil_iff]
    intro z hz
    obtain ⟨member, can⟩ := List.mem_filter.mp hz
    simp [ordered z member can]
  rw [nextComplete]
  dsimp only
  rw [flight, List.isEmpty_cons, List.cons_append, List.filter_cons_of_pos able]
  dsimp only
  rw [late]
  rfl

/-- A TFLG alone in its unit completes next. -/
theorem nextComplete_tflg {g : BitVec 5} (flight : (unitAt s n u).flight = []) (queue : (unitAt s n u).queue = x :: r)
    (work : x.work = .tflg g) : nextComplete s n u = some x := by
  have able : canComplete s true x = true := by rw [canComplete, work]
  rw [nextComplete]
  dsimp only
  rw [flight, queue, List.isEmpty_nil, List.nil_append, List.take_succ_cons, List.take_zero, List.filter_cons_of_pos able]
  rfl

theorem nextComplete_none (flight : (unitAt s n u).flight = []) (queue : (unitAt s n u).queue = []) :
    nextComplete s n u = none := by
  rw [nextComplete]
  dsimp only
  rw [flight, queue]
  rfl

/-- The instruction completes: what is left of it is formed and written, or a read is refused. -/
theorem unitComplete_op {i : Isa} {o : Ops} {v : W64} (next : nextComplete s n u = some x)
    (work : x.work = .op i o.d o.a o.b o.c o.e v) (flight : (unitAt s n u).flight = x :: r) (plain : x.coll = none) :
    unitComplete s n u =
      let p := finishEntry (modCore (s.drawn 1) n fun c => modUnit c u fun y => { y with flight := r }) n u x
      if p.refused then refuseRead p.state n u p.entry else endOp (writeAll p.state n p.entry.out.flatten) n u p.entry i := by
  have left : modCore (s.drawn 1) n (fun c => modUnit c u fun y =>
      if y.flight.contains x then { y with flight := y.flight.erase x } else { y with queue := y.queue.drop 1 }) =
      modCore (s.drawn 1) n fun c => modUnit c u fun y => { y with flight := r } := by
    refine modCore_congr (modUnit_congr ?_)
    rw [show coreUnit (coreAt (s.drawn 1) n) u = unitAt s n u from rfl, flight]
    simp
  rw [unitComplete, next]
  dsimp only
  rw [work]
  simp only [plain, left, Option.bind_none]
  rfl

/-- A TFLG returns the flag word and clears it (R216). -/
theorem unitComplete_tflg {g : BitVec 5} (flight : (unitAt s n u).flight = []) (queue : (unitAt s n u).queue = x :: r)
    (work : x.work = .tflg g) (on : offline (coreAt s n) u = false) : unitComplete s n u = modCore s n fun c =>
      modUnit (putS c g (flagBits (unitAt s n u).flags)) u fun y => { y with queue := r, flags := .clear } := by
  rw [unitComplete, nextComplete_tflg flight queue work]
  dsimp only
  rw [work]
  dsimp only
  rw [if_neg (Bool.eq_false_iff.mp on), modCore_modCore]
  refine modCore_congr ?_
  have moved (c : Core) (f : CUnit → CUnit) : putS (modUnit c u f) g (flagBits (unitAt s n u).flags) =
      modUnit (putS c g (flagBits (unitAt s n u).flags)) u f := rfl
  rw [moved, modUnit_modUnit]
  refine modUnit_congr ?_
  rw [show coreUnit (putS (coreAt s n) g (flagBits (unitAt s n u).flags)) u = unitAt s n u from rfl, flight, queue]
  rfl

end

/-- Settles O34, by the head of the queue (`unitStart_eq`, `unitRelease_eq`) and what completes next (`nextComplete_oldest`,
`nextComplete_tflg`). -/
theorem unitsStartReleaseAndComplete : Obligations.UnitsStartReleaseAndComplete := by
  rintro s core unit x r i d a b c e v _ _ _ _ rfl rfl rfl rfl work tensor
  have starts : exec (.unitInstructionStart core unit) s = .next (unitStart s core.val unit.val) := rfl
  have releases : exec (.unitHeadRelease core unit) s = .next (unitRelease s core.val unit.val) := rfl
  have completes : exec (.unitInstructionComplete core unit) s = .next (unitComplete s core.val unit.val) := rfl
  rw [starts, releases, completes]
  refine ⟨fun queue fresh => ?start, fun queue started => ?release,
    fun w p flight started plain free ordered hw hp => ?complete, fun queue flight => ?idle,
    fun w g hg flight queue on => congrArg _ (unitComplete_tflg flight queue hg on)⟩
  case start =>
    have head : HeadOf s core.val unit.val x r i ⟨d, a, b, c, e⟩ v := ⟨queue, work, tensor⟩
    refine ⟨fun off => ⟨congrArg _ (unitStart_offline head fresh off), fun t ht => ?_⟩,
      fun on => ⟨fun sub bad => ?_, fun ok held => ?_, fun ok clear => ?_⟩⟩
    · rw [← ht]
      exact unitOffline_empties s core x.pc t
    · rw [unitStart_eq head fresh on, bad]
    · rw [unitStart_eq head fresh on, ok]
      exact congrArg _ (if_pos held)
    · obtain ⟨t, z, started, rest⟩ := unitStart_starts head unit.isLt fresh on ok clear
      exact ⟨t, z, congrArg _ started, rest⟩
  case release =>
    have head : HeadOf s core.val unit.val x r i ⟨d, a, b, c, e⟩ v := ⟨queue, work, tensor⟩
    refine ⟨fun fill => congrArg _ (unitRelease_waits head fill),
      fun p free hp => ⟨fun passed => ⟨?_, ?_⟩, fun refused => ?_⟩⟩
    · rw [unitRelease_eq head started free, ← hp]
      exact congrArg _ (if_neg (Bool.eq_false_iff.mp passed))
    · rw [hp]
      exact (finishEntry_frame s core.val unit.val x).2
    · rw [unitRelease_eq head started free, ← hp]
      exact congrArg _ (if_pos refused)
  case complete =>
    have next := nextComplete_oldest flight (canComplete_plain (o := ⟨d, a, b, c, e⟩) false work tensor started free) ordered
    rw [unitComplete_op (o := ⟨d, a, b, c, e⟩) next work flight plain, ← hw, ← hp]
    exact ⟨fun passed => congrArg _ (if_neg (Bool.eq_false_iff.mp passed)), fun refused => congrArg _ (if_pos refused)⟩
  case idle =>
    refine ⟨?_, ?_, ?_⟩
    · rw [unitStart]
      dsimp only
      rw [show (unitAt s core.val unit.val).queue = [] from queue]
    · rw [unitRelease, show (unitAt s core.val unit.val).queue = [] from queue]
    · rw [unitComplete, nextComplete_none flight queue]

end Sys2Proof.Machine
end
